-- ==== Sys2Proof/Word.lean ====
section
/-!
DEFINITION. The word types of the K7 (00_scope.md R3; registers R215) and the names of its two dies, its cores and its clusters
(R12, R13).
-/

namespace Sys2Proof

/-- One byte of storage. -/
abbrev Byte := BitVec 8

/-- A 64-bit register or CSR. -/
abbrev Word := BitVec 64

/-- One 32-bit lane or accumulator cell. -/
abbrev Cell := BitVec 32

/-- The bits [30:26] of a 32-bit word (R207): `s`, `wprev`, `wnext`, `snext`, `sprev` from high to low. -/
abbrev Sync := BitVec 5

/-- A four-bit status code of a p register (R40). -/
abbrev Status := BitVec 4

/-- A die of the package. -/
abbrev DieId := Fin 2

/-- A core of the package (R12). -/
structure CoreId where
  die : DieId
  core : Fin 128
  deriving DecidableEq, Repr

/-- The four clusters of a core (R13); the numbers of R401 are 0 A, 1 M, 2 V, 3 D. -/
inductive Cluster where
  | a | m | v | d
  deriving DecidableEq, Repr

/-- One cluster stream (R13). -/
structure StreamId where
  core : CoreId
  cl : Cluster
  deriving DecidableEq, Repr

/-- The package index of a core: die × 128 + id (R12). -/
def CoreId.index (c : CoreId) : Nat := c.die.val * 128 + c.core.val

/-- The core of a package index; indices from 256 on wrap, and no rule names one. -/
def CoreId.ofIndex (n : Nat) : CoreId := ⟨Fin.ofNat 2 (n / 128), Fin.ofNat 128 n⟩

/-- The cluster number of R401. -/
def Cluster.number : Cluster → Nat
  | .a => 0 | .m => 1 | .v => 2 | .d => 3

end Sys2Proof
end

