-- ==== Sys2Proof/Machine/Sparse.lean ====
section
/-!
DEFINITION. Storage as plain data: a list of (key, value) pairs in one canonical form, keys strictly rising and no entry equal to what
an unlisted key reads as.  `d` is what an unlisted key reads as.  Memories, register files, CSR files and tables are all of this form,
so that equal contents are equal data.
-/

namespace Sys2Proof.Machine

/-- Keyed storage. Every memory of the model is a `Sparse Byte`, a list of `Host.Cell`s. -/
abbrev Sparse (α : Type) := List (Nat × α)

/-- The value at a key. -/
def Sparse.get {α : Type} (d : Nat → α) : Sparse α → Nat → α
  | [], k => d k
  | (j, v) :: t, k => if k = j then v else Sparse.get d t k

/-- Storage with nothing listed at a key. -/
def Sparse.drop {α : Type} (m : Sparse α) (k : Nat) : Sparse α := m.filter fun e => decide (e.1 ≠ k)

/-- List a value at a key, in front of the first greater key. -/
def Sparse.put {α : Type} : Sparse α → Nat → α → Sparse α
  | [], k, v => [(k, v)]
  | (j, w) :: t, k, v => if k < j then (k, v) :: (j, w) :: t else (j, w) :: Sparse.put t k v

/-- Write a value at a key, keeping the canonical form. -/
def Sparse.set {α : Type} [DecidableEq α] (d : Nat → α) (m : Sparse α) (k : Nat) (v : α) : Sparse α :=
  if v = d k then Sparse.drop m k else Sparse.put (Sparse.drop m k) k v

/-- Every key is above a bound and rises, and no entry is the default. -/
def Sparse.wfFrom {α : Type} [DecidableEq α] (d : Nat → α) : Nat → Sparse α → Bool
  | _, [] => true
  | lo, (k, v) :: t => decide (lo ≤ k) && decide (v ≠ d k) && Sparse.wfFrom d (k + 1) t

/-- The canonical form. -/
def Sparse.wf {α : Type} [DecidableEq α] (d : Nat → α) (m : Sparse α) : Bool := Sparse.wfFrom d 0 m

/-- Write several values, in the order listed. -/
def Sparse.setAll {α : Type} [DecidableEq α] (d : Nat → α) (m : Sparse α) : List (Nat × α) → Sparse α
  | [] => m
  | (k, v) :: t => Sparse.setAll d (Sparse.set d m k v) t

/-- The contents at keys 0 to n - 1 as a table, in canonical form. -/
def Sparse.tabulate {α : Type} [DecidableEq α] (d : Nat → α) (n : Nat) (f : Nat → α) : Sparse α :=
  (List.range n).filterMap fun k => if f k = d k then none else some (k, f k)

/-- Remove every entry whose key lies in [lo, lo + n). -/
def Sparse.clear {α : Type} (m : Sparse α) (lo n : Nat) : Sparse α :=
  m.filter fun e => decide (e.1 < lo) || decide (lo + n ≤ e.1)

end Sys2Proof.Machine
end

