-- ==== Sys2Proof/Machine/Bits.lean ====
section
/-!
DEFINITION. Bit fields, byte order and integer helpers used by every part of the machine: fields of a 64-bit register, little-endian
bytes (00_scope.md R3, 13 R262), sign extension, and the counting operations of R248.
-/

namespace Sys2Proof.Machine

/-- Bits [lo + n - 1 : lo] of a register, as a number. -/
def field {m : Nat} (w : BitVec m) (lo n : Nat) : Nat := w.toNat / 2 ^ lo % 2 ^ n

/-- One bit of a register. -/
def bit {m : Nat} (w : BitVec m) (i : Nat) : Bool := w.getLsbD i

/-- A register with bits [lo + n - 1 : lo] replaced by the low n bits of v. -/
def setField {m : Nat} (w : BitVec m) (lo n v : Nat) : BitVec m :=
  (w &&& ~~~(BitVec.ofNat m ((2 ^ n - 1) * 2 ^ lo))) ||| BitVec.ofNat m ((v % 2 ^ n) * 2 ^ lo)

/-- A register with bit i replaced. -/
def setBit {m : Nat} (w : BitVec m) (i : Nat) (b : Bool) : BitVec m := setField w i 1 (if b then 1 else 0)

/-- A truth value as one bit. -/
def ofBool (b : Bool) : Nat := if b then 1 else 0

/-- The bytes of a number, least significant first. -/
def bytesOf : Nat → Nat → List Byte
  | 0, _ => []
  | n + 1, v => BitVec.ofNat 8 v :: bytesOf n (v / 256)

/-- The number whose bytes, least significant first, are given. -/
def ofBytes : List Byte → Nat
  | [] => 0
  | b :: t => b.toNat + 256 * ofBytes t

/-- Sign extension of the low n bits of a number to 64 bits. -/
def sext64 (n : Nat) (v : Nat) : Word :=
  let x := v % 2 ^ n
  if x < 2 ^ (n - 1) then BitVec.ofNat 64 x else BitVec.ofNat 64 (x + (2 ^ 64 - 2 ^ n))

/-- The number of set bits among the low n. -/
def popCount : Nat → Nat → Nat
  | 0, _ => 0
  | n + 1, v => v % 2 + popCount n (v / 2)

/-- The index of the lowest set bit among the low n, or n. -/
def lowBit : Nat → Nat → Nat
  | 0, _ => 0
  | n + 1, v => if v % 2 = 1 then 0 else 1 + lowBit n (v / 2)

/-- The number of bits of v, at most n: one more than the index of the highest set bit. -/
def bitLength : Nat → Nat → Nat
  | 0, _ => 0
  | n + 1, v => if v = 0 then 0 else 1 + bitLength n (v / 2)

/-- The smallest multiple of `a` that is at least v (a > 0). -/
def roundUp (v a : Nat) : Nat := (v + a - 1) / a * a

/-- The elements of a list that no earlier element equals. -/
def distinct {α : Type} [DecidableEq α] : List α → List α
  | [] => []
  | x :: t => x :: (distinct t).filter fun y => decide (y ≠ x)

end Sys2Proof.Machine
end

