-- ==== Sys2Proof/Syntax.lean ====
section
/-!
DEFINITION. The instructions of the K7: one constructor per row of spec/opcode_table.json, and the messages that the steps without a
word carry from the environment (the pool, other packages, the host, sensors) to the package.
-/

namespace Sys2Proof

/-- The causes of an illegal-instruction fault (R224), in the order in which a word is tested. -/
inductive IllegalCause where
  | undef | cluster | resv | reg | block | fmtWord | csrAcc
  deriving DecidableEq, Repr

/-- The code of a cause (R224). -/
def IllegalCause.code : IllegalCause → BitVec 8
  | .undef => 1 | .cluster => 2 | .resv => 3 | .reg => 4 | .block => 5 | .fmtWord => 6 | .csrAcc => 7

/-- A torus packet (R127). `dirs` holds the resolved directions, `bad` says that the kind or a reserved field is not valid, and
`data` is the payload. -/
structure Packet where
  kind : Nat
  dirs : BitVec 6
  vc : Nat
  src : Nat
  dst : Nat
  tag : Nat
  gen : BitVec 4
  inc : BitVec 16
  size : Nat
  op : BitVec 8
  addr : Nat
  ord : BitVec 4
  fs : Nat
  phase : Bool
  counted : Bool
  fsg : BitVec 4
  fcnt : Nat
  bad : Bool
  data : List Byte
  deriving DecidableEq, Repr

/-- What the pool answers to a lease request or renewal (R53, R58): a grant with its epoch, its duration in ticks, the page's bytes
that are not 0 and its capability-typed granules; or a status. -/
inductive PoolAnswer where
  | grant (epoch : BitVec 64) (ticks : Nat) (bytes : List (Nat × Byte)) (caps : List Nat)
  | refused (st : Status)
  deriving DecidableEq, Repr

/-- What a port's training attempt finds (R137): that its step has ended; or, at its end, the corrected symbols of each lane, with the pool's
report (R46) and the length of its tick (R56), or the far end of a circuit. -/
inductive TrainResult where
  | stepDone
  | pool (counts : List Nat) (rev pid : BitVec 8) (inc : BitVec 32) (famo mmx jrnl : Bool) (tick : Nat)
  | circuit (counts : List Nat) (peer : Nat) (nx ny nz : Nat) (farPool : Bool)
  | failed
  deriving DecidableEq, Repr

/-- An invalidation of domain scope that another package of the domain has requested (R85): its kind, ASID, address and size code. -/
structure OtherInval where
  kind : Nat
  asid : Nat
  va : Nat
  size : Nat
  deriving DecidableEq, Repr

/-- The coordinates and sizes that the far end of a torus link sends at training (R122). -/
structure FarEnd where
  x : Nat
  y : Nat
  z : Nat
  nx : Nat
  ny : Nat
  nz : Nat
  deriving DecidableEq, Repr

/-- One lane's readings at a latch (R145). -/
structure LaneReading where
  rxp : BitVec 16
  temp : BitVec 8
  cerr : BitVec 32
  deriving DecidableEq, Repr

/-- What the power governor measures of a bidder (R146): its floor and its maximum. -/
structure Bid where
  floor : Nat
  top : Nat
  deriving DecidableEq, Repr

/-- The events that the security monitor watches for (R455). -/
inductive Alarm where
  | tamper | voltage | clock
  deriving DecidableEq, Repr

/-- The atomic operations of RV64 (R20, R451). -/
inductive HartAtomic where
  | swap | add | and | or | xor | min | max | minu | maxu
  deriving DecidableEq, Repr

/-- What a host hart does through a window (R450, R451): a load, a store, or an atomic operation of 4 or 8 bytes with an operand. A
store-conditional of the hart is a store where its reservation holds, and nothing where it does not; a load-reserved is a load. -/
inductive HartAccess where
  | load (len : Nat)
  | store (bytes : List Byte)
  | atomic (op : HartAtomic) (len : Nat) (x : BitVec 64)
  deriving DecidableEq, Repr


/-- The instructions and steps of the opcode map, one constructor per row of spec/opcode_table.json. The 187 rows with a word carry
its fields (`sy` is bits [30:26] of R207); the 102 rows without a word are steps that the package or its environment takes, and carry
what the environment says. -/
inductive Instr where
  /-- Block header that pushes a block-stack entry with an immediate repeat count, or skips the body when the count is 0 (R234). -/
  | blk (l : BitVec 10) (c : BitVec 9)
  /-- Block header whose repeat count is the low 32 bits of a register (R234). -/
  | blkr (l : BitVec 10) (r : BitVec 5)
  /-- Writes a target header address into a steer register and sets its tv bit (R235). -/
  | prep (sy : BitVec 5) (g : BitVec 4) (t : BitVec 15)
  /-- Branches through a steer register when its condition bit is 1 (R236). -/
  | br (sy : BitVec 5) (g : BitVec 4)
  /-- Conditional branch that writes the return link into the same steer register (R236). -/
  | brl (sy : BitVec 5) (g : BitVec 4)
  /-- Unconditional branch through a steer register (R236). -/
  | ret (sy : BitVec 5) (g : BitVec 4)
  /-- Compares two registers and writes the condition bit of a steer register (R237). -/
  | cmp (sy : BitVec 5) (g : BitVec 4) (a b : BitVec 5) (c : BitVec 3)
  /-- Compares a register with a 7-bit immediate and writes a steer condition (R237). -/
  | cmpi (sy : BitVec 5) (g : BitVec 4) (a : BitVec 5) (c : BitVec 3) (i : BitVec 7)
  /-- Tests a status register against a value once it is written, and writes a steer condition (R238). -/
  | tstp (sy : BitVec 5) (g p v : BitVec 4) (t : BitVec 3)
  /-- Samples a queue's entry count and tests it against a value (R238). -/
  | tstq (sy : BitVec 5) (g p v : BitVec 4) (t : BitVec 3)
  /-- Tests a lane mask for none, some or all lanes set (R238). -/
  | tstm (sy : BitVec 5) (g p v : BitVec 4) (t : BitVec 3)
  /-- Removes clusters from the core's join set (R239). -/
  | fork (sy : BitVec 5) (m : BitVec 4)
  /-- Adds clusters that have not halted to the core's join set (R239). -/
  | join (sy : BitVec 5) (m : BitVec 4)
  /-- Does nothing beyond its sync and token bits (R240). -/
  | nop (sy : BitVec 5)
  /-- Marks a drain point: retires as nop, or stops the stream while a drain request is pending (R241). -/
  | yield (sy : BitVec 5)
  /-- Ends the stream once its outstanding statuses, stores and atomics have completed (R242). -/
  | halt (sy : BitVec 5)
  /-- Waits for earlier instructions to retire and raises an arithmetic trap when pend or an enabled sticky flag is set (R243). -/
  | tfence (sy : BitVec 5)
  /-- Raises a host trap, or in A a local trap through g11 for codes 0x8000 and above (R244). -/
  | trap (sy : BitVec 5) (c : BitVec 16)
  /-- Stops A until the shadow plane is loaded and the core can swap planes (R251). -/
  | swap (sy : BitVec 5)
  /-- Returns from a local trap by restoring the saved block stack and pc (R245). -/
  | eret (sy : BitVec 5)
  /-- Adds two registers modulo 2^64 (R246). -/
  | add (sy d a b : BitVec 5)
  /-- Subtracts two registers modulo 2^64 (R246). -/
  | sub (sy d a b : BitVec 5)
  /-- Low 64 bits of the product of two registers (R246). -/
  | mul (sy d a b : BitVec 5)
  /-- High 64 bits of the signed product (R246). -/
  | mulh (sy d a b : BitVec 5)
  /-- High 64 bits of the unsigned product (R246). -/
  | mulhu (sy d a b : BitVec 5)
  /-- Signed division truncating towards zero, raising divide-by-zero on a zero divisor (R247). -/
  | div (sy d a b : BitVec 5)
  /-- Unsigned division (R247). -/
  | divu (sy d a b : BitVec 5)
  /-- Signed remainder with the sign of the dividend (R247). -/
  | rem (sy d a b : BitVec 5)
  /-- Unsigned remainder (R247). -/
  | remu (sy d a b : BitVec 5)
  /-- Bitwise and of two registers (R246). -/
  | and (sy d a b : BitVec 5)
  /-- Bitwise or of two registers (R246). -/
  | or (sy d a b : BitVec 5)
  /-- Bitwise xor of two registers (R246). -/
  | xor (sy d a b : BitVec 5)
  /-- Shift left by a register count modulo 64 (R246). -/
  | shl (sy d a b : BitVec 5)
  /-- Logical shift right by a register count (R246). -/
  | shr (sy d a b : BitVec 5)
  /-- Arithmetic shift right by a register count (R246). -/
  | sar (sy d a b : BitVec 5)
  /-- Signed minimum (R246). -/
  | min (sy d a b : BitVec 5)
  /-- Signed maximum (R246). -/
  | max (sy d a b : BitVec 5)
  /-- Unsigned minimum (R246). -/
  | minu (sy d a b : BitVec 5)
  /-- Unsigned maximum (R246). -/
  | maxu (sy d a b : BitVec 5)
  /-- Selects one of two registers by a steer condition (R248). -/
  | sel (sy d a b : BitVec 5) (g : BitVec 4)
  /-- Adds a register shifted left by 0-15 to another (R248). -/
  | lea (sy d a b : BitVec 5) (h : BitVec 4)
  /-- Counts leading zeros (R248). -/
  | clz (sy d a : BitVec 5)
  /-- Counts trailing zeros (R248). -/
  | ctz (sy d a : BitVec 5)
  /-- Counts set bits (R248). -/
  | popc (sy d a : BitVec 5)
  /-- One plus the index of the lowest set bit, or 0 (R248). -/
  | ffs (sy d a : BitVec 5)
  /-- Copies a register (R248). -/
  | mov (sy d a : BitVec 5)
  /-- Sign-extends the low n bits of a register (R249). -/
  | sext (sy d a : BitVec 5) (n : BitVec 6)
  /-- Zero-extends the low n bits of a register (R249). -/
  | zext (sy d a : BitVec 5) (n : BitVec 6)
  /-- Adds a sign-extended 9-bit immediate (R250). -/
  | addi (sy d a : BitVec 5) (i : BitVec 9)
  /-- Ands with a sign-extended immediate (R250). -/
  | andi (sy d a : BitVec 5) (i : BitVec 9)
  /-- Ors with a zero-extended immediate (R250). -/
  | ori (sy d a : BitVec 5) (i : BitVec 9)
  /-- Xors with a zero-extended immediate (R250). -/
  | xori (sy d a : BitVec 5) (i : BitVec 9)
  /-- Shifts left by an immediate count (R250). -/
  | shli (sy d a : BitVec 5) (h : BitVec 6)
  /-- Logical shift right by an immediate count (R250). -/
  | shri (sy d a : BitVec 5) (h : BitVec 6)
  /-- Arithmetic shift right by an immediate count (R250). -/
  | sari (sy d a : BitVec 5) (h : BitVec 6)
  /-- Loads a sign-extended 14-bit immediate (R250). -/
  | movi (sy d : BitVec 5) (i : BitVec 14)
  /-- Shifts the destination left by 14 and inserts a 14-bit immediate (R250). -/
  | movh (sy d : BitVec 5) (i : BitVec 14)
  /-- Compact form of nop (R208). -/
  | compactNop
  /-- Compact form of mov (R208). -/
  | compactMov (d a : BitVec 5)
  /-- Compact form of add rd, rd, ra (R208). -/
  | compactAdd (d a : BitVec 5)
  /-- Compact form of sub rd, rd, ra (R208). -/
  | compactSub (d a : BitVec 5)
  /-- Compact form of and rd, rd, ra (R208). -/
  | compactAnd (d a : BitVec 5)
  /-- Compact form of addi with a 5-bit signed immediate (R208). -/
  | compactAddi (d i : BitVec 5)
  /-- Compact form of shli (R208). -/
  | compactShli (d i : BitVec 5)
  /-- Compact form of shri (R208). -/
  | compactShri (d i : BitVec 5)
  /-- Compact form of movi with a 5-bit signed immediate (R208). -/
  | compactMovi (d i : BitVec 5)
  /-- Compact form of ld.d with offset 0 and no ordering (R208). -/
  | compactLd (d a : BitVec 5)
  /-- Compact form of st.d with offset 0 and no ordering (R208). -/
  | compactSt (d a : BitVec 5)
  /-- Compact queue form of qpush (R208). -/
  | compactQpush (q : BitVec 4) (a : BitVec 5)
  /-- Compact queue form of qpop (R208). -/
  | compactQpop (d : BitVec 5) (q : BitVec 4)
  /-- Compact form of br (R208). -/
  | compactBr (g : BitVec 4)
  /-- Compact register form of fqpush (R208). -/
  | compactFqpush (a : BitVec 5)
  /-- Compact form of yield (R208). -/
  | compactYield
  /-- Loads 1-8 bytes from domain virtual memory with an offset and optional acquire (R262). -/
  | ld (sy d b : BitVec 5) (z : BitVec 2) (o : BitVec 3) (f : BitVec 4)
  /-- Status form of ld, writing its status to a p register (R262). -/
  | ldS (sy d b : BitVec 5) (z : BitVec 2) (o p : BitVec 3)
  /-- Stores 1-8 bytes to domain virtual memory with optional release (R262). -/
  | st (sy d b : BitVec 5) (z : BitVec 2) (o : BitVec 3) (f : BitVec 4)
  /-- Status form of st (R262). -/
  | stS (sy d b : BitVec 5) (z : BitVec 2) (o p : BitVec 3)
  /-- Reserves a queue entry and fills it with a load from domain memory (R263). -/
  | ldq (sy : BitVec 5) (q : BitVec 4) (b : BitVec 5) (z : BitVec 2) (o p : BitVec 3)
  /-- Atomic operation on domain memory at the memory channel (R264). -/
  | amo (sy : BitVec 5) (r c : BitVec 4) (o p : BitVec 3)
  /-- Compare-and-swap on domain memory (R264). -/
  | cas (sy : BitVec 5) (r : BitVec 4) (n : BitVec 5) (z : BitVec 1) (o p : BitVec 3)
  /-- Loads from the scratchpad or a Commons by untranslated address (R266). -/
  | lds (sy d b : BitVec 5) (z : BitVec 2) (o p : BitVec 3)
  /-- Stores to the scratchpad or a Commons by untranslated address (R266). -/
  | sts (sy d b : BitVec 5) (z : BitVec 2) (o p : BitVec 3)
  /-- Loads from pool space through a capability, to a register or the scratchpad (R267). -/
  | pld (sy d : BitVec 5) (k : BitVec 4) (z : BitVec 3) (o : BitVec 4) (p : BitVec 3)
  /-- Stores to pool space through a capability under an X lease, emitting a write-through (R267). -/
  | pst (sy d : BitVec 5) (k : BitVec 4) (z : BitVec 3) (o : BitVec 4) (p : BitVec 3)
  /-- Pool atomic operation at the frame with write-through (R269). -/
  | pamo (sy : BitVec 5) (r k c : BitVec 4) (z : BitVec 1) (o p : BitVec 3)
  /-- Pool compare-and-swap (R269). -/
  | pcas (sy : BitVec 5) (r k n : BitVec 4) (z : BitVec 1) (o p : BitVec 3)
  /-- Fetches whole pool pages under S leases into frames or the scratchpad (R270). -/
  | pget (sy a : BitVec 5) (k : BitVec 4) (b : BitVec 5) (p : BitVec 3)
  /-- Loads a capability-typed pool granule into a k register with its tag set (R271). -/
  | kld (sy : BitVec 5) (d k a o : BitVec 4) (p : BitVec 3)
  /-- Derives a narrower capability window from a tagged k register (R272). -/
  | kder (sy : BitVec 5) (d k a b : BitVec 4)
  /-- Writes the status of the first three pool checks to a p register without faulting (R272). -/
  | kchk (sy : BitVec 5) (p k a b : BitVec 4)
  /-- Copies a k register with its tag (R272). -/
  | kmov (sy : BitVec 5) (d k : BitVec 4)
  /-- Acquires or upgrades S or X leases on each touched pool page and sets own (R274). -/
  | lacq (sy : BitVec 5) (k : BitVec 4) (a b : BitVec 5) (p : BitVec 3)
  /-- Releases the leases on each touched pool page after its write-throughs (R60). -/
  | lrel (sy : BitVec 5) (k : BitVec 4) (a b : BitVec 5) (p : BitVec 3)
  /-- Hands X leases on touched pages to a named successor package (R61). -/
  | lhand (sy : BitVec 5) (k : BitVec 4) (a b : BitVec 5) (p : BitVec 3)
  /-- Appends a register value to a queue (R275). -/
  | qpush (sy : BitVec 5) (q : BitVec 4) (a : BitVec 5)
  /-- Ring form: publishes and/or reserves ring slots as producer (R275). -/
  | qpushRing (sy : BitVec 5) (q : BitVec 4) (a : BitVec 5)
  /-- Removes the oldest queue entry into a register (R275). -/
  | qpop (sy : BitVec 5) (q : BitVec 4) (a : BitVec 5)
  /-- Ring form: pops and/or reads ring slots as consumer (R275). -/
  | qpopRing (sy : BitVec 5) (q : BitVec 4) (a : BitVec 5)
  /-- Writes the number of filled or reserved entries of a queue (R276). -/
  | qcnt (sy : BitVec 5) (q : BitVec 4) (d : BitVec 5)
  /-- Appends a register value to the format queue (R276). -/
  | fqpush (sy a : BitVec 5)
  /-- Appends an entry of the plane's format-word table to the format queue (R276). -/
  | fqpushT (sy a : BitVec 5)
  /-- Closes the format queue (R276). -/
  | fqclose (sy : BitVec 5)
  /-- Starts fills of the absent lines of a region run and completes when none is filling (R277). -/
  | rmap (sy : BitVec 5) (n : BitVec 4) (a : BitVec 5) (p : BitVec 3)
  /-- Writes back the dirty lines of a region run, then performs its release (R277). -/
  | rflush (sy : BitVec 5) (n : BitVec 4) (a : BitVec 5) (o p : BitVec 3)
  /-- Discards the lines of a region run (R277). -/
  | rinv (sy : BitVec 5) (n : BitVec 4) (a : BitVec 5)
  /-- Writes a region's register pair, evicting dirty lines of the old region (R278). -/
  | rcfgRegion (sy : BitVec 5) (n : BitVec 4) (a b : BitVec 5)
  /-- Writes a ring register (R278). -/
  | rcfgRing (sy : BitVec 5) (n : BitVec 4) (a : BitVec 5)
  /-- Orders earlier accesses of the stream before later ones at a scope (R261). -/
  | fence (sy : BitVec 5) (o : BitVec 3) (u : BitVec 1)
  /-- Opens a flag stream or sends a counted flag carrying the count of counted writes (R280). -/
  | flagw (sy : BitVec 5) (f : BitVec 6) (a b : BitVec 5) (p : BitVec 3)
  /-- Releases at .pl and adds to a flag of the pipeline's flag file (R281). -/
  | flagadd (sy : BitVec 5) (f : BitVec 8) (a : BitVec 5)
  /-- Waits until a flag passes a test, then acquires at .pl (R281). -/
  | flagwait (sy : BitVec 5) (f : BitVec 8) (a : BitVec 5) (t : BitVec 3)
  /-- Arrives at a stage or pipeline barrier, arming it if needed, optionally flipping route banks (R282). -/
  | bar (sy : BitVec 5) (t : BitVec 1) (l : BitVec 2) (i : BitVec 8)
  /-- Enqueues a copy-engine command into the core's copy queue (R283). -/
  | cpy (sy : BitVec 5) (d i c : BitVec 4) (q l : BitVec 1) (o : BitVec 3) (b : BitVec 1)
  /-- Waits for earlier copy commands to complete and raises a pending remote fault (R285). -/
  | cpyw (sy : BitVec 5) (p : BitVec 3)
  /-- Writes the number of waiting and in-progress copy commands of the core (R285). -/
  | cpyq (sy : BitVec 5) (d : BitVec 4)
  /-- Asks the Commons bank ALUs for an atomic, update or reduce operation (R286). -/
  | bop (sy d : BitVec 5) (r : BitVec 4) (k : BitVec 2) (o : BitVec 4) (f : BitVec 3)
  /-- Enqueues a copy whose Commons destination elements are combined by a bank operation (R284). -/
  | coll (sy : BitVec 5) (d i c : BitVec 4) (q l : BitVec 1) (o : BitVec 3) (b : BitVec 1)
  /-- FP32 lane add (R289). -/
  | vadd (sy d a b : BitVec 5) (m : BitVec 3) (e : BitVec 1)
  /-- FP32 lane subtract (R289). -/
  | vsub (sy d a b : BitVec 5) (m : BitVec 3) (e : BitVec 1)
  /-- FP32 lane multiply (R289). -/
  | vmul (sy d a b : BitVec 5) (m : BitVec 3) (e : BitVec 1)
  /-- FP32 fused multiply-add into the destination (R289). -/
  | vfma (sy d a b : BitVec 5) (m : BitVec 3) (e : BitVec 1)
  /-- FP32 fused multiply-subtract from the destination (R289). -/
  | vfms (sy d a b : BitVec 5) (m : BitVec 3) (e : BitVec 1)
  /-- FP32 lane maximum (R289). -/
  | vmax (sy d a b : BitVec 5) (m : BitVec 3) (e : BitVec 1)
  /-- FP32 lane minimum (R289). -/
  | vmin (sy d a b : BitVec 5) (m : BitVec 3) (e : BitVec 1)
  /-- Clears the sign bit of each active lane (R290). -/
  | vabs (sy d a : BitVec 5) (m : BitVec 3) (i o : BitVec 1)
  /-- Inverts the sign bit of each active lane (R290). -/
  | vneg (sy d a : BitVec 5) (m : BitVec 3) (i o : BitVec 1)
  /-- Correctly rounded reciprocal per lane (R290). -/
  | vrcp (sy d a : BitVec 5) (m : BitVec 3) (i o t r : BitVec 1)
  /-- Correctly rounded reciprocal square root per lane (R290). -/
  | vrsq (sy d a : BitVec 5) (m : BitVec 3) (i o t r : BitVec 1)
  /-- exp2x of each active lane (R291). -/
  | vexp2 (sy d a : BitVec 5) (m : BitVec 3) (i o : BitVec 1)
  /-- log2x of each active lane (R291). -/
  | vlog2 (sy d a : BitVec 5) (m : BitVec 3) (i o : BitVec 1)
  /-- Converts 64 FP32 lanes to a packed narrow format (R297). -/
  | vcvtFromFp32 (sy d a f : BitVec 5) (r : BitVec 3) (t : BitVec 1)
  /-- Converts 64 packed elements to FP32 lanes (R298). -/
  | vcvtToFp32 (sy d a f : BitVec 5)
  /-- Quantises FP32 lanes to MX or PINT blocks with scales (R299). -/
  | vquant (sy d a f : BitVec 5) (r : BitVec 3) (t : BitVec 1)
  /-- Dequantises MX or PINT blocks to FP32 lanes (R300). -/
  | vdeq (sy d a f : BitVec 5)
  /-- Compares lanes and writes a lane mask (R293). -/
  | vcmp (sy : BitVec 5) (d : BitVec 3) (a b : BitVec 5) (t m : BitVec 3)
  /-- Selects each lane from one of two vectors by a mask (R294). -/
  | vsel (sy d a b : BitVec 5) (m : BitVec 3)
  /-- Bitwise and of lanes (R292). -/
  | vand (sy d a b : BitVec 5) (m : BitVec 3)
  /-- Bitwise or of lanes (R292). -/
  | vor (sy d a b : BitVec 5) (m : BitVec 3)
  /-- Bitwise xor of lanes (R292). -/
  | vxor (sy d a b : BitVec 5) (m : BitVec 3)
  /-- Bitwise complement of lanes (R292). -/
  | vnot (sy d a : BitVec 5) (m : BitVec 3)
  /-- Shifts lanes left (R292). -/
  | vshl (sy d a b : BitVec 5) (m : BitVec 3)
  /-- Logical lane shift right (R292). -/
  | vshr (sy d a b : BitVec 5) (m : BitVec 3)
  /-- Arithmetic lane shift right (R292). -/
  | vsar (sy d a b : BitVec 5) (m : BitVec 3)
  /-- 32-bit integer lane add, optionally saturating (R292). -/
  | viadd (sy d a b : BitVec 5) (m : BitVec 3) (t : BitVec 1)
  /-- 32-bit integer lane multiply, optionally saturating (R292). -/
  | vimul (sy d a b : BitVec 5) (m : BitVec 3) (t : BitVec 1)
  /-- Folds the lanes into lane 0 by a fixed tree (R295). -/
  | vred (sy d a : BitVec 5) (m : BitVec 3) (f : BitVec 2)
  /-- Permutes lanes by indices in another vector (R294). -/
  | vperm (sy d a b : BitVec 5) (m : BitVec 3)
  /-- Broadcasts one lane to every lane (R301). -/
  | vbcast (sy d a : BitVec 5) (l : BitVec 6)
  /-- Copies the low 32 bits of an integer register to every lane (R301). -/
  | vsplat (sy d : BitVec 5) (i : BitVec 6)
  /-- Writes lane index plus an immediate to every lane (R301). -/
  | viota (sy d : BitVec 5) (x : BitVec 6)
  /-- Copies a vector register (R301). -/
  | vmov (sy d a : BitVec 5)
  /-- Pushes a whole vector through a queue as 32 entries, keeping a move cursor (R302). -/
  | vmovToQueue (sy a : BitVec 5) (q : BitVec 4)
  /-- Pops 32 queue entries into a vector, keeping a move cursor (R302). -/
  | vmovFromQueue (sy d : BitVec 5) (q : BitVec 4)
  /-- Copies one lane, zero-extended, into an integer register (R301). -/
  | vmovToInteger (sy d a : BitVec 5) (l : BitVec 6)
  /-- Loads 64 consecutive words into active lanes (R304). -/
  | vld (sy d : BitVec 5) (a : BitVec 4) (m o p : BitVec 3)
  /-- Stores the words of active lanes to 64 consecutive words (R304). -/
  | vst (sy d : BitVec 5) (a : BitVec 4) (m o p : BitVec 3)
  /-- Gathers a word per active lane from base plus lane offset (R305). -/
  | vgath (sy d : BitVec 5) (a b : BitVec 4) (m p : BitVec 3)
  /-- Scatters the word of each active lane to base plus lane offset (R305). -/
  | vscat (sy d : BitVec 5) (a b : BitVec 4) (m p : BitVec 3)
  /-- And of two lane masks (R307). -/
  | mand (sy : BitVec 5) (d a b : BitVec 3)
  /-- Or of two lane masks (R307). -/
  | mor (sy : BitVec 5) (d a b : BitVec 3)
  /-- Complement of a lane mask (R307). -/
  | mnot (sy : BitVec 5) (d a : BitVec 3)
  /-- Counts the set bits of a mask into an integer register (R307). -/
  | mpop (sy : BitVec 5) (a : BitVec 3) (r : BitVec 5)
  /-- One plus the index of a mask's lowest set bit, or 0 (R307). -/
  | mffs (sy : BitVec 5) (a : BitVec 3) (r : BitVec 5)
  /-- Multiplies two dense ring operands into an accumulator under a semiring (R314). -/
  | mma (sy : BitVec 5) (d c a b : BitVec 4)
  /-- Matrix multiply with A read as N-of-64 sparse groups (R314). -/
  | mmas (sy : BitVec 5) (d c a b : BitVec 4)
  /-- Mixed-radix transform of every row of a pair of accumulators (R320). -/
  | mfft (sy : BitVec 5) (r i : BitVec 4)
  /-- Sets the twiddle generator's length (R319). -/
  | mtw (sy a : BitVec 5)
  /-- Fills an accumulator with the semiring's additive identity (R316). -/
  | mzero (sy : BitVec 5) (d : BitVec 4) (m : BitVec 3)
  /-- Transposes an accumulator (R316). -/
  | mtr (sy : BitVec 5) (d a : BitVec 4)
  /-- Adds two accumulators cell by cell (R316). -/
  | madd (sy : BitVec 5) (d a b : BitVec 4)
  /-- Copies an accumulator bit for bit (R316). -/
  | mmov (sy : BitVec 5) (d a : BitVec 4)
  /-- Scales an accumulator by an FP32 value in an i register (R316). -/
  | msc (sy : BitVec 5) (d a i : BitVec 4)
  /-- Loads an accumulator from 16 KiB of memory (R317). -/
  | mldz (sy : BitVec 5) (z : BitVec 4) (a : BitVec 5)
  /-- Stores an accumulator to 16 KiB of memory (R317). -/
  | mstz (sy : BitVec 5) (z : BitVec 4) (a : BitVec 5)
  /-- Converts an accumulator to the output format and writes it to scratchpad or Commons (R318). -/
  | mcvt (sy : BitVec 5) (z : BitVec 4) (a : BitVec 5) (t : BitVec 1)
  /-- Starts or resumes attention of up to eight queries over a head's positions in rounds (R324). -/
  | kvattn (sy : BitVec 5) (d : BitVec 4) (a b : BitVec 5) (p : BitVec 3)
  /-- Appends K and V rows of all heads of one layer at position e + d (R107). -/
  | kvapp (sy a b c : BitVec 5) (p : BitVec 3)
  /-- Gives a layer a slab of twice the capacity, copying pages through a forwarding pair (R111). -/
  | kvgrow (sy a b c : BitVec 5) (p : BitVec 3)
  /-- Releases at .sys and raises a sequence's committed length from e to n (R108). -/
  | kvcmt (sy a b c : BitVec 5) (p : BitVec 3)
  /-- Reads a sequence's committed length or copies one K or V row to the scratchpad (R327). -/
  | kvld (sy d a : BitVec 5) (w : BitVec 2) (p : BitVec 3)
  /-- Copies a CSR into an integer register (R252). -/
  | csrr (sy d : BitVec 5) (c : BitVec 12)
  /-- Writes a register into a CSR field by field as its map states (R252). -/
  | csrw (sy a : BitVec 5) (c : BitVec 12)
  /-- Requests a range or ASID invalidation for the core's ASID and waits for it to complete (R253). -/
  | tlbi (sy a b : BitVec 5)
  /-- Starts a telemetry latch of a port and waits until the snapshot is written (R254). -/
  | snap (sy d b : BitVec 5)
  /-- Writes one event-crossbar entry or issues a software pulse (R255). -/
  | evcfg (sy a b : BitVec 5)
  /-- Sets, ands or ors the core's rule-enable mask (R256). -/
  | rwctl (sy a b : BitVec 5)
  /-- Acknowledges a batch of fault-queue entries of the core's ASID (R257). -/
  | resume (sy a : BitVec 5)
  /-- Fetching or issuing a word that is not a legal instruction parks the stream with an illegal-instruction fault (R224). -/
  | illegalInstruction (cause : IllegalCause)
  /-- A local or X-link access completes, writing its loaded register or p register and releasing held retirement (R258). -/
  | memoryAccessComplete (op : Nat)
  /-- The start sequencer releases the next queued core, at most one per 64 cycles (R24). -/
  | coreRelease (die : DieId)
  /-- The clock sweeper advances its hand one frame, clearing a or enqueuing a victim (R65). -/
  | sweeperAdvance (die : DieId) (ch : Fin 48)
  /-- A waiting allocation takes the head of the ready queue and drains the victim (R64). -/
  | victimAllocation (die : DieId) (ch : Fin 48)
  /-- A demand allocation waits two full sweeper rotations without a victim and completes with RETRY (R64). -/
  | allocationRetry (die : DieId) (ch : Fin 48)
  /-- The prefetch engine takes a due schedule record and requests S fills of its free pages (R68). -/
  | prefetchWalk (die : DieId)
  /-- The walker reads the ASID entry and page tables to translate a virtual address (R77). -/
  | pageWalk (core : CoreId) (va asid : Nat)
  /-- An invalidation completes when no matching entry remains and covered accesses are performed (R85). -/
  | invalidationComplete (id : Nat) (other : Option OtherInval)
  /-- kvinv go clears once every access that used the dropped entries has completed (R101). -/
  | kvinvComplete (die : DieId)
  /-- The attention units complete a round and the return network merges it into the running triple (R116). -/
  | kvattnRound (core : CoreId)
  /-- Once no matching pair exists and one is free, kvgrow installs a forwarding pair on both dies (R111). -/
  | kvgrowPairInstall (op : Nat)
  /-- A slab page copy completes and bound advances after every H pages (R111). -/
  | kvgrowPageCopy (op : Nat)
  /-- A router forwards a packet on its route word, or returns LINK_DOWN: the packet that arrives from a neighbour outside the package, or else the oldest one waiting at the router (R124). -/
  | packetHop (die : DieId) (arrival : Option (List Byte))
  /-- A copy channel starts a ready command into a free slot and issues its lines (R157). -/
  | ceCommandStart (die : DieId) (ch : Fin 32)
  /-- A copy line completes its read and write, or fails (R159). -/
  | ceLineComplete (die : DieId) (ch : Fin 32) (slot : Fin 8)
  /-- A copy command completes: ring publish, flag add, crossbar pulse and status write (R161). -/
  | ceCommandComplete (die : DieId) (ch : Fin 32) (slot : Fin 8)
  /-- A command waiting on a full destination ring starts when the ring's free count becomes non-zero (R162). -/
  | ceRingWaitEnd (core : CoreId)
  /-- The map unit's line fill reads complete, installing the line or faulting its waiters (R170). -/
  | muFillComplete (core : CoreId) (line : Fin 512)
  /-- A region line's write-back completes, leaving it CLEAN or DIRTY (R170). -/
  | muWritebackComplete (core : CoreId) (line : Fin 512)
  /-- The command processor assigns cores and a Commons window, loads planes and queues cores for release (R368). -/
  | launchAdmission (queue : Nat)
  /-- The command processor gives a stage one more free core up to its maximum (R369). -/
  | stageGrowth (gang : Nat)
  /-- Every core has halted with no engine work left, and the launch's resources are freed (R370). -/
  | launchComplete (gang : Nat)
  /-- The configuration loader finishes a plane load and checks its trailer (R374). -/
  | planeLoadComplete (core : CoreId)
  /-- Every live stream of a core has stopped at yield or swap and the core acts on its drain request (R241). -/
  | drainPoint (core : CoreId)
  /-- The core swaps planes, resetting streams, loading the crossbar and copying constants (R376). -/
  | planeSwap (core : CoreId)
  /-- A queued pulse of a busy source is passed on in a later cycle (R381). -/
  | exDeferredPulse (core : CoreId)
  /-- A pending crossbar target acts once room exists (R383). -/
  | exPendingTarget (core : CoreId) (target : Fin 16)
  /-- A doorbell makes the command processor re-read a queue descriptor (R387). -/
  | cqdoorWrite (v : Word)
  /-- A step starts: pfpos is set and its schedule is copied to the prefetch rings (R396). -/
  | stepStart (queue : Nat)
  /-- A ready launch node reads its record and becomes a candidate for admission (R391). -/
  | launchNode (queue : Nat) (node : Fin 32)
  /-- A ready flag-wait node starts polling its word (R390). -/
  | flagWaitNode (queue : Nat) (node : Fin 32)
  /-- A signal node adds or writes a word with release at .sys (R390). -/
  | signalNode (queue : Nat) (node : Fin 32)
  /-- A conditional node reads its predicate once and skips its skip set when the test fails (R397). -/
  | conditionalNode (queue : Nat) (node : Fin 32)
  /-- A circuit-change node gates ports, posts a switch request, retrains and installs a route image (R141). -/
  | circuitChangeNode (queue : Nat) (node : Fin 32)
  /-- A route-install node writes a route image into the inactive banks (R390). -/
  | routeInstallNode (queue : Nat) (node : Fin 32)
  /-- A lease hand-over node hands leases over a range as lhand does (R390). -/
  | leaseHandoverNode (queue : Nat) (node : Fin 32)
  /-- A node completes with a status, releasing at .sys and skipping dependents on failure (R389). -/
  | nodeComplete (queue : Nat) (node : Fin 32)
  /-- The command processor draws among eligible queues at the highest priority and admits the winner (R394). -/
  | lotteryDraw (die : DieId)
  /-- After the earlier launch is admitted, a chained launch loads shadow planes and delivers swap tokens (R395). -/
  | chainedLaunch (queue : Nat) (node : Fin 32)
  /-- The gang's cores are stopped, flags flushed, and state saved to a context record (R409). -/
  | gangSwitch (gang : Nat)
  /-- A saved launch is readmitted and its saved state written back before release (R414). -/
  | gangRestore (gang : Nat)
  /-- A held fault entry is written to the queue once space frees (R402). -/
  | heldEntryWrite (die : DieId)
  /-- The host acknowledges a batch of fault entries of any ASID (R403). -/
  | fackWrite (die : DieId) (v : Word)
  /-- An acknowledged parked stream restarts in acknowledgement order, one per cycle (R404). -/
  | streamRestart (die : DieId)
  /-- A host write through the CSR window to a register that has no row of its own (R450). -/
  | hostWindowWrite (die : DieId) (core : Fin 128) (cl : Cluster) (n : BitVec 12) (v : Word)
  /-- Power is applied and the always-on rail starts the power-up sequence (R457). -/
  | coldPowerUp
  /-- A power-up row completes and the next row starts (R457). -/
  | powerUpStageDone
  /-- A power-up row exceeds its limit, stopping the sequence and raising a host interrupt (R457). -/
  | powerUpStageTimeout
  /-- Once both core rails are stable, each die's sequencer brings a compute core out of reset every 256 cycles (R26). -/
  | coreLeaveReset (die : DieId)
  /-- The recovery loader receives an image over the management port and checks it (R453). -/
  | recoveryImage (image : List Byte)
  /-- A die reset advances the incarnation and probes reachable dies (R130). -/
  | dieReset (die : DieId)
  /-- A pool request without reply after 2^n cycles completes with TIMEOUT and its tag generation advances (R45). -/
  | poolRequestTimeout (die : DieId) (tag : Nat)
  /-- A grant and fill, or a failing status, arrives for a frame and is installed or dropped (R58). -/
  | leaseFillReply (die : DieId) (tag : Nat) (gen : BitVec 4) (ans : PoolAnswer)
  /-- A promoting reply records the lease and sets prom while the frame stays FILLING (R58). -/
  | promotionReply (die : DieId) (tag : Nat) (gen : BitVec 4) (epoch : BitVec 64) (ticks : Nat)
  /-- The pool recalls an S lease; the package acknowledges and frees the frame (R58). -/
  | leaseRecall (die : DieId) (obj pidx : Nat)
  /-- ltime reaches a frame's dline and the frame goes to FREE or LOST (R58). -/
  | leaseExpiry (die : DieId) (frame : Nat)
  /-- The frame allocator sends a renewal for an own lease whose remaining time falls below the threshold (R54). -/
  | leaseRenewal (die : DieId) (frame : Nat)
  /-- A renewal grant moves dline, or a refusal puts the frame in LOST (R54). -/
  | renewalReply (die : DieId) (tag : Nat) (gen : BitVec 4) (ans : PoolAnswer)
  /-- The pool acknowledges or refuses a write-through, completing its store and possibly losing the frame (R41). -/
  | writeThroughReply (die : DieId) (tag : Nat) (gen : BitVec 4) (st : Status)
  /-- The pool confirms a release, completing the lrel and freeing the frame (R60). -/
  | releaseReply (die : DieId) (tag : Nat) (gen : BitVec 4) (st : Status)
  /-- The pool accepts or refuses a hand-over, completing the lhand (R61). -/
  | handoverReply (die : DieId) (tag : Nat) (gen : BitVec 4) (st : Status)
  /-- A write to pfpos advances the position used by the prefetch engine (R67). -/
  | pfposWrite (die : DieId) (v : Word)
  /-- Writing go to tinvc starts a host invalidation (R86). -/
  | tinvcWrite (die : DieId) (v : Word)
  /-- Every 2^win cycles every access count is halved and quiet bits cleared (R89). -/
  | accessCounterWindow (die : DieId)
  /-- Writing go to kvinv drops matching sequence-cache entries (R101). -/
  | kvinvWrite (die : DieId) (v : Word)
  /-- Setting a link's enable bit starts its training (R122). -/
  | tlinksEnable (die : DieId) (v : Word)
  /-- A link comes up, or stays down on mismatched coordinates (R122). -/
  | linkTrainingResult (die : DieId) (link : Fin 6) (far : Option FarEnd)
  /-- A link exceeds its retransmission limit and goes down (R125). -/
  | linkFailure (die : DieId) (link : Fin 6)
  /-- A request packet reaches its target, which checks the incarnation, performs it and replies (R130). -/
  | remoteRequestArrival (die : DieId) (pkt : List Byte)
  /-- A reply arrives, completing its request or being discarded as late (R128). -/
  | remoteReply (die : DieId) (pkt : List Byte)
  /-- A remote request without reply after 2^n cycles completes with TIMEOUT (R128). -/
  | remoteTimeout (die : DieId) (tag : Nat)
  /-- A timed-out tag becomes usable after a further 2^n cycles (R128). -/
  | remoteTagRelease (die : DieId) (tag : Nat)
  /-- A counted flag arrives and is performed or withheld until its phase counter reaches n (R132). -/
  | flagArrival (die : DieId) (pkt : List Byte)
  /-- Writing a stream number advances its generation and clears its phase (R133). -/
  | fsrstWrite (die : DieId) (v : Word)
  /-- A write to rtw stores a route-table entry in the inactive bank (R123). -/
  | rtwWrite (die : DieId) (v : Word)
  /-- Port command GATE powers the engine with lasers gated (R136). -/
  | gate (die : DieId) (port : Fin 16)
  /-- Port command TRAIN starts the training sequence (R136). -/
  | train (die : DieId) (port : Fin 16)
  /-- Port command DRAIN stops new requests or abandons training (R136). -/
  | drain (die : DieId) (port : Fin 16)
  /-- Port command OFF powers the engine down or abandons training (R136). -/
  | off (die : DieId) (port : Fin 16)
  /-- Removal of a laser module moves its ports to ABSENT and zeroes its grant (R136). -/
  | laserModuleRemoved (die : DieId) (m : Fin 4)
  /-- Insertion of a laser module moves its ports from ABSENT to OFF (R136). -/
  | laserModuleInserted (die : DieId) (m : Fin 4)
  /-- A training attempt succeeds to ACTIVE, or fails and retries or goes to FAILED (R137). -/
  | portTrainingResult (die : DieId) (port : Fin 16) (res : TrainResult)
  /-- A training step or attempt exceeds its time limit and the attempt fails (R137). -/
  | portTrainingTimeout (die : DieId) (port : Fin 16)
  /-- A DRAINING port has no request outstanding and gates its lasers (R136). -/
  | portDrainComplete (die : DieId) (port : Fin 16)
  /-- 2^dto cycles after DRAIN, outstanding requests complete with TIMEOUT and the port gates (R136). -/
  | portDrainTimeout (die : DieId) (port : Fin 16)
  /-- Every 2^24 cycles lane error counts are checked on ACTIVE ports (R144). -/
  | laneCheck (die : DieId) (port : Fin 16) (counts : List Nat)
  /-- Writing go to tsnap requests a telemetry latch of a port (R145). -/
  | tsnapWrite (die : DieId) (v : Word)
  /-- A requested latch starts when no remap or latch is in progress and copies telemetry in 64 cycles (R145). -/
  | latch (die : DieId) (lanes : List LaneReading)
  /-- The host writes the switch outcome, letting the circuit-change node continue or stop (R141). -/
  | oswackWrite (die : DieId) (v : Word)
  /-- No switch outcome within 2^dto cycles; the node skips steps 3 and 4 with TIMEOUT (R141). -/
  | switchRequestTimeout (queue : Nat)
  /-- Every gint cycles the power governor settles grants among its ten bidders: fixedDraw is sixteen times the measured draw, rounded up (R147). -/
  | governorSettle (fixedDraw : Nat) (bids : List Bid)
  /-- When the head is ready, the Swath applies a matched rule's replacement or drops the match (R342). -/
  | swathReplacement (core : CoreId)
  /-- Every 2^per cycles the command processor samples rings and may start one core move (R378). -/
  | reassignmentEvaluation (gang : Nat)
  /-- At least every 4,096 cycles a flag-wait node reads its word with acquire and tests it (R390). -/
  | flagWaitPoll (queue : Nat) (node : Fin 32)
  /-- A waiting higher-priority launch raises the pre-emption request of running pipelines (R395). -/
  | preemptionRequest (queue : Nat)
  /-- The pdl deadline expires and the gang is saved at once, forced where not drained (R406). -/
  | preemptionDeadline (gang : Nat) (die : DieId)
  /-- The security monitor signs an attestation report with the identity key (R454). -/
  | attestationRequest (nonce : BitVec 256)
  /-- Firmware raises the rollback counter on a request from host software (R453). -/
  | rollbackRaise (v : BitVec 64)
  /-- A tamper, voltage or clock alarm is recorded and may reset the package and erase the key (R455). -/
  | securityAlarm (kind : Alarm)
  /-- A host hart loads or stores a local address of either die through the local-memory window; stores to pool cache frames are discarded and addresses at or above 0x60_0000_0000 fault on the hart (R451). -/
  | hostMemoryAccess (die : DieId) (addr : Nat) (what : HartAccess)
  /-- The security monitor finishes signing an attestation report, within 10 ms of the request, and delivers it, or delivers no report when the key has been erased meanwhile (R454). Its operands are the 320 bits that the random source gives for the signature (log 80). -/
  | attestationReportComplete (c : BitVec 256) (extra : BitVec 64)
  deriving DecidableEq, Repr

end Sys2Proof
end

