-- ==== Sys2Proof/Machine/State.lean ====
section
/-!
DEFINITION. The state of one K7 package as plain data: everything the spec gives the machine (INVENTORY.md, State), the fault and
refusal names, and the state after reset.
-/

namespace Sys2Proof.Machine

/-- Why a step faults.  The K7's own faults park a stream and post an entry (R398): they are next states, not these. -/
inductive Fault where
  /-- A host hart's access at or above 0x60_0000_0000 takes the hart's access fault (R451); raised by no arm: the fault is the
  hart's, and HOST_MEMORY_ACCESS records it. Safe: nothing of the package is left out. -/
  | hartAccess
  deriving DecidableEq, Repr

/-- Why a step is refused. -/
inductive Refusal where
  /-- An instruction whose arm has no meaning yet. Safe: the model stops. -/
  | notModelled (mnemonic : String)
  deriving DecidableEq, Repr

/-- Storage of bytes by address. An address that nothing has written reads 0 (log 5). -/
abbrev Memory := Sparse Byte

/-- What an unlisted byte reads as (log 5). -/
def Memory.unwritten : Nat → Byte := fun _ => 0

/-- The canonical form of a memory: addresses strictly rising, no listed byte equal to what an unlisted address reads as. -/
def Memory.wf (m : Memory) : Bool := Sparse.wf Memory.unwritten m

/-! ## Cluster streams -/

/-- A steer register (R217). -/
structure Steer where
  c : Bool
  tv : Bool
  tgt : BitVec 15
  deriving DecidableEq, Repr

/-- A block-stack entry (R211). -/
structure Block where
  start : BitVec 16
  stop : BitVec 16
  count : BitVec 32
  deriving DecidableEq, Repr

/-- Whether a stream runs, and where it has stopped (R407). -/
inductive Run where
  | idle
  | running
  | atYield
  | atSwap
  | halted
  | parked (seq : BitVec 32)
  | atBar
  | atGrow (op : Nat)
  deriving DecidableEq, Repr

/-- The place of a stream in an S-bit join (R209). -/
inductive JoinMark where
  | none
  | waiting
  | granted
  deriving DecidableEq, Repr

/-- What a blocked instruction waits for (R176 to R179). `lineFailed`: the fill of the line that it waited for has failed, and it takes the
status when it issues (R170). -/
inductive Wait where
  | register
  | tokenPrev
  | tokenNext
  | signal
  | join
  | queueRead (q : Nat)
  | queueWrite (q : Nat)
  | formatQueue
  | ring (n : Nat)
  | access
  | tag
  | walk (va : Nat)
  | flag (n : Nat)
  | copyQueue
  | copyWait
  | line (n : Nat)
  | lineFailed (n : Nat) (st : Status) (va : Nat)
  | invalidation
  | pool
  | latch
  | other
  deriving DecidableEq, Repr

/-- A register that an outstanding operation will write, so that a reader or writer of it waits (R216, R258). -/
inductive Reg where
  | x (n : Nat)
  | p (n : Nat)
  | k (n : Nat)
  | v (n : Nat)
  deriving DecidableEq, Repr

/-- Signals of an instruction that has retired, held until the operations named have completed (R177, R354). -/
structure Signal where
  ops : List Nat
  next : Bool
  prev : Bool
  deriving DecidableEq, Repr

/-- One cluster stream (R13, R215); `issued` marks an instruction at the pc that has issued, with its tokens and its partners, and has not
retired: what it has done stands, and it goes on (R302, R253, R254, R275). The 15 bits of R215's pc index halfwords; one more holds a pc past the end of an image of 2^15 halfwords,
where R212 raises BLOCK (DEDUCED, log 76). -/
structure ClusterState where
  pc : BitVec 16
  run : Run
  stack : List Block
  x : Sparse Word
  g : Sparse Steer
  p : Sparse Status
  busy : List Reg
  hold : Option Nat
  join : JoinMark
  issued : Bool
  wait : Option Wait
  fromPrev : Nat
  fromNext : Nat
  signals : List Signal
  csr : Sparse Word
  streams : BitVec 64
  deriving DecidableEq, Repr

/-! ## Cores -/

/-- A k register (R29): 128 bits and a tag. -/
structure Cap where
  bits : BitVec 128
  tag : Bool
  deriving DecidableEq, Repr

/-- An accumulator: 64 × 64 cells of 32 bits, cell (i, j) at key 64 i + j (R215). -/
abbrev Tile := Sparse Cell

/-- An entry of a queue register: filled, or reserved by the `ldq` of an operation (R263). -/
inductive QEntry where
  | filled (w : Word)
  | reserved (op : Nat)
  deriving DecidableEq, Repr

/-- A plain copy command that has ended with a status other than OK and whose fault has not been raised (R161, R283): the p register it
names, the status, and the address recorded. -/
structure CopyFault where
  p : Nat
  st : Status
  addr : Nat
  deriving DecidableEq, Repr

/-- The state of a scratchpad line of the map unit (R170). `filling` and `writing` name what is in progress. -/
inductive LineState where
  | none
  | absent
  | filling
  | clean
  | dirty
  deriving DecidableEq, Repr

/-- A line of the L1 (R172): word masks and data. -/
structure L1Line where
  valid : BitVec 32
  dirty : BitVec 32
  data : BitVec 1024
  deriving DecidableEq, Repr

/-- Slots of a ring that clusters of the core have reserved and not published, oldest first (slot + 256 × cluster number), and reads not
popped (R174, R275). -/
structure RingUse where
  reserved : List Nat
  reads : Nat
  deriving DecidableEq, Repr

/-- A copy-engine command (R158, R283): the three registers, where it came from, and how far it is. -/
structure CopyCmd where
  id : Word
  is : Word
  ic : Word
  coll : Bool
  acq : Bool
  rel : Bool
  scope : BitVec 3
  bulk : Bool
  serial : Nat
  offset : Nat
  slot : Option Nat
  restored : Bool
  ringWait : Bool
  deriving DecidableEq, Repr

/-- A configuration plane: its image of 96 KiB and where it was loaded from (R371). -/
structure Plane where
  image : Memory
  addr : Nat
  loaded : Bool
  deriving DecidableEq, Repr

/-- The event crossbar of a core (R381 to R384): entries by selector, latches by term, firings pending by target, and the pulses that
wait for a later cycle, oldest first. -/
structure Crossbar where
  entry : Sparse Word
  latch : Sparse (BitVec 40)
  pending : Sparse Nat
  deferred : List Nat
  deriving DecidableEq, Repr

/-- A translation held by a TLB (R82). `size` is the byte size of the block. -/
structure TlbEntry where
  asid : Nat
  global : Bool
  va : Nat
  size : Nat
  die : Nat
  dup : Nat
  base : Nat
  w : Bool
  user : Bool
  order : Nat
  st : Nat
  inc : BitVec 16
  deriving DecidableEq, Repr

/-- The trap frame of the A cluster (R244). -/
structure TrapFrame where
  pc : BitVec 16
  stack : List Block
  code : BitVec 16
  deriving DecidableEq, Repr

/-- Who asks for a translation, and for what: a node of a step of a queue, at its die's command processor; the instruction of a stream, by
its pc and its `aret`; the loader of a plane; an operation of a stream that needs region lines; the command in a slot of a copy channel, for
its line at an offset, or for the bytes of its source (R159). -/
inductive Asker where
  | node (queue node step : Nat)
  | instr (cl : Cluster) (pc : BitVec 16) (aret : Word)
  | loader
  | op (id : Nat)
  | line (slot offset : Nat) (write : Bool)
  | source (slot serial : Nat)
  deriving DecidableEq, Repr

/-- It is the command processor. -/
def Asker.isCp : Asker → Bool | .node _ _ _ => true | _ => false

/-- What a walk of an ASID and an address that waited for another package's tables has found for the access that asked for it (R77): its
entry, or the cause of its fault. -/
structure Walked where
  who : Asker
  asid : Nat
  va : Nat
  cause : Nat
  entry : Option TlbEntry
  deriving DecidableEq, Repr

/-- What a plane load is for (R374, R375): the active plane at admission or restore, that of a core that a stage gains (R369), the shadow
plane of a move (R379), of a chained launch (R395), or one that a restore brings back (R414). -/
inductive LoadKind where
  | active
  | growth (stage : Nat)
  | reassign (stage : Nat)
  | chained (gang : Nat)
  | again
  deriving DecidableEq, Repr

/-- A plane load in progress (R374): where from, what for, its reads once they are planned, and whether a translation has failed. -/
structure PlaneLoad where
  va : Nat
  kind : LoadKind
  op : Option Nat
  failed : Bool
  deriving DecidableEq, Repr

/-- The register files of a core outside its integer registers (R215), its rings, the cursor of queue moves (R302), what an unfinished
`kvattn` holds (R116, R118, R324): its word, destination, whether it restarts after a fault, whether a round has raised invalid, and whether
its triples are still to be emptied; and what the Swath holds: its bypassed window, by length, first retirement, first pc and depth of blocks (R344), and what it
has decided for the head at a retirement, a rule or none (R331, R256). -/
structure CoreRegs where
  k : Sparse Cap
  v : Sparse (BitVec 2048)
  m : Sparse Word
  z : Sparse Tile
  rg : Sparse Word
  frame : Option TrapFrame
  cursor : Nat
  twiddle : Nat
  heldWord : Word
  heldDest : Nat
  bypass : Nat
  bypassFrom : Word
  bypassPc : BitVec 16
  bypassDepth : Nat
  begun : Option (Word × Option Nat)
  restarted : Bool
  raised : Bool
  fresh : Bool
  deriving DecidableEq, Repr

/-- Bytes of a line of a page as they were before a `kvapp` of the M stream wrote them, with the p register of its `.s` form: a `kvattn` that
nothing orders after it may still read them (R110, R360). -/
structure OldRow where
  obj : Nat
  pidx : Nat
  off : Nat
  bytes : List Byte
  preg : Nat
  deriving DecidableEq, Repr

/-- The storage and the queues inside a core (R167 to R178), its micro-TLB, what walks over other packages' tables have found, until
the access that asked for them takes it, and the rows that its M stream may still read old. -/
structure CoreStore where
  spad : Memory
  lines : Sparse LineState
  l1 : Sparse L1Line
  queues : Sparse (List QEntry)
  fq : List Word
  fqClosed : Bool
  rings : Sparse RingUse
  copies : List CopyCmd
  copyFaults : List CopyFault
  copyLast : Sparse Nat
  utlb : List TlbEntry
  walked : List Walked
  old : List OldRow
  deriving DecidableEq, Repr

/-- The control state of a core: reset and release, planes, swap and drain requests, membership. -/
structure CoreCtl where
  outOfReset : Bool
  released : Bool
  joinSet : BitVec 4
  ruleMask : Word
  active : Plane
  shadow : Plane
  load : Option PlaneLoad
  shadowFor : Option LoadKind
  loadFailed : Bool
  swapToken : Bool
  drain : Bool
  badRule : Option Nat
  rulesOff : Word
  gang : Option Nat
  stage : Nat
  deriving DecidableEq, Repr

/-- A core (R12, R13). -/
structure Core where
  ca : ClusterState
  cm : ClusterState
  cv : ClusterState
  cd : ClusterState
  regs : CoreRegs
  store : CoreStore
  ctl : CoreCtl
  ex : Crossbar
  csr : Sparse Word
  deriving DecidableEq, Repr

/-! ## Die resources -/

/-- A non-leaf entry of the walk cache (R82): the table of a level for the upper bits of an address. -/
structure WalkEntry where
  asid : Nat
  level : Nat
  tag : Nat
  table : Nat
  deriving DecidableEq, Repr

/-- An entry of the access-counter table (R89). -/
structure AccessCount where
  asid : Nat
  region : Nat
  count : Nat
  quiet : Bool
  deriving DecidableEq, Repr

/-- An invalidation (R85): what it matches, the die that it was requested on, whether through that die's `tinvc` (R86), the stream that waits
for it, and whether it has completed without that stream having gone on. -/
structure Invalidation where
  id : Nat
  die : DieId
  kind : Nat
  scope : Nat
  asid : Nat
  va : Nat
  size : Nat
  host : Bool
  stream : Option StreamId
  irq : Bool
  finished : Bool
  deriving DecidableEq, Repr

/-- A remote tag in use (R128): the operation and part it serves, when it was sent, whether it rests after a
time-out, and the circuit port that carried it (R140). -/
structure RemoteTag where
  op : Nat
  part : Nat
  target : Nat
  sent : Nat
  resting : Bool
  port : Option Nat
  deriving DecidableEq, Repr

/-- A counted flag stream at its source (R132, R280); `broken` holds while software owes it the reset of R133, or has opened it anew with a
count that no flag has emptied (R8, log 53). -/
structure SourceStream where
  phase : Bool
  gen : BitVec 4
  dest : Nat
  count : Nat
  flagOut : Bool
  broken : Bool
  deriving DecidableEq, Repr

/-- A counted flag stream at its destination (R132, R133): generation, the two counters, and the flags withheld. -/
structure DestStream where
  gen : BitVec 4
  count0 : Nat
  count1 : Nat
  withheld : List Packet
  deriving DecidableEq, Repr

/-- The torus side of a die (06_torus.md). `limits` holds L of the dies of other packages in GiB (R15), as their own `memsplit` has it (log 56).
`route` is keyed by 512 × bank + destination. -/
structure Torus where
  route : Sparse Byte
  peers : Sparse (BitVec 16)
  limits : Sparse Nat
  gens : Sparse (BitVec 4)
  tags : Sparse RemoteTag
  sources : Sparse SourceStream
  dests : Sparse DestStream
  router : List Packet
  deriving DecidableEq, Repr

/-- The state of a frame (R51). -/
inductive FrameSt where
  | free | filling | valid | draining | lost | table
  deriving DecidableEq, Repr

/-- The kind of a lease (R50). -/
inductive LeaseKind where
  | none | s | x
  deriving DecidableEq, Repr

/-- A lease record (R50), with the local duration that its grant gave (R54), the die whose prefetch engine started the fill, plus one
(R68), and the types of the page's granules (R28). -/
structure Lease where
  obj : Nat
  pidx : Nat
  st : FrameSt
  epoch : BitVec 64
  dline : Nat
  pend : Nat
  fgen : BitVec 8
  kind : LeaseKind
  a : Bool
  own : Bool
  pin : Nat
  pf : Bool
  prom : Bool
  lyr : Nat
  stp : Nat
  ldur : Nat
  eng : Nat
  types : Sparse Bool
  deriving DecidableEq, Repr

/-- What a pool request asks (R43). -/
inductive PoolAsk where
  | fill (x : Bool)
  | upgrade
  | writeThrough (addr : Nat) (bytes : List Byte)
  | renew
  | release
  | handover (succ : Nat)
  deriving DecidableEq, Repr

/-- A pool request (R45): its number in the order in which the die made its requests, the page and frame, when it left, over which port, and
the operation and task it serves. -/
structure PoolReq where
  num : Nat
  ask : PoolAsk
  obj : Nat
  pidx : Nat
  frame : Nat
  fgen : BitVec 8
  epoch : BitVec 64
  sent : Nat
  tsend : Nat
  port : Nat
  cap : BitVec 128
  op : Option (Nat × Nat)
  deriving DecidableEq, Repr

/-- The clock sweeper of a channel (R65): the hand, the ready queue, and whether it runs. -/
structure Sweeper where
  hand : Nat
  ready : List Nat
  running : Bool
  deriving DecidableEq, Repr

/-- The pool side of a die (02_pool.md, 03_pool_cache.md); `made` counts the requests that it has made; `pfAt` is how many pages of its current record the prefetch engine has taken,
once it has begun it (R68). -/
structure Pool where
  frames : Sparse Lease
  gens : Sparse (BitVec 4)
  reqs : Sparse PoolReq
  waiting : List PoolReq
  made : Nat
  sweepers : Sparse Sweeper
  started : Bool
  pfAt : Option Nat
  deriving DecidableEq, Repr

/-- A core that waits to be released: its gang, and the cycle of the request (R24). -/
structure StartReq where
  core : Nat
  gang : Nat
  cycle : Nat
  deriving DecidableEq, Repr

/-- The start sequencer of a die (R24, R26): the queue, the cycle plus one of its last start, and that of the last core that left reset; 0 for
none; and the cycle from which its cores leave reset. -/
structure StartSeq where
  queue : List StartReq
  last : Nat
  left : Nat
  since : Nat
  deriving DecidableEq, Repr

/-- A copy-engine command in a channel slot (R157 to R162): the descriptor of its destination ring, as its core names it; the operation
of its line; whether it uses circuits, once that is chosen (R139), the number of its next line, and the offset from which it runs. -/
structure SlotCmd where
  core : Nat
  cmd : CopyCmd
  ring : Nat
  line : Option Nat
  lineLen : Nat
  writing : Bool
  status : Status
  stopped : Option Nat
  mapLine : Option Nat
  circuit : Option Bool
  index : Nat
  first : Nat
  deriving DecidableEq, Repr

/-- A copy channel (R157): slots in use, keyed by slot number, and the round-robin position. -/
structure Channel where
  slots : Sparse (Option SlotCmd)
  next : Nat
  deriving DecidableEq, Repr

/-- A fault-queue entry (R401). `away` names the stream of a gang that is switched out: the gang, and 4 × the core's place + the cluster
(R404). -/
structure FaultEntry where
  seq : BitVec 32
  kind : Nat
  cause : Nat
  cl : Cluster
  parks : Bool
  reg : Nat
  asid : Nat
  core : Nat
  pipe : Nat
  addr : Nat
  pc : Nat
  cur : Nat
  aux : Nat
  rwr : List Byte
  aux2 : Nat
  stream : Option StreamId
  away : Option (Nat × Nat)
  acked : Bool
  deriving DecidableEq, Repr

/-- The fault queue of a die (R400 to R404); `restarted` is the cycle plus one of its last restart of a stream, 0 for none. -/
structure FaultQueue where
  next : BitVec 32
  posted : List FaultEntry
  held : List FaultEntry
  batches : List (List (BitVec 32))
  restarted : Nat
  deriving DecidableEq, Repr

/-- What an optical port is doing (R136, R137, R144): training attempts failed; when the attempt (in ns of `ltime`), the drain, or the period
of the lane check (in cycles) began; and the step of the attempt, with its start. -/
structure PortRun where
  tries : Nat
  since : Nat
  step : Nat
  stepSince : Nat
  deriving DecidableEq, Repr

/-- A telemetry latch (R145): the port, the stream that waits for it, and the value of `tsnap` once it has been made for a stream. -/
structure LatchReq where
  port : Nat
  stream : Option StreamId
  result : Option Word
  deriving DecidableEq, Repr

/-- The optical side of a die (07_optical.md): port runs, and the latches requested, in order. -/
structure Optical where
  ports : Sparse PortRun
  latches : List LatchReq
  deriving DecidableEq, Repr

/-- An entry of the sequence cache (R101): the directory's capability and a copy of the first 1,040 bytes of page 0. -/
structure SeqEntry where
  asid : Nat
  seq : Nat
  cap : BitVec 128
  bytes : List Byte
  deriving DecidableEq, Repr

/-- A compute die; `window` is the cycle at which the window of its access counters began (R89). -/
structure Die where
  mem : Memory
  poison : List Nat
  commons : Memory
  csr : Sparse Word
  cores : Sparse Core
  tlb : List TlbEntry
  walkCache : List WalkEntry
  counts : List AccessCount
  torus : Torus
  pool : Pool
  optical : Optical
  seqCache : List SeqEntry
  kvinvOps : List Nat
  channels : Sparse Channel
  faults : FaultQueue
  start : StartSeq
  window : Nat
  inReset : Bool
  deriving DecidableEq, Repr

/-! ## Operations in flight -/

/-- What a walker has been answered (R77, R130): the physical address that it read, 2^49 plus the die number that it probed, or 2^50 plus the
address of the entry whose accessed bit it set; the status and the value. -/
structure WalkAnswer where
  key : Nat
  st : Status
  value : Nat
  deriving DecidableEq, Repr

/-- Where an operation's result goes when it completes. A walker's request serves the walk of an ASID and address for the
access that asks for it, after the answers given; the walk starts afresh where an invalidation has met it (R77, R85). `apart` is a request
of the package itself that nothing waits for: a probe after power-up, a done word. -/
inductive Dest where
  | none
  | x (n : Nat)
  | queue (q : Nat)
  | v (vd : Nat) (mask : Word)
  | k (kd : Nat)
  | tile (z : Nat)
  | spad (addr : Nat)
  | line (n : Nat)
  | copy
  | flag (stream : Nat)
  | probe
  | attn (zd stage : Nat)
  | plane
  | node
  | walk (asid va : Nat) (who : Asker) (again : Bool) (got : List WalkAnswer)
  | apart
  deriving DecidableEq, Repr

/-- What a memory access does at its target; `bank` combines elements at a Commons (R284). -/
inductive Req where
  | read
  | write
  | amo (aop : Nat) (size : Nat) (x : Nat)
  | cas (size : Nat) (e n : Nat)
  | bank (fmt op : Nat)
  | flag (add : BitVec 32) (stream : Nat) (phase : Bool) (gen : BitVec 4) (n : Nat)
  | probe
  deriving DecidableEq, Repr

/-- How far a part of an access is. -/
inductive PartState where
  | todo
  | sent (tag : Nat)
  | done (st : Status)
  deriving DecidableEq, Repr

/-- A part of an access that lies in one line of one die (R81, R87): its place in local memory or, where `com` holds, in the Commons; its
bytes' offset in the operation's buffer, or the places (offset in the part, offset in the buffer, length) of those that are wanted of it;
the page's `order`, the incarnation of the translation, its virtual address, the address that a failure reports, and the counted stream
it belongs to. -/
structure Part where
  die : Nat
  com : Bool
  addr : Nat
  off : Nat
  len : Nat
  segs : List (Nat × Nat × Nat)
  order : Nat
  inc : BitVec 16
  va : Nat
  rep : Nat
  fs : Option Nat
  st : PartState
  deriving DecidableEq, Repr

/-- What an operation does at one pool page, or the line of the map unit whose fill or write-back (`back`) it waits for (R277): wait until loads can proceed, or
until nothing of the page is pending (R362); store one line; take, release or hand over a lease (R274); fetch the page (R270); pin it for
a round that reads its first bytes of K and of V (R116); copy it to another page of its object (R111). -/
inductive TaskKind where
  | mapLine (n : Nat) (back : Bool)
  | ready
  | settled
  | store (off : Nat) (bytes : List Byte)
  | lease (x : Bool)
  | release
  | handover (succ : Nat)
  | fetch (spad : Option Nat)
  | pages (bytes : Nat)
  | copyTo (pidx : Nat)
  deriving DecidableEq, Repr

/-- How far a task is: waiting for the frame, with write-throughs or another request outstanding, or done with a status. -/
inductive TaskState where
  | waiting
  | requested (n : Nat)
  | done (st : Status)
  deriving DecidableEq, Repr

/-- A task at one pool page. `leaf` is the channel that a Sward fill takes (R104), `passed` the frames that the sweeper has passed since it
began to wait for a frame (R64). -/
structure Task where
  obj : Nat
  pidx : Nat
  kind : TaskKind
  leaf : Option Nat
  passed : Nat
  st : TaskState
  deriving DecidableEq, Repr

/-- The stages of `kvgrow` (R111). -/
inductive GrowPhase where
  | pair
  | copy (j : Nat)
  | record
  | release (j : Nat)
  | finished (st : Status)
  deriving DecidableEq, Repr

/-- A slab growth (R111): the sequence, the layer, the slabs, and its phase. -/
structure Grow where
  asid : Nat
  seq : Nat
  layer : Nat
  oldBase : Nat
  newBase : Nat
  lc : Nat
  rot : Nat
  heads : Nat
  tokens : Nat
  pair : Nat
  phase : GrowPhase
  deriving DecidableEq, Repr

/-- An operation sent and not completed: a memory access, a pool access, a flag, or a slab growth (R258). `engine` holds for those that
belong to no stream's program order: accesses of the copy engine, the walkers, the configuration loader and the command processor (R348,
R359), and the fills of pages that an instruction waits for before it issues. -/
structure Op where
  id : Nat
  owner : StreamId
  engine : Bool
  plain : Bool
  preg : Nat
  acq : Bool
  rel : Bool
  so : Bool
  dest : Dest
  size : Nat
  req : Req
  parts : List Part
  tasks : List Task
  cap : BitVec 128
  data : Memory
  grow : Option Grow
  faultAddr : Nat
  asid : Nat
  circ : Option Nat
  deriving DecidableEq, Repr

/-! ## Command processor -/

/-- A node of a running step (R389): waiting for its predecessors; a launch node whose record has been read; one whose pipeline has been
admitted; a node whose access is under way, or waits for a walk; a circuit change at a step since a time, with the ports that take part (R141); a hand-over; ended with a status
and not yet completed; ended, with copy commands (core, serial number) of its pipeline still to be done; completed; skipped. -/
inductive NodeState where
  | pending
  | candidate (launch : List Byte)
  | running (gang : Nat)
  | access (op : Option Nat)
  | circuit (stage since : Nat) (st : Status) (op : Option Nat) (ports : List (DieId × Nat))
  | lending (op : Nat)
  | ended (st : Status)
  | closing (st : Status) (left : List (Nat × Nat))
  | done (st : Status)
  | skipped
  deriving DecidableEq, Repr

/-- A step in progress on a queue (R387, R388): the physical address of its record, its nodes as they were read, and their states. -/
structure StepRun where
  addr : Nat
  number : Nat
  asid : Nat
  recs : List (List Byte)
  nodes : List NodeState
  deriving DecidableEq, Repr

/-- A step record that is being read (R387, R388): its address, the pieces that have come (header, nodes, schedule image), and the read that
is under way. -/
structure StepFetch where
  addr : Nat
  got : List (List Byte)
  op : Nat
  deriving DecidableEq, Repr

/-- A command queue as the CP holds it (R387): the descriptor as the last doorbell read it, with the fields that the CP writes kept up,
the step that is being read, and the step in progress. -/
structure QueueRun where
  base : Nat
  lgn : Nat
  en : Bool
  floor : Nat
  head : Nat
  state : Nat
  tail : Nat
  miss : Nat
  lstep : Nat
  lstat : Nat
  fetch : Option StepFetch
  run : Option StepRun
  deriving DecidableEq, Repr

/-- An armed barrier (R282): level (0 stage, 1 pipeline), stage, id, its count, the cores that have arrived and wait, and whether it
flips the route banks. -/
structure Barrier where
  level : Nat
  stage : Nat
  id : Nat
  need : Nat
  got : Nat
  waiting : List Nat
  members : List Nat
  flip : Bool
  deriving DecidableEq, Repr

/-- A stage of a pipeline (R367). -/
structure Stage where
  plane : Nat
  min : Nat
  max : Nat
  cores : List Nat
  deriving DecidableEq, Repr

/-- The last two samples of a ring (R378): whether `filled` was 0 and whether `free` was 0. -/
structure RingSample where
  empty : Bool
  full : Bool
  empty' : Bool
  full' : Bool
  deriving DecidableEq, Repr

/-- Where a gang stands: its planes load, it runs, it is saved in a context record, or its planes load for a restore. -/
inductive GangPhase where
  | loading
  | running
  | saved
  | restoring
  deriving DecidableEq, Repr

/-- A core of a gang that is switched out: its stage, package index at the save, form (R411), the offset and length of its record, what the
record does not hold of it, and the slab growths that its streams wait for (operation, cluster). -/
structure SavedCore where
  stage : Nat
  index : Nat
  form : Nat
  offset : Nat
  length : Nat
  core : Core
  grows : List (Nat × Nat)
  deriving DecidableEq, Repr

/-- A pipeline admitted (R367): the queue and node it came from, its launch record, its stages, window, the dies of its rings, flag file, barriers and
pre-emption: the cycle of the request, whether the save is forced, and the units of the context pool taken for it (first, count); `evaluated` is the cycle plus one of the last evaluation of R378, 0 for none. -/
structure Gang where
  id : Nat
  order : Nat
  queue : Nat
  node : Nat
  record : Nat
  launch : List Byte
  asid : Nat
  prio : Nat
  pdl : Nat
  cmBase : Nat
  cmLen : Nat
  stages : List Stage
  phase : GangPhase
  flags : Sparse (BitVec 32)
  barriers : List Barrier
  request : Option Nat
  forced : Bool
  ctx : Nat × Nat
  saved : List SavedCore
  ringDies : List DieId
  samples : Sparse RingSample
  evaluated : Nat
  chain : Option Nat
  trailing : List (Nat × Nat)
  deriving DecidableEq, Repr

/-- The command processors of the package (18_execution.md, 19_scheduling.md): queues by number, gangs, the number of the next gang and
of the next admission, the (queue, node) that has won a draw and is not yet admitted (R394), and what walks that CP accesses waited for have found, by die. -/
structure Sched where
  queues : Sparse QueueRun
  gangs : List Gang
  nextGang : Nat
  won : Option (Nat × Nat)
  walked : List (DieId × Walked)
  deriving DecidableEq, Repr

/-! ## Host, power and security -/

/-- What the package has told the outside: interrupts by die and reason, hart loads and access faults, switch requests, attestation
reports (R405, R450, R451, R454, R141), recalls acknowledged (R58), the bytes of packets that have left over a link (R124, R127), and frames
that have left over the management port (R452). -/
inductive HostNote where
  | sent (die : DieId) (link : Nat) (bytes : List Byte)
  | interrupt (die : DieId) (reason : String)
  | recallAck (die : DieId) (obj pidx : Nat)
  | switchRequest (bytes : List Byte)
  | loaded (bytes : List Byte)
  | accessFault
  | report (bytes : List Byte)
  | noIdentity
  | frame (bytes : List Byte)
  deriving DecidableEq, Repr

/-- How far power-up has come (R457): off, in a row of the table, stopped at one, in recovery, or done. -/
inductive PowerStage where
  | off
  | row (n : Nat)
  | stopped (n : Nat)
  | recovery
  | done
  deriving DecidableEq, Repr

/-- The host, power and security side of the package (24_system.md); `rowSince` is the `ltime` at which the row of power-up in progress began
(R457). The flash slots hold images (none: a slot that fails, R455), `flashing` is the write of a slot under way; `running` is the image that
the boot ROM has accepted. The fuses hold `keyDigests`, `keysRevoked`, `rollback` and `mac` (R452, R453); `romKeys` are the public keys that the
boot ROM has to check a signature with (log 80). `identity` says which drawing of the identity key the monitor holds (R454), none once it is
erased, and `drawn` counts the drawings. `resetting` marks a package reset by an alarm that has not brought the package up again (R455). -/
structure System where
  power : PowerStage
  rowSince : Nat
  slotA : Option (List Byte)
  slotB : Option (List Byte)
  flashing : Option (Bool × List Byte)
  recovery : Option (List Byte)
  running : Option (List Byte)
  rollback : BitVec 64
  keyDigests : List (Option (List Byte))
  keysRevoked : BitVec 4
  romKeys : List (List Byte)
  mac : BitVec 48
  received : List (List Byte)
  identity : Option Nat
  drawn : Nat
  attest : Option (BitVec 256)
  resetting : Bool
  settled : Nat
  notes : List HostNote
  deriving DecidableEq, Repr

/-- What moves next, as plain data (log 2): a step, a stream's next instruction, the passing of time in core cycles and in nanoseconds of
the package oscillator (log 3); and what the opcode table has no event for (DESIGN CHOICE, log 77): a hart's access at a host physical
address (R450, R451), an error of a die's memory that is corrected or poisons a line (R150), a laser module's new temperature (R143), another
package's setting of its `memsplit` (R15, log 56), a frame that comes or leaves over the management port, or that the host takes (R452), the
beginning and the end of a write of a flash slot (R455; slot B where `b`), the revocation of a signing key (R453), and the reprovisioning of the
package (R455). -/
inductive Turn where
  | event (i : Instr)
  | stream (id : StreamId)
  | time (cycles ns : Nat)
  | hart (addr : Nat) (what : HartAccess)
  | corrected (die : DieId)
  | poisoned (die : DieId) (line : Nat)
  | moduleTemp (die : DieId) (laser : Fin 4) (degrees : Byte)
  | otherSplit (num : Fin 384) (gib : Fin 321)
  | frameIn (bytes : List Byte)
  | frameOut (bytes : List Byte)
  | frameTaken
  | flashBegin (b : Bool) (image : List Byte)
  | flashEnd
  | revokeKey (key : Fin 4)
  | reprovision
  deriving DecidableEq, Repr

/-- One K7 package. -/
structure State where
  die0 : Die
  die1 : Die
  ops : List Op
  nextOp : Nat
  invals : List Invalidation
  sched : Sched
  sys : System
  cycle : Nat
  fresh : Nat
  agenda : List Turn
  focus : StreamId
  deriving DecidableEq, Repr

/-! ## What unlisted entries read as: the reset values -/

/-- A steer register after reset (R217). -/
def Steer.reset : Steer := ⟨false, false, 0⟩

/-- `athr` after reset: `w` = 20 in bits [53:48] (R204). -/
def athrReset : Word := BitVec.ofNat 64 (20 * 2 ^ 48)

/-- Cluster CSRs after reset: `lfsr` is 1 (R194), `athr0` to `athr7` have `w` = 20 (R204), the others 0. -/
def clusterCsrReset (n : Nat) : Word := if n = 2 then 1 else if 0x10 ≤ n ∧ n ≤ 0x17 then athrReset else 0

/-- Core CSRs after reset: `rwperm` is 1 (R227), the others 0; `coreid` is computed where it is read (R226). -/
def coreCsrReset (n : Nat) : Word := if n = 0x43 then 1 else 0

/-- Die and package CSRs after reset (die `d`), each as its field map states; `tinc` and `seed` come from a random source and are 1 here
(log 8); a laser module is present (log 9). -/
def dieCsrReset (d : Nat) (n : Nat) : Word :=
  if n < 0x120 then
    match n with
    | 0x100 => 256
    | 0x104 => BitVec.ofNat 64 (24 * 2 ^ 24 + 4096)
    | 0x108 => BitVec.ofNat 64 (2 ^ 20 + d * 2 ^ 11 + d)
    | 0x109 => 1
    | 0x10A => BitVec.ofNat 64 (0xFFFF * 2 ^ 8 + 1)
    | 0x10E => 24
    | 0x110 => 30
    | 0x113 => BitVec.ofNat 64 (4 * 2 ^ 20 + 20000)
    | 0x115 => BitVec.ofNat 64 (32 * 2 ^ 8 + 16)
    | 0x116 => 4
    | 0x117 => BitVec.ofNat 64 (2 * 2 ^ 8 + 2)
    | 0x119 => BitVec.ofNat 64 (2 ^ 20)
    | 0x11A => BitVec.ofNat 64 (24 * 2 ^ 8 + 3)
    | 0x11D => 1
    | 0x11E => BitVec.ofNat 64 (2 ^ 8 + 16)
    | 0x11F => BitVec.ofNat 64 (10 * 2 ^ 4)
    | _ => 0
  else if 0x130 ≤ n ∧ n ≤ 0x133 then BitVec.ofNat 64 (2 ^ 8)
  else if n = 0x160 then 48000
  else if n = 0x161 then 100000
  else if 0x170 ≤ n ∧ n ≤ 0x179 then 4
  else 0

/-- A route-table entry after reset: `v` = 1, every direction shortest (R123). -/
def routeReset : Nat → Byte := fun _ => 0x80

/-- The cluster stream of a core that has left reset and fetched nothing (R26, R393); log 7 for the registers without a reset value. -/
def ClusterState.reset : ClusterState :=
  { pc := 0, run := .idle, stack := [], x := [], g := [], p := [], busy := [], hold := none, join := .none, issued := false, wait := none,
    fromPrev := 0, fromNext := 0, signals := [], csr := [], streams := 0 }

/-- A plane that is not loaded (log 7). -/
def Plane.empty : Plane := ⟨[], 0, false⟩

/-- An untagged k register whose fields are 0 (R29). -/
def Cap.empty : Cap := ⟨0, false⟩

/-- A core after power-up: out of reset, not launched (R26; log 6, log 7). -/
def Core.reset : Core :=
  { ca := ClusterState.reset, cm := ClusterState.reset, cv := ClusterState.reset, cd := ClusterState.reset,
    regs := { k := [], v := [], m := [], z := [], rg := [], frame := none, cursor := 0, twiddle := 0, heldWord := 0, heldDest := 0,
              bypass := 0, bypassFrom := 0, bypassPc := 0, bypassDepth := 0, begun := none, restarted := false, raised := false, fresh := false },
    store := { spad := [], lines := [], l1 := [], queues := [], fq := [], fqClosed := false, rings := [], copies := [], copyFaults := [], copyLast := [], utlb := [], walked := [], old := [] },
    ctl := { outOfReset := true, released := false, joinSet := 15, ruleMask := BitVec.allOnes 64, active := Plane.empty,
             shadow := Plane.empty, load := none, shadowFor := none, loadFailed := false, swapToken := false, drain := false, badRule := none,
             rulesOff := 0, gang := none, stage := 0 },
    ex := { entry := [], latch := [], pending := [], deferred := [] },
    csr := [] }

/-- A free frame: every field of its lease record 0 (R50). -/
def Lease.free : Lease :=
  { obj := 0, pidx := 0, st := .free, epoch := 0, dline := 0, pend := 0, fgen := 0, kind := .none, a := false, own := false, pin := 0,
    pf := false, prom := false, lyr := 0, stp := 0, ldur := 0, eng := 0, types := [] }

/-- A channel's sweeper at rest (log 7). -/
def Sweeper.reset : Sweeper := ⟨0, [], false⟩

/-- A flag stream at its source (R132). -/
def SourceStream.reset : SourceStream := ⟨false, 0, 0, 0, false, false⟩

/-- A flag stream at its destination (R132; log 7). -/
def DestStream.reset : DestStream := ⟨0, 0, 0, []⟩

/-- An idle port (R136). -/
def PortRun.reset : PortRun := ⟨0, 0, 1, 0⟩

/-- An idle copy channel (R157). -/
def Channel.reset : Channel := ⟨[], 0⟩

/-- An idle queue of the command processor (R387). -/
def QueueRun.reset : QueueRun :=
  { base := 0, lgn := 0, en := false, floor := 0, head := 0, state := 0, tail := 0, miss := 0, lstep := 0, lstat := 0, fetch := none, run := none }

/-- A die after power-up. -/
def Die.reset : Die :=
  { mem := [], poison := [], commons := [], csr := [], cores := [], tlb := [], walkCache := [], counts := [],
    torus := { route := [], peers := [], limits := [], gens := [], tags := [], sources := [], dests := [], router := [] },
    pool := { frames := [], gens := [], reqs := [], waiting := [], made := 0, sweepers := [], started := false, pfAt := none },
    optical := { ports := [], latches := [] }, seqCache := [], kvinvOps := [], channels := [],
    faults := { next := 0, posted := [], held := [], batches := [], restarted := 0 }, start := { queue := [], last := 0, left := 0, since := 0 }, window := 0, inReset := false }

/-- The machine right after reset: the package when its power-up sequence has completed (R457; log 6), every register at its reset
value, no memory written, no work queued. -/
def State.reset : State :=
  { die0 := Die.reset, die1 := Die.reset, ops := [], nextOp := 0, invals := [],
    sched := { queues := [], gangs := [], nextGang := 0, won := none, walked := [] },
    sys := { power := .done, rowSince := 0, slotA := none, slotB := none, flashing := none, recovery := none, running := none, rollback := 0,
             keyDigests := [], keysRevoked := 0, romKeys := [], mac := 0, received := [], identity := some 0, drawn := 1, attest := none,
             resetting := false, settled := 0, notes := [] },
    cycle := 0, fresh := 0, agenda := [], focus := ⟨⟨0, 0⟩, .a⟩ }

/-! ## Selection and replacement: the one way to a die, a core and a stream -/

/-- A die of the package. -/
def State.die (s : State) (d : DieId) : Die := if d = 0 then s.die0 else s.die1

/-- The package with a die replaced. -/
def State.setDie (s : State) (d : DieId) (x : Die) : State := if d = 0 then { s with die0 := x } else { s with die1 := x }

/-- A core of a die. -/
def Die.core (d : Die) (n : Nat) : Core := Sparse.get (fun _ => Core.reset) d.cores n

/-- A die with a core replaced. -/
def Die.setCore (d : Die) (n : Nat) (c : Core) : Die := { d with cores := Sparse.set (fun _ => Core.reset) d.cores n c }

/-- A core of the package. -/
def State.core (s : State) (c : CoreId) : Core := (s.die c.die).core c.core.val

/-- The package with a core replaced. -/
def State.setCore (s : State) (c : CoreId) (x : Core) : State := s.setDie c.die ((s.die c.die).setCore c.core.val x)

/-- A cluster of a core. -/
def Core.cluster (c : Core) : Cluster → ClusterState
  | .a => c.ca | .m => c.cm | .v => c.cv | .d => c.cd

/-- A core with a cluster replaced. -/
def Core.setCluster (c : Core) (k : Cluster) (x : ClusterState) : Core :=
  match k with
  | .a => { c with ca := x } | .m => { c with cm := x } | .v => { c with cv := x } | .d => { c with cd := x }

/-- The state of a stream. -/
def State.stream (s : State) (i : StreamId) : ClusterState := (s.core i.core).cluster i.cl

/-- The package with a stream's state replaced. -/
def State.setStream (s : State) (i : StreamId) (x : ClusterState) : State := s.setCore i.core ((s.core i.core).setCluster i.cl x)

/-- The executing core: the core of the stream in focus. -/
def State.cur (s : State) : Core := s.core s.focus.core

/-- The executing stream's state. -/
def State.me (s : State) : ClusterState := s.stream s.focus

/-- The package with the executing core replaced. -/
def State.setCur (s : State) (c : Core) : State := s.setCore s.focus.core c

/-- The package with the executing stream's state replaced. -/
def State.setMe (s : State) (x : ClusterState) : State := s.setStream s.focus x

/-- The executing stream's die. -/
def State.here (s : State) : Die := s.die s.focus.core.die

/-- The other die of the package. -/
def DieId.other (d : DieId) : DieId := if d = 0 then 1 else 0

/-- A die or package CSR (R225): numbers 0x160 to 0x179 are of package scope and live on die 0. -/
def packageScope (n : Nat) : Bool := decide (0x160 ≤ n) && decide (n ≤ 0x17F)

/-- The value of a die CSR as it is stored. -/
def Die.reg (d : Die) (num n : Nat) : Word := Sparse.get (dieCsrReset num) d.csr n

/-- The value of a die or package CSR as it is stored. -/
def State.dieReg (s : State) (d : DieId) (n : Nat) : Word :=
  if packageScope n then s.die0.reg 0 n else (s.die d).reg d.val n

/-- Store a die or package CSR. -/
def State.setDieReg (s : State) (d : DieId) (n : Nat) (v : Word) : State :=
  let k : DieId := if packageScope n then 0 else d
  s.setDie k { s.die k with csr := Sparse.set (dieCsrReset k.val) (s.die k).csr n v }

/-- A core CSR as it is stored. -/
def Core.reg (c : Core) (n : Nat) : Word := Sparse.get coreCsrReset c.csr n

/-- A core with a CSR stored. -/
def Core.setReg (c : Core) (n : Nat) (v : Word) : Core := { c with csr := Sparse.set coreCsrReset c.csr n v }

/-- A cluster CSR as it is stored. -/
def ClusterState.reg (c : ClusterState) (n : Nat) : Word := Sparse.get clusterCsrReset c.csr n

/-- A cluster with a CSR stored. -/
def ClusterState.setReg (c : ClusterState) (n : Nat) (v : Word) : ClusterState :=
  { c with csr := Sparse.set clusterCsrReset c.csr n v }

end Sys2Proof.Machine
end

