-- ==== Sys2Proof/Machine/Flags.lean ====
section
/-!
DEFINITION. Arithmetic flags and the counters of retirement (R203 to R205).
-/

namespace Sys2Proof.Machine

/-- The classes of R203, as a mask of eight bits: bit c is class c. -/
abbrev Classes := BitVec 8

def Classes.invalid : Classes := 1
def Classes.divZero : Classes := 2
def Classes.overflow : Classes := 4
def Classes.underflow : Classes := 8
def Classes.inexact : Classes := 16
def Classes.saturated : Classes := 32
def Classes.flushed : Classes := 64
def Classes.mxOverflow : Classes := 128

/-- Raise flags: `sticky` gains them (R203). -/
def ClusterState.raise (c : ClusterState) (cs : Classes) : ClusterState :=
  if cs = 0 then c else c.setReg 0 (c.reg 0 ||| cs.setWidth 64)

/-- A counter half of 32 bits gains 1 and saturates (R205). -/
def gain32 (n : Nat) : Nat := min (n + 1) (2 ^ 32 - 1)

/-- The counter of a class, `tot` above `win`, after one more of it (R205). -/
def counted (w : Word) : Word := BitVec.ofNat 64 (gain32 (field w 32 32) * 2 ^ 32 + gain32 (field w 0 32))

/-- `win` has just become `thr` + 1 (R205). -/
def actionDue (w t : Word) : Bool := decide (gain32 (field w 0 32) ≠ field w 0 32 ∧ gain32 (field w 0 32) = field t 0 32 + 1)

/-- The action of a class (R204): 1 sets `pend`; 2 asks for a host interrupt. -/
def ClusterState.act (c : ClusterState) (action : Nat) : ClusterState × Bool :=
  if action = 1 then (c.setReg 0 (setBit (c.reg 0) 16 true), false) else (c, action == 2)

/-- Step 1 of R205 for one class: `tot` and `win` gain 1, saturating; the action is taken when `win` becomes `thr` + 1. The answer says
whether the host interrupt of action 2 is due. -/
def ClusterState.countClass (c : ClusterState) (k : Nat) : ClusterState × Bool :=
  let w := c.reg (8 + k)
  let t := c.reg (0x10 + k)
  let e := c.setReg (8 + k) (counted w)
  if actionDue w t then e.act (field t 62 2) else (e, false)

/-- Step 1 of R205 for every class raised; the classes whose host interrupt is due are listed. -/
def ClusterState.countClasses (c : ClusterState) (cs : Classes) : ClusterState × List Nat :=
  (List.range 8).foldl
    (fun (r : ClusterState × List Nat) k =>
      if cs.getLsbD k then
        let (c, due) := r.1.countClass k
        (c, if due then r.2 ++ [k] else r.2)
      else r)
    (c, [])

/-- Steps 2 and 3 of R205: `aret` gains 1, and the window counter of each class whose window ends is cleared. -/
def ClusterState.advanceRet (c : ClusterState) : ClusterState :=
  let n := c.reg 3 + 1
  (List.range 8).foldl
    (fun c k =>
      let w := field (c.reg (0x10 + k)) 48 6
      if n.toNat % 2 ^ w = 0 then c.setReg (8 + k) (setField (c.reg (8 + k)) 0 32 0) else c)
    (c.setReg 3 n)

end Sys2Proof.Machine
end

