-- ==== Sys2Proof/Machine/Float.lean ====
section
/-!
DEFINITION. Number formats and exact arithmetic (10_formats.md): the element formats, the rounding of R191 and R192, flushing, the
stochastic generator, and exp2x and log2x.  A finite value is (−1)^s × m × 2^e with m a natural number: every sum and product is exact.
-/

namespace Sys2Proof.Machine

/-! ## Exact values -/

/-- An exact value: NaN, an infinity, or (−1)^neg × m × 2^e. -/
inductive Ext where
  | nan
  | inf (neg : Bool)
  | fin (neg : Bool) (m : Nat) (e : Int)
  deriving DecidableEq, Repr

/-- +0. -/
def Ext.zero : Ext := .fin false 0 0
/-- 1. -/
def Ext.one : Ext := .fin false 1 0

/-- 2 to an integer power that is not negative, else 1. -/
def pow2 (k : Int) : Nat := 2 ^ k.toNat

/-- The number of bits of a natural number. -/
def bitsOf (m : Nat) : Nat := if m = 0 then 0 else Nat.log2 m + 1

/-- A value is NaN. -/
def Ext.isNan : Ext → Bool
  | .nan => true
  | _ => false

/-- A value is zero. -/
def Ext.isZero : Ext → Bool
  | .fin _ m _ => m == 0
  | _ => false

/-- A value's sign bit; a NaN has none. -/
def Ext.sign : Ext → Bool
  | .nan => false
  | .inf n => n
  | .fin n _ _ => n

/-- The value with its sign inverted. -/
def Ext.neg : Ext → Ext
  | .nan => .nan
  | .inf n => .inf (!n)
  | .fin n m e => .fin (!n) m e

/-- The value times 2^k. -/
def Ext.scale (k : Int) : Ext → Ext
  | .fin n m e => .fin n m (e + k)
  | x => x

/-- A finite value as a signed integer in units of 2^e0, e0 not above its exponent. -/
def scaled (neg : Bool) (m : Nat) (e e0 : Int) : Int :=
  let v : Int := (m * pow2 (e - e0) : Nat)
  if neg then -v else v

/-- Exact sum (R198, IEEE 754 for infinities and zeros), and whether it created a NaN. -/
def Ext.add : Ext → Ext → Ext × Bool
  | .nan, _ => (.nan, false)
  | _, .nan => (.nan, false)
  | .inf a, .inf b => if a = b then (.inf a, false) else (.nan, true)
  | .inf a, _ => (.inf a, false)
  | _, .inf b => (.inf b, false)
  | .fin a m e, .fin b n f =>
    let e0 := min e f
    let v := scaled a m e e0 + scaled b n f e0
    (if v = 0 then .fin (a && b) 0 e0 else .fin (decide (v < 0)) v.natAbs e0, false)

/-- Exact product, and whether it created a NaN: 0 × ∞. -/
def Ext.mul : Ext → Ext → Ext × Bool
  | .nan, _ => (.nan, false)
  | _, .nan => (.nan, false)
  | .inf a, .inf b => (.inf (a != b), false)
  | .inf a, .fin b m _ => if m = 0 then (.nan, true) else (.inf (a != b), false)
  | .fin a m _, .inf b => if m = 0 then (.nan, true) else (.inf (a != b), false)
  | .fin a m e, .fin b n f => (.fin (a != b) (m * n) (e + f), false)

/-- x < y for values that are not NaN; zeros of either sign are equal. -/
def Ext.lt : Ext → Ext → Bool
  | .nan, _ => false
  | _, .nan => false
  | .inf a, .inf b => a && !b
  | .inf a, _ => a
  | _, .inf b => !b
  | .fin a m e, .fin b n f => let e0 := min e f; decide (scaled a m e e0 < scaled b n f e0)

/-- x = y as numbers. -/
def Ext.eq (x y : Ext) : Bool := !x.isNan && !y.isNan && !x.lt y && !y.lt x

/-- The smaller value, −0 below +0 (R199); NaN where an operand is NaN. -/
def Ext.min (x y : Ext) : Ext :=
  if x.isNan || y.isNan then .nan else if x.lt y then x else if y.lt x then y else if x.sign then x else y

/-- The larger value, +0 above −0 (R199). -/
def Ext.max (x y : Ext) : Ext :=
  if x.isNan || y.isNan then .nan else if x.lt y then y else if y.lt x then x else if x.sign then y else x

/-- The magnitude. -/
def Ext.abs : Ext → Ext
  | .nan => .nan
  | .inf _ => .inf false
  | .fin _ m e => .fin false m e

/-! ## Formats (R181 to R187) -/

/-- What a float format has besides finite values: infinities and NaNs, E4M3's one NaN, or neither (R182). -/
inductive Specials where
  | ieee | e4m3 | none
  deriving DecidableEq, Repr

/-- A floating-point element format. -/
structure FloatFmt where
  eb : Nat
  mb : Nat
  bias : Nat
  sp : Specials
  deriving DecidableEq, Repr

/-- FP32. -/
def fp32 : FloatFmt := ⟨8, 23, 127, .ieee⟩
/-- BF16. -/
def bf16 : FloatFmt := ⟨8, 7, 127, .ieee⟩

/-- The float format of a code's elements (R181, R182); INT codes have none. -/
def floatFmt (code : Nat) : FloatFmt :=
  match code with
  | 1 => ⟨5, 10, 15, .ieee⟩
  | 2 => bf16
  | 3 => ⟨4, 3, 7, .e4m3⟩
  | 5 => ⟨4, 3, 7, .e4m3⟩
  | 4 => ⟨5, 2, 15, .ieee⟩
  | 6 => ⟨5, 2, 15, .ieee⟩
  | 7 => ⟨3, 2, 3, .none⟩
  | 8 => ⟨2, 3, 1, .none⟩
  | 9 => ⟨2, 1, 1, .none⟩
  | 13 => ⟨2, 1, 1, .none⟩
  | _ => fp32

/-- Element bits of a code (R181). -/
def elemBits (code : Nat) : Nat :=
  match code with
  | 0 | 14 => 32
  | 1 | 2 => 16
  | 7 | 8 => 6
  | 9 | 12 | 13 => 4
  | _ => 8

/-- The code's elements are integers (R186, R187). -/
def isInt (code : Nat) : Bool := code == 10 || code == 11 || code == 12 || code == 14

/-- The code is a block format: MX or PINT (R181). -/
def isBlock (code : Nat) : Bool := (5 ≤ code && code ≤ 10) || code == 16

/-- The number of elements under one scale. -/
def blockLen (code : Nat) : Nat := if code = 16 then 64 else 32

/-- Decode a float element (R182). -/
def FloatFmt.decode (f : FloatFmt) (w : Nat) : Ext :=
  let m := w % 2 ^ f.mb
  let e := w / 2 ^ f.mb % 2 ^ f.eb
  let s := w / 2 ^ (f.mb + f.eb) % 2 == 1
  let top := 2 ^ f.eb - 1
  if f.sp = .ieee ∧ e = top then (if m = 0 then .inf s else .nan)
  else if f.sp = .e4m3 ∧ e = top ∧ m = 7 then .nan
  else if e = 0 then .fin s m (1 - (f.bias : Int) - f.mb)
  else .fin s (2 ^ f.mb + m) ((e : Int) - f.bias - f.mb)

/-- A code of a float format is a subnormal. -/
def FloatFmt.subnormal (f : FloatFmt) (w : Nat) : Bool :=
  w / 2 ^ f.mb % 2 ^ f.eb == 0 && w % 2 ^ f.mb != 0

/-- The canonical NaN (R183). -/
def FloatFmt.nanCode (f : FloatFmt) : Nat :=
  match f.sp with
  | .ieee => (2 ^ f.eb - 1) * 2 ^ f.mb + 2 ^ (f.mb - 1)
  | .e4m3 => 0x7F
  | .none => 0

/-- The code of infinity, sign aside. -/
def FloatFmt.infCode (f : FloatFmt) : Nat := (2 ^ f.eb - 1) * 2 ^ f.mb

/-- The code of the largest finite magnitude. -/
def FloatFmt.maxCode (f : FloatFmt) : Nat :=
  match f.sp with
  | .ieee => f.infCode - 1
  | .e4m3 => 0x7E
  | .none => 2 ^ (f.eb + f.mb) - 1

/-- A code with its sign bit. -/
def FloatFmt.signed (f : FloatFmt) (neg : Bool) (c : Nat) : Nat := if neg then c + 2 ^ (f.eb + f.mb) else c

/-! ## Rounding (R190 to R194) -/

/-- Round m / 2^sh to an integer by a mode (R190); `d` is the draw of R192. The answer says whether it is exact. -/
def roundShift (mode d : Nat) (neg : Bool) (m sh : Nat) : Nat × Bool :=
  let q := m / 2 ^ sh
  let r := m % 2 ^ sh
  let up := match mode with
    | 0 => decide (2 ^ sh < 2 * r) || (2 * r == 2 ^ sh && q % 2 == 1)
    | 1 => false
    | 2 => !neg
    | 3 => neg
    | _ => decide (2 ^ 16 ≤ r * 2 ^ 16 / 2 ^ sh + d)
  if r = 0 then (q, true) else (if up then q + 1 else q, false)

/-- Round m × 2^e to a multiple of 2^q, in units of 2^q. A shift of more than 40 bits past the top of m rounds as one of 40. -/
def roundTo (mode d : Nat) (neg : Bool) (m : Nat) (e q : Int) : Nat × Bool :=
  if q ≤ e then (m * pow2 (e - q), true) else roundShift mode d neg m (min (q - e).toNat (bitsOf m + 40))

/-- Finite overflow of a float format (R191). -/
def FloatFmt.overflow (f : FloatFmt) (mode : Nat) (sat neg : Bool) : Nat × Classes :=
  match f.sp with
  | .none => (f.signed neg f.maxCode, Classes.saturated ||| Classes.inexact)
  | .e4m3 =>
    if sat then (f.signed neg f.maxCode, Classes.saturated ||| Classes.inexact)
    else (f.nanCode, Classes.overflow ||| Classes.inexact)
  | .ieee =>
    if sat then (f.signed neg f.maxCode, Classes.saturated ||| Classes.inexact)
    else
      let toMax := mode == 1 || (mode == 2 && neg) || (mode == 3 && !neg)
      (f.signed neg (if toMax then f.maxCode else f.infCode), Classes.overflow ||| Classes.inexact)

/-- `rnd` to a float format (R191): the code and the classes raised. -/
def FloatFmt.rnd (f : FloatFmt) (mode d : Nat) (sat zo : Bool) : Ext → Nat × Classes
  | .nan => (f.nanCode, if f.sp = .none then Classes.invalid else 0)
  | .inf s =>
    match f.sp with
    | .ieee => (f.signed s f.infCode, 0)
    | .e4m3 => if sat then (f.signed s f.maxCode, Classes.saturated) else (f.nanCode, Classes.invalid)
    | .none => (f.signed s f.maxCode, Classes.saturated)
  | .fin s m e =>
    if m = 0 then (f.signed s 0, 0)
    else
      let qmin : Int := 1 - (f.bias : Int) - f.mb
      let top : Int := e + bitsOf m - 1
      let q := max (top - f.mb) qmin
      let (k, exact) := roundTo mode d s m e q
      let (k, q) := if k = 2 ^ (f.mb + 1) then (2 ^ f.mb, q + 1) else (k, q)
      let code := if k < 2 ^ f.mb then k else (q - qmin).toNat * 2 ^ f.mb + k
      if f.maxCode < code then f.overflow mode sat s
      else if zo ∧ k ≠ 0 ∧ k < 2 ^ f.mb then (f.signed s 0, Classes.flushed ||| Classes.inexact)
      else
        (f.signed s code,
          if exact then 0 else if k < 2 ^ f.mb ∧ k ≠ 0 then Classes.underflow ||| Classes.inexact else Classes.inexact)

/-- `rnd` to a two's-complement integer of n bits (R191): the value and the classes raised. -/
def rndInt (n mode d : Nat) : Ext → Int × Classes
  | .nan => (0, Classes.invalid)
  | .inf s => (if s then -(2 ^ (n - 1) : Nat) else (2 ^ (n - 1) - 1 : Nat), Classes.invalid)
  | .fin s m e =>
    let (k, exact) := roundTo mode d s m e 0
    let v : Int := if s then -(k : Int) else k
    let hi : Int := (2 ^ (n - 1) - 1 : Nat)
    let lo : Int := -(2 ^ (n - 1) : Nat)
    if v < lo then (lo, Classes.saturated ||| Classes.inexact)
    else if hi < v then (hi, Classes.saturated ||| Classes.inexact)
    else (v, if exact then 0 else Classes.inexact)

/-- `rne32` (R6). -/
def rne32 (x : Ext) : Nat := (fp32.rnd 0 0 false false x).1

/-- A float input with subnormals flushed where `zi` is set (R193). -/
def FloatFmt.input (f : FloatFmt) (zi : Bool) (w : Nat) : Ext × Classes :=
  if zi && f.subnormal w then (.fin (w / 2 ^ (f.mb + f.eb) % 2 == 1) 0 0, Classes.flushed) else (f.decode w, 0)

/-- One step of the generator of R194. -/
def lfsrStep (s : BitVec 32) : BitVec 32 := if s.getLsbD 0 then (s >>> 1) ^^^ 0x80200003 else s >>> 1

/-- `draw` (R194): the new state; the draw is its low 16 bits. -/
def lfsrDraw (s : BitVec 32) : BitVec 32 := Nat.repeat lfsrStep 16 s

/-- The low 16 bits of the generator. -/
def drawn (s : BitVec 32) : Nat := s.toNat % 2 ^ 16

/-! ## Quantisation (R195, R196) -/

/-- emax of a block format's elements (R195, R196). -/
def emaxOf (code : Nat) : Int :=
  match code with
  | 5 => 8
  | 6 => 15
  | 7 => 4
  | 8 => 2
  | 9 => 2
  | 16 => 6
  | _ => 0

/-- floor(log2 |x|) of a finite value other than 0. -/
def Ext.log : Ext → Int
  | .fin _ m e => e + bitsOf m - 1
  | _ => 0

/-- One element of a block: `rnd` of the scaled value, with −128 written as −127 (R186, R195, R196). -/
def quantElem (code mode d : Nat) (zo : Bool) (x : Ext) : Nat × Classes :=
  if code = 10 ∨ code = 16 then
    let (v, c) := rndInt 8 mode d (if code = 10 then x.scale 6 else x)
    if v = -128 then (0x81, c ||| Classes.saturated) else ((v % 256).toNat, c)
  else (floatFmt code).rnd mode d true zo x

/-- `mxquant` (R195) and its PINT form (R196): the scale, the codes and the classes. `ds` are the draws of the elements. -/
def quantBlock (code mode : Nat) (zo : Bool) (xs : List Ext) (ds : List Nat) : Nat × List Nat × Classes :=
  if xs.any fun x => match x with | .fin _ _ _ => false | _ => true then (0xFF, xs.map fun _ => 0, Classes.invalid)
  else
    let a := xs.foldl (fun m x => if m.lt x.abs then x.abs else m) Ext.zero
    if a.isZero then
      (0, xs.map fun x => if code = 10 ∨ code = 16 then 0 else (floatFmt code).signed x.sign 0, 0)
    else
      let e := a.log - emaxOf code
      let (e, c0) := if 127 < e then ((127 : Int), Classes.mxOverflow) else (if e < -127 then -127 else e, 0)
      let es := (xs.zip ds).map fun p => quantElem code mode p.2 zo (p.1.scale (-e))
      ((e + 127).toNat, es.map (·.1), es.foldl (fun c p => c ||| p.2) c0)

/-! ## exp2 and log2 (R201, R202) -/

/-- T[j] = rne32(2^(j/64)) (R201). -/
def tableT : List Nat :=
   [0x3F800000, 0x3F8164D2, 0x3F82CD87, 0x3F843A29, 0x3F85AAC3, 0x3F871F62, 0x3F88980F, 0x3F8A14D5,
    0x3F8B95C2, 0x3F8D1ADF, 0x3F8EA43A, 0x3F9031DC, 0x3F91C3D3, 0x3F935A2B, 0x3F94F4F0, 0x3F96942D] ++
   [0x3F9837F0, 0x3F99E046, 0x3F9B8D3A, 0x3F9D3EDA, 0x3F9EF532, 0x3FA0B051, 0x3FA27043, 0x3FA43516,
    0x3FA5FED7, 0x3FA7CD94, 0x3FA9A15B, 0x3FAB7A3A, 0x3FAD583F, 0x3FAF3B79, 0x3FB123F6, 0x3FB311C4] ++
   [0x3FB504F3, 0x3FB6FD92, 0x3FB8FBAF, 0x3FBAFF5B, 0x3FBD08A4, 0x3FBF179A, 0x3FC12C4D, 0x3FC346CD,
    0x3FC5672A, 0x3FC78D75, 0x3FC9B9BE, 0x3FCBEC15, 0x3FCE248C, 0x3FD06334, 0x3FD2A81E, 0x3FD4F35B] ++
   [0x3FD744FD, 0x3FD99D16, 0x3FDBFBB8, 0x3FDE60F5, 0x3FE0CCDF, 0x3FE33F89, 0x3FE5B907, 0x3FE8396A,
    0x3FEAC0C7, 0x3FED4F30, 0x3FEFE4BA, 0x3FF28177, 0x3FF5257D, 0x3FF7D0DF, 0x3FFA83B3, 0x3FFD3E0C]

/-- L[j] = rne32(log2(1 + j/64)) (R202). -/
def tableL : List Nat :=
   [0x00000000, 0x3CB73CB4, 0x3D35D69C, 0x3D8759C5, 0x3DB31FB8, 0x3DDE4212, 0x3E0462C4, 0x3E19574F,
    0x3E2E00D2, 0x3E42615F, 0x3E567AF1, 0x3E6A4F72, 0x3E7DE0B6, 0x3E88983F, 0x3E92203D, 0x3E9B8926] ++
   [0x3EA4D3C2, 0x3EAE00D2, 0x3EB7110E, 0x3EC0052B, 0x3EC8DDD4, 0x3ED19BB0, 0x3EDA3F60, 0x3EE2C97D,
    0x3EEB3A9F, 0x3EF39355, 0x3EFBD42B, 0x3F01FED4, 0x3F060828, 0x3F0A0650, 0x3F0DF989, 0x3F11E20F] ++
   [0x3F15C01A, 0x3F1993E3, 0x3F1D5DA0, 0x3F211D84, 0x3F24D3C2, 0x3F28808C, 0x3F2C2411, 0x3F2FBE80,
    0x3F335004, 0x3F36D8CB, 0x3F3A58FF, 0x3F3DD0C8, 0x3F41404F, 0x3F44A7BA, 0x3F480731, 0x3F4B5ED7] ++
   [0x3F4EAED0, 0x3F51F740, 0x3F553848, 0x3F587209, 0x3F5BA4A4, 0x3F5ED039, 0x3F61F4E5, 0x3F6512C7,
    0x3F6829FB, 0x3F6B3A9F, 0x3F6E44CD, 0x3F7148A1, 0x3F744636, 0x3F773DA4, 0x3F7A2F04, 0x3F7D1A71]

/-- D[j] = rne32(64 / (64 + j)) (R202). -/
def tableD : List Nat :=
   [0x3F800000, 0x3F7C0FC1, 0x3F783E10, 0x3F74898D, 0x3F70F0F1, 0x3F6D7304, 0x3F6A0EA1, 0x3F66C2B4,
    0x3F638E39, 0x3F607038, 0x3F5D67C9, 0x3F5A740E, 0x3F579436, 0x3F54C77B, 0x3F520D21, 0x3F4F6475] ++
   [0x3F4CCCCD, 0x3F4A4588, 0x3F47CE0C, 0x3F4565C8, 0x3F430C31, 0x3F40C0C1, 0x3F3E82FA, 0x3F3C5264,
    0x3F3A2E8C, 0x3F381703, 0x3F360B61, 0x3F340B41, 0x3F321643, 0x3F302C0B, 0x3F2E4C41, 0x3F2C7692] ++
   [0x3F2AAAAB, 0x3F28E83F, 0x3F272F05, 0x3F257EB5, 0x3F23D70A, 0x3F2237C3, 0x3F20A0A1, 0x3F1F1166,
    0x3F1D89D9, 0x3F1C09C1, 0x3F1A90E8, 0x3F191F1A, 0x3F17B426, 0x3F164FDA, 0x3F14F209, 0x3F139A86] ++
   [0x3F124925, 0x3F10FDBC, 0x3F0FB824, 0x3F0E7835, 0x3F0D3DCB, 0x3F0C08C1, 0x3F0AD8F3, 0x3F09AE41,
    0x3F088889, 0x3F0767AB, 0x3F064B8A, 0x3F053408, 0x3F042108, 0x3F03126F, 0x3F020821, 0x3F010204]

/-- C1 = rne32(ln 2) (R201). -/
def constC1 : Nat := 0x3F317218

/-- C2 = rne32((ln 2)^2 / 2) (R201). -/
def constC2 : Nat := 0x3E75FDF0

/-- C3 = rne32((ln 2)^3 / 6) (R201). -/
def constC3 : Nat := 0x3D635847

/-- K1 = rne32(1 / ln 2) (R202). -/
def constK1 : Nat := 0x3FB8AA3B

/-- K2 = rne32(-1 / (2 ln 2)) (R202). -/
def constK2 : Nat := 0xBF38AA3B

/-- K3 = rne32(1 / (3 ln 2)) (R202). -/
def constK3 : Nat := 0x3EF6384F

/-- The FP32 value of a code. -/
def v32 (w : Nat) : Ext := fp32.decode w

/-- rne32(a × b + c) on FP32 codes, finite. -/
def fma32 (a b c : Nat) : Nat := rne32 ((((v32 a).mul (v32 b)).1.add (v32 c)).1)

/-- rne32(a × b). -/
def mul32 (a b : Nat) : Nat := rne32 ((v32 a).mul (v32 b)).1

/-- floor(m × 2^e × 2^k) of a signed value. -/
def floorScaled (s : Bool) (m : Nat) (e k : Int) : Int :=
  let v : Int := if s then -(m : Int) else m
  if 0 ≤ e + k then v * pow2 (e + k) else v / (pow2 (-(e + k)) : Nat)

/-- An integer as an exact value. -/
def Ext.ofInt (v : Int) (e : Int) : Ext := .fin (decide (v < 0)) v.natAbs e

/-- `exp2x` (R201) on an FP32 code. -/
def exp2x (zi zo : Bool) (w : Nat) : Nat × Classes :=
  let (x, c0) := fp32.input zi w
  match x with
  | .nan => (fp32.nanCode, c0)
  | .inf s => (if s then 0 else fp32.infCode, c0)
  | .fin s m e =>
    if !(Ext.fin s m e).lt (.fin false 128 0) then (fp32.infCode, c0 ||| Classes.overflow ||| Classes.inexact)
    else
      let n := floorScaled s m e 0
      let j := (floorScaled s m e 6 - n * 64).toNat
      let rr := rne32 ((Ext.fin s m e).add (Ext.ofInt (-(n * 64 + j)) (-6))).1
      let p := fma32 constC3 rr constC2
      let p := fma32 p rr constC1
      let p := mul32 p rr
      let t := tableT.getD j 0
      let y := fma32 t p t
      let (r, c) := fp32.rnd 0 0 false zo ((v32 y).scale n)
      let exact := (Ext.fin s m e).eq (Ext.ofInt n 0) && decide (-149 ≤ n) && decide (n ≤ 127)
      (r, c0 ||| c ||| if exact then 0 else Classes.inexact)

/-- `log2x` (R202) on an FP32 code. -/
def log2x (zi zo : Bool) (w : Nat) : Nat × Classes :=
  let (x, c0) := fp32.input zi w
  match x with
  | .nan => (fp32.nanCode, c0)
  | .inf s => if s then (fp32.nanCode, c0 ||| Classes.invalid) else (fp32.infCode, c0)
  | .fin s m e =>
    if m = 0 then (fp32.signed true fp32.infCode, c0 ||| Classes.divZero)
    else if s then (fp32.nanCode, c0 ||| Classes.invalid)
    else
      let b := bitsOf m
      let ex : Int := e + b - 1
      let mm : Ext := .fin false m (1 - (b : Int))
      let j := (floorScaled false m (1 - (b : Int)) 6 - 64).toNat
      let w1 := rne32 ((mm.add (Ext.ofInt (-(64 + (j : Int))) (-6))).1.mul (v32 (tableD.getD j 0))).1
      let q := fma32 constK3 w1 constK2
      let q := fma32 q w1 constK1
      let q := mul32 q w1
      let t := rne32 ((v32 (tableL.getD j 0)).add (v32 q)).1
      let (r, c) := fp32.rnd 0 0 false zo ((Ext.ofInt ex 0).add (v32 t)).1
      let pow := m == 2 ^ (b - 1)
      (r, c0 ||| (c &&& ~~~Classes.inexact) ||| (if pow then 0 else Classes.inexact))

end Sys2Proof.Machine
end

