-- ==== Sys2Proof/Config.lean ====
section
/-!
DEFINITION. What the spec leaves open: free values (no body: nothing in Lean can evaluate them or prove a value of them; log 10).
Each is applied to a fresh number that the step reads from `State.fresh` and advances, so that two uses need not agree.
-/

namespace Sys2Proof

/-- FREE VALUE (log 10): bytes that the spec calls unspecified, the overlap of an overlapping copy (R159). -/
opaque Config.freeByte : Nat → Byte

/-- FREE VALUE (log 10, log 53): a value that the spec leaves unspecified because software broke a requirement (R8). -/
opaque Config.freeWord : Nat → Word

/-- FREE VALUE (log 10): a number of the on-chip random source, for `tinc` at cold power-up (R130) and `seed` (R395). -/
opaque Config.random : Nat → Word

/-- FREE VALUE (log 80): the identity key of the nth time that the package draws one (R454, R455), a private key of P-256. -/
opaque Config.identityKey : Nat → Nat

/-- FREE VALUE (log 80): the bytes of the fuse array (R454), from what the fuses hold: the digests of the public keys, the revocation bits,
the rollback counter, the alarm policy and the MAC address. The spec gives no layout of it. -/
opaque Config.fuseArray : List (Option (List Byte)) → BitVec 4 → BitVec 64 → Nat → BitVec 48 → List Byte

end Sys2Proof
end

