-- ==== Sys2Proof/Machine/Memory.lean ====
section
/-!
DEFINITION. Local memory as the LLC slices serve it (R149, R150), and the L1 data caches in front of it (R172).  The slice is the point
at which every access is performed; an L1 holds word-valid and word-dirty copies of lines of its own die's local memory, and is kept
coherent by recalls.  The LLC's own contents are not visible to programs (R149) and are not held (log 12).
-/

namespace Sys2Proof.Machine

/-! ## Status codes (R9) -/

def Status.ok : Status := 0
def Status.timeout : Status := 1
def Status.targetGone : Status := 2
def Status.unsupported : Status := 3
def Status.access : Status := 4
def Status.staleEpoch : Status := 5
def Status.noLease : Status := 6
def Status.poison : Status := 7
def Status.linkDown : Status := 8
def Status.bounds : Status := 9
def Status.rights : Status := 10
def Status.retry : Status := 11

/-! ## Bytes of a memory -/

/-- One byte. -/
def readByte (m : Memory) (a : Nat) : Byte := Sparse.get Memory.unwritten m a

/-- Write one byte, keeping the canonical form. -/
def writeByte (m : Memory) (a : Nat) (b : Byte) : Memory := Sparse.set Memory.unwritten m a b

/-- n bytes from an address up. -/
def readBytes (m : Memory) : Nat → Nat → List Byte
  | _, 0 => []
  | a, n + 1 => readByte m a :: readBytes m (a + 1) n

/-- Write bytes from an address up. -/
def writeBytes (m : Memory) : Nat → List Byte → Memory
  | _, [] => m
  | a, b :: t => writeBytes (writeByte m a b) (a + 1) t

/-- A little-endian number of n bytes. -/
def readNat (m : Memory) (a n : Nat) : Nat := ofBytes (readBytes m a n)

/-- Write a little-endian number of n bytes. -/
def writeNat (m : Memory) (a n v : Nat) : Memory := writeBytes m a (bytesOf n v)

/-! ## The local address map (R15, R16) -/

/-- The end of the backed local addresses: 384 GiB (R16). -/
def backedEnd : Nat := 0x6000000000

/-- L, the size of local memory (R15). -/
def Die.localSize (d : Die) : Nat := field (d.reg 0 0x100) 0 9 * 2 ^ 30

/-- A local address lies in local memory (R16). -/
def Die.inLocal (d : Die) (a n : Nat) : Bool := decide (a + n ≤ d.localSize)

/-! ## Poison (R150) -/

/-- A line holds poison. -/
def Die.poisoned (d : Die) (line : Nat) : Bool := d.poison.contains line

/-! ## The L1 (R172) -/

/-- An absent L1 line. -/
def L1Line.absent : L1Line := ⟨0, 0, 0⟩

/-- The dirty words of a line, as (word, value) pairs. -/
def L1Line.dirtyWords (l : L1Line) : List (Nat × BitVec 32) :=
  (List.range 32).filterMap fun w => if l.dirty.getLsbD w then some (w, l.data.extractLsb' (32 * w) 32) else none

/-- A line of a core's L1. -/
def Core.l1Line (c : Core) (line : Nat) : L1Line := Sparse.get (fun _ => L1Line.absent) c.store.l1 line

/-- A core with a line of its L1 replaced. -/
def Core.setL1 (c : Core) (line : Nat) (l : L1Line) : Core :=
  { c with store := { c.store with l1 := Sparse.set (fun _ => L1Line.absent) c.store.l1 line l } }

/-- A core with a CSR counter one higher. -/
def Core.gain (c : Core) (n : Nat) : Core := c.setReg n (c.reg n + 1)

/-- A memory with words of a line written. -/
def writeWords (m : Memory) (line : Nat) (ws : List (Nat × BitVec 32)) : Memory :=
  ws.foldl (fun m w => writeNat m (128 * line + 4 * w.1) 4 w.2.toNat) m

/-- Write back the dirty words of a line of a core and drop it. A write-back into a poisoned line changes nothing and counts in
`l1_wblost` (R172). -/
def Die.dropL1 (d : Die) (core line : Nat) : Die :=
  let l := (d.core core).l1Line line
  let e := if l.valid = 0 then d else d.setCore core ((d.core core).setL1 line L1Line.absent)
  if l.dirty = 0 then e
  else if e.poisoned line then e.setCore core ((e.core core).gain 0x73)
  else { e with mem := writeWords e.mem line l.dirtyWords }

/-- The cores of a die that hold a line. -/
def Die.holders (d : Die) (line : Nat) : List Nat :=
  d.cores.filterMap fun e => if (e.2.l1Line line).valid = 0 then none else some e.1

/-- Recall a line from every core but one (R172). -/
def Die.recall (d : Die) (line : Nat) (keep : Option Nat) : Die :=
  (d.holders line).foldl (fun d k => if keep = some k then d else d.dropL1 k line) d

/-- Recall a line from its owner, if another core owns it with dirty words. -/
def Die.recallDirty (d : Die) (line : Nat) (keep : Option Nat) : Die :=
  (d.holders line).foldl (fun d k => if keep = some k ∨ ((d.core k).l1Line line).dirty = 0 then d else d.dropL1 k line) d

/-! ## Slice accesses (R149, R150): within one 128-byte line -/

/-- A read at the slice. -/
def Die.sliceRead (d : Die) (a n : Nat) : Die × Status × List Byte :=
  let d := d.recallDirty (a / 128) none
  if d.poisoned (a / 128) then (d, Status.poison, []) else (d, Status.ok, readBytes d.mem a n)

/-- A write at the slice: a part of a poisoned line is refused; a whole line clears the poison. -/
def Die.sliceWrite (d : Die) (a : Nat) (bs : List Byte) : Die × Status :=
  let d := d.recall (a / 128) none
  if d.poisoned (a / 128) && bs.length != 128 then (d, Status.poison)
  else ({ d with mem := writeBytes d.mem a bs, poison := d.poison.filter fun l => decide (l ≠ a / 128) }, Status.ok)

/-- A read-modify-write at the slice (R149, R264): the old value of n bytes, and the new value where one is stored. -/
def Die.sliceRmw (d : Die) (a n : Nat) (f : Nat → Option Nat) : Die × Status × Nat :=
  let d := d.recall (a / 128) none
  if d.poisoned (a / 128) then (d, Status.poison, 0)
  else
    let old := readNat d.mem a n
    match f old with
    | some v => ({ d with mem := writeNat d.mem a n v }, Status.ok, old)
    | none => (d, Status.ok, old)

/-! ## Accesses through a core's L1 (R172) -/

/-- The words of a line that n bytes at offset o touch, as a mask. -/
def wordMask (o n : Nat) : BitVec 32 :=
  BitVec.ofNat 32 ((2 ^ ((o + n + 3) / 4 - o / 4) - 1) * 2 ^ (o / 4))

/-- A line with its invalid words taken from memory. -/
def L1Line.merged (l : L1Line) (m : Memory) (line : Nat) : L1Line :=
  ⟨BitVec.allOnes 32, l.dirty, (List.range 32).foldl
    (fun x w => if l.valid.getLsbD w then x else setField x (32 * w) 32 (readNat m (128 * line + 4 * w) 4)) l.data⟩

/-- Bring the invalid words of a line into a core's L1: a merging fill (R172), which counts in `l1_mfill`. -/
def Die.mergeFill (d : Die) (core line : Nat) : Die × Status :=
  let e := d.recallDirty line (some core)
  let c := (e.core core).gain 0x72
  if e.poisoned line then (e.setCore core c, Status.poison)
  else (e.setCore core (c.setL1 line ((c.l1Line line).merged e.mem line)), Status.ok)

/-- The L1 holds 4,096 lines (R11); a line more evicts the lowest-numbered other line (log 13). -/
def Die.evictL1 (d : Die) (core line : Nat) : Die :=
  let lines := (d.core core).store.l1
  if lines.length ≤ 4096 then d
  else match lines.find? (fun e => decide (e.1 ≠ line)) with
    | some e => d.dropL1 core e.1
    | none => d

/-- A line made ready for an access: filled unless the words it needs are there. -/
def Die.fillUnless (d : Die) (core line : Nat) (there : Bool) : Die × Status :=
  if there then (d, Status.ok) else d.mergeFill core line

/-- A load of n bytes within one line through a core's L1. -/
def Die.l1Read (d : Die) (core a n : Nat) : Die × Status × List Byte :=
  let mask := wordMask (a % 128) n
  let r := d.fillUnless core (a / 128) (((d.core core).l1Line (a / 128)).valid &&& mask == mask)
  if r.2 ≠ Status.ok then (r.1, r.2, [])
  else
    let l := (r.1.core core).l1Line (a / 128)
    (r.1.evictL1 core (a / 128), Status.ok, (List.range n).map fun i => l.data.extractLsb' (8 * (a % 128 + i)) 8)

/-- A line with bytes stored at an offset: the words that they touch become valid and dirty. -/
def L1Line.store (l : L1Line) (o : Nat) (bs : List Byte) : L1Line :=
  ⟨l.valid ||| wordMask o bs.length, l.dirty ||| wordMask o bs.length,
    bs.zipIdx.foldl (fun x e => setField x (8 * (o + e.2)) 8 e.1.toNat) l.data⟩

/-- A store within one line through a core's L1: a merging fill first where it writes part of an invalid word, then ownership. -/
def Die.l1Write (d : Die) (core a : Nat) (bs : List Byte) : Die × Status :=
  let mask := wordMask (a % 128) bs.length
  let whole := a % 128 % 4 == 0 && bs.length % 4 == 0
  let r := d.fillUnless core (a / 128) (whole || ((d.core core).l1Line (a / 128)).valid &&& mask == mask)
  if r.2 ≠ Status.ok then (r.1, r.2)
  else
    let e := r.1.recall (a / 128) (some core)
    let c := e.core core
    ((e.setCore core (c.setL1 (a / 128) ((c.l1Line (a / 128)).store (a % 128) bs))).evictL1 core (a / 128), Status.ok)

/-! ## Plain local memory for the package's own units -/

/-- Bytes of local memory as the host and the package's units see them: the dirty words of the L1s are recalled first.
Used where the spec gives no status (descriptors, records). -/
def Die.peek (d : Die) (a n : Nat) : List Byte :=
  let d := (List.range ((a + n + 127) / 128 - a / 128)).foldl (fun d i => d.recallDirty (a / 128 + i) none) d
  readBytes d.mem a n

/-- Bytes of local memory that one of the package's units reads: none where a poisoned line is among them, whose read completes with POISON
and returns no data (R150). -/
def Die.peek? (d : Die) (a n : Nat) : Option (List Byte) :=
  if (List.range ((a + n + 127) / 128 - a / 128)).any fun i => d.poisoned (a / 128 + i) then none else some (d.peek a n)

/-- Write bytes of local memory for the package's own units, line by line at the slices: a part of a poisoned line does not change it, and
a whole line clears its poison (R150). -/
def Die.poke (d : Die) (a : Nat) (bs : List Byte) : Die :=
  (List.range ((a + bs.length + 127) / 128 - a / 128)).foldl (fun d i =>
    let lo := max a (128 * (a / 128 + i))
    (d.sliceWrite lo ((bs.drop (lo - a)).take (128 * (a / 128 + i + 1) - lo))).1) d

end Sys2Proof.Machine
end

