-- ==== Sys2Proof/WellFormed.lean ====
section
/-!
DEFINITION. Which instructions the encodings of R218, R219 and R223 admit: no field holds a code that those rules call undefined,
and no field that a row fixes to 0 for some values of another field (R283, R286) is set.  Register ranges that depend on the
executing cluster are not here: they are the REG test of Machine/Operands.lean.
-/

namespace Sys2Proof

/-- An instruction that has an encoding: the decoder accepts exactly these words. The steps that have no word hold trivially. -/
def Instr.wellFormed : Instr → Bool
  | .cmp _ _ _ _ c => c.toNat < 6
  | .cmpi _ _ _ c _ => c.toNat < 6
  | .tstp _ _ _ _ t => t.toNat < 2
  | .tstq _ _ _ _ t => t.toNat < 4
  | .tstm _ _ _ _ t => t.toNat < 4
  | .sext _ _ _ n => n.toNat != 0
  | .zext _ _ _ n => n.toNat != 0
  | .pld _ _ _ z o _ => (z.toNat < 4 || z.toNat == 7) && o.toNat != 8
  | .pst _ _ _ z o _ => (z.toNat < 4 || z.toNat == 7) && o.toNat != 8
  | .pamo _ _ _ c z _ _ => c.toNat < 9 || (c.toNat == 9 && z.toNat == 0)
  | .kld _ _ _ _ o _ => o.toNat != 8
  | .fence _ o _ => o.toNat != 0
  | .flagwait _ _ _ t => t.toNat < 4
  | .bar _ t l _ => l.toNat < 2 && !(t.toNat == 1 && l.toNat == 0)
  | .cpy _ _ _ _ q l o _ => (q.toNat == 1 || l.toNat == 1) == (o.toNat != 0)
  | .bop _ d _ k o f => (f.toNat < 5 && o.toNat < 8 && !(3 <= f.toNat && 3 <= o.toNat && o.toNat <= 5) && !(o.toNat == 7 && (3 <= f.toNat || k.toNat != 0)) && !(o.toNat == 6 && k.toNat == 3)) && (!(k.toNat == 1 || k.toNat == 2) || d.toNat == 0)
  | .coll _ _ _ _ q l o _ => (q.toNat == 1 || l.toNat == 1) == (o.toNat != 0)
  | .vcvtFromFp32 _ _ _ f r _ => ((1 <= f.toNat && f.toNat <= 4) || (11 <= f.toNat && f.toNat <= 14)) && r.toNat < 5
  | .vcvtToFp32 _ _ _ f => (1 <= f.toNat && f.toNat <= 4) || (11 <= f.toNat && f.toNat <= 14)
  | .vquant _ _ _ f r _ => ((5 <= f.toNat && f.toNat <= 10) || f.toNat == 16) && r.toNat < 5
  | .vdeq _ _ _ f => (5 <= f.toNat && f.toNat <= 10) || f.toNat == 16
  | .vred _ _ _ _ f => f.toNat < 3
  | .mzero _ _ m => m.toNat < 5
  | .kvld _ _ _ w _ => w.toNat != 3
  | _ => true

end Sys2Proof
end

