-- ==== Sys2Proof/Decode.lean ====
section
/-!
DEFINITION. The decoder of R206 to R208 and R223, total on every container, and the encoder beside it.
A container is a natural number below 2^32; a field of it is cut out by `bits`.  The decoder tests a word in the order of R224 as
far as the word alone decides it: UNDEF first; a reserved field that is not 0 gives `resv`, which carries the instruction, because
the cluster test (R224, order 2) comes before RESV (order 3) and is made where the executing cluster is known.
-/

namespace Sys2Proof

/-- Bits [lo + n - 1 : lo] of a word. -/
def bits (w lo n : Nat) : BitVec n := BitVec.ofNat n (w / 2 ^ lo)

/-- What the decoder makes of a word (R224). -/
inductive Decoded where
  /-- A legal encoding. -/
  | ok (i : Instr)
  /-- Cause UNDEF. -/
  | undef
  /-- A reserved field is not 0: cause RESV, unless the cluster does not implement the instruction. -/
  | resv (i : Instr)
  deriving DecidableEq, Repr

/-- `ok` where the reserved fields hold, else `resv`. -/
def Decoded.check (reserved : Bool) (i : Instr) : Decoded := if reserved then .ok i else .resv i

/-- Major 0x00 of R223: `blk`. -/
def decodeMajor00 (w : Nat) : Decoded :=
  .check (w / 2 ^ 26 % 2 ^ 5 == 0) (.blk (bits w 9 10) (bits w 0 9))

/-- Major 0x01 of R223: `blkr`. -/
def decodeMajor01 (w : Nat) : Decoded :=
  .check (w / 2 ^ 0 % 2 ^ 4 == 0 && w / 2 ^ 26 % 2 ^ 5 == 0) (.blkr (bits w 9 10) (bits w 4 5))

/-- Major 0x02 of R223: `prep`. -/
def decodeMajor02 (w : Nat) : Decoded :=
  .ok (.prep (bits w 26 5) (bits w 15 4) (bits w 0 15))

/-- Major 0x03 of R223: `br`, `brl`, `ret`. -/
def decodeMajor03 (w : Nat) : Decoded :=
  match w / 2 ^ 17 % 4 with
  | 0 => .check (w / 2 ^ 0 % 2 ^ 13 == 0) (.br (bits w 26 5) (bits w 13 4))
  | 1 => .check (w / 2 ^ 0 % 2 ^ 13 == 0) (.brl (bits w 26 5) (bits w 13 4))
  | 2 => .check (w / 2 ^ 0 % 2 ^ 13 == 0) (.ret (bits w 26 5) (bits w 13 4))
  | _ => .undef

/-- Major 0x04 of R223: `cmp`. -/
def decodeMajor04 (w : Nat) : Decoded :=
  if (bits w 2 3).toNat < 6 then .check (w / 2 ^ 0 % 2 ^ 2 == 0) (.cmp (bits w 26 5) (bits w 15 4) (bits w 10 5) (bits w 5 5) (bits w 2 3)) else .undef

/-- Major 0x05 of R223: `cmpi`. -/
def decodeMajor05 (w : Nat) : Decoded :=
  if (bits w 7 3).toNat < 6 then .ok (.cmpi (bits w 26 5) (bits w 15 4) (bits w 10 5) (bits w 7 3) (bits w 0 7)) else .undef

/-- Major 0x06 of R223: `tstp`, `tstq`, `tstm`. -/
def decodeMajor06 (w : Nat) : Decoded :=
  match w / 2 ^ 17 % 4 with
  | 0 => if (bits w 2 3).toNat < 2 then .check (w / 2 ^ 0 % 2 ^ 2 == 0) (.tstp (bits w 26 5) (bits w 13 4) (bits w 9 4) (bits w 5 4) (bits w 2 3)) else .undef
  | 1 => if (bits w 2 3).toNat < 4 then .check (w / 2 ^ 0 % 2 ^ 2 == 0) (.tstq (bits w 26 5) (bits w 13 4) (bits w 9 4) (bits w 5 4) (bits w 2 3)) else .undef
  | 2 => if (bits w 2 3).toNat < 4 then .check (w / 2 ^ 0 % 2 ^ 2 == 0) (.tstm (bits w 26 5) (bits w 13 4) (bits w 9 4) (bits w 5 4) (bits w 2 3)) else .undef
  | _ => .undef

/-- Major 0x07 of R223: `fork`, `join`. -/
def decodeMajor07 (w : Nat) : Decoded :=
  match w / 2 ^ 18 % 2 with
  | 0 => .check (w / 2 ^ 0 % 2 ^ 14 == 0) (.fork (bits w 26 5) (bits w 14 4))
  | _ => .check (w / 2 ^ 0 % 2 ^ 14 == 0) (.join (bits w 26 5) (bits w 14 4))

/-- Major 0x08 of R223: `nop`, `yield`, `halt`, `tfence`. -/
def decodeMajor08 (w : Nat) : Decoded :=
  match w / 2 ^ 16 % 8 with
  | 0 => .check (w / 2 ^ 0 % 2 ^ 16 == 0) (.nop (bits w 26 5))
  | 1 => .check (w / 2 ^ 0 % 2 ^ 16 == 0) (.yield (bits w 26 5))
  | 2 => .check (w / 2 ^ 0 % 2 ^ 16 == 0) (.halt (bits w 26 5))
  | 3 => .check (w / 2 ^ 0 % 2 ^ 16 == 0) (.tfence (bits w 26 5))
  | _ => .undef

/-- Major 0x09 of R223: `trap`. -/
def decodeMajor09 (w : Nat) : Decoded :=
  .check (w / 2 ^ 16 % 2 ^ 3 == 0) (.trap (bits w 26 5) (bits w 0 16))

/-- Major 0x0A of R223: `swap`, `eret`. -/
def decodeMajor0A (w : Nat) : Decoded :=
  match w / 2 ^ 16 % 8 with
  | 0 => .check (w / 2 ^ 0 % 2 ^ 16 == 0) (.swap (bits w 26 5))
  | 1 => .check (w / 2 ^ 0 % 2 ^ 16 == 0) (.eret (bits w 26 5))
  | _ => .undef

/-- Major 0x10 of R223: `add`, `sub`, `mul`, `mulh`, `mulhu`, `div`, `divu`, `rem`, `remu`. -/
def decodeMajor10 (w : Nat) : Decoded :=
  match w / 2 ^ 0 % 16 with
  | 0 => .ok (.add (bits w 26 5) (bits w 14 5) (bits w 9 5) (bits w 4 5))
  | 1 => .ok (.sub (bits w 26 5) (bits w 14 5) (bits w 9 5) (bits w 4 5))
  | 2 => .ok (.mul (bits w 26 5) (bits w 14 5) (bits w 9 5) (bits w 4 5))
  | 3 => .ok (.mulh (bits w 26 5) (bits w 14 5) (bits w 9 5) (bits w 4 5))
  | 4 => .ok (.mulhu (bits w 26 5) (bits w 14 5) (bits w 9 5) (bits w 4 5))
  | 5 => .ok (.div (bits w 26 5) (bits w 14 5) (bits w 9 5) (bits w 4 5))
  | 6 => .ok (.divu (bits w 26 5) (bits w 14 5) (bits w 9 5) (bits w 4 5))
  | 7 => .ok (.rem (bits w 26 5) (bits w 14 5) (bits w 9 5) (bits w 4 5))
  | 8 => .ok (.remu (bits w 26 5) (bits w 14 5) (bits w 9 5) (bits w 4 5))
  | _ => .undef

/-- Major 0x11 of R223: `and`, `or`, `xor`, `shl`, `shr`, `sar`, `min`, `max`, `minu`, `maxu`. -/
def decodeMajor11 (w : Nat) : Decoded :=
  match w / 2 ^ 0 % 16 with
  | 0 => .ok (.and (bits w 26 5) (bits w 14 5) (bits w 9 5) (bits w 4 5))
  | 1 => .ok (.or (bits w 26 5) (bits w 14 5) (bits w 9 5) (bits w 4 5))
  | 2 => .ok (.xor (bits w 26 5) (bits w 14 5) (bits w 9 5) (bits w 4 5))
  | 3 => .ok (.shl (bits w 26 5) (bits w 14 5) (bits w 9 5) (bits w 4 5))
  | 4 => .ok (.shr (bits w 26 5) (bits w 14 5) (bits w 9 5) (bits w 4 5))
  | 5 => .ok (.sar (bits w 26 5) (bits w 14 5) (bits w 9 5) (bits w 4 5))
  | 6 => .ok (.min (bits w 26 5) (bits w 14 5) (bits w 9 5) (bits w 4 5))
  | 7 => .ok (.max (bits w 26 5) (bits w 14 5) (bits w 9 5) (bits w 4 5))
  | 8 => .ok (.minu (bits w 26 5) (bits w 14 5) (bits w 9 5) (bits w 4 5))
  | 9 => .ok (.maxu (bits w 26 5) (bits w 14 5) (bits w 9 5) (bits w 4 5))
  | _ => .undef

/-- Major 0x12 of R223: `sel`. -/
def decodeMajor12 (w : Nat) : Decoded :=
  .ok (.sel (bits w 26 5) (bits w 14 5) (bits w 9 5) (bits w 4 5) (bits w 0 4))

/-- Major 0x13 of R223: `lea`. -/
def decodeMajor13 (w : Nat) : Decoded :=
  .ok (.lea (bits w 26 5) (bits w 14 5) (bits w 9 5) (bits w 4 5) (bits w 0 4))

/-- Major 0x14 of R223: `clz`, `ctz`, `popc`, `ffs`, `mov`. -/
def decodeMajor14 (w : Nat) : Decoded :=
  match w / 2 ^ 0 % 16 with
  | 0 => .check (w / 2 ^ 4 % 2 ^ 5 == 0) (.clz (bits w 26 5) (bits w 14 5) (bits w 9 5))
  | 1 => .check (w / 2 ^ 4 % 2 ^ 5 == 0) (.ctz (bits w 26 5) (bits w 14 5) (bits w 9 5))
  | 2 => .check (w / 2 ^ 4 % 2 ^ 5 == 0) (.popc (bits w 26 5) (bits w 14 5) (bits w 9 5))
  | 3 => .check (w / 2 ^ 4 % 2 ^ 5 == 0) (.ffs (bits w 26 5) (bits w 14 5) (bits w 9 5))
  | 4 => .check (w / 2 ^ 4 % 2 ^ 5 == 0) (.mov (bits w 26 5) (bits w 14 5) (bits w 9 5))
  | _ => .undef

/-- Major 0x15 of R223: `sext`, `zext`. -/
def decodeMajor15 (w : Nat) : Decoded :=
  match w / 2 ^ 8 % 2 with
  | 0 => if (bits w 2 6).toNat != 0 then .check (w / 2 ^ 0 % 2 ^ 2 == 0) (.sext (bits w 26 5) (bits w 14 5) (bits w 9 5) (bits w 2 6)) else .undef
  | _ => if (bits w 2 6).toNat != 0 then .check (w / 2 ^ 0 % 2 ^ 2 == 0) (.zext (bits w 26 5) (bits w 14 5) (bits w 9 5) (bits w 2 6)) else .undef

/-- Major 0x16 of R223: `addi`. -/
def decodeMajor16 (w : Nat) : Decoded :=
  .ok (.addi (bits w 26 5) (bits w 14 5) (bits w 9 5) (bits w 0 9))

/-- Major 0x17 of R223: `andi`. -/
def decodeMajor17 (w : Nat) : Decoded :=
  .ok (.andi (bits w 26 5) (bits w 14 5) (bits w 9 5) (bits w 0 9))

/-- Major 0x18 of R223: `ori`. -/
def decodeMajor18 (w : Nat) : Decoded :=
  .ok (.ori (bits w 26 5) (bits w 14 5) (bits w 9 5) (bits w 0 9))

/-- Major 0x19 of R223: `xori`. -/
def decodeMajor19 (w : Nat) : Decoded :=
  .ok (.xori (bits w 26 5) (bits w 14 5) (bits w 9 5) (bits w 0 9))

/-- Major 0x1A of R223: `shli`. -/
def decodeMajor1A (w : Nat) : Decoded :=
  .check (w / 2 ^ 6 % 2 ^ 3 == 0) (.shli (bits w 26 5) (bits w 14 5) (bits w 9 5) (bits w 0 6))

/-- Major 0x1B of R223: `shri`. -/
def decodeMajor1B (w : Nat) : Decoded :=
  .check (w / 2 ^ 6 % 2 ^ 3 == 0) (.shri (bits w 26 5) (bits w 14 5) (bits w 9 5) (bits w 0 6))

/-- Major 0x1C of R223: `sari`. -/
def decodeMajor1C (w : Nat) : Decoded :=
  .check (w / 2 ^ 6 % 2 ^ 3 == 0) (.sari (bits w 26 5) (bits w 14 5) (bits w 9 5) (bits w 0 6))

/-- Major 0x1D of R223: `movi`. -/
def decodeMajor1D (w : Nat) : Decoded :=
  .ok (.movi (bits w 26 5) (bits w 14 5) (bits w 0 14))

/-- Major 0x1E of R223: `movh`. -/
def decodeMajor1E (w : Nat) : Decoded :=
  .ok (.movh (bits w 26 5) (bits w 14 5) (bits w 0 14))

/-- Major 0x30 of R223: `ld`. -/
def decodeMajor30 (w : Nat) : Decoded :=
  .ok (.ld (bits w 26 5) (bits w 14 5) (bits w 9 5) (bits w 7 2) (bits w 4 3) (bits w 0 4))

/-- Major 0x31 of R223: `ld_s`. -/
def decodeMajor31 (w : Nat) : Decoded :=
  .check (w / 2 ^ 3 % 2 ^ 1 == 0) (.ldS (bits w 26 5) (bits w 14 5) (bits w 9 5) (bits w 7 2) (bits w 4 3) (bits w 0 3))

/-- Major 0x32 of R223: `st`. -/
def decodeMajor32 (w : Nat) : Decoded :=
  .ok (.st (bits w 26 5) (bits w 14 5) (bits w 9 5) (bits w 7 2) (bits w 4 3) (bits w 0 4))

/-- Major 0x33 of R223: `st_s`. -/
def decodeMajor33 (w : Nat) : Decoded :=
  .check (w / 2 ^ 3 % 2 ^ 1 == 0) (.stS (bits w 26 5) (bits w 14 5) (bits w 9 5) (bits w 7 2) (bits w 4 3) (bits w 0 3))

/-- Major 0x34 of R223: `ldq`. -/
def decodeMajor34 (w : Nat) : Decoded :=
  .check (w / 2 ^ 3 % 2 ^ 2 == 0) (.ldq (bits w 26 5) (bits w 15 4) (bits w 10 5) (bits w 8 2) (bits w 5 3) (bits w 0 3))

/-- Major 0x35 of R223: `amo`. -/
def decodeMajor35 (w : Nat) : Decoded :=
  .check (w / 2 ^ 3 % 2 ^ 5 == 0) (.amo (bits w 26 5) (bits w 15 4) (bits w 11 4) (bits w 8 3) (bits w 0 3))

/-- Major 0x36 of R223: `cas`. -/
def decodeMajor36 (w : Nat) : Decoded :=
  .check (w / 2 ^ 3 % 2 ^ 3 == 0) (.cas (bits w 26 5) (bits w 15 4) (bits w 10 5) (bits w 9 1) (bits w 6 3) (bits w 0 3))

/-- Major 0x37 of R223: `lds`. -/
def decodeMajor37 (w : Nat) : Decoded :=
  .check (w / 2 ^ 3 % 2 ^ 1 == 0) (.lds (bits w 26 5) (bits w 14 5) (bits w 9 5) (bits w 7 2) (bits w 4 3) (bits w 0 3))

/-- Major 0x38 of R223: `sts`. -/
def decodeMajor38 (w : Nat) : Decoded :=
  .check (w / 2 ^ 3 % 2 ^ 1 == 0) (.sts (bits w 26 5) (bits w 14 5) (bits w 9 5) (bits w 7 2) (bits w 4 3) (bits w 0 3))

/-- Major 0x39 of R223: `pld`. -/
def decodeMajor39 (w : Nat) : Decoded :=
  if ((bits w 7 3).toNat < 4 || (bits w 7 3).toNat == 7) && (bits w 3 4).toNat != 8 then .ok (.pld (bits w 26 5) (bits w 14 5) (bits w 10 4) (bits w 7 3) (bits w 3 4) (bits w 0 3)) else .undef

/-- Major 0x3A of R223: `pst`. -/
def decodeMajor3A (w : Nat) : Decoded :=
  if ((bits w 7 3).toNat < 4 || (bits w 7 3).toNat == 7) && (bits w 3 4).toNat != 8 then .ok (.pst (bits w 26 5) (bits w 14 5) (bits w 10 4) (bits w 7 3) (bits w 3 4) (bits w 0 3)) else .undef

/-- Major 0x3B of R223: `pamo`. -/
def decodeMajor3B (w : Nat) : Decoded :=
  if (bits w 7 4).toNat < 9 || ((bits w 7 4).toNat == 9 && (bits w 6 1).toNat == 0) then .ok (.pamo (bits w 26 5) (bits w 15 4) (bits w 11 4) (bits w 7 4) (bits w 6 1) (bits w 3 3) (bits w 0 3)) else .undef

/-- Major 0x3C of R223: `pcas`. -/
def decodeMajor3C (w : Nat) : Decoded :=
  .ok (.pcas (bits w 26 5) (bits w 15 4) (bits w 11 4) (bits w 7 4) (bits w 6 1) (bits w 3 3) (bits w 0 3))

/-- Major 0x3D of R223: `pget`. -/
def decodeMajor3D (w : Nat) : Decoded :=
  .check (w / 2 ^ 3 % 2 ^ 2 == 0) (.pget (bits w 26 5) (bits w 14 5) (bits w 10 4) (bits w 5 5) (bits w 0 3))

/-- Major 0x3E of R223: `kld`. -/
def decodeMajor3E (w : Nat) : Decoded :=
  if (bits w 3 4).toNat != 8 then .ok (.kld (bits w 26 5) (bits w 15 4) (bits w 11 4) (bits w 7 4) (bits w 3 4) (bits w 0 3)) else .undef

/-- Major 0x3F of R223: `kder`, `kchk`, `kmov`. -/
def decodeMajor3F (w : Nat) : Decoded :=
  match w / 2 ^ 17 % 4 with
  | 0 => .check (w / 2 ^ 0 % 2 ^ 1 == 0) (.kder (bits w 26 5) (bits w 13 4) (bits w 9 4) (bits w 5 4) (bits w 1 4))
  | 1 => .check (w / 2 ^ 0 % 2 ^ 1 == 0) (.kchk (bits w 26 5) (bits w 13 4) (bits w 9 4) (bits w 5 4) (bits w 1 4))
  | 2 => .check (w / 2 ^ 0 % 2 ^ 9 == 0) (.kmov (bits w 26 5) (bits w 13 4) (bits w 9 4))
  | _ => .undef

/-- Major 0x40 of R223: `lacq`, `lrel`, `lhand`. -/
def decodeMajor40 (w : Nat) : Decoded :=
  match w / 2 ^ 17 % 4 with
  | 0 => .ok (.lacq (bits w 26 5) (bits w 13 4) (bits w 8 5) (bits w 3 5) (bits w 0 3))
  | 1 => .ok (.lrel (bits w 26 5) (bits w 13 4) (bits w 8 5) (bits w 3 5) (bits w 0 3))
  | 2 => .ok (.lhand (bits w 26 5) (bits w 13 4) (bits w 8 5) (bits w 3 5) (bits w 0 3))
  | _ => .undef

/-- Major 0x41 of R223: `qpush`, `qpush_ring`. -/
def decodeMajor41 (w : Nat) : Decoded :=
  match w / 2 ^ 14 % 2 with
  | 0 => .check (w / 2 ^ 0 % 2 ^ 9 == 0) (.qpush (bits w 26 5) (bits w 15 4) (bits w 9 5))
  | _ => .check (w / 2 ^ 0 % 2 ^ 9 == 0) (.qpushRing (bits w 26 5) (bits w 15 4) (bits w 9 5))

/-- Major 0x42 of R223: `qpop`, `qpop_ring`. -/
def decodeMajor42 (w : Nat) : Decoded :=
  match w / 2 ^ 14 % 2 with
  | 0 => .check (w / 2 ^ 0 % 2 ^ 9 == 0) (.qpop (bits w 26 5) (bits w 15 4) (bits w 9 5))
  | _ => .check (w / 2 ^ 0 % 2 ^ 9 == 0) (.qpopRing (bits w 26 5) (bits w 15 4) (bits w 9 5))

/-- Major 0x43 of R223: `qcnt`, `fqpush`, `fqpush_t`, `fqclose`. -/
def decodeMajor43 (w : Nat) : Decoded :=
  match w / 2 ^ 17 % 4 with
  | 0 => .check (w / 2 ^ 0 % 2 ^ 8 == 0) (.qcnt (bits w 26 5) (bits w 13 4) (bits w 8 5))
  | 1 => match w / 2 ^ 13 % 16 with
    | 0 => .check (w / 2 ^ 0 % 2 ^ 8 == 0) (.fqpush (bits w 26 5) (bits w 8 5))
    | 1 => .check (w / 2 ^ 0 % 2 ^ 8 == 0) (.fqpushT (bits w 26 5) (bits w 8 5))
    | _ => .undef
  | 2 => .check (w / 2 ^ 0 % 2 ^ 17 == 0) (.fqclose (bits w 26 5))
  | _ => .undef

/-- Major 0x44 of R223: `rmap`, `rflush`, `rinv`. -/
def decodeMajor44 (w : Nat) : Decoded :=
  match w / 2 ^ 17 % 4 with
  | 0 => .check (w / 2 ^ 3 % 2 ^ 5 == 0) (.rmap (bits w 26 5) (bits w 13 4) (bits w 8 5) (bits w 0 3))
  | 1 => .check (w / 2 ^ 3 % 2 ^ 2 == 0) (.rflush (bits w 26 5) (bits w 13 4) (bits w 8 5) (bits w 5 3) (bits w 0 3))
  | 2 => .check (w / 2 ^ 0 % 2 ^ 8 == 0) (.rinv (bits w 26 5) (bits w 13 4) (bits w 8 5))
  | _ => .undef

/-- Major 0x45 of R223: `rcfg_region`, `rcfg_ring`. -/
def decodeMajor45 (w : Nat) : Decoded :=
  match w / 2 ^ 18 % 2 with
  | 0 => .check (w / 2 ^ 0 % 2 ^ 4 == 0) (.rcfgRegion (bits w 26 5) (bits w 14 4) (bits w 9 5) (bits w 4 5))
  | _ => .check (w / 2 ^ 0 % 2 ^ 9 == 0) (.rcfgRing (bits w 26 5) (bits w 14 4) (bits w 9 5))

/-- Major 0x48 of R223: `fence`. -/
def decodeMajor48 (w : Nat) : Decoded :=
  if (bits w 16 3).toNat != 0 then .check (w / 2 ^ 0 % 2 ^ 15 == 0) (.fence (bits w 26 5) (bits w 16 3) (bits w 15 1)) else .undef

/-- Major 0x49 of R223: `flagw`. -/
def decodeMajor49 (w : Nat) : Decoded :=
  .ok (.flagw (bits w 26 5) (bits w 13 6) (bits w 8 5) (bits w 3 5) (bits w 0 3))

/-- Major 0x4A of R223: `flagadd`, `flagwait`. -/
def decodeMajor4A (w : Nat) : Decoded :=
  match w / 2 ^ 18 % 2 with
  | 0 => .check (w / 2 ^ 0 % 2 ^ 5 == 0) (.flagadd (bits w 26 5) (bits w 10 8) (bits w 5 5))
  | _ => if (bits w 2 3).toNat < 4 then .check (w / 2 ^ 0 % 2 ^ 2 == 0) (.flagwait (bits w 26 5) (bits w 10 8) (bits w 5 5) (bits w 2 3)) else .undef

/-- Major 0x4B of R223: `bar`. -/
def decodeMajor4B (w : Nat) : Decoded :=
  if (bits w 16 2).toNat < 2 && !((bits w 18 1).toNat == 1 && (bits w 16 2).toNat == 0) then .check (w / 2 ^ 0 % 2 ^ 8 == 0) (.bar (bits w 26 5) (bits w 18 1) (bits w 16 2) (bits w 8 8)) else .undef

/-- Major 0x4C of R223: `cpy`. -/
def decodeMajor4C (w : Nat) : Decoded :=
  .check (w / 2 ^ 0 % 2 ^ 1 == 0 && (((bits w 6 1).toNat == 1 || (bits w 5 1).toNat == 1) == ((bits w 2 3).toNat != 0))) (.cpy (bits w 26 5) (bits w 15 4) (bits w 11 4) (bits w 7 4) (bits w 6 1) (bits w 5 1) (bits w 2 3) (bits w 1 1))

/-- Major 0x4D of R223: `cpyw`, `cpyq`. -/
def decodeMajor4D (w : Nat) : Decoded :=
  match w / 2 ^ 18 % 2 with
  | 0 => .check (w / 2 ^ 0 % 2 ^ 14 == 0 && w / 2 ^ 17 % 2 ^ 1 == 0) (.cpyw (bits w 26 5) (bits w 14 3))
  | _ => .check (w / 2 ^ 0 % 2 ^ 14 == 0) (.cpyq (bits w 26 5) (bits w 14 4))

/-- Major 0x4E of R223: `bop`. -/
def decodeMajor4E (w : Nat) : Decoded :=
  if (bits w 1 3).toNat < 5 && (bits w 4 4).toNat < 8 && !(3 <= (bits w 1 3).toNat && 3 <= (bits w 4 4).toNat && (bits w 4 4).toNat <= 5) && !((bits w 4 4).toNat == 7 && (3 <= (bits w 1 3).toNat || (bits w 8 2).toNat != 0)) && !((bits w 4 4).toNat == 6 && (bits w 8 2).toNat == 3) then .check (w / 2 ^ 0 % 2 ^ 1 == 0 && (!((bits w 8 2).toNat == 1 || (bits w 8 2).toNat == 2) || (bits w 14 5).toNat == 0)) (.bop (bits w 26 5) (bits w 14 5) (bits w 10 4) (bits w 8 2) (bits w 4 4) (bits w 1 3)) else .undef

/-- Major 0x4F of R223: `coll`. -/
def decodeMajor4F (w : Nat) : Decoded :=
  .check (w / 2 ^ 0 % 2 ^ 1 == 0 && (((bits w 6 1).toNat == 1 || (bits w 5 1).toNat == 1) == ((bits w 2 3).toNat != 0))) (.coll (bits w 26 5) (bits w 15 4) (bits w 11 4) (bits w 7 4) (bits w 6 1) (bits w 5 1) (bits w 2 3) (bits w 1 1))

/-- Major 0x50 of R223: `vadd`. -/
def decodeMajor50 (w : Nat) : Decoded :=
  .ok (.vadd (bits w 26 5) (bits w 14 5) (bits w 9 5) (bits w 4 5) (bits w 1 3) (bits w 0 1))

/-- Major 0x51 of R223: `vsub`. -/
def decodeMajor51 (w : Nat) : Decoded :=
  .ok (.vsub (bits w 26 5) (bits w 14 5) (bits w 9 5) (bits w 4 5) (bits w 1 3) (bits w 0 1))

/-- Major 0x52 of R223: `vmul`. -/
def decodeMajor52 (w : Nat) : Decoded :=
  .ok (.vmul (bits w 26 5) (bits w 14 5) (bits w 9 5) (bits w 4 5) (bits w 1 3) (bits w 0 1))

/-- Major 0x53 of R223: `vfma`. -/
def decodeMajor53 (w : Nat) : Decoded :=
  .ok (.vfma (bits w 26 5) (bits w 14 5) (bits w 9 5) (bits w 4 5) (bits w 1 3) (bits w 0 1))

/-- Major 0x54 of R223: `vfms`. -/
def decodeMajor54 (w : Nat) : Decoded :=
  .ok (.vfms (bits w 26 5) (bits w 14 5) (bits w 9 5) (bits w 4 5) (bits w 1 3) (bits w 0 1))

/-- Major 0x55 of R223: `vmax`. -/
def decodeMajor55 (w : Nat) : Decoded :=
  .ok (.vmax (bits w 26 5) (bits w 14 5) (bits w 9 5) (bits w 4 5) (bits w 1 3) (bits w 0 1))

/-- Major 0x56 of R223: `vmin`. -/
def decodeMajor56 (w : Nat) : Decoded :=
  .ok (.vmin (bits w 26 5) (bits w 14 5) (bits w 9 5) (bits w 4 5) (bits w 1 3) (bits w 0 1))

/-- Major 0x57 of R223: `vabs`, `vneg`, `vrcp`, `vrsq`. -/
def decodeMajor57 (w : Nat) : Decoded :=
  match w / 2 ^ 0 % 4 with
  | 0 => .check (w / 2 ^ 2 % 2 ^ 2 == 0) (.vabs (bits w 26 5) (bits w 14 5) (bits w 9 5) (bits w 6 3) (bits w 5 1) (bits w 4 1))
  | 1 => .check (w / 2 ^ 2 % 2 ^ 2 == 0) (.vneg (bits w 26 5) (bits w 14 5) (bits w 9 5) (bits w 6 3) (bits w 5 1) (bits w 4 1))
  | 2 => .ok (.vrcp (bits w 26 5) (bits w 14 5) (bits w 9 5) (bits w 6 3) (bits w 5 1) (bits w 4 1) (bits w 3 1) (bits w 2 1))
  | _ => .ok (.vrsq (bits w 26 5) (bits w 14 5) (bits w 9 5) (bits w 6 3) (bits w 5 1) (bits w 4 1) (bits w 3 1) (bits w 2 1))

/-- Major 0x58 of R223: `vexp2`, `vlog2`. -/
def decodeMajor58 (w : Nat) : Decoded :=
  match w / 2 ^ 0 % 4 with
  | 0 => .check (w / 2 ^ 2 % 2 ^ 2 == 0) (.vexp2 (bits w 26 5) (bits w 14 5) (bits w 9 5) (bits w 6 3) (bits w 5 1) (bits w 4 1))
  | 1 => .check (w / 2 ^ 2 % 2 ^ 2 == 0) (.vlog2 (bits w 26 5) (bits w 14 5) (bits w 9 5) (bits w 6 3) (bits w 5 1) (bits w 4 1))
  | _ => .undef

/-- Major 0x59 of R223: `vcvt_from_fp32`. -/
def decodeMajor59 (w : Nat) : Decoded :=
  if ((1 <= (bits w 4 5).toNat && (bits w 4 5).toNat <= 4) || (11 <= (bits w 4 5).toNat && (bits w 4 5).toNat <= 14)) && (bits w 1 3).toNat < 5 then .ok (.vcvtFromFp32 (bits w 26 5) (bits w 14 5) (bits w 9 5) (bits w 4 5) (bits w 1 3) (bits w 0 1)) else .undef

/-- Major 0x5A of R223: `vcvt_to_fp32`. -/
def decodeMajor5A (w : Nat) : Decoded :=
  if (1 <= (bits w 4 5).toNat && (bits w 4 5).toNat <= 4) || (11 <= (bits w 4 5).toNat && (bits w 4 5).toNat <= 14) then .check (w / 2 ^ 0 % 2 ^ 4 == 0) (.vcvtToFp32 (bits w 26 5) (bits w 14 5) (bits w 9 5) (bits w 4 5)) else .undef

/-- Major 0x5B of R223: `vquant`. -/
def decodeMajor5B (w : Nat) : Decoded :=
  if ((5 <= (bits w 4 5).toNat && (bits w 4 5).toNat <= 10) || (bits w 4 5).toNat == 16) && (bits w 1 3).toNat < 5 then .ok (.vquant (bits w 26 5) (bits w 14 5) (bits w 9 5) (bits w 4 5) (bits w 1 3) (bits w 0 1)) else .undef

/-- Major 0x5C of R223: `vdeq`. -/
def decodeMajor5C (w : Nat) : Decoded :=
  if (5 <= (bits w 4 5).toNat && (bits w 4 5).toNat <= 10) || (bits w 4 5).toNat == 16 then .check (w / 2 ^ 0 % 2 ^ 4 == 0) (.vdeq (bits w 26 5) (bits w 14 5) (bits w 9 5) (bits w 4 5)) else .undef

/-- Major 0x5D of R223: `vcmp`. -/
def decodeMajor5D (w : Nat) : Decoded :=
  .ok (.vcmp (bits w 26 5) (bits w 16 3) (bits w 11 5) (bits w 6 5) (bits w 3 3) (bits w 0 3))

/-- Major 0x5E of R223: `vsel`. -/
def decodeMajor5E (w : Nat) : Decoded :=
  .check (w / 2 ^ 0 % 2 ^ 1 == 0) (.vsel (bits w 26 5) (bits w 14 5) (bits w 9 5) (bits w 4 5) (bits w 1 3))

/-- Major 0x5F of R223: `vand`. -/
def decodeMajor5F (w : Nat) : Decoded :=
  .check (w / 2 ^ 0 % 2 ^ 1 == 0) (.vand (bits w 26 5) (bits w 14 5) (bits w 9 5) (bits w 4 5) (bits w 1 3))

/-- Major 0x60 of R223: `vor`. -/
def decodeMajor60 (w : Nat) : Decoded :=
  .check (w / 2 ^ 0 % 2 ^ 1 == 0) (.vor (bits w 26 5) (bits w 14 5) (bits w 9 5) (bits w 4 5) (bits w 1 3))

/-- Major 0x61 of R223: `vxor`. -/
def decodeMajor61 (w : Nat) : Decoded :=
  .check (w / 2 ^ 0 % 2 ^ 1 == 0) (.vxor (bits w 26 5) (bits w 14 5) (bits w 9 5) (bits w 4 5) (bits w 1 3))

/-- Major 0x62 of R223: `vnot`. -/
def decodeMajor62 (w : Nat) : Decoded :=
  match w / 2 ^ 0 % 4 with
  | 0 => .check (w / 2 ^ 2 % 2 ^ 4 == 0) (.vnot (bits w 26 5) (bits w 14 5) (bits w 9 5) (bits w 6 3))
  | _ => .undef

/-- Major 0x63 of R223: `vshl`. -/
def decodeMajor63 (w : Nat) : Decoded :=
  .check (w / 2 ^ 0 % 2 ^ 1 == 0) (.vshl (bits w 26 5) (bits w 14 5) (bits w 9 5) (bits w 4 5) (bits w 1 3))

/-- Major 0x64 of R223: `vshr`. -/
def decodeMajor64 (w : Nat) : Decoded :=
  .check (w / 2 ^ 0 % 2 ^ 1 == 0) (.vshr (bits w 26 5) (bits w 14 5) (bits w 9 5) (bits w 4 5) (bits w 1 3))

/-- Major 0x65 of R223: `vsar`. -/
def decodeMajor65 (w : Nat) : Decoded :=
  .check (w / 2 ^ 0 % 2 ^ 1 == 0) (.vsar (bits w 26 5) (bits w 14 5) (bits w 9 5) (bits w 4 5) (bits w 1 3))

/-- Major 0x66 of R223: `viadd`. -/
def decodeMajor66 (w : Nat) : Decoded :=
  .ok (.viadd (bits w 26 5) (bits w 14 5) (bits w 9 5) (bits w 4 5) (bits w 1 3) (bits w 0 1))

/-- Major 0x67 of R223: `vimul`. -/
def decodeMajor67 (w : Nat) : Decoded :=
  .ok (.vimul (bits w 26 5) (bits w 14 5) (bits w 9 5) (bits w 4 5) (bits w 1 3) (bits w 0 1))

/-- Major 0x68 of R223: `vred`. -/
def decodeMajor68 (w : Nat) : Decoded :=
  if (bits w 0 2).toNat < 3 then .check (w / 2 ^ 2 % 2 ^ 4 == 0) (.vred (bits w 26 5) (bits w 14 5) (bits w 9 5) (bits w 6 3) (bits w 0 2)) else .undef

/-- Major 0x69 of R223: `vperm`. -/
def decodeMajor69 (w : Nat) : Decoded :=
  .check (w / 2 ^ 0 % 2 ^ 1 == 0) (.vperm (bits w 26 5) (bits w 14 5) (bits w 9 5) (bits w 4 5) (bits w 1 3))

/-- Major 0x6A of R223: `vbcast`, `vsplat`, `viota`, `vmov`, `vmov_to_queue`, `vmov_from_queue`, `vmov_to_integer`. -/
def decodeMajor6A (w : Nat) : Decoded :=
  match w / 2 ^ 16 % 8 with
  | 0 => .ok (.vbcast (bits w 26 5) (bits w 11 5) (bits w 6 5) (bits w 0 6))
  | 1 => .check (w / 2 ^ 6 % 2 ^ 5 == 0) (.vsplat (bits w 26 5) (bits w 11 5) (bits w 0 6))
  | 2 => .check (w / 2 ^ 6 % 2 ^ 5 == 0) (.viota (bits w 26 5) (bits w 11 5) (bits w 0 6))
  | 3 => .check (w / 2 ^ 0 % 2 ^ 6 == 0) (.vmov (bits w 26 5) (bits w 11 5) (bits w 6 5))
  | 4 => .check (w / 2 ^ 4 % 2 ^ 2 == 0 && w / 2 ^ 11 % 2 ^ 5 == 0) (.vmovToQueue (bits w 26 5) (bits w 6 5) (bits w 0 4))
  | 5 => .check (w / 2 ^ 4 % 2 ^ 7 == 0) (.vmovFromQueue (bits w 26 5) (bits w 11 5) (bits w 0 4))
  | 6 => .ok (.vmovToInteger (bits w 26 5) (bits w 11 5) (bits w 6 5) (bits w 0 6))
  | _ => .undef

/-- Major 0x6B of R223: `vld`. -/
def decodeMajor6B (w : Nat) : Decoded :=
  .check (w / 2 ^ 3 % 2 ^ 1 == 0) (.vld (bits w 26 5) (bits w 14 5) (bits w 10 4) (bits w 7 3) (bits w 4 3) (bits w 0 3))

/-- Major 0x6C of R223: `vst`. -/
def decodeMajor6C (w : Nat) : Decoded :=
  .check (w / 2 ^ 3 % 2 ^ 1 == 0) (.vst (bits w 26 5) (bits w 14 5) (bits w 10 4) (bits w 7 3) (bits w 4 3) (bits w 0 3))

/-- Major 0x6D of R223: `vgath`. -/
def decodeMajor6D (w : Nat) : Decoded :=
  .ok (.vgath (bits w 26 5) (bits w 14 5) (bits w 10 4) (bits w 6 4) (bits w 3 3) (bits w 0 3))

/-- Major 0x6E of R223: `vscat`. -/
def decodeMajor6E (w : Nat) : Decoded :=
  .ok (.vscat (bits w 26 5) (bits w 14 5) (bits w 10 4) (bits w 6 4) (bits w 3 3) (bits w 0 3))

/-- Major 0x6F of R223: `mand`, `mor`, `mnot`, `mpop`, `mffs`. -/
def decodeMajor6F (w : Nat) : Decoded :=
  match w / 2 ^ 16 % 8 with
  | 0 => .check (w / 2 ^ 0 % 2 ^ 7 == 0) (.mand (bits w 26 5) (bits w 13 3) (bits w 10 3) (bits w 7 3))
  | 1 => .check (w / 2 ^ 0 % 2 ^ 7 == 0) (.mor (bits w 26 5) (bits w 13 3) (bits w 10 3) (bits w 7 3))
  | 2 => .check (w / 2 ^ 0 % 2 ^ 10 == 0) (.mnot (bits w 26 5) (bits w 13 3) (bits w 10 3))
  | 3 => .check (w / 2 ^ 0 % 2 ^ 2 == 0 && w / 2 ^ 7 % 2 ^ 3 == 0 && w / 2 ^ 13 % 2 ^ 3 == 0) (.mpop (bits w 26 5) (bits w 10 3) (bits w 2 5))
  | 4 => .check (w / 2 ^ 0 % 2 ^ 2 == 0 && w / 2 ^ 7 % 2 ^ 3 == 0 && w / 2 ^ 13 % 2 ^ 3 == 0) (.mffs (bits w 26 5) (bits w 10 3) (bits w 2 5))
  | _ => .undef

/-- Major 0x70 of R223: `mma`. -/
def decodeMajor70 (w : Nat) : Decoded :=
  .check (w / 2 ^ 0 % 2 ^ 3 == 0) (.mma (bits w 26 5) (bits w 15 4) (bits w 11 4) (bits w 7 4) (bits w 3 4))

/-- Major 0x71 of R223: `mmas`. -/
def decodeMajor71 (w : Nat) : Decoded :=
  .check (w / 2 ^ 0 % 2 ^ 3 == 0) (.mmas (bits w 26 5) (bits w 15 4) (bits w 11 4) (bits w 7 4) (bits w 3 4))

/-- Major 0x72 of R223: `mfft`. -/
def decodeMajor72 (w : Nat) : Decoded :=
  .check (w / 2 ^ 0 % 2 ^ 11 == 0) (.mfft (bits w 26 5) (bits w 15 4) (bits w 11 4))

/-- Major 0x73 of R223: `mtw`. -/
def decodeMajor73 (w : Nat) : Decoded :=
  .check (w / 2 ^ 0 % 2 ^ 14 == 0) (.mtw (bits w 26 5) (bits w 14 5))

/-- Major 0x74 of R223: `mzero`, `mtr`, `madd`, `mmov`, `msc`. -/
def decodeMajor74 (w : Nat) : Decoded :=
  match w / 2 ^ 16 % 8 with
  | 0 => if (bits w 1 3).toNat < 5 then .check (w / 2 ^ 0 % 2 ^ 1 == 0 && w / 2 ^ 4 % 2 ^ 8 == 0) (.mzero (bits w 26 5) (bits w 12 4) (bits w 1 3)) else .undef
  | 1 => .check (w / 2 ^ 0 % 2 ^ 8 == 0) (.mtr (bits w 26 5) (bits w 12 4) (bits w 8 4))
  | 2 => .check (w / 2 ^ 0 % 2 ^ 4 == 0) (.madd (bits w 26 5) (bits w 12 4) (bits w 8 4) (bits w 4 4))
  | 3 => .check (w / 2 ^ 0 % 2 ^ 8 == 0) (.mmov (bits w 26 5) (bits w 12 4) (bits w 8 4))
  | 4 => .check (w / 2 ^ 0 % 2 ^ 4 == 0) (.msc (bits w 26 5) (bits w 12 4) (bits w 8 4) (bits w 4 4))
  | _ => .undef

/-- Major 0x75 of R223: `mldz`, `mstz`. -/
def decodeMajor75 (w : Nat) : Decoded :=
  match w / 2 ^ 18 % 2 with
  | 0 => .check (w / 2 ^ 0 % 2 ^ 9 == 0) (.mldz (bits w 26 5) (bits w 14 4) (bits w 9 5))
  | _ => .check (w / 2 ^ 0 % 2 ^ 9 == 0) (.mstz (bits w 26 5) (bits w 14 4) (bits w 9 5))

/-- Major 0x76 of R223: `mcvt`. -/
def decodeMajor76 (w : Nat) : Decoded :=
  .check (w / 2 ^ 0 % 2 ^ 9 == 0) (.mcvt (bits w 26 5) (bits w 15 4) (bits w 10 5) (bits w 9 1))

/-- Major 0x77 of R223: `kvattn`. -/
def decodeMajor77 (w : Nat) : Decoded :=
  .check (w / 2 ^ 3 % 2 ^ 2 == 0) (.kvattn (bits w 26 5) (bits w 15 4) (bits w 10 5) (bits w 5 5) (bits w 0 3))

/-- Major 0x78 of R223: `kvapp`. -/
def decodeMajor78 (w : Nat) : Decoded :=
  .check (w / 2 ^ 3 % 2 ^ 1 == 0) (.kvapp (bits w 26 5) (bits w 14 5) (bits w 9 5) (bits w 4 5) (bits w 0 3))

/-- Major 0x79 of R223: `kvgrow`, `kvcmt`. -/
def decodeMajor79 (w : Nat) : Decoded :=
  match w / 2 ^ 18 % 2 with
  | 0 => .ok (.kvgrow (bits w 26 5) (bits w 13 5) (bits w 8 5) (bits w 3 5) (bits w 0 3))
  | _ => .ok (.kvcmt (bits w 26 5) (bits w 13 5) (bits w 8 5) (bits w 3 5) (bits w 0 3))

/-- Major 0x7A of R223: `kvld`. -/
def decodeMajor7A (w : Nat) : Decoded :=
  if (bits w 7 2).toNat != 3 then .check (w / 2 ^ 3 % 2 ^ 4 == 0) (.kvld (bits w 26 5) (bits w 14 5) (bits w 9 5) (bits w 7 2) (bits w 0 3)) else .undef

/-- Major 0x7C of R223: `csrr`. -/
def decodeMajor7C (w : Nat) : Decoded :=
  .check (w / 2 ^ 12 % 2 ^ 2 == 0) (.csrr (bits w 26 5) (bits w 14 5) (bits w 0 12))

/-- Major 0x7D of R223: `csrw`. -/
def decodeMajor7D (w : Nat) : Decoded :=
  .check (w / 2 ^ 12 % 2 ^ 2 == 0) (.csrw (bits w 26 5) (bits w 14 5) (bits w 0 12))

/-- Major 0x7E of R223: `tlbi`, `snap`, `evcfg`, `rwctl`. -/
def decodeMajor7E (w : Nat) : Decoded :=
  match w / 2 ^ 17 % 4 with
  | 0 => .check (w / 2 ^ 0 % 2 ^ 7 == 0) (.tlbi (bits w 26 5) (bits w 12 5) (bits w 7 5))
  | 1 => .check (w / 2 ^ 0 % 2 ^ 7 == 0) (.snap (bits w 26 5) (bits w 12 5) (bits w 7 5))
  | 2 => .check (w / 2 ^ 0 % 2 ^ 7 == 0) (.evcfg (bits w 26 5) (bits w 12 5) (bits w 7 5))
  | _ => .check (w / 2 ^ 0 % 2 ^ 7 == 0) (.rwctl (bits w 26 5) (bits w 12 5) (bits w 7 5))

/-- Major 0x7F of R223: `resume`. -/
def decodeMajor7F (w : Nat) : Decoded :=
  .check (w / 2 ^ 0 % 2 ^ 14 == 0) (.resume (bits w 26 5) (bits w 14 5))

/-- A 32-bit word (R207): its major opcode selects the row; an unassigned major is UNDEF. -/
def decode32 (w : Nat) : Decoded :=
  match w / 2 ^ 19 % 128 with
  | 0 => decodeMajor00 w
  | 1 => decodeMajor01 w
  | 2 => decodeMajor02 w
  | 3 => decodeMajor03 w
  | 4 => decodeMajor04 w
  | 5 => decodeMajor05 w
  | 6 => decodeMajor06 w
  | 7 => decodeMajor07 w
  | 8 => decodeMajor08 w
  | 9 => decodeMajor09 w
  | 10 => decodeMajor0A w
  | 16 => decodeMajor10 w
  | 17 => decodeMajor11 w
  | 18 => decodeMajor12 w
  | 19 => decodeMajor13 w
  | 20 => decodeMajor14 w
  | 21 => decodeMajor15 w
  | 22 => decodeMajor16 w
  | 23 => decodeMajor17 w
  | 24 => decodeMajor18 w
  | 25 => decodeMajor19 w
  | 26 => decodeMajor1A w
  | 27 => decodeMajor1B w
  | 28 => decodeMajor1C w
  | 29 => decodeMajor1D w
  | 30 => decodeMajor1E w
  | 48 => decodeMajor30 w
  | 49 => decodeMajor31 w
  | 50 => decodeMajor32 w
  | 51 => decodeMajor33 w
  | 52 => decodeMajor34 w
  | 53 => decodeMajor35 w
  | 54 => decodeMajor36 w
  | 55 => decodeMajor37 w
  | 56 => decodeMajor38 w
  | 57 => decodeMajor39 w
  | 58 => decodeMajor3A w
  | 59 => decodeMajor3B w
  | 60 => decodeMajor3C w
  | 61 => decodeMajor3D w
  | 62 => decodeMajor3E w
  | 63 => decodeMajor3F w
  | 64 => decodeMajor40 w
  | 65 => decodeMajor41 w
  | 66 => decodeMajor42 w
  | 67 => decodeMajor43 w
  | 68 => decodeMajor44 w
  | 69 => decodeMajor45 w
  | 72 => decodeMajor48 w
  | 73 => decodeMajor49 w
  | 74 => decodeMajor4A w
  | 75 => decodeMajor4B w
  | 76 => decodeMajor4C w
  | 77 => decodeMajor4D w
  | 78 => decodeMajor4E w
  | 79 => decodeMajor4F w
  | 80 => decodeMajor50 w
  | 81 => decodeMajor51 w
  | 82 => decodeMajor52 w
  | 83 => decodeMajor53 w
  | 84 => decodeMajor54 w
  | 85 => decodeMajor55 w
  | 86 => decodeMajor56 w
  | 87 => decodeMajor57 w
  | 88 => decodeMajor58 w
  | 89 => decodeMajor59 w
  | 90 => decodeMajor5A w
  | 91 => decodeMajor5B w
  | 92 => decodeMajor5C w
  | 93 => decodeMajor5D w
  | 94 => decodeMajor5E w
  | 95 => decodeMajor5F w
  | 96 => decodeMajor60 w
  | 97 => decodeMajor61 w
  | 98 => decodeMajor62 w
  | 99 => decodeMajor63 w
  | 100 => decodeMajor64 w
  | 101 => decodeMajor65 w
  | 102 => decodeMajor66 w
  | 103 => decodeMajor67 w
  | 104 => decodeMajor68 w
  | 105 => decodeMajor69 w
  | 106 => decodeMajor6A w
  | 107 => decodeMajor6B w
  | 108 => decodeMajor6C w
  | 109 => decodeMajor6D w
  | 110 => decodeMajor6E w
  | 111 => decodeMajor6F w
  | 112 => decodeMajor70 w
  | 113 => decodeMajor71 w
  | 114 => decodeMajor72 w
  | 115 => decodeMajor73 w
  | 116 => decodeMajor74 w
  | 117 => decodeMajor75 w
  | 118 => decodeMajor76 w
  | 119 => decodeMajor77 w
  | 120 => decodeMajor78 w
  | 121 => decodeMajor79 w
  | 122 => decodeMajor7A w
  | 124 => decodeMajor7C w
  | 125 => decodeMajor7D w
  | 126 => decodeMajor7E w
  | 127 => decodeMajor7F w
  | _ => .undef

/-- A compact word (R208), whose bit [15] is 0: its compact opcode selects the row. -/
def decode16 (w : Nat) : Decoded :=
  match w / 2 ^ 10 % 32 with
  | 1 => .check (w / 2 ^ 0 % 2 ^ 10 == 0) (.compactNop)
  | 2 => .ok (.compactMov (bits w 5 5) (bits w 0 5))
  | 3 => .ok (.compactAdd (bits w 5 5) (bits w 0 5))
  | 4 => .ok (.compactSub (bits w 5 5) (bits w 0 5))
  | 5 => .ok (.compactAnd (bits w 5 5) (bits w 0 5))
  | 6 => .ok (.compactAddi (bits w 5 5) (bits w 0 5))
  | 7 => .ok (.compactShli (bits w 5 5) (bits w 0 5))
  | 8 => .ok (.compactShri (bits w 5 5) (bits w 0 5))
  | 9 => .ok (.compactMovi (bits w 5 5) (bits w 0 5))
  | 10 => .ok (.compactLd (bits w 5 5) (bits w 0 5))
  | 11 => .ok (.compactSt (bits w 5 5) (bits w 0 5))
  | 12 => .check (w / 2 ^ 9 % 2 ^ 1 == 0) (.compactQpush (bits w 5 4) (bits w 0 5))
  | 13 => .check (w / 2 ^ 4 % 2 ^ 1 == 0) (.compactQpop (bits w 5 5) (bits w 0 4))
  | 14 => .check (w / 2 ^ 0 % 2 ^ 6 == 0) (.compactBr (bits w 6 4))
  | 15 => .check (w / 2 ^ 5 % 2 ^ 5 == 0) (.compactFqpush (bits w 0 5))
  | 16 => .check (w / 2 ^ 0 % 2 ^ 10 == 0) (.compactYield)
  | _ => .undef

/-- The word at halfword `odd` (0 or 1) of a container (R206): a 32-bit word when bit [31] is 1, otherwise the first or the second
compact word.  A container whose bit [31] is 0 and whose bit [15] is 1 is not an instruction (R208).  Bit [31] set and the second
halfword named is no instruction either: no pc of R211 reaches it. -/
def decodeContainer (c : Nat) (odd : Bool) : Decoded :=
  if c / 2 ^ 31 % 2 = 1 then (if odd then .undef else decode32 (c % 2 ^ 32))
  else if c / 2 ^ 15 % 2 = 1 then .undef
  else if odd then decode16 (c / 2 ^ 16 % 2 ^ 16) else decode16 (c % 2 ^ 16)

/-- The words an instruction is written in: a 32-bit container or a compact word. -/
inductive Code where
  | word (w : Nat)
  | compact (h : Nat)
  deriving DecidableEq, Repr


/-- A word made of its fixed bits and its fields, each placed at its lowest bit. -/
def place1 (base : Nat) {m : Nat} (x : BitVec m) (i : Nat) : Nat := base + x.toNat * 2 ^ i
/-- As `place1`, with two fields. -/
def place2 (base : Nat) {m n : Nat} (x : BitVec m) (i : Nat) (y : BitVec n) (j : Nat) : Nat := place1 base x i + y.toNat * 2 ^ j
/-- As `place1`, with three fields. -/
def place3 (base : Nat) {m n o : Nat} (x : BitVec m) (i : Nat) (y : BitVec n) (j : Nat) (z : BitVec o) (k : Nat) : Nat :=
  place2 base x i y j + z.toNat * 2 ^ k

/-- The encoder of the rows of majors 0x00 to 0x1E and of the compact words. -/
def encodeCore : Instr → Option Code
  | .blk l c => some (.word (place2 0x80000000 l 9 c 0))
  | .blkr l r => some (.word (place2 0x80080000 l 9 r 4))
  | .prep sy g t => some (.word (place3 0x80100000 sy 26 g 15 t 0))
  | .br sy g => some (.word (place2 0x80180000 sy 26 g 13))
  | .brl sy g => some (.word (place2 0x801A0000 sy 26 g 13))
  | .ret sy g => some (.word (place2 0x801C0000 sy 26 g 13))
  | .cmp sy g a b c => some (.word (place2 (place3 0x80200000 sy 26 g 15 a 10) b 5 c 2))
  | .cmpi sy g a c i => some (.word (place2 (place3 0x80280000 sy 26 g 15 a 10) c 7 i 0))
  | .tstp sy g p v t => some (.word (place2 (place3 0x80300000 sy 26 g 13 p 9) v 5 t 2))
  | .tstq sy g p v t => some (.word (place2 (place3 0x80320000 sy 26 g 13 p 9) v 5 t 2))
  | .tstm sy g p v t => some (.word (place2 (place3 0x80340000 sy 26 g 13 p 9) v 5 t 2))
  | .fork sy m => some (.word (place2 0x80380000 sy 26 m 14))
  | .join sy m => some (.word (place2 0x803C0000 sy 26 m 14))
  | .nop sy => some (.word (place1 0x80400000 sy 26))
  | .yield sy => some (.word (place1 0x80410000 sy 26))
  | .halt sy => some (.word (place1 0x80420000 sy 26))
  | .tfence sy => some (.word (place1 0x80430000 sy 26))
  | .trap sy c => some (.word (place2 0x80480000 sy 26 c 0))
  | .swap sy => some (.word (place1 0x80500000 sy 26))
  | .eret sy => some (.word (place1 0x80510000 sy 26))
  | .add sy d a b => some (.word (place1 (place3 0x80800000 sy 26 d 14 a 9) b 4))
  | .sub sy d a b => some (.word (place1 (place3 0x80800001 sy 26 d 14 a 9) b 4))
  | .mul sy d a b => some (.word (place1 (place3 0x80800002 sy 26 d 14 a 9) b 4))
  | .mulh sy d a b => some (.word (place1 (place3 0x80800003 sy 26 d 14 a 9) b 4))
  | .mulhu sy d a b => some (.word (place1 (place3 0x80800004 sy 26 d 14 a 9) b 4))
  | .div sy d a b => some (.word (place1 (place3 0x80800005 sy 26 d 14 a 9) b 4))
  | .divu sy d a b => some (.word (place1 (place3 0x80800006 sy 26 d 14 a 9) b 4))
  | .rem sy d a b => some (.word (place1 (place3 0x80800007 sy 26 d 14 a 9) b 4))
  | .remu sy d a b => some (.word (place1 (place3 0x80800008 sy 26 d 14 a 9) b 4))
  | .and sy d a b => some (.word (place1 (place3 0x80880000 sy 26 d 14 a 9) b 4))
  | .or sy d a b => some (.word (place1 (place3 0x80880001 sy 26 d 14 a 9) b 4))
  | .xor sy d a b => some (.word (place1 (place3 0x80880002 sy 26 d 14 a 9) b 4))
  | .shl sy d a b => some (.word (place1 (place3 0x80880003 sy 26 d 14 a 9) b 4))
  | .shr sy d a b => some (.word (place1 (place3 0x80880004 sy 26 d 14 a 9) b 4))
  | .sar sy d a b => some (.word (place1 (place3 0x80880005 sy 26 d 14 a 9) b 4))
  | .min sy d a b => some (.word (place1 (place3 0x80880006 sy 26 d 14 a 9) b 4))
  | .max sy d a b => some (.word (place1 (place3 0x80880007 sy 26 d 14 a 9) b 4))
  | .minu sy d a b => some (.word (place1 (place3 0x80880008 sy 26 d 14 a 9) b 4))
  | .maxu sy d a b => some (.word (place1 (place3 0x80880009 sy 26 d 14 a 9) b 4))
  | .sel sy d a b g => some (.word (place2 (place3 0x80900000 sy 26 d 14 a 9) b 4 g 0))
  | .lea sy d a b h => some (.word (place2 (place3 0x80980000 sy 26 d 14 a 9) b 4 h 0))
  | .clz sy d a => some (.word (place3 0x80A00000 sy 26 d 14 a 9))
  | .ctz sy d a => some (.word (place3 0x80A00001 sy 26 d 14 a 9))
  | .popc sy d a => some (.word (place3 0x80A00002 sy 26 d 14 a 9))
  | .ffs sy d a => some (.word (place3 0x80A00003 sy 26 d 14 a 9))
  | .mov sy d a => some (.word (place3 0x80A00004 sy 26 d 14 a 9))
  | .sext sy d a n => some (.word (place1 (place3 0x80A80000 sy 26 d 14 a 9) n 2))
  | .zext sy d a n => some (.word (place1 (place3 0x80A80100 sy 26 d 14 a 9) n 2))
  | .addi sy d a i => some (.word (place1 (place3 0x80B00000 sy 26 d 14 a 9) i 0))
  | .andi sy d a i => some (.word (place1 (place3 0x80B80000 sy 26 d 14 a 9) i 0))
  | .ori sy d a i => some (.word (place1 (place3 0x80C00000 sy 26 d 14 a 9) i 0))
  | .xori sy d a i => some (.word (place1 (place3 0x80C80000 sy 26 d 14 a 9) i 0))
  | .shli sy d a h => some (.word (place1 (place3 0x80D00000 sy 26 d 14 a 9) h 0))
  | .shri sy d a h => some (.word (place1 (place3 0x80D80000 sy 26 d 14 a 9) h 0))
  | .sari sy d a h => some (.word (place1 (place3 0x80E00000 sy 26 d 14 a 9) h 0))
  | .movi sy d i => some (.word (place3 0x80E80000 sy 26 d 14 i 0))
  | .movh sy d i => some (.word (place3 0x80F00000 sy 26 d 14 i 0))
  | .compactNop => some (.compact 0x0400)
  | .compactMov d a => some (.compact (place2 0x0800 d 5 a 0))
  | .compactAdd d a => some (.compact (place2 0x0C00 d 5 a 0))
  | .compactSub d a => some (.compact (place2 0x1000 d 5 a 0))
  | .compactAnd d a => some (.compact (place2 0x1400 d 5 a 0))
  | .compactAddi d i => some (.compact (place2 0x1800 d 5 i 0))
  | .compactShli d i => some (.compact (place2 0x1C00 d 5 i 0))
  | .compactShri d i => some (.compact (place2 0x2000 d 5 i 0))
  | .compactMovi d i => some (.compact (place2 0x2400 d 5 i 0))
  | .compactLd d a => some (.compact (place2 0x2800 d 5 a 0))
  | .compactSt d a => some (.compact (place2 0x2C00 d 5 a 0))
  | .compactQpush q a => some (.compact (place2 0x3000 q 5 a 0))
  | .compactQpop d q => some (.compact (place2 0x3400 d 5 q 0))
  | .compactBr g => some (.compact (place1 0x3800 g 6))
  | .compactFqpush a => some (.compact (place1 0x3C00 a 0))
  | .compactYield => some (.compact 0x4000)
  | _ => none

/-- The encoder of the rows of majors 0x30 to 0x4F. -/
def encodeMemory : Instr → Option Code
  | .ld sy d b z o f => some (.word (place3 (place3 0x81800000 sy 26 d 14 b 9) z 7 o 4 f 0))
  | .ldS sy d b z o p => some (.word (place3 (place3 0x81880000 sy 26 d 14 b 9) z 7 o 4 p 0))
  | .st sy d b z o f => some (.word (place3 (place3 0x81900000 sy 26 d 14 b 9) z 7 o 4 f 0))
  | .stS sy d b z o p => some (.word (place3 (place3 0x81980000 sy 26 d 14 b 9) z 7 o 4 p 0))
  | .ldq sy q b z o p => some (.word (place3 (place3 0x81A00000 sy 26 q 15 b 10) z 8 o 5 p 0))
  | .amo sy r c o p => some (.word (place2 (place3 0x81A80000 sy 26 r 15 c 11) o 8 p 0))
  | .cas sy r n z o p => some (.word (place3 (place3 0x81B00000 sy 26 r 15 n 10) z 9 o 6 p 0))
  | .lds sy d b z o p => some (.word (place3 (place3 0x81B80000 sy 26 d 14 b 9) z 7 o 4 p 0))
  | .sts sy d b z o p => some (.word (place3 (place3 0x81C00000 sy 26 d 14 b 9) z 7 o 4 p 0))
  | .pld sy d k z o p => some (.word (place3 (place3 0x81C80000 sy 26 d 14 k 10) z 7 o 3 p 0))
  | .pst sy d k z o p => some (.word (place3 (place3 0x81D00000 sy 26 d 14 k 10) z 7 o 3 p 0))
  | .pamo sy r k c z o p => some (.word (place1 (place3 (place3 0x81D80000 sy 26 r 15 k 11) c 7 z 6 o 3) p 0))
  | .pcas sy r k n z o p => some (.word (place1 (place3 (place3 0x81E00000 sy 26 r 15 k 11) n 7 z 6 o 3) p 0))
  | .pget sy a k b p => some (.word (place2 (place3 0x81E80000 sy 26 a 14 k 10) b 5 p 0))
  | .kld sy d k a o p => some (.word (place3 (place3 0x81F00000 sy 26 d 15 k 11) a 7 o 3 p 0))
  | .kder sy d k a b => some (.word (place2 (place3 0x81F80000 sy 26 d 13 k 9) a 5 b 1))
  | .kchk sy p k a b => some (.word (place2 (place3 0x81FA0000 sy 26 p 13 k 9) a 5 b 1))
  | .kmov sy d k => some (.word (place3 0x81FC0000 sy 26 d 13 k 9))
  | .lacq sy k a b p => some (.word (place2 (place3 0x82000000 sy 26 k 13 a 8) b 3 p 0))
  | .lrel sy k a b p => some (.word (place2 (place3 0x82020000 sy 26 k 13 a 8) b 3 p 0))
  | .lhand sy k a b p => some (.word (place2 (place3 0x82040000 sy 26 k 13 a 8) b 3 p 0))
  | .qpush sy q a => some (.word (place3 0x82080000 sy 26 q 15 a 9))
  | .qpushRing sy q a => some (.word (place3 0x82084000 sy 26 q 15 a 9))
  | .qpop sy q a => some (.word (place3 0x82100000 sy 26 q 15 a 9))
  | .qpopRing sy q a => some (.word (place3 0x82104000 sy 26 q 15 a 9))
  | .qcnt sy q d => some (.word (place3 0x82180000 sy 26 q 13 d 8))
  | .fqpush sy a => some (.word (place2 0x821A0000 sy 26 a 8))
  | .fqpushT sy a => some (.word (place2 0x821A2000 sy 26 a 8))
  | .fqclose sy => some (.word (place1 0x821C0000 sy 26))
  | .rmap sy n a p => some (.word (place1 (place3 0x82200000 sy 26 n 13 a 8) p 0))
  | .rflush sy n a o p => some (.word (place2 (place3 0x82220000 sy 26 n 13 a 8) o 5 p 0))
  | .rinv sy n a => some (.word (place3 0x82240000 sy 26 n 13 a 8))
  | .rcfgRegion sy n a b => some (.word (place1 (place3 0x82280000 sy 26 n 14 a 9) b 4))
  | .rcfgRing sy n a => some (.word (place3 0x822C0000 sy 26 n 14 a 9))
  | .fence sy o u => some (.word (place3 0x82400000 sy 26 o 16 u 15))
  | .flagw sy f a b p => some (.word (place2 (place3 0x82480000 sy 26 f 13 a 8) b 3 p 0))
  | .flagadd sy f a => some (.word (place3 0x82500000 sy 26 f 10 a 5))
  | .flagwait sy f a t => some (.word (place1 (place3 0x82540000 sy 26 f 10 a 5) t 2))
  | .bar sy t l i => some (.word (place1 (place3 0x82580000 sy 26 t 18 l 16) i 8))
  | .cpy sy d i c q l o b => some (.word (place2 (place3 (place3 0x82600000 sy 26 d 15 i 11) c 7 q 6 l 5) o 2 b 1))
  | .cpyw sy p => some (.word (place2 0x82680000 sy 26 p 14))
  | .cpyq sy d => some (.word (place2 0x826C0000 sy 26 d 14))
  | .bop sy d r k o f => some (.word (place3 (place3 0x82700000 sy 26 d 14 r 10) k 8 o 4 f 1))
  | .coll sy d i c q l o b => some (.word (place2 (place3 (place3 0x82780000 sy 26 d 15 i 11) c 7 q 6 l 5) o 2 b 1))
  | _ => none

/-- The encoder of the rows of majors 0x50 to 0x6F. -/
def encodeVector : Instr → Option Code
  | .vadd sy d a b m e => some (.word (place3 (place3 0x82800000 sy 26 d 14 a 9) b 4 m 1 e 0))
  | .vsub sy d a b m e => some (.word (place3 (place3 0x82880000 sy 26 d 14 a 9) b 4 m 1 e 0))
  | .vmul sy d a b m e => some (.word (place3 (place3 0x82900000 sy 26 d 14 a 9) b 4 m 1 e 0))
  | .vfma sy d a b m e => some (.word (place3 (place3 0x82980000 sy 26 d 14 a 9) b 4 m 1 e 0))
  | .vfms sy d a b m e => some (.word (place3 (place3 0x82A00000 sy 26 d 14 a 9) b 4 m 1 e 0))
  | .vmax sy d a b m e => some (.word (place3 (place3 0x82A80000 sy 26 d 14 a 9) b 4 m 1 e 0))
  | .vmin sy d a b m e => some (.word (place3 (place3 0x82B00000 sy 26 d 14 a 9) b 4 m 1 e 0))
  | .vabs sy d a m i o => some (.word (place3 (place3 0x82B80000 sy 26 d 14 a 9) m 6 i 5 o 4))
  | .vneg sy d a m i o => some (.word (place3 (place3 0x82B80001 sy 26 d 14 a 9) m 6 i 5 o 4))
  | .vrcp sy d a m i o t r => some (.word (place2 (place3 (place3 0x82B80002 sy 26 d 14 a 9) m 6 i 5 o 4) t 3 r 2))
  | .vrsq sy d a m i o t r => some (.word (place2 (place3 (place3 0x82B80003 sy 26 d 14 a 9) m 6 i 5 o 4) t 3 r 2))
  | .vexp2 sy d a m i o => some (.word (place3 (place3 0x82C00000 sy 26 d 14 a 9) m 6 i 5 o 4))
  | .vlog2 sy d a m i o => some (.word (place3 (place3 0x82C00001 sy 26 d 14 a 9) m 6 i 5 o 4))
  | .vcvtFromFp32 sy d a f r t => some (.word (place3 (place3 0x82C80000 sy 26 d 14 a 9) f 4 r 1 t 0))
  | .vcvtToFp32 sy d a f => some (.word (place1 (place3 0x82D00000 sy 26 d 14 a 9) f 4))
  | .vquant sy d a f r t => some (.word (place3 (place3 0x82D80000 sy 26 d 14 a 9) f 4 r 1 t 0))
  | .vdeq sy d a f => some (.word (place1 (place3 0x82E00000 sy 26 d 14 a 9) f 4))
  | .vcmp sy d a b t m => some (.word (place3 (place3 0x82E80000 sy 26 d 16 a 11) b 6 t 3 m 0))
  | .vsel sy d a b m => some (.word (place2 (place3 0x82F00000 sy 26 d 14 a 9) b 4 m 1))
  | .vand sy d a b m => some (.word (place2 (place3 0x82F80000 sy 26 d 14 a 9) b 4 m 1))
  | .vor sy d a b m => some (.word (place2 (place3 0x83000000 sy 26 d 14 a 9) b 4 m 1))
  | .vxor sy d a b m => some (.word (place2 (place3 0x83080000 sy 26 d 14 a 9) b 4 m 1))
  | .vnot sy d a m => some (.word (place1 (place3 0x83100000 sy 26 d 14 a 9) m 6))
  | .vshl sy d a b m => some (.word (place2 (place3 0x83180000 sy 26 d 14 a 9) b 4 m 1))
  | .vshr sy d a b m => some (.word (place2 (place3 0x83200000 sy 26 d 14 a 9) b 4 m 1))
  | .vsar sy d a b m => some (.word (place2 (place3 0x83280000 sy 26 d 14 a 9) b 4 m 1))
  | .viadd sy d a b m t => some (.word (place3 (place3 0x83300000 sy 26 d 14 a 9) b 4 m 1 t 0))
  | .vimul sy d a b m t => some (.word (place3 (place3 0x83380000 sy 26 d 14 a 9) b 4 m 1 t 0))
  | .vred sy d a m f => some (.word (place2 (place3 0x83400000 sy 26 d 14 a 9) m 6 f 0))
  | .vperm sy d a b m => some (.word (place2 (place3 0x83480000 sy 26 d 14 a 9) b 4 m 1))
  | .vbcast sy d a l => some (.word (place1 (place3 0x83500000 sy 26 d 11 a 6) l 0))
  | .vsplat sy d i => some (.word (place3 0x83510000 sy 26 d 11 i 0))
  | .viota sy d x => some (.word (place3 0x83520000 sy 26 d 11 x 0))
  | .vmov sy d a => some (.word (place3 0x83530000 sy 26 d 11 a 6))
  | .vmovToQueue sy a q => some (.word (place3 0x83540000 sy 26 a 6 q 0))
  | .vmovFromQueue sy d q => some (.word (place3 0x83550000 sy 26 d 11 q 0))
  | .vmovToInteger sy d a l => some (.word (place1 (place3 0x83560000 sy 26 d 11 a 6) l 0))
  | .vld sy d a m o p => some (.word (place3 (place3 0x83580000 sy 26 d 14 a 10) m 7 o 4 p 0))
  | .vst sy d a m o p => some (.word (place3 (place3 0x83600000 sy 26 d 14 a 10) m 7 o 4 p 0))
  | .vgath sy d a b m p => some (.word (place3 (place3 0x83680000 sy 26 d 14 a 10) b 6 m 3 p 0))
  | .vscat sy d a b m p => some (.word (place3 (place3 0x83700000 sy 26 d 14 a 10) b 6 m 3 p 0))
  | .mand sy d a b => some (.word (place1 (place3 0x83780000 sy 26 d 13 a 10) b 7))
  | .mor sy d a b => some (.word (place1 (place3 0x83790000 sy 26 d 13 a 10) b 7))
  | .mnot sy d a => some (.word (place3 0x837A0000 sy 26 d 13 a 10))
  | .mpop sy a r => some (.word (place3 0x837B0000 sy 26 a 10 r 2))
  | .mffs sy a r => some (.word (place3 0x837C0000 sy 26 a 10 r 2))
  | _ => none

/-- The encoder of the rows of majors 0x70 to 0x7F. -/
def encodeMatrix : Instr → Option Code
  | .mma sy d c a b => some (.word (place2 (place3 0x83800000 sy 26 d 15 c 11) a 7 b 3))
  | .mmas sy d c a b => some (.word (place2 (place3 0x83880000 sy 26 d 15 c 11) a 7 b 3))
  | .mfft sy r i => some (.word (place3 0x83900000 sy 26 r 15 i 11))
  | .mtw sy a => some (.word (place2 0x83980000 sy 26 a 14))
  | .mzero sy d m => some (.word (place3 0x83A00000 sy 26 d 12 m 1))
  | .mtr sy d a => some (.word (place3 0x83A10000 sy 26 d 12 a 8))
  | .madd sy d a b => some (.word (place1 (place3 0x83A20000 sy 26 d 12 a 8) b 4))
  | .mmov sy d a => some (.word (place3 0x83A30000 sy 26 d 12 a 8))
  | .msc sy d a i => some (.word (place1 (place3 0x83A40000 sy 26 d 12 a 8) i 4))
  | .mldz sy z a => some (.word (place3 0x83A80000 sy 26 z 14 a 9))
  | .mstz sy z a => some (.word (place3 0x83AC0000 sy 26 z 14 a 9))
  | .mcvt sy z a t => some (.word (place1 (place3 0x83B00000 sy 26 z 15 a 10) t 9))
  | .kvattn sy d a b p => some (.word (place2 (place3 0x83B80000 sy 26 d 15 a 10) b 5 p 0))
  | .kvapp sy a b c p => some (.word (place2 (place3 0x83C00000 sy 26 a 14 b 9) c 4 p 0))
  | .kvgrow sy a b c p => some (.word (place2 (place3 0x83C80000 sy 26 a 13 b 8) c 3 p 0))
  | .kvcmt sy a b c p => some (.word (place2 (place3 0x83CC0000 sy 26 a 13 b 8) c 3 p 0))
  | .kvld sy d a w p => some (.word (place2 (place3 0x83D00000 sy 26 d 14 a 9) w 7 p 0))
  | .csrr sy d c => some (.word (place3 0x83E00000 sy 26 d 14 c 0))
  | .csrw sy a c => some (.word (place3 0x83E80000 sy 26 a 14 c 0))
  | .tlbi sy a b => some (.word (place3 0x83F00000 sy 26 a 12 b 7))
  | .snap sy d b => some (.word (place3 0x83F20000 sy 26 d 12 b 7))
  | .evcfg sy a b => some (.word (place3 0x83F40000 sy 26 a 12 b 7))
  | .rwctl sy a b => some (.word (place3 0x83F60000 sy 26 a 12 b 7))
  | .resume sy a => some (.word (place2 0x83F80000 sy 26 a 14))
  | _ => none

/-- The encoder: the word of R223 or R208 that stands for an instruction; the steps that have no word have none. -/
def encode (i : Instr) : Option Code :=
  (encodeCore i).or ((encodeMemory i).or ((encodeVector i).or (encodeMatrix i)))


/-- The container that holds a code as its first word; the other halfword of a compact word's container is 0. -/
def Code.container : Code → Nat
  | .word w => w
  | .compact h => h

/-- The instruction that a container's first word holds, where it is a legal one. -/
def Decoded.instr? : Decoded → Option Instr
  | .ok i => some i
  | .undef => none
  | .resv _ => none

/-- The instruction this decoder reads from an opcode-table word of `nbits` bits: a container of one 32-bit word, or a container
whose first compact word it is and whose second halfword is 0. -/
def decodeTableWord (nbits w : Nat) : Option Instr :=
  if nbits ≤ 16 then (decodeContainer (w % 2 ^ 16) false).instr? else (decodeContainer (w % 2 ^ 32) false).instr?

end Sys2Proof
end

