-- ==== Sys2Proof/Machine/Operands.lean ====
section
/-!
DEFINITION. What the issue logic asks of an instruction before it acts: the clusters that implement it (R223, order 2 of R224), its
register operands with their ranges (R218, order 4 of R224) and for the wait on outstanding results (R216, R258), its width, its sync
bits and whether it is a block header.
-/

namespace Sys2Proof.Machine

/-- The cluster that a queue register's entries come from (R176). -/
def queueSource (q : Nat) : Cluster :=
  if q ≤ 9 then .a else if q = 10 then .m else if q ≤ 13 then .v else if q = 14 then .d else .m

/-- The cluster that a queue register's entries go to (R176). -/
def queueDest (q : Nat) : Cluster :=
  if q ≤ 3 then .m else if q ≤ 7 then .v else if q ≤ 9 then .d else if q = 10 then .v else if q = 11 then .m
  else if q ≤ 13 then .d else .a

/-- The depth of a queue register (R176). -/
def queueDepth (q : Nat) : Nat :=
  if q ≤ 3 then 8 else if q ≤ 9 then 16 else if q ≤ 11 then 4 else if q ≤ 14 then 8 else 4

/-- Whether a cluster implements an instruction (R223; queue endpoints R176). The steps without a word belong to no cluster. -/
def clusterOk (i : Instr) (c : Cluster) : Bool :=
  match i with
  | .tstq _ _ p _ _ => c == queueDest p.toNat
  | .tstm _ _ _ _ _ => c == .v
  | .fork _ _ => c == .a
  | .join _ _ => c == .a
  | .swap _ => c == .a
  | .eret _ => c == .a
  | .compactLd _ _ => c == .a || c == .d
  | .compactSt _ _ => c == .a || c == .d
  | .compactQpush q _ => c == queueSource q.toNat
  | .compactQpop _ q => c == queueDest q.toNat
  | .compactFqpush _ => c == .a
  | .ld _ _ _ _ _ _ => c == .a || c == .d
  | .ldS _ _ _ _ _ _ => c == .a || c == .d
  | .st _ _ _ _ _ _ => c == .a || c == .d
  | .stS _ _ _ _ _ _ => c == .a || c == .d
  | .ldq _ q _ _ _ _ => c == .a && q.toNat ≤ 9
  | .amo _ _ _ _ _ => c == .a
  | .cas _ _ _ _ _ _ => c == .a
  | .lds _ _ _ _ _ _ => c == .a || c == .d
  | .sts _ _ _ _ _ _ => c == .a || c == .d
  | .pld _ _ _ _ _ _ => c == .a
  | .pst _ _ _ _ _ _ => c == .a
  | .pamo _ _ _ _ _ _ _ => c == .a
  | .pcas _ _ _ _ _ _ _ => c == .a
  | .pget _ _ _ _ _ => c == .a
  | .kld _ _ _ _ _ _ => c == .a
  | .kder _ _ _ _ _ => c == .a
  | .kchk _ _ _ _ _ => c == .a
  | .kmov _ _ _ => c == .a
  | .lacq _ _ _ _ _ => c == .a
  | .lrel _ _ _ _ _ => c == .a
  | .lhand _ _ _ _ _ => c == .a
  | .qpush _ q _ => c == queueSource q.toNat
  | .qpop _ q _ => c == queueDest q.toNat
  | .qcnt _ q _ => c == queueDest q.toNat
  | .fqpush _ _ => c == .a
  | .fqpushT _ _ => c == .a
  | .fqclose _ => c == .a
  | .rmap _ _ _ _ => c == .a
  | .rflush _ _ _ _ _ => c == .a
  | .rinv _ _ _ => c == .a
  | .rcfgRegion _ _ _ _ => c == .a
  | .rcfgRing _ _ _ => c == .a
  | .flagw _ _ _ _ _ => c == .a || c == .d
  | .flagadd _ _ _ => c == .a || c == .d
  | .flagwait _ _ _ _ => c == .a || c == .d
  | .bar _ _ _ _ => c == .a
  | .cpy _ _ _ _ _ _ _ _ => c == .d
  | .cpyw _ _ => c == .d
  | .cpyq _ _ => c == .d
  | .bop _ _ _ _ _ _ => c == .a
  | .coll _ _ _ _ _ _ _ _ => c == .d
  | .vadd _ _ _ _ _ _ => c == .v
  | .vsub _ _ _ _ _ _ => c == .v
  | .vmul _ _ _ _ _ _ => c == .v
  | .vfma _ _ _ _ _ _ => c == .v
  | .vfms _ _ _ _ _ _ => c == .v
  | .vmax _ _ _ _ _ _ => c == .v
  | .vmin _ _ _ _ _ _ => c == .v
  | .vabs _ _ _ _ _ _ => c == .v
  | .vneg _ _ _ _ _ _ => c == .v
  | .vrcp _ _ _ _ _ _ _ _ => c == .v
  | .vrsq _ _ _ _ _ _ _ _ => c == .v
  | .vexp2 _ _ _ _ _ _ => c == .v
  | .vlog2 _ _ _ _ _ _ => c == .v
  | .vcvtFromFp32 _ _ _ _ _ _ => c == .v
  | .vcvtToFp32 _ _ _ _ => c == .v
  | .vquant _ _ _ _ _ _ => c == .v
  | .vdeq _ _ _ _ => c == .v
  | .vcmp _ _ _ _ _ _ => c == .v
  | .vsel _ _ _ _ _ => c == .v
  | .vand _ _ _ _ _ => c == .v
  | .vor _ _ _ _ _ => c == .v
  | .vxor _ _ _ _ _ => c == .v
  | .vnot _ _ _ _ => c == .v
  | .vshl _ _ _ _ _ => c == .v
  | .vshr _ _ _ _ _ => c == .v
  | .vsar _ _ _ _ _ => c == .v
  | .viadd _ _ _ _ _ _ => c == .v
  | .vimul _ _ _ _ _ _ => c == .v
  | .vred _ _ _ _ _ => c == .v
  | .vperm _ _ _ _ _ => c == .v
  | .vbcast _ _ _ _ => c == .v
  | .vsplat _ _ _ => c == .v
  | .viota _ _ _ => c == .v
  | .vmov _ _ _ => c == .v
  | .vmovToQueue _ _ q => c == .v && queueSource q.toNat == .v
  | .vmovFromQueue _ _ q => c == .v && queueDest q.toNat == .v
  | .vmovToInteger _ _ _ _ => c == .v
  | .vld _ _ _ _ _ _ => c == .v
  | .vst _ _ _ _ _ _ => c == .v
  | .vgath _ _ _ _ _ _ => c == .v
  | .vscat _ _ _ _ _ _ => c == .v
  | .mand _ _ _ _ => c == .v
  | .mor _ _ _ _ => c == .v
  | .mnot _ _ _ => c == .v
  | .mpop _ _ _ => c == .v
  | .mffs _ _ _ => c == .v
  | .mma _ _ _ _ _ => c == .m
  | .mmas _ _ _ _ _ => c == .m
  | .mfft _ _ _ => c == .m
  | .mtw _ _ => c == .m
  | .mzero _ _ _ => c == .m
  | .mtr _ _ _ => c == .m
  | .madd _ _ _ _ => c == .m
  | .mmov _ _ _ => c == .m
  | .msc _ _ _ _ => c == .m
  | .mldz _ _ _ => c == .m
  | .mstz _ _ _ => c == .m
  | .mcvt _ _ _ _ => c == .m
  | .kvattn _ _ _ _ _ => c == .m
  | .kvapp _ _ _ _ _ => c == .m
  | .kvgrow _ _ _ _ _ => c == .m
  | .kvcmt _ _ _ _ _ => c == .m
  | .kvld _ _ _ _ _ => c == .m
  | .tlbi _ _ _ => c == .a
  | .snap _ _ _ => c == .a
  | .evcfg _ _ _ => c == .a
  | .rwctl _ _ _ => c == .a
  | .resume _ _ => c == .a
  | _ => true

/-- A register operand, for its range (R218, R259) and for the wait on an outstanding result. -/
inductive Operand where
  /-- An integer register of the executing cluster: 16 to 31 are REG outside A. -/
  | x (n : Nat)
  /-- An even integer register (R223, R267). -/
  | even (n : Nat)
  /-- a0 to a15 in a 5-bit field (R264). -/
  | low (n : Nat)
  /-- A k register. -/
  | k (n : Nat)
  /-- A vector register. -/
  | v (n : Nat)
  /-- A steer register: 12 to 15 are REG. -/
  | g (n : Nat)
  /-- A p register that is read: 8 to 15 are REG. -/
  | p (n : Nat)
  /-- A mask register that is read through a 4-bit field: 8 to 15 are REG. -/
  | m (n : Nat)
  /-- A mask register that is written: 0 is REG. -/
  | md (n : Nat)
  /-- A ps field: 0 is the plain form. -/
  | ps (n : Nat)
  /-- A ps field that shall be 1 to 7. -/
  | ps1 (n : Nat)
  deriving DecidableEq, Repr

/-- The range test of one operand (order 4 of R224). -/
def Operand.legal (c : Cluster) : Operand → Bool
  | .x n => c == .a || n < 16
  | .even n => n % 2 == 0 && (c == .a || n < 16)
  | .low n => n < 16
  | .k _ => true
  | .v _ => true
  | .g n => n < 12
  | .p n => n < 8
  | .m n => n < 8
  | .md n => n != 0
  | .ps _ => true
  | .ps1 n => n != 0 && n < 8

/-- The register of an operand that an outstanding operation may still write. -/
def Operand.reg : Operand → Option Reg
  | .x n => some (.x n)
  | .even n => some (.x n)
  | .low n => some (.x n)
  | .k n => some (.k n)
  | .v n => some (.v n)
  | .p n => if n = 0 then none else some (.p n)
  | .ps n => if n = 0 then none else some (.p n)
  | .ps1 n => some (.p n)
  | .g _ => none
  | .m _ => none
  | .md _ => none

/-- The register operands of an instruction. -/
def operands : Instr → List Operand
  | .blkr _ r => [.x r.toNat]
  | .prep _ g _ => [.g g.toNat]
  | .br _ g => [.g g.toNat]
  | .brl _ g => [.g g.toNat]
  | .ret _ g => [.g g.toNat]
  | .cmp _ g a b _ => [.g g.toNat, .x a.toNat, .x b.toNat]
  | .cmpi _ g a _ _ => [.g g.toNat, .x a.toNat]
  | .tstp _ g p _ _ => [.g g.toNat, .p p.toNat]
  | .tstq _ g _ _ _ => [.g g.toNat]
  | .tstm _ g p _ _ => [.g g.toNat, .m p.toNat]
  | .add _ d a b => [.x d.toNat, .x a.toNat, .x b.toNat]
  | .sub _ d a b => [.x d.toNat, .x a.toNat, .x b.toNat]
  | .mul _ d a b => [.x d.toNat, .x a.toNat, .x b.toNat]
  | .mulh _ d a b => [.x d.toNat, .x a.toNat, .x b.toNat]
  | .mulhu _ d a b => [.x d.toNat, .x a.toNat, .x b.toNat]
  | .div _ d a b => [.x d.toNat, .x a.toNat, .x b.toNat]
  | .divu _ d a b => [.x d.toNat, .x a.toNat, .x b.toNat]
  | .rem _ d a b => [.x d.toNat, .x a.toNat, .x b.toNat]
  | .remu _ d a b => [.x d.toNat, .x a.toNat, .x b.toNat]
  | .and _ d a b => [.x d.toNat, .x a.toNat, .x b.toNat]
  | .or _ d a b => [.x d.toNat, .x a.toNat, .x b.toNat]
  | .xor _ d a b => [.x d.toNat, .x a.toNat, .x b.toNat]
  | .shl _ d a b => [.x d.toNat, .x a.toNat, .x b.toNat]
  | .shr _ d a b => [.x d.toNat, .x a.toNat, .x b.toNat]
  | .sar _ d a b => [.x d.toNat, .x a.toNat, .x b.toNat]
  | .min _ d a b => [.x d.toNat, .x a.toNat, .x b.toNat]
  | .max _ d a b => [.x d.toNat, .x a.toNat, .x b.toNat]
  | .minu _ d a b => [.x d.toNat, .x a.toNat, .x b.toNat]
  | .maxu _ d a b => [.x d.toNat, .x a.toNat, .x b.toNat]
  | .sel _ d a b g => [.x d.toNat, .x a.toNat, .x b.toNat, .g g.toNat]
  | .lea _ d a b _ => [.x d.toNat, .x a.toNat, .x b.toNat]
  | .clz _ d a => [.x d.toNat, .x a.toNat]
  | .ctz _ d a => [.x d.toNat, .x a.toNat]
  | .popc _ d a => [.x d.toNat, .x a.toNat]
  | .ffs _ d a => [.x d.toNat, .x a.toNat]
  | .mov _ d a => [.x d.toNat, .x a.toNat]
  | .sext _ d a _ => [.x d.toNat, .x a.toNat]
  | .zext _ d a _ => [.x d.toNat, .x a.toNat]
  | .addi _ d a _ => [.x d.toNat, .x a.toNat]
  | .andi _ d a _ => [.x d.toNat, .x a.toNat]
  | .ori _ d a _ => [.x d.toNat, .x a.toNat]
  | .xori _ d a _ => [.x d.toNat, .x a.toNat]
  | .shli _ d a _ => [.x d.toNat, .x a.toNat]
  | .shri _ d a _ => [.x d.toNat, .x a.toNat]
  | .sari _ d a _ => [.x d.toNat, .x a.toNat]
  | .movi _ d _ => [.x d.toNat]
  | .movh _ d _ => [.x d.toNat]
  | .compactMov d a => [.x d.toNat, .x a.toNat]
  | .compactAdd d a => [.x d.toNat, .x a.toNat]
  | .compactSub d a => [.x d.toNat, .x a.toNat]
  | .compactAnd d a => [.x d.toNat, .x a.toNat]
  | .compactAddi d _ => [.x d.toNat]
  | .compactShli d _ => [.x d.toNat]
  | .compactShri d _ => [.x d.toNat]
  | .compactMovi d _ => [.x d.toNat]
  | .compactLd d a => [.x d.toNat, .x a.toNat]
  | .compactSt d a => [.x d.toNat, .x a.toNat]
  | .compactQpush _ a => [.x a.toNat]
  | .compactQpop d _ => [.x d.toNat]
  | .compactBr g => [.g g.toNat]
  | .compactFqpush a => [.x a.toNat]
  | .ld _ d b _ _ _ => [.x d.toNat, .x b.toNat]
  | .ldS _ d b _ _ p => [.x d.toNat, .x b.toNat, .ps1 p.toNat]
  | .st _ d b _ _ _ => [.x d.toNat, .x b.toNat]
  | .stS _ d b _ _ p => [.x d.toNat, .x b.toNat, .ps1 p.toNat]
  | .ldq _ _ b _ _ p => [.x b.toNat, .ps p.toNat]
  | .amo _ r _ _ p => [.x (2 * r.toNat), .x (2 * r.toNat + 1), .ps p.toNat]
  | .cas _ r n _ _ p => [.x (2 * r.toNat), .x (2 * r.toNat + 1), .low n.toNat, .ps p.toNat]
  | .lds _ d b _ _ p => [.x d.toNat, .x b.toNat, .ps p.toNat]
  | .sts _ d b _ _ p => [.x d.toNat, .x b.toNat, .ps p.toNat]
  | .pld _ d k z _ p => [if z = 7 then .even d.toNat else .x d.toNat, if z = 7 then .x (d.toNat + 1) else .x d.toNat, .k k.toNat, .ps p.toNat]
  | .pst _ d k _ _ p => [.even d.toNat, .x (d.toNat + 1), .k k.toNat, .ps p.toNat]
  | .pamo _ r k _ _ _ p => [.x (2 * r.toNat), .x (2 * r.toNat + 1), .k k.toNat, .ps p.toNat]
  | .pcas _ r k n _ _ p => [.x (2 * r.toNat), .x (2 * r.toNat + 1), .k k.toNat, .x n.toNat, .ps p.toNat]
  | .pget _ a k b p => [.x a.toNat, .k k.toNat, .x b.toNat, .ps p.toNat]
  | .kld _ d k a _ p => [.k d.toNat, .k k.toNat, .x a.toNat, .ps p.toNat]
  | .kder _ d k a b => [.k d.toNat, .k k.toNat, .x a.toNat, .x b.toNat]
  | .kchk _ p k a b => [.ps1 p.toNat, .k k.toNat, .x a.toNat, .x b.toNat]
  | .kmov _ d k => [.k d.toNat, .k k.toNat]
  | .lacq _ k a b p => [.k k.toNat, .x a.toNat, .x b.toNat, .ps p.toNat]
  | .lrel _ k a b p => [.k k.toNat, .x a.toNat, .x b.toNat, .ps p.toNat]
  | .lhand _ k a b p => [.k k.toNat, .x a.toNat, .x b.toNat, .ps p.toNat]
  | .qpush _ _ a => [.x a.toNat]
  | .qpushRing _ _ a => [.x a.toNat]
  | .qpop _ _ a => [.x a.toNat]
  | .qpopRing _ _ a => [.x a.toNat]
  | .qcnt _ _ d => [.x d.toNat]
  | .fqpush _ a => [.x a.toNat]
  | .fqpushT _ a => [.x a.toNat]
  | .rmap _ _ a p => [.x a.toNat, .ps p.toNat]
  | .rflush _ _ a _ p => [.x a.toNat, .ps p.toNat]
  | .rinv _ _ a => [.x a.toNat]
  | .rcfgRegion _ _ a b => [.x a.toNat, .x b.toNat]
  | .rcfgRing _ _ a => [.x a.toNat]
  | .flagw _ _ a b p => [.x a.toNat, .x b.toNat, .ps p.toNat]
  | .flagadd _ _ a => [.x a.toNat]
  | .flagwait _ _ a _ => [.x a.toNat]
  | .cpy _ d i c _ _ _ _ => [.x d.toNat, .x i.toNat, .x c.toNat]
  | .cpyq _ d => [.x d.toNat]
  | .bop _ d r _ _ _ => [.x d.toNat, .x (2 * r.toNat), .x (2 * r.toNat + 1)]
  | .coll _ d i c _ _ _ _ => [.x d.toNat, .x i.toNat, .x c.toNat]
  | .vadd _ d a b _ _ => [.v d.toNat, .v a.toNat, .v b.toNat]
  | .vsub _ d a b _ _ => [.v d.toNat, .v a.toNat, .v b.toNat]
  | .vmul _ d a b _ _ => [.v d.toNat, .v a.toNat, .v b.toNat]
  | .vfma _ d a b _ _ => [.v d.toNat, .v a.toNat, .v b.toNat]
  | .vfms _ d a b _ _ => [.v d.toNat, .v a.toNat, .v b.toNat]
  | .vmax _ d a b _ _ => [.v d.toNat, .v a.toNat, .v b.toNat]
  | .vmin _ d a b _ _ => [.v d.toNat, .v a.toNat, .v b.toNat]
  | .vabs _ d a _ _ _ => [.v d.toNat, .v a.toNat]
  | .vneg _ d a _ _ _ => [.v d.toNat, .v a.toNat]
  | .vrcp _ d a _ _ _ _ _ => [.v d.toNat, .v a.toNat]
  | .vrsq _ d a _ _ _ _ _ => [.v d.toNat, .v a.toNat]
  | .vexp2 _ d a _ _ _ => [.v d.toNat, .v a.toNat]
  | .vlog2 _ d a _ _ _ => [.v d.toNat, .v a.toNat]
  | .vcvtFromFp32 _ d a _ _ _ => [.v d.toNat, .v a.toNat]
  | .vcvtToFp32 _ d a _ => [.v d.toNat, .v a.toNat]
  | .vquant _ d a _ _ _ => [.v d.toNat, .v a.toNat]
  | .vdeq _ d a _ => [.v d.toNat, .v a.toNat]
  | .vcmp _ d a b _ _ => [.md d.toNat, .v a.toNat, .v b.toNat]
  | .vsel _ d a b _ => [.v d.toNat, .v a.toNat, .v b.toNat]
  | .vand _ d a b _ => [.v d.toNat, .v a.toNat, .v b.toNat]
  | .vor _ d a b _ => [.v d.toNat, .v a.toNat, .v b.toNat]
  | .vxor _ d a b _ => [.v d.toNat, .v a.toNat, .v b.toNat]
  | .vnot _ d a _ => [.v d.toNat, .v a.toNat]
  | .vshl _ d a b _ => [.v d.toNat, .v a.toNat, .v b.toNat]
  | .vshr _ d a b _ => [.v d.toNat, .v a.toNat, .v b.toNat]
  | .vsar _ d a b _ => [.v d.toNat, .v a.toNat, .v b.toNat]
  | .viadd _ d a b _ _ => [.v d.toNat, .v a.toNat, .v b.toNat]
  | .vimul _ d a b _ _ => [.v d.toNat, .v a.toNat, .v b.toNat]
  | .vred _ d a _ _ => [.v d.toNat, .v a.toNat]
  | .vperm _ d a b _ => [.v d.toNat, .v a.toNat, .v b.toNat]
  | .vbcast _ d a _ => [.v d.toNat, .v a.toNat]
  | .vsplat _ d i => [.v d.toNat, .x i.toNat]
  | .viota _ d _ => [.v d.toNat]
  | .vmov _ d a => [.v d.toNat, .v a.toNat]
  | .vmovToQueue _ a _ => [.v a.toNat]
  | .vmovFromQueue _ d _ => [.v d.toNat]
  | .vmovToInteger _ d a _ => [.x d.toNat, .v a.toNat]
  | .vld _ d a _ _ p => [.v d.toNat, .x a.toNat, .ps p.toNat]
  | .vst _ d a _ _ p => [.v d.toNat, .x a.toNat, .ps p.toNat]
  | .vgath _ d a b _ p => [.v d.toNat, .x a.toNat, .v b.toNat, .ps p.toNat]
  | .vscat _ d a b _ p => [.v d.toNat, .x a.toNat, .v b.toNat, .ps p.toNat]
  | .mand _ d _ _ => [.md d.toNat]
  | .mor _ d _ _ => [.md d.toNat]
  | .mnot _ d _ => [.md d.toNat]
  | .mpop _ _ r => [.x r.toNat]
  | .mffs _ _ r => [.x r.toNat]
  | .mtw _ a => [.x a.toNat]
  | .msc _ _ _ i => [.x i.toNat]
  | .mldz _ _ a => [.x a.toNat]
  | .mstz _ _ a => [.x a.toNat]
  | .mcvt _ _ a _ => [.x a.toNat]
  | .kvattn _ _ a b p => [.x a.toNat, .x b.toNat, .ps p.toNat]
  | .kvapp _ a b c p => [.x a.toNat, .x b.toNat, .x c.toNat, .ps p.toNat]
  | .kvgrow _ a b c p => [.x a.toNat, .x b.toNat, .x c.toNat, .ps p.toNat]
  | .kvcmt _ a b c p => [.x a.toNat, .x b.toNat, .x c.toNat, .ps p.toNat]
  | .kvld _ d a _ p => [.x d.toNat, .x a.toNat, .ps p.toNat]
  | .csrr _ d _ => [.x d.toNat]
  | .csrw _ a _ => [.x a.toNat]
  | .tlbi _ a b => [.x a.toNat, .x b.toNat]
  | .snap _ d b => [.x d.toNat, .x b.toNat]
  | .evcfg _ a b => [.x a.toNat, .x b.toNat]
  | .rwctl _ a b => [.x a.toNat, .x b.toNat]
  | .resume _ a => [.x a.toNat]
  | _ => []

/-- The halfwords that an instruction occupies (R206). -/
def instrWidth : Instr → Nat
  | .compactNop => 1
  | .compactMov _ _ => 1
  | .compactAdd _ _ => 1
  | .compactSub _ _ => 1
  | .compactAnd _ _ => 1
  | .compactAddi _ _ => 1
  | .compactShli _ _ => 1
  | .compactShri _ _ => 1
  | .compactMovi _ _ => 1
  | .compactLd _ _ => 1
  | .compactSt _ _ => 1
  | .compactQpush _ _ => 1
  | .compactQpop _ _ => 1
  | .compactBr _ => 1
  | .compactFqpush _ => 1
  | .compactYield => 1
  | _ => 2

/-- The sync and token bits of an instruction: bits [30:26] of a 32-bit word, 0 for a compact word or a block header (R207, R208). -/
def syncBits : Instr → Sync
  | .prep sy _ _ => sy
  | .br sy _ => sy
  | .brl sy _ => sy
  | .ret sy _ => sy
  | .cmp sy _ _ _ _ => sy
  | .cmpi sy _ _ _ _ => sy
  | .tstp sy _ _ _ _ => sy
  | .tstq sy _ _ _ _ => sy
  | .tstm sy _ _ _ _ => sy
  | .fork sy _ => sy
  | .join sy _ => sy
  | .nop sy => sy
  | .yield sy => sy
  | .halt sy => sy
  | .tfence sy => sy
  | .trap sy _ => sy
  | .swap sy => sy
  | .eret sy => sy
  | .add sy _ _ _ => sy
  | .sub sy _ _ _ => sy
  | .mul sy _ _ _ => sy
  | .mulh sy _ _ _ => sy
  | .mulhu sy _ _ _ => sy
  | .div sy _ _ _ => sy
  | .divu sy _ _ _ => sy
  | .rem sy _ _ _ => sy
  | .remu sy _ _ _ => sy
  | .and sy _ _ _ => sy
  | .or sy _ _ _ => sy
  | .xor sy _ _ _ => sy
  | .shl sy _ _ _ => sy
  | .shr sy _ _ _ => sy
  | .sar sy _ _ _ => sy
  | .min sy _ _ _ => sy
  | .max sy _ _ _ => sy
  | .minu sy _ _ _ => sy
  | .maxu sy _ _ _ => sy
  | .sel sy _ _ _ _ => sy
  | .lea sy _ _ _ _ => sy
  | .clz sy _ _ => sy
  | .ctz sy _ _ => sy
  | .popc sy _ _ => sy
  | .ffs sy _ _ => sy
  | .mov sy _ _ => sy
  | .sext sy _ _ _ => sy
  | .zext sy _ _ _ => sy
  | .addi sy _ _ _ => sy
  | .andi sy _ _ _ => sy
  | .ori sy _ _ _ => sy
  | .xori sy _ _ _ => sy
  | .shli sy _ _ _ => sy
  | .shri sy _ _ _ => sy
  | .sari sy _ _ _ => sy
  | .movi sy _ _ => sy
  | .movh sy _ _ => sy
  | .ld sy _ _ _ _ _ => sy
  | .ldS sy _ _ _ _ _ => sy
  | .st sy _ _ _ _ _ => sy
  | .stS sy _ _ _ _ _ => sy
  | .ldq sy _ _ _ _ _ => sy
  | .amo sy _ _ _ _ => sy
  | .cas sy _ _ _ _ _ => sy
  | .lds sy _ _ _ _ _ => sy
  | .sts sy _ _ _ _ _ => sy
  | .pld sy _ _ _ _ _ => sy
  | .pst sy _ _ _ _ _ => sy
  | .pamo sy _ _ _ _ _ _ => sy
  | .pcas sy _ _ _ _ _ _ => sy
  | .pget sy _ _ _ _ => sy
  | .kld sy _ _ _ _ _ => sy
  | .kder sy _ _ _ _ => sy
  | .kchk sy _ _ _ _ => sy
  | .kmov sy _ _ => sy
  | .lacq sy _ _ _ _ => sy
  | .lrel sy _ _ _ _ => sy
  | .lhand sy _ _ _ _ => sy
  | .qpush sy _ _ => sy
  | .qpushRing sy _ _ => sy
  | .qpop sy _ _ => sy
  | .qpopRing sy _ _ => sy
  | .qcnt sy _ _ => sy
  | .fqpush sy _ => sy
  | .fqpushT sy _ => sy
  | .fqclose sy => sy
  | .rmap sy _ _ _ => sy
  | .rflush sy _ _ _ _ => sy
  | .rinv sy _ _ => sy
  | .rcfgRegion sy _ _ _ => sy
  | .rcfgRing sy _ _ => sy
  | .fence sy _ _ => sy
  | .flagw sy _ _ _ _ => sy
  | .flagadd sy _ _ => sy
  | .flagwait sy _ _ _ => sy
  | .bar sy _ _ _ => sy
  | .cpy sy _ _ _ _ _ _ _ => sy
  | .cpyw sy _ => sy
  | .cpyq sy _ => sy
  | .bop sy _ _ _ _ _ => sy
  | .coll sy _ _ _ _ _ _ _ => sy
  | .vadd sy _ _ _ _ _ => sy
  | .vsub sy _ _ _ _ _ => sy
  | .vmul sy _ _ _ _ _ => sy
  | .vfma sy _ _ _ _ _ => sy
  | .vfms sy _ _ _ _ _ => sy
  | .vmax sy _ _ _ _ _ => sy
  | .vmin sy _ _ _ _ _ => sy
  | .vabs sy _ _ _ _ _ => sy
  | .vneg sy _ _ _ _ _ => sy
  | .vrcp sy _ _ _ _ _ _ _ => sy
  | .vrsq sy _ _ _ _ _ _ _ => sy
  | .vexp2 sy _ _ _ _ _ => sy
  | .vlog2 sy _ _ _ _ _ => sy
  | .vcvtFromFp32 sy _ _ _ _ _ => sy
  | .vcvtToFp32 sy _ _ _ => sy
  | .vquant sy _ _ _ _ _ => sy
  | .vdeq sy _ _ _ => sy
  | .vcmp sy _ _ _ _ _ => sy
  | .vsel sy _ _ _ _ => sy
  | .vand sy _ _ _ _ => sy
  | .vor sy _ _ _ _ => sy
  | .vxor sy _ _ _ _ => sy
  | .vnot sy _ _ _ => sy
  | .vshl sy _ _ _ _ => sy
  | .vshr sy _ _ _ _ => sy
  | .vsar sy _ _ _ _ => sy
  | .viadd sy _ _ _ _ _ => sy
  | .vimul sy _ _ _ _ _ => sy
  | .vred sy _ _ _ _ => sy
  | .vperm sy _ _ _ _ => sy
  | .vbcast sy _ _ _ => sy
  | .vsplat sy _ _ => sy
  | .viota sy _ _ => sy
  | .vmov sy _ _ => sy
  | .vmovToQueue sy _ _ => sy
  | .vmovFromQueue sy _ _ => sy
  | .vmovToInteger sy _ _ _ => sy
  | .vld sy _ _ _ _ _ => sy
  | .vst sy _ _ _ _ _ => sy
  | .vgath sy _ _ _ _ _ => sy
  | .vscat sy _ _ _ _ _ => sy
  | .mand sy _ _ _ => sy
  | .mor sy _ _ _ => sy
  | .mnot sy _ _ => sy
  | .mpop sy _ _ => sy
  | .mffs sy _ _ => sy
  | .mma sy _ _ _ _ => sy
  | .mmas sy _ _ _ _ => sy
  | .mfft sy _ _ => sy
  | .mtw sy _ => sy
  | .mzero sy _ _ => sy
  | .mtr sy _ _ => sy
  | .madd sy _ _ _ => sy
  | .mmov sy _ _ => sy
  | .msc sy _ _ _ => sy
  | .mldz sy _ _ => sy
  | .mstz sy _ _ => sy
  | .mcvt sy _ _ _ => sy
  | .kvattn sy _ _ _ _ => sy
  | .kvapp sy _ _ _ _ => sy
  | .kvgrow sy _ _ _ _ => sy
  | .kvcmt sy _ _ _ _ => sy
  | .kvld sy _ _ _ _ => sy
  | .csrr sy _ _ => sy
  | .csrw sy _ _ => sy
  | .tlbi sy _ _ => sy
  | .snap sy _ _ => sy
  | .evcfg sy _ _ => sy
  | .rwctl sy _ _ => sy
  | .resume sy _ => sy
  | _ => 0

/-- A block header (R210). -/
def isHeader : Instr → Bool
  | .blk _ _ => true
  | .blkr _ _ => true
  | _ => false

end Sys2Proof.Machine
end

