-- ==== Sys2Proof/Machine/Ops.lean ====
section
/-!
DEFINITION. The named operations over registers, block stacks, tokens and fault queues, taking a fault and coming back from one, fetch,
and the issue of an instruction (R206 to R217, R177, R209, R224, R398 to R404).
-/

namespace Sys2Proof

/-- The next cluster on the ring A, M, V, D (R207). -/
def Cluster.next : Cluster → Cluster
  | .a => .m | .m => .v | .v => .d | .d => .a

/-- The previous cluster on the ring. -/
def Cluster.prev : Cluster → Cluster
  | .a => .d | .m => .a | .v => .m | .d => .v

/-- The bit of a cluster in a join set: A, M, V, D from high to low (R239). -/
def Cluster.joinBit : Cluster → BitVec 4
  | .a => 8 | .m => 4 | .v => 2 | .d => 1

/-- The sync bits, by name (R207): `s`, `wprev`, `wnext`, `snext`, `sprev`. -/
def joins (y : Sync) : Bool := y.getLsbD 4
def waitsPrev (y : Sync) : Bool := y.getLsbD 3
def waitsNext (y : Sync) : Bool := y.getLsbD 2
def signalsNext (y : Sync) : Bool := y.getLsbD 1
def signalsPrev (y : Sync) : Bool := y.getLsbD 0

end Sys2Proof

namespace Sys2Proof.Machine

/-! ## Registers of the executing stream -/

/-- u(reg): an integer register (R215). -/
def State.x (s : State) (n : Nat) : Word := Sparse.get (fun _ => 0) s.me.x n

/-- Write an integer register. -/
def State.setX (s : State) (n : Nat) (v : Word) : State :=
  s.setMe { s.me with x := Sparse.set (fun _ => 0) s.me.x n v }

/-- A steer register (R217). -/
def State.steer (s : State) (n : Nat) : Steer := Sparse.get (fun _ => Steer.reset) s.me.g n

/-- Write a steer register. -/
def State.setSteer (s : State) (n : Nat) (v : Steer) : State :=
  s.setMe { s.me with g := Sparse.set (fun _ => Steer.reset) s.me.g n v }

/-- Write the condition of a steer register: `tv` and `tgt` are unchanged (R237, R238). -/
def State.setCond (s : State) (n : Nat) (c : Bool) : State := s.setSteer n { s.steer n with c := c }

/-- A p register: p0 reads OK (R215). -/
def ClusterState.status (c : ClusterState) (n : Nat) : Status := if n = 0 then Status.ok else Sparse.get (fun _ => Status.ok) c.p n

/-- A cluster with a p register written: p0 is never written (R215). -/
def ClusterState.setStatus (c : ClusterState) (n : Nat) (v : Status) : ClusterState :=
  if n = 0 then c else { c with p := Sparse.set (fun _ => Status.ok) c.p n v }

/-- A k register (R29). -/
def State.cap (s : State) (n : Nat) : Cap := Sparse.get (fun _ => Cap.empty) s.cur.regs.k n

/-- Write a k register whole (R32). -/
def State.setCap (s : State) (n : Nat) (c : Cap) : State :=
  s.setCur { s.cur with regs := { s.cur.regs with k := Sparse.set (fun _ => Cap.empty) s.cur.regs.k n c } }

/-- A lane mask: m0 reads all ones (R215). -/
def State.mask (s : State) (n : Nat) : Word := if n = 0 then BitVec.allOnes 64 else Sparse.get (fun _ => 0) s.cur.regs.m n

/-- Write a lane mask: m0 is never written (R215). -/
def State.setMask (s : State) (n : Nat) (v : Word) : State :=
  if n = 0 then s else s.setCur { s.cur with regs := { s.cur.regs with m := Sparse.set (fun _ => 0) s.cur.regs.m n v } }

/-- The entries of a queue register, oldest first (R176). -/
def Core.queue (c : Core) (q : Nat) : List QEntry := Sparse.get (fun _ => []) c.store.queues q

/-- A core with a queue register's entries replaced. -/
def Core.setQueue (c : Core) (q : Nat) (l : List QEntry) : Core :=
  { c with store := { c.store with queues := Sparse.set (fun _ => []) c.store.queues q l } }

/-! ## Blocks (R210 to R213) -/

/-- `endcheck` of R211: at the end of a body its counter falls, and the body runs again or its entry is popped. -/
def endcheck (pc : BitVec 16) : List Block → BitVec 16 × List Block
  | [] => (pc, [])
  | b :: t =>
    if pc = b.stop then
      if b.count - 1 = 0 then endcheck pc t else (b.start, { b with count := b.count - 1 } :: t)
    else (pc, b :: t)

/-- The entries that a taken branch keeps: exactly those whose bodies contain the target (R213). -/
def pruneStack (t : BitVec 16) (st : List Block) : List Block :=
  st.filter fun b => decide (b.start ≤ t) && decide (t < b.stop)

/-! ## The program image and fetch (R206, R212, R373) -/

/-- The stream entry of a cluster in the active plane's trailer (R372, R373): base and length in halfwords. -/
def Core.entry (c : Core) (k : Cluster) : Nat × Nat :=
  let w := readNat c.ctl.active.image (0x17FC0 + 4 * k.number) 4
  (w % 2 ^ 16, w / 2 ^ 16)

/-- The container that holds a halfword of a cluster's stream. -/
def Core.container (c : Core) (k : Cluster) (pc : Nat) : Nat :=
  readNat c.ctl.active.image (2 * ((c.entry k).1 + pc / 2 * 2)) 4

/-- What fetch finds at a stream's pc: past the end of the image (cause BLOCK, R212), or what the decoder makes of the word. -/
inductive Fetched where
  | past
  | word (d : Decoded)
  deriving DecidableEq, Repr

/-- Fetch at a halfword of a cluster's stream. -/
def Core.fetch (c : Core) (k : Cluster) (pc : Nat) : Fetched :=
  if (c.entry k).2 ≤ pc then .past else .word (decodeContainer (c.container k pc) (pc % 2 == 1))

/-- The instruction at a cluster's pc, where the word is a legal one. -/
def Core.instrAt (c : Core) (k : Cluster) : Option Instr :=
  match c.fetch k (c.cluster k).pc.toNat with
  | .word (.ok i) => some i
  | _ => none

/-- A halfword of a stream holds a block header: a 32-bit word of major 0x00 or 0x01 on a container boundary (R212, R213). -/
def Core.headerAt (c : Core) (k : Cluster) (pc : Nat) : Bool :=
  pc % 2 == 0 && pc < (c.entry k).2 &&
    (let w := c.container k pc
     w / 2 ^ 31 % 2 == 1 && w / 2 ^ 19 % 128 < 2)

/-! ## The fault queue (R400 to R402) -/

/-- What a fault says of itself (R398, R401). -/
structure FaultInfo where
  kind : Nat
  cause : Nat
  addr : Nat := 0
  reg : Nat := 0
  aux : Nat := 0
  aux2 : Nat := 0
  rwr : List Byte := []
  deriving DecidableEq, Repr

/-- An illegal-instruction fault (R224). -/
def FaultInfo.illegal (c : IllegalCause) : FaultInfo := { kind := 8, cause := c.code.toNat }
/-- A translation fault (R78): cause 1 NOMAP, 2 FORMAT, 3 PROT, 4 DUPWRITE, 5 MIGRATE, 6 ALIGN. -/
def FaultInfo.trans (cause va : Nat) : FaultInfo := { kind := 1, cause := cause, addr := va }
/-- A capability fault (R35). -/
def FaultInfo.cap (k : Nat) (st : Status) (off : Nat) : FaultInfo := { kind := 2, cause := st.toNat, addr := off, reg := k }
/-- A scratchpad fault (R168). -/
def FaultInfo.spad (st : Status) (a : Nat) : FaultInfo := { kind := 3, cause := st.toNat, addr := a }
/-- A Commons fault (R154). -/
def FaultInfo.commons (st : Status) (a : Nat) : FaultInfo := { kind := 4, cause := st.toNat, addr := a }
/-- A ring fault (R175). -/
def FaultInfo.ring (rg : Nat) (st : Status) (a : Nat) : FaultInfo := { kind := 5, cause := st.toNat, addr := a, reg := rg }
/-- A KV fault (R105): 1 FORMAT, 2 NOSEQ, 3 NOSLAB, 4 RANGE, 5 HOLE, 6 LENGTH. -/
def FaultInfo.kv (cause a : Nat) : FaultInfo := { kind := 6, cause := cause, addr := a }
/-- A remote fault (R258). -/
def FaultInfo.remote (st : Status) (a : Nat) : FaultInfo := { kind := 7, cause := st.toNat, addr := a }

/-- The 64 bytes of an entry (R401). -/
def FaultEntry.bytes (e : FaultEntry) : List Byte :=
  bytesOf 4 e.seq.toNat ++ bytesOf 1 e.kind ++ bytesOf 1 e.cause ++
    bytesOf 1 (e.cl.number + 4 * ofBool e.parks + 8 * ofBool (!e.rwr.isEmpty)) ++ bytesOf 1 e.reg ++
    bytesOf 2 e.asid ++ bytesOf 1 e.core ++ bytesOf 1 0 ++ bytesOf 4 e.pipe ++ bytesOf 8 e.addr ++ bytesOf 2 (e.pc % 2 ^ 15) ++ bytesOf 2 0 ++
    bytesOf 4 e.cur ++ bytesOf 4 e.aux ++ (e.rwr ++ List.replicate (20 - e.rwr.length) 0) ++ bytesOf 8 e.aux2

/-- A host note, in the order in which the package sends them. -/
def State.note (s : State) (n : HostNote) : State := { s with sys := { s.sys with notes := s.sys.notes ++ [n] } }

/-- A die CSR counter gains n (modulo 2^64). -/
def State.count (s : State) (d : DieId) (n : Nat) (k : Nat := 1) : State := s.setDieReg d n (s.dieReg d n + BitVec.ofNat 64 k)

/-- The fault queue of a die has room (R400): it is enabled and not full. -/
def State.faultRoom (s : State) (d : DieId) : Bool :=
  let q := s.dieReg d 0x11F
  let p := s.dieReg d 0x1A0
  bit q 0 && (field p 0 32 + 2 ^ 32 - field p 32 32) % 2 ^ 32 != 2 ^ field q 4 5

/-- The package with the fault queue of a die replaced. -/
def State.setFaults (s : State) (d : DieId) (q : FaultQueue) : State := s.setDie d { s.die d with faults := q }

/-- The fault queue of a die with an entry posted. -/
def FaultQueue.addPosted (q : FaultQueue) (e : FaultEntry) : FaultQueue := { q with posted := q.posted ++ [e] }

/-- The fault queue of a die with an entry held. -/
def FaultQueue.addHeld (q : FaultQueue) (e : FaultEntry) : FaultQueue := { q with held := q.held ++ [e] }

/-- The package with bytes of a die's local memory written by one of its own units. -/
def State.pokeDie (s : State) (d : DieId) (a : Nat) (bs : List Byte) : State := s.setDie d ((s.die d).poke a bs)

/-- Write an entry at `head` (R400, R402), with the host interrupts of R405. -/
def State.writeEntry (s : State) (d : DieId) (e : FaultEntry) : State :=
  let q := s.dieReg d 0x11F
  let p := s.dieReg d 0x1A0
  let head := field p 0 32
  let s1 := s.pokeDie d (field q 12 28 * 4096 + 64 * (head % 2 ^ field q 4 5)) e.bytes
  let s2 := s1.setFaults d ((s1.die d).faults.addPosted e)
  let s3 := s2.setDieReg d 0x1A0 (setField p 0 32 (head + 1))
  let s4 := if bit q 1 && head == field p 32 32 then s3.note (.interrupt d "fault queue") else s3
  if e.kind = 15 then s4.note (.interrupt d "arithmetic note") else s4

/-- Raise an entry: it takes the die's next sequence number and is written, or held while there is no room or an earlier one is held; a
migration notice is discarded instead and counts in `mig_drop` (R402, R90). -/
def State.post (s : State) (d : DieId) (e : FaultEntry) : State :=
  let f := (s.die d).faults
  let room := s.faultRoom d && f.held.isEmpty
  if e.kind = 14 && !room then s.count d 0x18A
  else
    let e := { e with seq := f.next }
    let s1 := s.setFaults d { f with next := f.next + 1 }
    if room then (if e.kind = 14 then (s1.writeEntry d e).count d 0x189 else s1.writeEntry d e)
    else (s1.setFaults d ((s1.die d).faults.addHeld e)).count d 0x1A2

/-- The gang that a core belongs to. -/
def State.gangOf (s : State) (c : CoreId) : Option Gang :=
  match (s.core c).ctl.gang with
  | none => none
  | some g => s.sched.gangs.find? fun x => decide (x.id = g)

/-- The gang of a core is being saved by force: its streams and engines start nothing more (R163, R407). -/
def State.stopping (s : State) (c : CoreId) : Bool := match s.gangOf c with | some g => g.forced | none => false

/-- The word at a stream's pc is a `kvattn`, with its reserved fields 0 or not. -/
def State.atKvattn (s : State) (i : StreamId) : Bool :=
  match (s.core i.core).fetch i.cl (s.stream i).pc.toNat with
  | .word (.ok (.kvattn _ _ _ _ _)) => true
  | .word (.resv (.kvattn _ _ _ _ _)) => true
  | _ => false

/-- The entry of a fault of a stream; that of a `kvattn` carries `kvcur.cur` (R401). -/
def State.entryFor (s : State) (i : StreamId) (f : FaultInfo) (parks : Bool) : FaultEntry :=
  let pipe := match s.gangOf i.core with
    | some g => g.queue + 4096 * g.node
    | none => 0
  { seq := 0, kind := f.kind, cause := f.cause, cl := i.cl, parks := parks, reg := f.reg,
    asid := ((s.core i.core).reg 0x40).toNat, core := i.core.index, pipe := pipe, addr := f.addr, pc := (s.stream i).pc.toNat,
    cur := if parks && s.atKvattn i then field ((s.core i.core).cm.reg 0x18) 0 24 else 0, aux := f.aux, rwr := f.rwr, aux2 := f.aux2, stream := if parks then some i else none, away := none, acked := false }

/-- TAKING A FAULT (R399, R401, R402): the stream parks at its pc on the die's next sequence number, and its entry is posted or held. -/
def State.takeFault (s : State) (i : StreamId) (f : FaultInfo) : State :=
  let seq := (s.die i.core.die).faults.next
  let e := s.entryFor i f true
  let c := s.stream i
  (s.setStream i { c with run := .parked seq, wait := none, join := .none, hold := none }).post i.core.die e

/-- A fault-queue entry of a kind that parks no stream (R398): CE, EX, ANOTE. -/
def State.postNote (s : State) (i : StreamId) (f : FaultInfo) : State := s.post i.core.die (s.entryFor i f false)

/-! ## Tokens (R177, R354) -/

/-- Add a token to the queue towards the next cluster. -/
def Core.tokenNext (c : Core) (k : Cluster) : Core :=
  let t := c.cluster k.next
  c.setCluster k.next { t with fromPrev := t.fromPrev + 1 }

/-- Add a token to the queue towards the previous cluster. -/
def Core.tokenPrev (c : Core) (k : Cluster) : Core :=
  let t := c.cluster k.prev
  c.setCluster k.prev { t with fromNext := t.fromNext + 1 }

/-- Signals of a cluster to its next or previous neighbour that are promised and not yet added. -/
def ClusterState.promisedNext (c : ClusterState) : Nat := (c.signals.filter fun g => g.next).length
def ClusterState.promisedPrev (c : ClusterState) : Nat := (c.signals.filter fun g => g.prev).length

/-- The instruction at a stream's pc, where the word is a legal one. -/
def State.instrAt (s : State) (i : StreamId) : Option Instr := (s.core i.core).instrAt i.cl

/-- The entry of a die with a sequence number is of a fault that comes after its instruction (ATRAP, HTRAP). -/
def FaultQueue.trap (q : FaultQueue) (seq : BitVec 32) : Bool :=
  (q.posted ++ q.held).any fun e => decide (e.seq = seq) && (e.kind == 10 || e.kind == 11)

/-- The instruction at a stream's pc has issued and has not retired: it holds the stream, has stopped or trapped it, or goes on. -/
def State.midway (s : State) (i : StreamId) : Bool :=
  let c := s.stream i
  c.hold.isSome || c.issued ||
    (match c.run with
      | .atYield => true
      | .atSwap => true
      | .atBar => true
      | .parked q => (s.die i.core.die).faults.trap q
      | _ => false)

/-- The signals that a stream has promised one way: of instructions that have retired, and of the one that is midway (R177). -/
def State.promised (s : State) (i : StreamId) (way : Sync → Bool) (listed : ClusterState → Nat) : Nat :=
  listed (s.stream i) + ofBool (s.midway i && (match s.instrAt i with | some j => way (syncBits j) | none => false))

/-- Add the tokens of a signal. -/
def Core.deliver (c : Core) (k : Cluster) (next prev : Bool) : Core :=
  let c := if next then c.tokenNext k else c
  if prev then c.tokenPrev k else c

/-- A slab growth whose stream belongs to a gang that is switched out: it ends for the stream after the restore (R407). -/
def State.awayOp (s : State) (op : Nat) : Bool := s.sched.gangs.any fun g => g.saved.any fun c => c.grows.any fun e => decide (e.1 = op)

/-- The operations of a stream that have not completed (R348): its own accesses, its slab growths, and the fills and write-backs of the map
unit that it has caused. -/
def State.opsOf (s : State) (i : StreamId) : List Op :=
  s.ops.filter fun o => decide (o.owner = i) && !o.engine && !s.awayOp o.id

/-- Signal at completion (R177): at once where no operation of the stream is outstanding, otherwise when those outstanding now have
completed (R354). -/
def State.signal (s : State) (i : StreamId) (next prev : Bool) (also : List Nat) : State :=
  if next || prev then
    let waits := (s.opsOf i).map (·.id) ++ also
    if waits.isEmpty then s.setCore i.core ((s.core i.core).deliver i.cl next prev)
    else
      let c := s.stream i
      s.setStream i { c with signals := c.signals ++ [⟨waits, next, prev⟩] }
  else s

/-- An operation has completed: the signals that waited for it alone are added. -/
def State.settle (s : State) (i : StreamId) (op : Nat) : State :=
  let c := s.stream i
  let sig := c.signals.map fun g => { g with ops := g.ops.filter fun o => decide (o ≠ op) }
  let due := sig.filter fun g => g.ops.isEmpty
  let s := s.setStream i { c with signals := sig.filter fun g => !g.ops.isEmpty }
  due.foldl (fun s g => s.setCore i.core ((s.core i.core).deliver i.cl g.next g.prev)) s

/-! ## Retirement -/

/-- The host interrupts of R205 action 2: one ANOTE entry each (R398, R405). -/
def State.postClasses (s : State) (i : StreamId) (due : List Nat) : State :=
  due.foldl
    (fun s k =>
      let c := s.stream i
      s.postNote i { kind := 15, cause := 0, reg := k, aux := field (c.reg 0) 0 17, aux2 := (c.reg 3).toNat })
    s

/-- The arithmetic side of a retirement (R205): flags raised, counted, `aret` advanced. -/
def State.retireFlags (s : State) (i : StreamId) (cs : Classes) : State :=
  let (c, due) := ((s.stream i).raise cs).countClasses cs
  ((s.setStream i c).postClasses i due).setStream i (((s.setStream i c).postClasses i due).stream i).advanceRet

/-- A stream with its pc and block stack replaced. -/
def State.setPc (s : State) (i : StreamId) (pc : BitVec 16) (st : List Block) : State :=
  s.setStream i { s.stream i with pc := pc, stack := st }

/-- Retire an instruction of a stream that does not branch: pc moves to the next halfword address and `endcheck` runs (R211). -/
def State.retire (s : State) (i : StreamId) (width : Nat) (cs : Classes) : State :=
  let s := s.retireFlags i cs
  let c := s.stream i
  let e := endcheck (c.pc + BitVec.ofNat 16 width) c.stack
  s.setPc i e.1 e.2

/-! ## Issue -/

/-- What the body of an instruction does once it may issue. -/
inductive Eff where
  /-- It completes, having raised the classes given. -/
  | retire (s : State) (cs : Classes)
  /-- It completes and branches: pc and block stack are given, and `endcheck` does not run. -/
  | jump (s : State) (pc : BitVec 16) (st : List Block)
  /-- It does not issue; nothing happens but the mark of what it waits for. -/
  | block (w : Wait)
  /-- It does not issue, but a unit outside the stream has started work that it waits for (R170, R77). -/
  | await (s : State) (w : Wait)
  /-- It has issued and goes on at the same pc: what it has done stands, and it waits (R302, R253, R254, R275). -/
  | begun (s : State) (w : Wait)
  /-- An exact fault: nothing of it takes effect (R399). -/
  | fault (f : FaultInfo)
  /-- An exact fault met after a unit outside the stream worked for it (a walk, R77): of the instruction itself nothing takes effect. -/
  | abort (s : State) (f : FaultInfo)
  /-- A fault that leaves the partial effects that a rule names (R399). -/
  | faultIn (s : State) (f : FaultInfo)
  /-- The `.s` form: it retires once the operation is sent (R258). -/
  | sent (s : State) (op : Nat)
  /-- The plain form: it holds the stream until the operation completes (R258). -/
  | hold (s : State) (op : Nat)
  /-- The stream stops at the instruction (R241, R251, R282). -/
  | stop (s : State) (r : Run)
  /-- It has issued and made progress, and goes on at the same pc (R302, R118). -/
  | again (s : State)

/-- The other clusters that an S-bit join of a cluster waits for (R209): members of the join set that have not halted. -/
def Core.joinPartners (c : Core) (k : Cluster) : List Cluster :=
  if c.ctl.joinSet &&& k.joinBit = 0 then []
  else [Cluster.a, .m, .v, .d].filter fun j =>
    decide (j ≠ k) && decide (c.ctl.joinSet &&& j.joinBit ≠ 0) && decide ((c.cluster j).run ≠ .halted)

/-- Mark partners as granted: they issue with this instruction (R209). -/
def Core.grantJoin (c : Core) (ks : List Cluster) : Core :=
  ks.foldl (fun c k => c.setCluster k { c.cluster k with join := .granted }) c

/-- What keeps an instruction from issuing before its body is looked at: outstanding registers (R216, R258, R259), tokens and signal
capacity (R177), and for `s` = 1 the stream's own accesses (R354). Nothing does where it has issued already. -/
def State.obstacle (s : State) (i : Instr) : Option Wait :=
  let c := s.me
  let y := syncBits i
  if c.issued then none
  else if (operands i).any (fun o => match o.reg with | some r => c.busy.contains r | none => false) then some .register
  else if (waitsPrev y) && c.fromPrev == 0 then some .tokenPrev
  else if (waitsNext y) && c.fromNext == 0 then some .tokenNext
  else if (signalsNext y) && (s.cur.cluster s.focus.cl.next).fromPrev + c.promisedNext ≥ 15 then some .signal
  else if (signalsPrev y) && (s.cur.cluster s.focus.cl.prev).fromNext + c.promisedPrev ≥ 15 then some .signal
  else if joins y && !(s.opsOf s.focus).isEmpty then some .access
  else none

/-- The illegal cause of an instruction that the tests of R224 find before it issues, in their order: CLUSTER, REG, and BLOCK for a word
at depth 0 that is no header (R212). -/
def State.illegalCause (s : State) (i : Instr) : Option IllegalCause :=
  if !clusterOk i s.focus.cl then some .cluster
  else if !(operands i).all (fun o => o.legal s.focus.cl) then some .reg
  else if !isHeader i && s.me.stack.isEmpty then some .block
  else none

/-- The executing stream with the tokens of an instruction that issues taken and its join mark cleared. -/
def State.take (s : State) (y : Sync) : State :=
  let c := s.me
  s.setMe { c with join := .none, fromPrev := c.fromPrev - ofBool (waitsPrev y && !c.issued),
                   fromNext := c.fromNext - ofBool (waitsNext y && !c.issued) }

/-- The executing stream waits for nothing any more, and its instruction is over. -/
def State.awake (s : State) : State := s.setMe { s.me with wait := none, issued := false }

/-- What a stream that still does not issue waits for: the line of the scratchpad that it has caused a fill of stays noted, and so does the
failure of that fill, which the instruction takes when it issues (R170). -/
def ClusterState.mark (c : ClusterState) (w : Wait) : Wait :=
  match c.wait, w with
  | some (.lineFailed n st va), _ => .lineFailed n st va
  | _, .line n => .line n
  | some (.line n), _ => .line n
  | _, w => w

/-- The executing stream does not issue: nothing happens but the mark. -/
def State.blocked (s : State) (w : Wait) : State := s.setMe { s.me with wait := some (s.me.mark w) }

/-- The state after an instruction that has issued: retirement, signals, hold, fault or stop. -/
def finish (s0 : State) (i : Instr) : Eff → State
  | .retire s cs => (s.awake.retire s.focus (instrWidth i) cs).signal s.focus (signalsNext (syncBits i)) (signalsPrev (syncBits i)) []
  | .jump s pc st => ((s.awake.retireFlags s.focus 0).setPc s.focus pc st).signal s.focus (signalsNext (syncBits i)) (signalsPrev (syncBits i)) []
  | .block w => s0.blocked w
  | .await s w => s.setMe { s0.me with wait := some w }
  | .begun s w => s.setMe { s.me with wait := some w, issued := true }
  | .fault f => s0.takeFault s0.focus f
  | .abort s f => (s.setMe s0.me).takeFault s0.focus f
  | .faultIn s f => s.takeFault s.focus f
  | .sent s op => (s.awake.retire s.focus (instrWidth i) 0).signal s.focus (signalsNext (syncBits i)) (signalsPrev (syncBits i)) [op]
  | .hold s op => s.setMe { s.me with hold := some op, wait := none, issued := false }
  | .stop s r => s.setMe { s.me with run := r, wait := none, issued := false }
  | .again s => s.awake

/-- An instruction with `s` = 1 of the stream in focus has partners to join, and has not joined them (R209). -/
def State.joinsNow (s : State) (i : Instr) : Bool :=
  joins (syncBits i) && !s.me.issued && s.me.join != .granted && !(s.cur.joinPartners s.focus.cl).isEmpty

/-- Issue an instruction of the stream in focus (R177, R209, R224): the illegal tests, then what it waits for, then its body; with
`s` = 1 it issues only together with its partners. A stream that a plain access holds starts nothing (log 91). -/
def State.issue (s : State) (i : Instr) (body : State → Eff) : Host.Outcome State Fault Refusal :=
  match s.illegalCause i with
  | some c => .next (s.takeFault s.focus (.illegal c))
  | none =>
    if s.me.hold.isSome then .next s
    else match s.obstacle i with
    | some w => .next (s.blocked w)
    | none =>
      match body (s.take (syncBits i)) with
      | .block w => .next (s.blocked w)
      | .await s' w => .next (s'.setMe { s.me with wait := some w })
      | .fault f => .next (s.takeFault s.focus f)
      | .abort s' f => .next ((s'.setMe s.me).takeFault s.focus f)
      | e =>
        let partners := s.cur.joinPartners s.focus.cl
        if s.joinsNow i then
          if partners.all fun k => (s.cur.cluster k).join == .waiting then
            let s' := s.setCur (s.cur.grantJoin partners)
            .next (finish s' i (body (s'.take (syncBits i))))
          else .next (s.setMe { s.me with wait := some .join, join := .waiting })
        else .next (finish s i e)

/-! ## Coming back from a fault (R403, R404) -/

/-- Record a batch of acknowledgements on a die: the posted, unacknowledged entries of the range that a test admits (R257, R403). -/
def State.acknowledge (s : State) (d : DieId) (f n : Nat) (want : FaultEntry → Bool) : State :=
  let q := (s.die d).faults
  let hit := fun (e : FaultEntry) => !e.acked && want e && decide ((e.seq.toNat + 2 ^ 32 - f) % 2 ^ 32 < n)
  let batch := (q.posted.filter hit).map (·.seq)
  let posted := q.posted.map fun e => if hit e then { e with acked := true } else e
  s.setDie d { s.die d with
    faults := { q with posted := posted, batches := if batch.isEmpty then q.batches else q.batches ++ [batch] } }

/-- A stopped stream goes on after its instruction, which retires now (R241, R244, R282). -/
def State.resumeAfter (s : State) (i : StreamId) : State :=
  let s := s.setStream i { s.stream i with run := .running, wait := none }
  match s.instrAt i with
  | some j => (s.retire i (instrWidth j) 0).signal i (signalsNext (syncBits j)) (signalsPrev (syncBits j)) []
  | none => s.retire i 2 0

/-- The next n M instructions of a core issue unchanged (R344, R342). -/
def Core.bypassNext (c : Core) (n : Nat) : Core :=
  { c with regs := { c.regs with bypass := n, bypassFrom := c.cm.reg 3, bypassPc := c.cm.pc, bypassDepth := c.cm.stack.length, begun := none } }

/-- The Swath of a core is bypassed for one window (R344). -/
def Core.bypassSwath (c : Core) : Core := (c.bypassNext 8).setReg 0x78 (c.reg 0x78 + 1)

/-- A core whose Swath has begun no match: what it has decided for the head is dropped (R256, R331). -/
def Core.freshMatch (c : Core) : Core := { c with regs := { c.regs with begun := none } }

/-- Restart a parked stream (R404): after the instruction for ATRAP and HTRAP, at it for the others. A rewrite record that names
originals makes the Swath bypass one window (R344); for the M stream the Swath looks at its head anew. -/
def State.restart (s : State) (i : StreamId) (e : FaultEntry) : State :=
  let s := if i.cl = .m then s.setCore i.core (s.core i.core).freshMatch else s
  let s := if (e.rwr.drop 4).all (· == 0) then s else s.setCore i.core (s.core i.core).bypassSwath
  if e.kind = 10 ∨ e.kind = 11 then s.resumeAfter i
  else s.setStream i { s.stream i with run := .running, wait := none }

end Sys2Proof.Machine
end

