-- ==== Sys2Proof/Machine/Torus.lean ====
section
/-!
DEFINITION. Die numbers, coordinates and routes of the torus (R16, R120 to R125), the bytes of a packet (R127), the forwarding of one
packet, and the tags of remote requests (R128).
-/

namespace Sys2Proof

open Machine

/-! ## The bytes of a packet (R127) -/

/-- The 24 bytes of a packet's header. -/
def Packet.header (p : Packet) : List Byte :=
  bytesOf 1 p.kind ++ bytesOf 1 (p.dirs.toNat + 64 * p.vc) ++ bytesOf 2 p.src ++ bytesOf 2 p.dst ++ bytesOf 2 (p.tag + 4096 * p.gen.toNat) ++
    bytesOf 2 p.inc.toNat ++ bytesOf 1 p.size ++ bytesOf 1 p.op.toNat ++ bytesOf 5 p.addr ++ bytesOf 1 p.ord.toNat ++
    bytesOf 1 (p.fs + 64 * ofBool p.phase + 128 * ofBool p.counted) ++ bytesOf 1 p.fsg.toNat ++ bytesOf 2 p.fcnt ++ bytesOf 2 0

/-- A packet as it crosses a link: header and payload, padded to whole flits of 32 bytes. -/
def Packet.bytes (p : Packet) : List Byte :=
  let bs := p.header ++ p.data
  bs ++ List.replicate ((32 - bs.length % 32) % 32) 0

/-- The bytes of payload that a packet carries: those written, an atomic's operands (log 14), the value that a flag adds, those read. -/
def payloadLength (kind op size : Nat) : Nat :=
  match kind with
  | 1 => size + 1
  | 2 => if 128 ≤ op then size + 1 else (if op / 16 % 2 = 1 then 8 else 4) * (if op / 32 % 2 = 1 then 2 else 1)
  | 3 => 4
  | 8 => size + 1
  | _ => 0

/-- The packet that bytes hold. It is bad where its `kind` is not one of R127, a reserved field is not 0, or a reply carries a status that
R9 reserves. -/
def Packet.parse (bs : List Byte) : Packet :=
  let at_ := fun (i n : Nat) => ofBytes ((bs.drop i).take n)
  let kind := at_ 0 1
  let size := at_ 10 1
  let op := at_ 11 1
  { kind := kind, dirs := BitVec.ofNat 6 (at_ 1 1), vc := at_ 1 1 / 64 % 2, src := at_ 2 2 % 512, dst := at_ 4 2 % 512, tag := at_ 6 2 % 4096,
    gen := BitVec.ofNat 4 (at_ 6 2 / 4096), inc := BitVec.ofNat 16 (at_ 8 2), size := size, op := BitVec.ofNat 8 op, addr := at_ 12 5,
    ord := BitVec.ofNat 4 (at_ 17 1), fs := at_ 18 1 % 64, phase := at_ 18 1 / 64 % 2 == 1, counted := at_ 18 1 / 128 == 1,
    fsg := BitVec.ofNat 4 (at_ 19 1), fcnt := at_ 20 2,
    bad := decide (bs.length < 24) || !([0, 1, 2, 3, 4, 8] : List Nat).contains kind || decide (at_ 1 1 / 128 ≠ 0) ||
      decide (at_ 2 2 / 512 ≠ 0) || decide (at_ 4 2 / 512 ≠ 0) || decide (128 ≤ size) || decide (at_ 17 1 / 16 ≠ 0) ||
      decide (at_ 19 1 / 16 ≠ 0) || decide (at_ 22 2 ≠ 0) || (kind == 8 && decide (12 ≤ op % 16)),
    data := (bs.drop 24).take (payloadLength kind op size) }

end Sys2Proof

namespace Sys2Proof.Machine

/-! ## Coordinates (R120) -/

/-- The domain's sizes and a die's coordinates, as `tcoord` holds them. -/
structure Coord where
  x : Nat
  y : Nat
  z : Nat
  nx : Nat
  ny : Nat
  nz : Nat
  deriving DecidableEq, Repr

/-- A die's coordinates. -/
def State.coord (s : State) (d : DieId) : Coord :=
  let t := s.dieReg d 0x108
  ⟨field t 0 3, field t 4 3, field t 8 3, field t 20 3 + 1, field t 24 3 + 1, field t 28 3 + 1⟩

/-- The die number of a die of the package in the domain (R16, R120). -/
def State.dieNum (s : State) (d : DieId) : Nat := field (s.dieReg d 0x108) 11 9

/-- The number of dies in the domain. -/
def Coord.count (c : Coord) : Nat := c.nx * c.ny * c.nz

/-- A die number names a die of the domain (R16). -/
def State.inDomain (s : State) (d : DieId) (n : Nat) : Bool := decide (n < 384) && decide (n < (s.coord d).count)

/-- The die of the package that a die number names. -/
def State.ownDie (s : State) (n : Nat) : Option DieId :=
  if n = s.dieNum 0 then some 0 else if n = s.dieNum 1 then some 1 else none

/-- L in GiB of a die of another package: 256 until its `memsplit` is written (R15). -/
def State.limitOf (s : State) (d : DieId) (die : Nat) : Nat := Sparse.get (fun _ => 256) (s.die d).torus.limits die

/-- n bytes at a local address of a die lie in its local memory (R16): by the die's own L, which the requester knows (log 56). -/
def State.localAt (s : State) (d : DieId) (die a n : Nat) : Bool :=
  match s.ownDie die with
  | some t => (s.die t).inLocal a n
  | none => decide (a + n ≤ s.limitOf d die * 2 ^ 30)

/-- A die of another package has set its L (R15: 64 to 320 GiB): both dies of this one know it. -/
def State.otherSplit (s : State) (num gib : Nat) : State :=
  if gib < 64 ∨ 320 < gib then s
  else [(0 : DieId), 1].foldl (fun s d =>
    let x := s.die d
    s.setDie d { x with torus := { x.torus with limits := Sparse.set (fun _ => 256) x.torus.limits num gib } }) s

/-- The coordinates of a die number in a domain: x, y, z. -/
def Coord.place (c : Coord) (n : Nat) : Nat × Nat × Nat := (n % c.nx, n / c.nx % c.ny, n / c.nx / c.ny)

/-! ## Routing (R123, R124) -/

/-- The active bank of the route table. -/
def State.bank (s : State) (d : DieId) : Nat := field (s.dieReg d 0x10D) 0 1

/-- A route-table entry. -/
def State.routeEntry (s : State) (d : DieId) (bank dest : Nat) : Byte :=
  Sparse.get routeReset (s.die d).torus.route (512 * bank + dest)

/-- The direction in one dimension: the entry's, or the shortest, plus on a tie. 1 is plus, 2 is minus. -/
def resolveDir (code n src dst : Nat) : Nat :=
  if code = 0 then (let e := (dst + n - src) % n; if e ≤ n - e then 1 else 2) else code

/-- The route word's directions, X in bits [1:0], Y in [3:2], Z in [5:4]. -/
def State.routeDirs (s : State) (d : DieId) (dst : Nat) : BitVec 6 :=
  let c := s.coord d
  let e := s.routeEntry d (s.bank d) dst
  let t := c.place dst
  BitVec.ofNat 6 (resolveDir (field e 0 2) c.nx c.x t.1 + 4 * resolveDir (field e 2 2) c.ny c.y t.2.1 +
    16 * resolveDir (field e 4 2) c.nz c.z t.2.2)

/-- A destination's active entry has `v` = 1. -/
def State.reachable (s : State) (d : DieId) (dst : Nat) : Bool := bit (s.routeEntry d (s.bank d) dst) 7

/-- A link of a die is up. Links are numbered +X, −X, +Y, −Y, +Z, −Z. -/
def State.linkUp (s : State) (d : DieId) (l : Nat) : Bool := bit (s.dieReg d 0x10B) l

/-- The link of a die that is the in-package X link (R18). -/
def xLink (d : DieId) : Nat := if d = 0 then 0 else 1

/-- The directions of a packet to a die number: to the other die of the package by the in-package X link (R87), to another by the route
table (log 57). -/
def State.dirsTo (s : State) (d : DieId) (dst : Nat) : BitVec 6 :=
  if dst = s.dieNum (DieId.other d) then BitVec.ofNat 6 (21 + xLink d) else s.routeDirs d dst

/-- What a router does with a packet (R124). -/
inductive Hop where
  | deliver
  | down
  | cross (p : Packet)
  | leave (link : Nat) (p : Packet)
  deriving DecidableEq, Repr

/-- The link in one dimension, and whether the hop crosses the dateline. -/
def hopLink (dim here n dir : Nat) : Nat × Bool :=
  if dir = 1 then (2 * dim, decide (here + 1 = n)) else (2 * dim + 1, decide (here = 0))

/-- One hop at a die (R124). A packet enters each dimension on virtual channel 0: it enters one where its coordinate is its source's. -/
def State.hop (s : State) (d : DieId) (p : Packet) : Hop :=
  let c := s.coord d
  let t := c.place p.dst
  let o := c.place p.src
  if t = (c.x, c.y, c.z) then .deliver
  else
    let (dim, here, n, enters) := if t.1 ≠ c.x then (0, c.x, c.nx, decide (o.1 = c.x))
      else if t.2.1 ≠ c.y then (1, c.y, c.ny, decide (o.2.1 = c.y)) else (2, c.z, c.nz, decide (o.2.2 = c.z))
    let (l, dateline) := hopLink dim here n (field p.dirs (2 * dim) 2)
    let l := if dim = 0 ∧ c.nx = 2 then xLink d else l
    if !s.linkUp d l then .down
    else
      let p := { p with vc := if dateline then 1 else if enters then 0 else p.vc }
      if l = xLink d then .cross p else .leave l p

/-! ## The in-package path (R18, R87) -/

/-- Whether a request that a die sends to the other die of its package arrives over the in-package X link in one hop. -/
inductive Path where
  | self
  | sibling
  | remote
  | down
  deriving DecidableEq, Repr

/-- How a die reaches a die number (R87, R124): itself; the other die of its package over the in-package X link, by packet where that die
is in reset and answers nothing (log 57); another by packet, or not at all where a link of this package on its route is down (R125). -/
def State.path (s : State) (d : DieId) (n : Nat) : Path :=
  if n = s.dieNum d then .self
  else if n = s.dieNum (DieId.other d) then
    (if !s.linkUp d (xLink d) then .down else if (s.die (DieId.other d)).inReset then .remote else .sibling)
  else if !s.reachable d n then .down
  else
    let p : Packet := { kind := 0, dirs := s.routeDirs d n, vc := 0, src := s.dieNum d, dst := n, tag := 0, gen := 0, inc := 0, size := 0,
                        op := 0, addr := 0, ord := 0, fs := 0, phase := false, counted := false, fsg := 0, fcnt := 0, bad := false, data := [] }
    match s.hop d p with
    | .deliver => .self
    | .down => .down
    | .cross q =>
      if (s.die (DieId.other d)).inReset then .remote
      else if s.hop (DieId.other d) q = .down then .down
      else .remote
    | .leave _ _ => .remote

/-- The incarnation of a die (R130). -/
def State.inc (s : State) (d : DieId) : BitVec 16 := (s.dieReg d 0x109).setWidth 16

/-- What a die's peer table holds of a die number (R130). -/
def State.peer (s : State) (d : DieId) (n : Nat) : BitVec 16 :=
  if n = s.dieNum d then s.inc d else Sparse.get (fun _ => 0) (s.die d).torus.peers n

/-- Record a peer's incarnation. -/
def State.setPeer (s : State) (d : DieId) (n : Nat) (v : BitVec 16) : State :=
  let x := s.die d
  s.setDie d { x with torus := { x.torus with peers := Sparse.set (fun _ => 0) x.torus.peers n v } }

/-! ## Tags (R128) -/

/-- The lowest remote tag that is neither in use nor resting. -/
def Torus.freeTag (t : Torus) : Option Nat :=
  let rec go : Sparse RemoteTag → Nat → Nat
    | [], n => n
    | (k, _) :: r, n => if k = n then go r (n + 1) else n
  let n := go t.tags 0
  if n < 4096 then some n else none

/-- The generation of a tag. -/
def Torus.gen (t : Torus) (n : Nat) : BitVec 4 := Sparse.get (fun _ => 0) t.gens n

/-- The tag's record, where it is in use or resting. -/
def Torus.tag? (t : Torus) (n : Nat) : Option RemoteTag := (t.tags.find? fun e => decide (e.1 = n)).map (·.2)

/-- A torus with a tag taken, keyed in ascending order. -/
def Torus.putTag (t : Torus) (n : Nat) (v : RemoteTag) : Torus :=
  { t with tags := (t.tags.filter fun e => decide (e.1 < n)) ++ (n, v) :: t.tags.filter fun e => decide (n < e.1) }

/-- A torus with a tag free again. -/
def Torus.dropTag (t : Torus) (n : Nat) : Torus := { t with tags := t.tags.filter fun e => decide (e.1 ≠ n) }

/-- The ACTIVE circuit-role ports of a die whose far end is a die number, in ascending order (R139). -/
def State.circuits (s : State) (d : DieId) (n : Nat) : List Nat :=
  (List.range 16).filter fun p =>
    let w := s.dieReg d (0x120 + p)
    field w 20 4 == 3 && bit w 8 && field w 48 9 == n

/-- Inject a packet at a die: one hop (R124). Over the in-package link it waits at the other die's router; over another link it leaves
the package. -/
def State.inject (s : State) (d : DieId) (p : Packet) : State :=
  match s.hop d p with
  | .cross q =>
    let o := s.die (DieId.other d)
    s.setDie (DieId.other d) { o with torus := { o.torus with router := o.torus.router ++ [q] } }
  | .leave l q => s.note (.sent d l q.bytes)
  | .deliver => let o := s.die d
                s.setDie d { o with torus := { o.torus with router := o.torus.router ++ [p] } }
  | .down => s

end Sys2Proof.Machine
end

