-- ==== Sys2Proof/Machine/Remote.lean ====
section
/-!
DEFINITION. Requests of a die to the memory channels of the domain (R87, R89, R128 to R133): the requester's checks, the performance of a
request at a target, counted writes and flags at both ends, and replies.
-/

namespace Sys2Proof.Machine

/-! ## Access counters (R89, R90) -/

/-- The index of the least count, the lowest one among equals. -/
def leastCount (l : List AccessCount) : Nat :=
  (l.zipIdx.foldl (fun (r : Option (AccessCount × Nat)) e =>
    match r with | none => some e | some b => if e.1.count < b.1.count then some e else some b) none).elim 0 (·.2)

/-- A table with an entry for a region that has none: a free entry, or the place of the least count (R89). -/
def enterCount (l : List AccessCount) (a : AccessCount) : List AccessCount :=
  if l.length < 1024 then l ++ [a] else l.set (leastCount l) a

/-- Count one line request of R87 to another die, for an ASID whose `mn` bit is 1 in the ASID table at the time of the request (DESIGN CHOICE,
log 82); post a migration notice at the threshold. -/
def State.countAccess (s : State) (d : DieId) (asid va target : Nat) : State :=
  let m := s.dieReg d 0x104
  if !bit m 32 then s
  else
    let e := ((s.die d).peek? (field (s.dieReg d 0x101) 20 20 * 2 ^ 20 + 16 * asid) 16).map ofBytes
    if e.getD 0 / 2 ^ 64 % 2 = 0 then s
    else
      let region := va % 2 ^ 48 / 2 ^ 16
      let x := s.die d
      let hit := fun (a : AccessCount) => decide (a.asid = asid ∧ a.region = region)
      let l := if x.counts.any hit then x.counts else enterCount x.counts ⟨asid, region, 0, false⟩
      let old := ((l.find? hit).map (·.count)).getD 0
      let quiet := ((l.find? hit).map (·.quiet)).getD false
      let n := min (old + 1) 65535
      let due := decide (field m 0 16 ≤ n) && !quiet
      let l := l.map fun a => if hit a then (if due then { a with count := 0, quiet := true } else { a with count := n }) else a
      let s := s.setDie d { x with counts := l }
      if due then
        s.post d { seq := 0, kind := 14, cause := 0, cl := .a, parks := false, reg := 0, asid := asid, core := 0, pipe := 0,
                   addr := region * 2 ^ 16, pc := 0, cur := 0, aux := n, rwr := [], aux2 := target, stream := none,
                   away := none, acked := false }
      else s

/-! ## Atomics (R264, R265, R39) -/

/-- A two's-complement value of n bits. -/
def signed (n v : Nat) : Int := (BitVec.ofNat n v).toInt

/-- The codes of `amo` that need no floating-point (R265). -/
def amoInt (bits old x aop : Nat) : Nat :=
  match aop with
  | 0 | 1 => (old + x) % 2 ^ bits
  | 2 | 3 => old &&& x
  | 4 | 5 => old ||| x
  | 6 | 7 => old ^^^ x
  | 8 | 9 => x
  | 10 => if signed 64 x ≤ signed 64 old then old else x
  | 11 => if signed 64 old ≤ signed 64 x then old else x
  | 12 => if x ≤ old then old else x
  | _ => if old ≤ x then old else x

/-! ## Counted streams at their destination (R132, R133) -/

/-- The key of a (source die, stream) pair. -/
def pairKey (src n : Nat) : Nat := 64 * src + n

/-- A stream's state at its destination. -/
def State.dest (s : State) (d : DieId) (src n : Nat) : DestStream :=
  Sparse.get (fun _ => DestStream.reset) (s.die d).torus.dests (pairKey src n)

/-- Replace a stream's state at its destination. -/
def State.setDest (s : State) (d : DieId) (src n : Nat) (v : DestStream) : State :=
  let x := s.die d
  s.setDie d { x with torus := { x.torus with dests := Sparse.set (fun _ => DestStream.reset) x.torus.dests (pairKey src n) v } }

/-- Compare a packet's generation (R133): the stream as it stands then, and whether the packet is taken. -/
def State.adopt (s : State) (d : DieId) (src n : Nat) (g : BitVec 4) : State × Bool :=
  let t := s.dest d src n
  let k := (g - t.gen).toNat
  if k = 0 then (s, true)
  else if k < 8 then (s.setDest d src n ⟨g, 0, 0, []⟩, true)
  else (s.count d 0x18E, false)

/-- The counter of a phase. -/
def DestStream.counter (t : DestStream) (phase : Bool) : Nat := if phase then t.count1 else t.count0

/-- The stream with the counter of a phase replaced: 20 bits. -/
def DestStream.setCounter (t : DestStream) (phase : Bool) (v : Nat) : DestStream :=
  if phase then { t with count1 := v % 2 ^ 20 } else { t with count0 := v % 2 ^ 20 }

/-- A count of n bits gains 1. Software shall not let it overflow (R133): one that does is a free value (R8; log 53). -/
def State.countUp (s : State) (bits v : Nat) : State × Nat :=
  if v + 1 < 2 ^ bits then (s, v + 1) else ({ s with fresh := s.fresh + 1 }, (Config.freeWord s.fresh).toNat % 2 ^ bits)

/-! ## Completion of a request at its source -/

/-- A stream at its source. -/
def State.source (s : State) (d : DieId) (n : Nat) : SourceStream :=
  Sparse.get (fun _ => SourceStream.reset) (s.die d).torus.sources n

/-- Replace a stream at its source. -/
def State.setSource (s : State) (d : DieId) (n : Nat) (v : SourceStream) : State :=
  let x := s.die d
  s.setDie d { x with torus := { x.torus with sources := Sparse.set (fun _ => SourceStream.reset) x.torus.sources n v } }

/-- The flag stream that a part of an operation belongs to: its counted writes', or its flag's (R132). -/
def Op.streamOf (o : Op) (part : Nat) : Option Nat :=
  match o.req with
  | .flag _ n _ _ _ => some n
  | _ => (o.parts[part]?).bind (·.fs)

/-- A counted write or flag of an operation has ended with a status other than OK: software owes its stream a reset (R133). -/
def State.oweReset (s : State) (op part : Nat) : State :=
  match s.ops.find? fun o => decide (o.id = op) with
  | none => s
  | some o =>
    match o.streamOf part with
    | some n => let d := o.owner.core.die; s.setSource d n { s.source d n with broken := true }
    | none => s

/-- Record the status of a part of an operation. -/
def State.partDone (s : State) (op part : Nat) (st : Status) : State :=
  let s := if st = Status.ok then s else s.oweReset op part
  { s with ops := s.ops.map fun o =>
      if o.id = op then { o with parts := o.parts.mapIdx fun k p => if k = part then { p with st := .done st } else p } else o }

/-- The bytes of a part that are wanted, put into a buffer. -/
def Part.fill (p : Part) (m : Memory) (bs : List Byte) : Memory :=
  if p.segs.isEmpty then writeBytes m p.off bs else p.segs.foldl (fun m e => writeBytes m e.2.1 ((bs.drop e.1).take e.2.2)) m

/-- The bytes of a part out of a buffer. -/
def Part.take (p : Part) (m : Memory) : List Byte :=
  if p.segs.isEmpty then readBytes m p.off p.len
  else readBytes (p.segs.foldl (fun w e => writeBytes w e.1 (readBytes m e.2.1 e.2.2)) []) 0 p.len

/-- The words of a part's span that are wanted, as runs (place in the span, length): all of it, or those of the lanes that go with it. -/
def Part.runs (p : Part) : List (Nat × Nat) :=
  if p.segs.isEmpty then [(0, p.len)]
  else
    let wanted := fun (w : Nat) => p.segs.any fun e => decide (e.1 ≤ 4 * w) && decide (4 * w < e.1 + e.2.2)
    ((List.range (p.len / 4)).foldl (fun (r : List (Nat × Nat)) w =>
      if !wanted w then r
      else match r with
        | (a, n) :: t => if a + n = 4 * w then (a, n + 4) :: t else (4 * w, 4) :: (a, n) :: t
        | [] => [(4 * w, 4)]) []).reverse

/-- A request whose reply carries data: a read or an atomic. -/
def Req.answers : Req → Bool
  | .read => true
  | .amo _ _ _ => true
  | .cas _ _ _ => true
  | _ => false

/-- Store the bytes that a part has read in its operation's buffer. -/
def State.partData (s : State) (op part : Nat) (bs : List Byte) : State :=
  { s with ops := s.ops.map fun o =>
      if o.id = op ∧ o.req.answers = true then (match o.parts[part]? with | some p => { o with data := p.fill o.data bs } | none => o) else o }

/-- A request's reply reaches its source with a status: the tag is free again, and the part is done; a status other than OK leaves the
buffer as it is (R128, R258). -/
def State.complete (s : State) (d : DieId) (tag : Nat) (st : Status) (bs : List Byte) : State :=
  match (s.die d).torus.tag? tag with
  | none => s
  | some t =>
    let x := s.die d
    let s := s.setDie d { x with torus := x.torus.dropTag tag }
    let s := if st = Status.ok then s.partData t.op t.part bs else s
    let s := if st = Status.linkDown then s.count d 0x192 else s
    s.partDone t.op t.part st

/-! ## Packets -/

/-- A reply to a request (R127): status in `op`, and the responder's incarnation. -/
def State.replyPacket (s : State) (d : DieId) (q : Packet) (st : Status) (bs : List Byte) : Packet :=
  { kind := 8, dirs := s.dirsTo d q.src, vc := 0, src := s.dieNum d, dst := q.src, tag := q.tag, gen := q.gen, inc := s.inc d,
    size := bs.length - 1, op := st.setWidth 8, addr := q.addr, ord := 0, fs := 0, phase := false, counted := false, fsg := 0, fcnt := 0,
    bad := false, data := bs }

/-- Drop every TLB entry of a die that names a target with an incarnation (R130). -/
def State.dropStale (s : State) (d : DieId) (target : Nat) (inc : BitVec 16) : State :=
  let keep := fun (e : TlbEntry) => !(decide (e.die = target) && decide (e.inc = inc))
  let x := s.die d
  s.setDie d { x with
    tlb := x.tlb.filter keep,
    cores := x.cores.map fun e => (e.1, { e.2 with store := { e.2.store with utlb := e.2.store.utlb.filter keep } }) }

/-- A reply reaches its source (R128, R130): the responder's incarnation is recorded; a reply of another generation, or for a tag that is
unused or rests, is discarded and counts; TARGET_GONE drops the translations with the incarnation that the request carried. -/
def State.takeReply (s : State) (d : DieId) (p : Packet) : State :=
  let s := s.setPeer d p.src p.inc
  let t := (s.die d).torus
  match t.tag? p.tag with
  | none => s.count d 0x18E
  | some r =>
    if r.resting ∨ t.gen p.tag ≠ p.gen then s.count d 0x18E
    else
      let st : Status := p.op.setWidth 4
      let old := ((s.ops.find? fun o => decide (o.id = r.op)).bind fun o => (o.parts[r.part]?).map (·.inc)).getD 0
      let s := if st = Status.targetGone then s.dropStale d r.target old else s
      s.complete d p.tag st p.data

/-- Send a reply from a die. To a die of the package it arrives at once; otherwise it is a packet. -/
def State.sendReply (s : State) (d : DieId) (q : Packet) (st : Status) (bs : List Byte) : State :=
  let r := s.replyPacket d q st bs
  match s.path d q.src with
  | .self => s.takeReply d r
  | .sibling => s.takeReply (DieId.other d) r
  | .remote => s.inject d r
  | .down => s

/-- Perform a flag update at its destination and reply (R132): the counter of its phase is cleared, and the word gains `add`. The counter
is cleared where the update ends with a status other than OK as well (DESIGN CHOICE, log 58). -/
def State.performFlag (s : State) (d : DieId) (p : Packet) : State :=
  let t := s.dest d p.src p.fs
  let s := s.setDest d p.src p.fs (t.setCounter p.phase 0)
  if !(s.die d).inLocal p.addr 4 then s.sendReply d p Status.access []
  else
    let (x, st, _) := (s.die d).sliceRmw p.addr 4 fun v => some ((v + ofBytes (p.data.take 4)) % 2 ^ 32)
    (s.setDie d x).sendReply d p st []

/-- Perform the withheld flags of a pair whose counter has reached n. -/
def State.releaseFlags (s : State) (d : DieId) (src n : Nat) : State :=
  let t := s.dest d src n
  let due := t.withheld.filter fun p => decide (p.fcnt ≤ t.counter p.phase)
  let s := s.setDest d src n { t with withheld := t.withheld.filter fun p => decide (t.counter p.phase < p.fcnt) }
  due.foldl (fun s p => s.performFlag d p) s

/-- A flag arrives at its destination (R132, R133): performed, or withheld until its counter reaches n. -/
def State.flagArrives (s : State) (d : DieId) (p : Packet) : State :=
  if p.inc ≠ s.inc d then s.sendReply d p Status.targetGone []
  else
    let (s, take) := s.adopt d p.src p.fs p.fsg
    if !take then s
    else
      let t := s.dest d p.src p.fs
      if p.fcnt ≤ t.counter p.phase then s.performFlag d p
      else s.setDest d p.src p.fs { t with withheld := t.withheld ++ [p] }

/-- A counted write has been performed at its destination (R132). -/
def State.countWrite (s : State) (d : DieId) (src n : Nat) (phase : Bool) : State :=
  let t := s.dest d src n
  let (s, v) := s.countUp 20 (t.counter phase)
  (s.setDest d src n (t.setCounter phase v)).releaseFlags d src n

/-! ## Counted streams at their source (R280) -/

/-- The flag stream that a write of a cluster to a die counts in: the lowest-numbered one that is open in the cluster to that die. -/
def State.openStream (s : State) (i : StreamId) (target : Nat) : Option Nat :=
  (List.range 64).find? fun n =>
    (s.stream i).streams.getLsbD n && decide ((s.source i.core.die n).dest = target)

/-- A value of n bits that R8 leaves unspecified. -/
def State.unspecified (s : State) (bits : Nat) : State × Nat := ({ s with fresh := s.fresh + 1 }, (Config.freeWord s.fresh).toNat % 2 ^ bits)

/-- The count that a flag of a stream carries: n, unless software has broken R133 or R280, where it is unspecified (R8, log 53). -/
def State.flagCount (s : State) (d : DieId) (n : Nat) : State × Nat :=
  if (s.source d n).broken then s.unspecified 16 else (s, (s.source d n).count)

/-- A counted write is issued: the die's count of the stream advances, 16 bits. -/
def State.issueCounted (s : State) (d : DieId) (n : Nat) : State :=
  let t := s.source d n
  let (s, v) := s.countUp 16 t.count
  s.setSource d n { t with count := v }

/-- A stream is reset at its source (R133, R414): its generation advances, and its phase and count are cleared. -/
def State.resetSource (s : State) (d : DieId) (n : Nat) : State :=
  let t := s.source d n
  s.setSource d n { t with gen := t.gen + 1, phase := false, count := 0, broken := false }

end Sys2Proof.Machine
end

