-- ==== Sys2Proof/Machine/Request.lean ====
section
/-!
DEFINITION. Operations and the requests that they make to the memory channels of the domain (R87, R128 to R132, R149, R172): what a
request does at a slice, its packet, the status that it ends with before it is sent, and the parts of an operation one after another.
-/

namespace Sys2Proof.Machine

/-! ## Atomics (R264, R265) -/

/-- f(aop, old, x) of R265 on operands of the size's bits. -/
def amoResult (aop size old x : Nat) : Nat :=
  match aop with
  | 14 => rne32 ((v32 old).add (v32 x)).1
  | 15 => rne32 ((v32 old).max (v32 x))
  | _ => amoInt (8 * size) old x aop

/-- A request that can change memory (R79). -/
def Req.isWrite : Req → Bool
  | .read => false
  | .probe => false
  | _ => true

/-! ## Performing a request at a memory channel (R149, R150) -/

/-- Perform a request within one line at a slice: its status and the bytes that it returns. -/
def Die.atSlice (d : Die) (req : Req) (a n : Nat) (bs : List Byte) : Die × Status × List Byte :=
  match req with
  | .read => d.sliceRead a n
  | .write => let (d, st) := d.sliceWrite a bs; (d, st, [])
  | .amo aop size x =>
    let (d, st, old) := d.sliceRmw a n fun v => some (amoResult aop size v x % 2 ^ (8 * size))
    (d, st, bytesOf n old)
  | .cas _ e x =>
    let (d, st, old) := d.sliceRmw a n fun v => if v = e then some x else none
    (d, st, bytesOf n old)
  | .bank _ _ => (d, Status.ok, [])
  | .flag _ _ _ _ _ => (d, Status.ok, [])
  | .probe => (d, Status.ok, [])

/-- Perform a load or store of a core through its L1, and an atomic at the slice (R172). -/
def Die.atCore (d : Die) (core : Nat) (req : Req) (a n : Nat) (bs : List Byte) : Die × Status × List Byte :=
  match req with
  | .read => d.l1Read core a n
  | .write => let (d, st) := d.l1Write core a bs; (d, st, [])
  | r => d.atSlice r a n bs

/-! ## Operations -/

/-- An operation by its number. -/
def State.op? (s : State) (id : Nat) : Option Op := s.ops.find? fun o => decide (o.id = id)

/-- Add an operation: its number is the next one. -/
def State.addOp (s : State) (o : Op) : State × Nat :=
  ({ s with ops := s.ops ++ [{ o with id := s.nextOp }], nextOp := s.nextOp + 1 }, s.nextOp)

/-- Remove an operation. -/
def State.dropOp (s : State) (id : Nat) : State := { s with ops := s.ops.filter fun o => decide (o.id ≠ id) }

/-- Replace an operation. -/
def State.setOp (s : State) (o : Op) : State := { s with ops := s.ops.map fun x => if x.id = o.id then o else x }

/-- A part is done. -/
def Part.isDone (p : Part) : Bool := match p.st with | .done _ => true | _ => false

/-- A task is done. -/
def Task.isDone (t : Task) : Bool := match t.st with | .done _ => true | _ => false

/-- Every part and task of an operation has been performed and answered. -/
def Op.performed (o : Op) : Bool := o.parts.all (·.isDone) && o.tasks.all (·.isDone)

/-- A slab growth has ended: its pair is invalidated, whether or not its stream has taken its status yet (R111, R407). -/
def Grow.ended (g : Grow) : Bool := match g.phase with | .finished _ => true | _ => false

/-- An operation whose accesses have not all been performed: one of its parts or tasks, a later page of its slab growth, or a later round of
its `kvattn`. -/
def Op.outstanding (o : Op) : Bool :=
  !o.performed || (match o.grow with | some g => !g.ended | none => false) ||
    (match o.dest with | .attn _ _ => true | _ => false)

/-- The status of an operation: that of its first part, then of its first task, that is not OK (R258, R270, R274). -/
def Op.status (o : Op) : Status :=
  let ps := o.parts.map fun p => match p.st with | .done st => st | _ => Status.ok
  let ts := o.tasks.map fun t => match t.st with | .done st => st | _ => Status.ok
  ((ps ++ ts).find? fun st => decide (st ≠ Status.ok)).getD Status.ok

/-- An operation of a stream with nothing in it yet. -/
def Op.empty (i : StreamId) : Op :=
  { id := 0, owner := i, engine := false, plain := true, preg := 0, acq := false, rel := false, so := false, dest := .none, size := 0,
    req := .read, parts := [], tasks := [], cap := 0, data := [], grow := none, faultAddr := 0, asid := 0, circ := none }

/-! ## Requests of the package's dies -/

/-- Where a packet names the Commons of its target (log 14): a number no page-table entry's access is ever sent with (R16). -/
def commonsAddr : Nat := 2 ^ 39

/-- The operation code of an atomic in a packet (log 14): bits [3:0] aop, bit 4 the width, bit 5 compare-and-swap; bit 7 a
bank operation, with its format in bits [6:4]. -/
def Req.code : Req → BitVec 8
  | .amo aop size _ => BitVec.ofNat 8 (aop + if size = 8 then 16 else 0)
  | .cas size _ _ => BitVec.ofNat 8 (32 + if size = 8 then 16 else 0)
  | .bank fmt op => BitVec.ofNat 8 (128 + 16 * fmt + op)
  | _ => 0

/-- The packet kind of a request (R127). -/
def Req.kind : Req → Nat
  | .read => 0
  | .write => 1
  | .flag _ _ _ _ _ => 3
  | .probe => 4
  | _ => 2

/-- The payload of a request. -/
def Req.payload (r : Req) (bs : List Byte) : List Byte :=
  match r with
  | .read => []
  | .write => bs
  | .amo _ size x => bytesOf size x
  | .cas size e n => bytesOf size e ++ bytesOf size n
  | .bank _ _ => bs
  | .flag add _ _ _ _ => bytesOf 4 add.toNat
  | .probe => []

/-- The request packet of a part (R127). A flag's update is a release (R280). -/
def State.requestPacket (s : State) (o : Op) (p : Part) (tag : Nat) (bs : List Byte) : Packet :=
  let d := o.owner.core.die
  let (fs, phase, counted, fsg, fcnt) := match o.req with
    | .flag _ n ph g c => (n, ph, false, g, c)
    | _ => match p.fs with
      | some n => (n, (s.source d n).phase, true, (s.source d n).gen, 0)
      | none => (0, false, false, 0, 0)
  { kind := o.req.kind, dirs := s.dirsTo d p.die, vc := 0, src := s.dieNum d, dst := p.die, tag := tag, gen := (s.die d).torus.gen tag,
    inc := p.inc, size := p.len - 1, op := o.req.code, addr := if p.com then commonsAddr + p.addr else p.addr,
    ord := BitVec.ofNat 4 (p.order + (if o.acq then 4 else 0) + (if o.rel || o.req.kind == 3 then 8 else 0)), fs := fs, phase := phase, counted := counted,
    fsg := fsg, fcnt := fcnt, bad := false, data := o.req.payload bs }

/-- A remote tag taken for a part, at the present cycle (R128). -/
def State.takeTag (s : State) (d : DieId) (tag op part target : Nat) (port : Option Nat) : State :=
  let x := s.die d
  let s := s.setDie d { x with torus := x.torus.putTag tag ⟨op, part, target, s.cycle, false, port⟩ }
  { s with ops := s.ops.map fun o =>
      if o.id = op then { o with parts := o.parts.mapIdx fun k p => if k = part then { p with st := .sent tag } else p } else o }

/-- Whether an operation's accesses pass the issuing core's L1: those of its streams do, the engines' do not (R172). -/
def Op.throughL1 (o : Op) : Bool :=
  match o.dest with
  | .line _ => false | .copy => false | .flag _ => false | .plane => false | .node => false | .walk _ _ _ _ _ => false | .apart => false
  | _ => true

/-- Whether a part is a line request of R87 that a core or a copy channel sends, which the access counters count (R89). -/
def Op.countedIn (o : Op) (p : Part) : Bool :=
  !p.com && (match o.dest with | .plane => false | .node => false | .walk _ _ _ _ _ => false | .apart => false | _ => true)

/-- The access counters take a part, where they count it. -/
def State.countPart (s : State) (o : Op) (p : Part) : State :=
  if o.countedIn p then s.countAccess o.owner.core.die o.asid p.va p.die else s

/-- Perform the runs of a part one after the other, as one request: its status is the first that is not OK, and bytes between the runs are
neither read nor written (R303, R304). -/
def Die.overRuns (f : Die → Nat → Nat → List Byte → Die × Status × List Byte) (p : Part) (bs : List Byte) :
    List (Nat × Nat) → Die → Die × Status × Memory
  | [], d => (d, Status.ok, [])
  | (o, n) :: t, d =>
    let (d, st, out) := f d (p.addr + o) n ((bs.drop o).take n)
    let (d, st', m) := Die.overRuns f p bs t d
    (d, if st = Status.ok then st' else st, writeBytes m o out)

/-- Perform a part of an operation at a die of the package: by the L1 of its core where its die is the core's own, at the slice otherwise. -/
def Die.doPart (x : Die) (o : Op) (own : Bool) (p : Part) (bs : List Byte) : Die × Status × List Byte :=
  let f := fun (x : Die) (a n : Nat) (bs : List Byte) =>
    if own ∧ o.throughL1 then x.atCore o.owner.core.core.val o.req a n bs else x.atSlice o.req a n bs
  if p.segs.isEmpty then f x p.addr p.len bs
  else let (x, st, m) := Die.overRuns f p bs p.runs x; (x, st, readBytes m 0 p.len)

/-- Perform a part at a die of the package, and count it at the destination of its stream (R132). -/
def State.partAt (s : State) (o : Op) (k : Nat) (p : Part) (t : DieId) : State :=
  let d := o.owner.core.die
  let bs := p.take o.data
  let (take, s) := match p.fs with
    | some n => let r := s.adopt t (s.dieNum d) n (s.source d n).gen; (r.2, r.1)
    | none => (true, s)
  if !take then s.partDone o.id k Status.timeout
  else
    let (x, st, out) := (s.die t).doPart o (decide (t = d)) p bs
    let s := s.setDie t x
    let s := if st = Status.ok then s.partData o.id k out else s
    let s := s.partDone o.id k st
    match p.fs with
    | some n => if st = Status.ok then s.countWrite t (s.dieNum d) n (s.source d n).phase else s
    | none => s

/-- A part is issued (R280): the count of its stream advances. -/
def State.issued (s : State) (d : DieId) (p : Part) : State :=
  match p.fs with | some n => s.issueCounted d n | none => s

/-- Send a part as a request packet, over the torus or over a circuit port (R128, R140). A part that finds no free tag waits for one. -/
def State.sendPart (s : State) (o : Op) (k : Nat) (p : Part) (port : Option Nat) : State :=
  let d := o.owner.core.die
  match (s.die d).torus.freeTag with
  | none => s
  | some tag =>
    let s := (s.issued d p).countPart o p
    let q := s.requestPacket o p tag (p.take o.data)
    let s := s.takeTag d tag o.id k p.die port
    match port with
    | some n => s.note (.sent d (16 + n) q.bytes)
    | none => s.inject d q

/-- The circuit port that carries a line of a command that uses circuits: line j goes to C[j mod c] (R140). -/
def State.portFor (s : State) (o : Op) (p : Part) : Option Nat :=
  match o.circ with
  | none => none
  | some j => let ports := s.circuits o.owner.core.die p.die; ports[j % ports.length]?

/-- A part names a location of the domain: bytes of a die's Commons, or of a die's local memory (R16). -/
def State.partOk (s : State) (d : DieId) (p : Part) : Bool :=
  s.inDomain d p.die && (if p.com then decide (p.addr + p.len ≤ 2 ^ 26) else s.localAt d p.die p.addr p.len)

/-- The status with which a part ends at the requester, before anything of it is sent (R16, R78, R125, R130). -/
def State.atSend (s : State) (o : Op) (p : Part) : Option Status :=
  let d := o.owner.core.die
  if !s.partOk d p then some Status.access
  else match s.path d p.die with
    | .self => none
    | .sibling => if p.inc ≠ s.inc (DieId.other d) ∧ o.req ≠ .probe then some Status.targetGone else none
    | .remote => none
    | .down => if (s.portFor o p).isSome then none else some Status.linkDown

/-- Perform or send one part (R16, R87, R128 to R131, R140). -/
def State.doPart (s : State) (o : Op) (k : Nat) (p : Part) : State :=
  let d := o.owner.core.die
  match s.atSend o p with
  | some st =>
    if st = Status.access then s.partDone o.id k st
    else if st = Status.linkDown then ((s.issued d p).count d 0x192).partDone o.id k st
    else
      let s := ((s.issued d p).countPart o p).setPeer d p.die (s.inc (DieId.other d))
      (s.dropStale d p.die p.inc).partDone o.id k st
  | none =>
    match s.path d p.die with
    | .self => (s.issued d p).partAt o k p d
    | .sibling =>
      if (s.die d).torus.freeTag.isNone then s
      else (((s.issued d p).countPart o p).setPeer d p.die (s.inc (DieId.other d))).partAt o k p (DieId.other d)
    | _ => s.sendPart o k p (s.portFor o p)

/-- A part can go: it has not, and where it lies on an SO page no earlier part on an SO page is still to be performed (R357, R358). -/
def Op.partReady (o : Op) (k : Nat) (p : Part) : Bool :=
  decide (p.st = .todo) && (p.order != 0 || (o.parts.take k).all fun q => q.order != 0 || q.isDone)

/-- Perform or send one part of an operation, where it can go. -/
def State.tryPart (s : State) (id k : Nat) : State :=
  match s.op? id with
  | none => s
  | some o =>
    match o.parts[k]? with
    | none => s
    | some p => if o.partReady k p then s.doPart o k p else s

/-- A store of one register, which performs no write where one of its two parts ends with a status other than OK (R258). -/
def Op.oneStore (o : Op) : Bool := decide (o.req = .write) && !o.engine && decide (o.size ≤ 8) && decide (1 < o.parts.length)

/-- A part lies in the package, and its die answers. -/
def State.inPackage (s : State) (o : Op) (p : Part) : Bool :=
  match s.path o.owner.core.die p.die with | .self => true | .sibling => true | _ => false

/-- A write's part would end at its slice in the package with a status other than OK (R150). -/
def State.sliceRefuses (s : State) (o : Op) (p : Part) : Bool :=
  let d := o.owner.core.die
  match s.ownDie p.die with
  | some t =>
    s.inPackage o p && ((s.die t).doPart o (decide (t = d)) p (p.take o.data)).2.1 != Status.ok
  | none => false

/-- The parts that have not gone: those that a test admits end with their own status, the others with nothing performed. -/
def State.endParts (s : State) (o : Op) (own : Part → Bool) : State :=
  (o.parts.zipIdx).foldl (fun t e => if e.1.st ≠ .todo then t else if own e.1 then t.doPart o e.2 e.1 else t.partDone o.id e.2 Status.ok) s

/-- The parts of a store that performs all its parts or none go one after another (R258): once one has ended with a status other than OK,
the others are not performed; a part on another package goes, and is answered, before the parts in the package. -/
def State.performStore (s : State) (o : Op) : State :=
  let failed := fun (p : Part) => match p.st with | .done st => st != Status.ok | _ => false
  let sent := fun (p : Part) => match p.st with | .sent _ => true | _ => false
  let fails := fun (p : Part) => decide (p.st = .todo) && ((s.atSend o p).isSome || s.sliceRefuses o p)
  if o.parts.any failed then s.endParts o fun _ => false
  else if (s.die o.owner.core.die).torus.freeTag.isNone && o.parts.any fun p => s.path o.owner.core.die p.die != .self then s
  else if o.parts.any fails then s.endParts o fails
  else if o.parts.any sent then s
  else
    match (o.parts.zipIdx).find? fun e => o.partReady e.2 e.1 && !s.inPackage o e.1 with
    | some e => s.tryPart o.id e.2
    | none => (List.range o.parts.length).foldl (fun s k => s.tryPart o.id k) s

/-- Perform or send every part of an operation that can go. A write of which one part ends before it is sent performs no part (R258,
R304). -/
def State.performOp (s : State) (id : Nat) : State :=
  match s.op? id with
  | none => s
  | some o =>
    if o.oneStore then s.performStore o
    else if o.req.isWrite && o.parts.all (fun p => decide (p.st = .todo)) && o.parts.any fun p => (s.atSend o p).isSome then
      s.endParts o fun p => (s.atSend o p).isSome
    else (List.range o.parts.length).foldl (fun s k => s.tryPart id k) s

/-- Send the parts that waited: for a free tag (R128), or for an earlier part on an SO page. -/
def State.pump (s : State) (d : DieId) : State :=
  (s.ops.filter fun o => decide (o.owner.core.die = d) && o.parts.any fun p => decide (p.st = .todo)).foldl
    (fun s o => s.performOp o.id) s

end Sys2Proof.Machine
end

