-- ==== Sys2Proof/Machine/Xlate.lean ====
section
/-!
DEFINITION. Translation of domain virtual addresses (04_translation.md): the walk, the checks of R79, the re-walk of R80, the TLBs and
the walk cache.
-/

namespace Sys2Proof.Machine

/-! ## Reading tables (R74, R77) -/

/-- Whose walk it is: that of an access of a core or of its die's command processor, of an ASID and an address. -/
structure Walker where
  core : CoreId
  who : Asker
  asid : Nat
  va : Nat
  deriving DecidableEq, Repr

/-- What a read of a table answers: the value, a status other than OK, or an answer of another package that has not come yet. -/
inductive TableRead where
  | val (v : Nat)
  | bad
  | need
  deriving DecidableEq, Repr

/-- The key of a probe's answer. -/
def probeKey (die : Nat) : Nat := 2 ^ 49 + die

/-- The key of the answer to the or into an entry. -/
def orKey (pa : Nat) : Nat := 2 ^ 50 + pa

/-- The answer that a walk has had to a request. -/
def answered (got : List WalkAnswer) (key : Nat) : Option WalkAnswer := got.find? fun e => decide (e.key = key)

/-- A walker sends a request to another package: a read of n bytes, an atomic or a probe, which take a tag as any request (R77, R128, R130). -/
def State.walkerSend (s : State) (w : Walker) (got : List WalkAnswer) (req : Req) (die a n : Nat) : State :=
  let p : Part := { die := die, com := false, addr := a, off := 0, len := n, segs := [], order := 1, inc := s.peer w.core.die die, va := w.va,
                    rep := w.va, fs := none, st := .todo }
  let (s, id) := s.addOp { Op.empty ⟨w.core, .a⟩ with
    engine := true, plain := false, dest := .walk w.asid w.va w.who false got, size := n, req := req, parts := [p], asid := w.asid }
  s.performOp id

/-- Read n bytes of a physical address for a walker (R77). A die of another package is read over the torus, and probed first where its
incarnation is unknown (R130; log 52). -/
def State.readTable (s : State) (w : Walker) (got : List WalkAnswer) (pa n : Nat) : State × TableRead :=
  let d := w.core.die
  let num := pa / 2 ^ 40
  let a := pa % 2 ^ 40
  if !s.inDomain d num || !s.localAt d num a n then (s, .bad)
  else match s.path d num with
  | .down => (s.count d 0x192, .bad)
  | .remote =>
    (match answered got pa, answered got (probeKey num) with
     | some e, _ => (s, if e.st = Status.ok then .val e.value else .bad)
     | none, some e => if e.st = Status.ok then (s.walkerSend w got .read num a n, .need) else (s, .bad)
     | none, none => (if s.peer d num = 0 then s.walkerSend w got .probe num 0 1 else s.walkerSend w got .read num a n, .need))
  | p =>
    let t := if p = .self then d else DieId.other d
    let (x, st, bs) := (s.die t).sliceRead a n
    (s.setDie t x, if st = Status.ok then .val (ofBytes bs) else .bad)

/-- The ASID table entry of a walker's ASID (R73, R74). -/
def State.asidEntry (s : State) (w : Walker) : State × TableRead :=
  s.readTable w [] (s.dieNum w.core.die * 2 ^ 40 + field (s.dieReg w.core.die 0x101) 20 20 * 2 ^ 20 + 16 * w.asid) 16

/-! ## The walk (R77) -/

/-- What a translation answers: an entry, a translation fault's cause, or a wait for another package's answer. -/
inductive Xres where
  | ok (e : TlbEntry)
  | fault (cause : Nat)
  | need
  deriving DecidableEq, Repr

/-- The causes of R398. -/
def causeNomap : Nat := 1
def causeFormat : Nat := 2
def causeProt : Nat := 3
def causeDupwrite : Nat := 4
def causeMigrate : Nat := 5
def causeAlign : Nat := 6

/-- The reserved bits of a page-table entry (R76). -/
def pteReserved (e : Nat) : Nat := e / 2 ^ 60 % 16 + e / 2 ^ 40 % 4 + e / 2 ^ 11 % 2

/-- The leaf-only fields of a page-table entry: `dupdie`, `g`, `a`, `span`, `state`, `order`, `user`, `w` (R76). -/
def pteLeafOnly (e : Nat) : Nat := e / 2 ^ 51 % 512 + e / 4 % 512

/-- The leaf checks of R77: the entry that a leaf gives, or FORMAT. -/
def State.leafEntry (s : State) (d : DieId) (asid va lvl e : Nat) : Xres :=
  let w : Word := BitVec.ofNat 64 e
  let unit := 2 ^ (39 - 9 * lvl)
  let size := if bit w 8 then unit * 16 else unit
  let loc := field w 12 28 * 4096
  let die := field w 42 9
  let dup := field w 51 9
  let st := field w 6 2
  if lvl = 0 then .fault causeFormat
  else if bit w 8 ∧ lvl = 1 then .fault causeFormat
  else if loc % size ≠ va % size - va % unit then .fault causeFormat
  else if field w 4 2 = 3 ∨ st = 3 then .fault causeFormat
  else if st = 1 ∧ (dup = die ∨ !s.inDomain d dup) then .fault causeFormat
  else if st ≠ 1 ∧ dup ≠ 0 then .fault causeFormat
  else .ok { asid := asid, global := bit w 10, va := va / size * size, size := size, die := die, dup := dup,
             base := loc - (va % size - va % unit), w := bit w 2, user := bit w 3, order := field w 4 2, st := st, inc := 0 }

/-- Or the accessed bit into an entry (R77): at once in the package's own memory, by an atomic request to another package, whose reply the
walk waits for, whatever its status (log 59). It answers whether the bit has been seen to. -/
def State.setAccessed (s : State) (w : Walker) (got : List WalkAnswer) (pa : Nat) : State × Bool :=
  let d := w.core.die
  match s.path d (pa / 2 ^ 40) with
  | .self => (s.setDie d ((s.die d).sliceRmw (pa % 2 ^ 40) 8 fun v => some (v ||| 512)).1, true)
  | .sibling => (s.setDie (DieId.other d) ((s.die (DieId.other d)).sliceRmw (pa % 2 ^ 40) 8 fun v => some (v ||| 512)).1, true)
  | _ =>
    if (answered got (orKey pa)).isSome then (s, true)
    else (s.walkerSend w got (.amo 5 8 512) (pa / 2 ^ 40) (pa % 2 ^ 40) 8, false)

/-- Hold a non-leaf table in the walk cache of 512 entries (R82). -/
def State.cacheTable (s : State) (d : DieId) (w : WalkEntry) : State :=
  let x := s.die d
  if x.walkCache.contains w then s else s.setDie d { x with walkCache := (x.walkCache ++ [w]).drop (x.walkCache.length + 1 - 512) }

/-- The levels of a walk from a level down; `fuel` is the number of levels left. -/
def State.walkFrom (w : Walker) (got : List WalkAnswer) : Nat → State → Nat → State × Xres
  | 0, s, _ => (s, .fault causeFormat)
  | fuel + 1, s, t =>
    let d := w.core.die
    let lvl := 3 - fuel
    let pa := t + 8 * (w.va / 2 ^ (39 - 9 * lvl) % 512)
    match s.readTable w got pa 8 with
    | (s, .need) => (s, .need)
    | (s, .bad) => (s, .fault causeFormat)
    | (s, .val e) =>
      if e % 2 = 0 then (s, .fault causeNomap)
      else if pteReserved e ≠ 0 then (s, .fault causeFormat)
      else if e / 2 % 2 = 0 then
        if lvl = 3 ∨ pteLeafOnly e ≠ 0 then (s, .fault causeFormat)
        else
          let die := e / 2 ^ 42 % 512
          let loc := e / 2 ^ 12 % 2 ^ 28 * 4096
          if !s.inDomain d die || !s.localAt d die loc 4096 then (s, .fault causeFormat)
          else
            let t' := die * 2 ^ 40 + loc
            State.walkFrom w got fuel
              (s.cacheTable d ⟨w.asid, lvl + 1, w.va / 2 ^ (39 - 9 * lvl), t'⟩) t'
      else
        match s.leafEntry d w.asid w.va lvl e with
        | .ok x =>
          if e / 512 % 2 = 1 then (s, .ok x)
          else (match s.setAccessed w got pa with
            | (s, true) => (s, .ok x)
            | (s, false) => (s, .need))
        | r => (s, r)

/-- The walk's starting point: the deepest table that the walk cache holds for the address, or the root (R82). -/
def State.walkStart (s : State) (d : DieId) (asid va root : Nat) : Nat × Nat :=
  [1, 2, 3].foldl
    (fun (r : Nat × Nat) lvl =>
      match (s.die d).walkCache.find? fun w => decide (w.asid = asid ∧ w.level = lvl ∧ w.tag = va / 2 ^ (48 - 9 * lvl)) with
      | some w => (lvl, w.table)
      | none => r)
    (0, root)

/-- The incarnation recorded with a translation (R130): where it is unknown, the walker probes the die and waits for the reply. -/
def State.recordInc (s : State) (w : Walker) (got : List WalkAnswer) (e : TlbEntry) : State × Xres :=
  let d := w.core.die
  if s.peer d e.die ≠ 0 ∨ !s.inDomain d e.die then (s, .ok { e with inc := s.peer d e.die })
  else match s.path d e.die with
    | .sibling => let v := s.inc (DieId.other d); (s.setPeer d e.die v, .ok { e with inc := v })
    | .remote => if (answered got (probeKey e.die)).isSome then (s, .ok e) else (s.walkerSend w got .probe e.die 0 1, .need)
    | .down => (s.count d 0x192, .ok e)
    | .self => (s, .ok e)

/-- Walk a virtual address (R77), with the answers of other packages that the walk has had. -/
def State.walkWith (s : State) (w : Walker) (got : List WalkAnswer) : State × Xres :=
  match s.asidEntry w with
  | (s, .need) => (s, .need)
  | (s, .bad) => (s, .fault causeFormat)
  | (s, .val e) =>
    if e / 2 ^ 63 % 2 = 0 then (s, .fault causeNomap)
    else if e / 2 ^ 65 ≠ 0 ∨ e / 2 ^ 49 % 2 ^ 14 ≠ 0 ∨ e % 4096 ≠ 0 then (s, .fault causeFormat)
    else
      let (lvl, t) := s.walkStart w.core.die w.asid w.va (e % 2 ^ 49)
      match State.walkFrom w got (4 - lvl) s t with
      | (s, .ok x) => s.recordInc w got x
      | r => r

/-- Start a walk (R77): every one counts in `walks` (R84). -/
def State.walk (s : State) (w : Walker) : State × Xres := (s.count w.core.die 0x188).walkWith w []

/-! ## The TLBs (R82, R83) -/

/-- An entry translates an address of an ASID. -/
def TlbEntry.hits (e : TlbEntry) (asid va : Nat) : Bool :=
  (e.global || e.asid == asid) && decide (e.va ≤ va) && decide (va < e.va + e.size)

/-- The entry of a TLB that translates an address: the smaller where two sizes match (R83). -/
def lookupTlb (l : List TlbEntry) (asid va : Nat) : Option TlbEntry :=
  (l.filter fun e => e.hits asid va).foldl
    (fun r e => match r with | none => some e | some b => if e.size < b.size then some e else some b) none

/-- Put an entry into a TLB of a given size: it takes the place of one of the same block, and the oldest is dropped where the TLB is full
(log 11). -/
def putTlb (l : List TlbEntry) (n : Nat) (e : TlbEntry) : List TlbEntry :=
  let l := l.filter fun x => !(decide (x.va = e.va ∧ x.size = e.size) && (x.global || e.global || x.asid == e.asid))
  (l ++ [e]).drop (l.length + 1 - n)

/-- Install a translation in the core's micro-TLB and the die's last-level TLB together (R82). -/
def State.install (s : State) (c : CoreId) (e : TlbEntry) : State :=
  let x := s.die c.die
  let s := s.setDie c.die { x with tlb := putTlb x.tlb 8192 e }
  let k := s.core c
  s.setCore c { k with store := { k.store with utlb := putTlb k.store.utlb 64 e } }

/-- Discard an entry from the core's micro-TLB and the die's last-level TLB (R80). -/
def State.discard (s : State) (c : CoreId) (e : TlbEntry) : State :=
  let x := s.die c.die
  let s := s.setDie c.die { x with tlb := x.tlb.filter fun y => decide (y ≠ e) }
  let k := s.core c
  s.setCore c { k with store := { k.store with utlb := k.store.utlb.filter fun y => decide (y ≠ e) } }

/-! ## Translation -/

/-- The checks of R79, in order. -/
def TlbEntry.check (e : TlbEntry) (write program : Bool) : Option Nat :=
  if program && !e.user then some causeProt
  else if write && e.st == 1 then some causeDupwrite
  else if write && e.st == 2 then some causeMigrate
  else if write && !e.w then some causeProt
  else none

/-- Hold a walk's entry: in the core's micro-TLB and the die's last-level TLB, or for the command processor in the latter (R82). -/
def State.holdEntry (s : State) (w : Walker) (e : TlbEntry) : State :=
  if w.who.isCp then
    let x := s.die w.core.die
    s.setDie w.core.die { x with tlb := putTlb x.tlb 8192 e }
  else s.install w.core e

/-- A walk's answer, its entry held. -/
def State.held (w : Walker) : State × Xres → State × Xres
  | (s, .ok e) => (s.holdEntry w e, .ok e)
  | r => r

/-- A walk's answer, its entry checked (R79). -/
def checked (write program : Bool) : State × Xres → State × Xres
  | (s, .ok e) => (s, match e.check write program with | some f => .fault f | none => .ok e)
  | r => r

/-- The walk's request to another package is out, or its answer has not been taken up. -/
def State.walking (s : State) (w : Walker) : Bool :=
  s.ops.any fun o => decide (o.owner.core = w.core) &&
    (match o.dest with | .walk asid va who _ _ => decide (who = w.who) && asid == w.asid && va == w.va | _ => false)

/-- Keep what a walk that waited has found for the access that asked for it. -/
def State.putWalked (s : State) (w : Walker) (r : Walked) : State :=
  if w.who.isCp then { s with sched := { s.sched with walked := s.sched.walked ++ [(w.core.die, r)] } }
  else
    let k := s.core w.core
    s.setCore w.core { k with store := { k.store with walked := k.store.walked ++ [r] } }

/-- Take what a walk that waited has found for the access that asked for it: no other access takes it (R80, R94). -/
def State.takeWalked (s : State) (w : Walker) : State × Option Walked :=
  let hit := fun (r : Walked) => decide (r.who = w.who ∧ r.asid = w.asid ∧ r.va = w.va)
  if w.who.isCp then
    match s.sched.walked.find? fun e => decide (e.1 = w.core.die) && hit e.2 with
    | some e => ({ s with sched := { s.sched with walked := s.sched.walked.filter fun x => !(decide (x.1 = w.core.die) && hit x.2) } }, some e.2)
    | none => (s, none)
  else
    let k := s.core w.core
    match k.store.walked.find? hit with
    | some e => (s.setCore w.core { k with store := { k.store with walked := k.store.walked.filter fun x => !hit x } }, some e)
    | none => (s, none)

/-- Drop an entry that failed a check from the TLBs on the access's path (R80). -/
def State.dropEntry (s : State) (w : Walker) (e : TlbEntry) : State :=
  if w.who.isCp then
    let x := s.die w.core.die
    s.setDie w.core.die { x with tlb := x.tlb.filter fun y => decide (y ≠ e) }
  else s.discard w.core e

/-- The entry that a TLB on the access's path holds for it; that of the last-level TLB alone is installed in the micro-TLB too (R82). -/
def State.lookup (s : State) (w : Walker) : State × Option TlbEntry :=
  let far := lookupTlb (s.die w.core.die).tlb w.asid w.va
  if w.who.isCp then (s, far)
  else match lookupTlb (s.core w.core).store.utlb w.asid w.va with
    | some e => (s, some e)
    | none => match far with
      | some e => (s.install w.core e, some e)
      | none => (s, none)

/-- Translate an access (R72, R79, R80): `va` of the walker is the 64-bit address operand. What a walk that waited has found is a fresh
entry; while one is under way the access waits. -/
def State.translateFor (s : State) (w : Walker) (write program : Bool) : State × Xres :=
  if 2 ^ 48 ≤ w.va ∨ !bit (s.dieReg w.core.die 0x101) 0 then (s, .fault causeNomap)
  else match s.takeWalked w with
  | (s, some r) => checked write program (s, match r.entry with | some e => .ok e | none => .fault r.cause)
  | (s, none) =>
    if s.walking w then (s, .need)
    else
      let fresh := fun (s : State) => checked write program (State.held w (s.walk w))
      match s.lookup w with
      | (s, some e) =>
        (match e.check write program with
        | none => (s, .ok e)
        | some _ => fresh (s.dropEntry w e))
      | (s, none) => fresh (s.count w.core.die 0x187)

/-- Translate an access of a core. -/
def State.translate (s : State) (c : CoreId) (who : Asker) (asid va : Nat) (write program : Bool) : State × Xres :=
  s.translateFor ⟨c, who, asid, va⟩ write program

/-- The instruction of a stream as one that asks. -/
def State.asks (s : State) (i : StreamId) : Asker := .instr i.cl (s.stream i).pc ((s.stream i).reg 3)

/-- The die number and local address that an entry gives an address (R77, R88). -/
def State.place (s : State) (d : DieId) (e : TlbEntry) (va : Nat) : Nat × Nat :=
  (if e.st = 1 ∧ e.dup = s.dieNum d then e.dup else e.die, e.base + (va - e.va))

/-! ## The command processor's translations (R79, R390) -/

/-- The die whose command processor serves a queue. -/
def queueDie (q : Nat) : DieId := Fin.ofNat 2 (q / 2048)

/-- Translate an address of a step's node: no program access, through the last-level TLB of the die's command processor (R79, R80). -/
def State.translateCp (s : State) (d : DieId) (who : Asker) (asid va : Nat) (write : Bool) : State × Xres :=
  s.translateFor ⟨⟨d, 0⟩, who, asid, va⟩ write false

/-! ## Walks that go on (R77, R85) -/

/-- The key of the answer that a walker's request gets. -/
def Op.walkKey (o : Op) : Nat :=
  match o.parts with
  | p :: _ => (match o.req with | .probe => probeKey p.die | .amo _ _ _ => orKey (p.die * 2 ^ 40 + p.addr) | _ => p.die * 2 ^ 40 + p.addr)
  | [] => 0

/-- A walk goes on with the answer of its request: it asks again, or what it finds is held and kept for the access that waits. A walk that an
invalidation has met starts afresh. -/
def State.walkOn (s : State) (o : Op) : State :=
  match o.dest with
  | .walk asid va who again got =>
    let w : Walker := ⟨o.owner.core, who, asid, va⟩
    let s := s.dropOp o.id
    let r := if again then s.walk w else s.walkWith w (got ++ [⟨o.walkKey, o.status, readNat o.data 0 o.size⟩])
    match State.held w r with
    | (s, .need) => s
    | (s, .ok e) => s.putWalked w ⟨who, asid, va, 0, some e⟩
    | (s, .fault cause) => s.putWalked w ⟨who, asid, va, cause, none⟩
  | _ => s

/-- The operation is a walker's request for an address of an ASID that has been answered. -/
def Op.walkDone (o : Op) (core : CoreId) (va asid : Nat) : Bool :=
  o.performed && decide (o.owner.core = core) && (match o.dest with | .walk a v _ _ _ => v == va && a == asid | _ => false)

/-- `PAGE_WALK` (R77): the walks of an ASID's address for a core that waited for other packages' tables go on with the answers that have come. Those
of a die's command processor come under the die's core 0. -/
def execPageWalk (core : CoreId) (va asid : Nat) (s : State) : Host.Outcome State Fault Refusal :=
  .next ((s.ops.filter fun o => o.walkDone core va asid).foldl (fun s o => s.walkOn o) s)

end Sys2Proof.Machine
end

