-- ==== Sys2Proof/Machine/Access.lean ====
section
/-!
DEFINITION. Accesses to domain virtual memory (R258 to R262, R81, R87): an access is planned as parts, one per line, performed part by part
at its memory channels, and held as an operation until it completes. The order in which a stream's accesses are performed follows
17_ordering.md.
-/

namespace Sys2Proof.Machine

/-! ## Planning (R81, R87, R262) -/

/-- The pieces of n bytes from a virtual address, one per line: (va, offset in the buffer, length). -/
def linePieces : Nat → Nat → Nat → Nat → List (Nat × Nat × Nat)
  | 0, _, _, _ => []
  | fuel + 1, va, off, n =>
    if n = 0 then []
    else
      let k := min n (128 - va % 128)
      (va, off, k) :: linePieces fuel (va + k) (off + k) (n - k)

/-- The pieces of one access. -/
def pieces (va n : Nat) : List (Nat × Nat × Nat) := linePieces (n / 128 + 2) va 0 n

/-- What planning answers. -/
inductive Planned where
  | ok (ps : List Part)
  | fault (cause va : Nat)
  | need (va : Nat)
  deriving DecidableEq, Repr

/-- Translate and check every piece before any is performed (R81): the parts, or the first fault. `fs` gives the counted stream of a
write to a die. -/
def State.plan (s : State) (c : CoreId) (who : Asker) (asid : Nat) (write program : Bool) (fs : Nat → Option Nat) :
    List (Nat × Nat × Nat) → State × Planned
  | [] => (s, .ok [])
  | (va, off, n) :: t =>
    match s.translate c who asid va write program with
    | (s, .fault cause) => (s, .fault cause va)
    | (s, .need) => (s, .need va)
    | (s, .ok e) =>
      let (die, a) := s.place c.die e va
      let p : Part := { die := die, com := false, addr := a, off := off, len := n, segs := [], order := e.order, inc := e.inc, va := va,
                        rep := va, fs := if write then fs die else none, st := .todo }
      match State.plan s c who asid write program fs t with
      | (s, .ok ps) => (s, .ok (p :: ps))
      | r => r

/-! ## The order of a stream's accesses (R353 to R357) -/

/-- The stream's operations that are not performed. -/
def State.unperformed (s : State) (i : StreamId) : List Op := (s.opsOf i).filter Op.outstanding

/-- A write-through of a page that the package holds is not acknowledged. A release or fence at `.sys` waits for those within its reach
(R42, R355): another stream's too, whose value this stream may have read. The model waits for every one (log 21). -/
def State.pendingWrites (s : State) : Bool := (s.die0.pool.frames ++ s.die1.pool.frames).any fun e => decide (e.2.pend ≠ 0)

/-- Two operations' parts share a line. -/
def sharesLine (a b : List Part) : Bool :=
  a.any fun p => b.any fun q => decide (p.die = q.die) && decide (p.addr / 128 = q.addr / 128)

/-- An access waits (R42, R351, R353, R357): a release or an ordered atomic (`release` is its scope's code, 0 for none) for every earlier
access, at `.sys` also for write-throughs; an acquire for an earlier release; every access for an earlier acquire, an SO access for
earlier SO accesses, and an access for an earlier one to the same line. -/
def State.mustWait (s : State) (i : StreamId) (release : BitVec 3) (acq so : Bool) (ps : List Part) : Bool :=
  let u := s.unperformed i
  (release != 0 && !u.isEmpty) || (release == 7 && s.pendingWrites) ||
    u.any fun o => o.acq || (acq && o.rel) || (so && o.so) || sharesLine o.parts ps

/-- A plain access without parts in domain memory waits: for an earlier acquire. -/
def State.acquiring (s : State) : Bool := s.mustWait s.focus 0 false false []

/-! ## Sending (R258) -/

/-- Mark registers of a stream that an operation will write. -/
def ClusterState.addBusy (c : ClusterState) (l : List Reg) : ClusterState := { c with busy := c.busy ++ l }

/-- The registers that an operation will write. -/
def Op.targets (o : Op) : List Reg :=
  (match o.dest with | .x n => [Reg.x n] | .v n _ => [Reg.v n] | .k n => [Reg.k n] | _ => []) ++ (if o.preg = 0 then [] else [Reg.p o.preg])

/-- Send an operation of the stream in focus: its registers wait for it; the plain form holds the stream, the `.s` form goes on. -/
def State.sendOp (s : State) (o : Op) : Eff :=
  let (s, id) := s.addOp o
  let s := (s.setMe (s.me.addBusy o.targets)).performOp id
  if o.plain then .hold s id else .sent s id

/-- The ASID of the executing core (R72). -/
def State.asid (s : State) : Nat := (s.cur.reg 0x40).toNat

/-- A domain access of the stream in focus: plan, order, send. `merge` joins parts that go as one request, and `prep` is what the
instruction does at issue. -/
def State.accessWith (s : State) (ps : List (Nat × Nat × Nat)) (release : BitVec 3) (o : Op) (merge : List Part → List Part)
    (prep : State → State) : Eff :=
  match s.plan s.focus.core (s.asks s.focus) s.asid o.req.isWrite true (s.openStream s.focus) ps with
  | (t, .fault cause va) => .abort t (.trans cause va)
  | (t, .need va) => .await t (.walk va)
  | (t, .ok parts) =>
    let so := parts.any fun p => decide (p.order = 0)
    if t.mustWait t.focus release o.acq so parts then .await t .access
    else (prep t).sendOp { o with owner := t.focus, parts := merge parts, so := so, rel := release != 0, asid := t.asid }

/-- A domain access of the stream in focus. -/
def State.access (s : State) (ps : List (Nat × Nat × Nat)) (release : BitVec 3) (o : Op) : Eff := s.accessWith ps release o id id

/-! ## The instructions (R262 to R264) -/

/-- `ld` (R262). -/
def loadBody (d b z o off p : Nat) (plain : Bool) (s : State) : Eff :=
  let n := 2 ^ z
  let va := (s.x b + BitVec.ofNat 64 (off * n)).toNat
  s.access (pieces va n) 0
    { Op.empty s.focus with plain := plain, preg := p, acq := decide (o ≠ 0), dest := .x d, size := n, faultAddr := va }

/-- `st` (R262). -/
def storeBody (d b z o off p : Nat) (plain : Bool) (s : State) : Eff :=
  let n := 2 ^ z
  let va := (s.x b + BitVec.ofNat 64 (off * n)).toNat
  s.access (pieces va n) (BitVec.ofNat 3 o)
    { Op.empty s.focus with plain := plain, preg := p, dest := .none, size := n, req := .write,
                            data := writeNat [] 0 n (s.x d).toNat, faultAddr := va }

/-- `ld` (R262). -/
def execLd (sy d b : BitVec 5) (z : BitVec 2) (o : BitVec 3) (f : BitVec 4) (s : State) : Host.Outcome State Fault Refusal :=
  s.issue (.ld sy d b z o f) (loadBody d.toNat b.toNat z.toNat o.toNat f.toNat 0 true)

/-- `ld`, `.s` form: the status goes to p1 to p7. -/
def execLdS (sy d b : BitVec 5) (z : BitVec 2) (o p : BitVec 3) (s : State) : Host.Outcome State Fault Refusal :=
  s.issue (.ldS sy d b z o p) (loadBody d.toNat b.toNat z.toNat o.toNat 0 p.toNat false)

/-- `st` (R262). -/
def execSt (sy d b : BitVec 5) (z : BitVec 2) (o : BitVec 3) (f : BitVec 4) (s : State) : Host.Outcome State Fault Refusal :=
  s.issue (.st sy d b z o f) (storeBody d.toNat b.toNat z.toNat o.toNat f.toNat 0 true)

/-- `st`, `.s` form. -/
def execStS (sy d b : BitVec 5) (z : BitVec 2) (o p : BitVec 3) (s : State) : Host.Outcome State Fault Refusal :=
  s.issue (.stS sy d b z o p) (storeBody d.toNat b.toNat z.toNat o.toNat 0 p.toNat false)

/-- Compact `ld.d rd, ra, 0` (R208). -/
def execCompactLd (d a : BitVec 5) (s : State) : Host.Outcome State Fault Refusal :=
  s.issue (.compactLd d a) (loadBody d.toNat a.toNat 3 0 0 0 true)

/-- Compact `st.d rd, ra, 0` (R208). -/
def execCompactSt (d a : BitVec 5) (s : State) : Host.Outcome State Fault Refusal :=
  s.issue (.compactSt d a) (storeBody d.toNat a.toNat 3 0 0 0 true)

/-- `ldq` (R263): the next entry of the queue is reserved at issue. -/
def execLdq (sy : BitVec 5) (q : BitVec 4) (b : BitVec 5) (z : BitVec 2) (o p : BitVec 3) (s : State) : Host.Outcome State Fault Refusal :=
  s.issue (.ldq sy q b z o p) fun s =>
    let l := s.cur.queue q.toNat
    if queueDepth q.toNat ≤ l.length then .block (.queueWrite q.toNat)
    else
      s.accessWith (pieces (s.x b.toNat).toNat (2 ^ z.toNat)) 0
        { Op.empty s.focus with plain := p == 0, preg := p.toNat, acq := o != 0, dest := .queue q.toNat,
                                size := 2 ^ z.toNat, faultAddr := (s.x b.toNat).toNat }
        id fun t => t.setCur (t.cur.setQueue q.toNat (l ++ [.reserved t.nextOp]))

/-- An atomic of domain memory (R264): ALIGN first, from the address alone. -/
def atomicBody (n pair o p : Nat) (req : Req) (s : State) : Eff :=
  let va := (s.x (2 * pair)).toNat
  if va % n ≠ 0 then .fault (.trans causeAlign va)
  else s.access (pieces va n) (BitVec.ofNat 3 o)
    { Op.empty s.focus with plain := decide (p = 0), preg := p, acq := decide (o ≠ 0), dest := .x (2 * pair + 1), size := n,
                            req := req, faultAddr := va }

/-- The size that an aop's code names (R265). -/
def amoSize (aop : Nat) : Nat := if aop < 10 then (if aop % 2 = 0 then 4 else 8) else if aop < 14 then 8 else 4

/-- `amo` (R264, R265). -/
def execAmo (sy : BitVec 5) (r c : BitVec 4) (o p : BitVec 3) (s : State) : Host.Outcome State Fault Refusal :=
  s.issue (.amo sy r c o p) fun s =>
    let n := amoSize c.toNat
    atomicBody n r.toNat o.toNat p.toNat (.amo c.toNat n ((s.x (2 * r.toNat + 1)).toNat % 2 ^ (8 * n))) s

/-- `cas` (R264). -/
def execCas (sy : BitVec 5) (r : BitVec 4) (n : BitVec 5) (z : BitVec 1) (o p : BitVec 3) (s : State) : Host.Outcome State Fault Refusal :=
  s.issue (.cas sy r n z o p) fun s =>
    let k := if z = 0 then 4 else 8
    atomicBody k r.toNat o.toNat p.toNat
      (.cas k ((s.x (2 * r.toNat + 1)).toNat % 2 ^ (8 * k)) ((s.x n.toNat).toNat % 2 ^ (8 * k))) s

/-- `fence` (R261): it waits until every earlier access of the stream is performed, and at `.sys` has completed with a status, and the
write-throughs within its reach too (R42). -/
def execFence (sy : BitVec 5) (o : BitVec 3) (u : BitVec 1) (s : State) : Host.Outcome State Fault Refusal :=
  s.issue (.fence sy o u) fun s =>
    if o = 7 then (if (s.opsOf s.focus).isEmpty && !s.pendingWrites then .retire s 0 else .block .access)
    else if (s.unperformed s.focus).isEmpty then .retire s 0 else .block .access

end Sys2Proof.Machine
end

