-- ==== Sys2Proof/Machine/Store.lean ====
section
/-!
DEFINITION. Untranslated storage: the scratchpad with its regions and map unit (R152, R167 to R171), the Commons (R151 to R154), and the
instructions that act on them: `lds`, `sts`, `rmap`, `rflush`, `rinv`, `rcfg region` (R266, R277, R278).
-/

namespace Sys2Proof.Machine

/-! ## Regions (R169) -/

/-- The state of a scratchpad line (R170). -/
def Core.line (c : Core) (n : Nat) : LineState := Sparse.get (fun _ => LineState.none) c.store.lines n

/-- A core with a line's state replaced. -/
def Core.setLine (c : Core) (n : Nat) (v : LineState) : Core :=
  { c with store := { c.store with lines := Sparse.set (fun _ => LineState.none) c.store.lines n v } }

/-- Region n is valid. -/
def Core.regionValid (c : Core) (n : Nat) : Bool := bit (c.reg (0x50 + n)) 63
/-- Stores to region n are allowed. -/
def Core.regionW (c : Core) (n : Nat) : Bool := bit (c.reg (0x50 + n)) 62
/-- The first virtual address of region n. -/
def Core.regionVa (c : Core) (n : Nat) : Nat := field (c.reg (0x50 + n)) 12 36 * 4096
/-- The number of lines of region n. -/
def Core.regionLen (c : Core) (n : Nat) : Nat := field (c.reg (0x60 + n)) 32 10
/-- The first line of region n. -/
def Core.regionBase (c : Core) (n : Nat) : Nat := field (c.reg (0x60 + n)) 12 9

/-- The valid region that a line belongs to. -/
def Core.regionOf (c : Core) (l : Nat) : Option Nat :=
  (List.range 16).find? fun n => c.regionValid n && decide (c.regionBase n ≤ l) && decide (l < c.regionBase n + c.regionLen n)

/-- The virtual address that a line of a region maps (R170). -/
def Core.lineVa (c : Core) (n l : Nat) : Nat := c.regionVa n + (l - c.regionBase n) * 4096

/-! ## The map unit (R170) -/

/-- What an access to lines of the scratchpad meets: the lines are there; it waits for a line, or for earlier accesses of its stream; the
fault of a fill; the status of a fill that has failed; a walk that waits for other packages' tables. -/
inductive Ready where
  | ok (s : State)
  | wait (s : State) (line : Nat)
  | later (s : State)
  | fault (s : State) (cause va : Nat)
  | failed (s : State) (st : Status) (va : Nat)
  | need (s : State) (va : Nat)

/-- Who causes an access of the map unit (R348): a stream, at its instruction, or a command of its copy engine, which is in no program
order; and for what it asks for translations. -/
structure Causer where
  i : StreamId
  engine : Bool
  who : Asker

/-- The stream in focus, at its instruction. -/
def State.causer (s : State) : Causer := ⟨s.focus, false, s.asks s.focus⟩

/-- An access of the map unit. -/
def mapOp (w : Causer) (l asid : Nat) (req : Req) (data : Memory) (ps : List Part) : Op :=
  { Op.empty w.i with engine := w.engine, plain := false, dest := .line l, size := 4096, req := req, data := data, parts := ps,
                      so := ps.any (fun p => decide (p.order = 0)), asid := asid }

/-- The map unit's operation on a line of a core. -/
def State.lineOp (s : State) (c : CoreId) (l : Nat) (write : Bool) : Option Op :=
  s.ops.find? fun o => decide (o.owner.core = c) && decide (o.dest = .line l) && (o.req.isWrite == write)

/-- What the fill or the write-back of a line needs, with nothing of it started (R170, R360): the line requests, each in its page's kind.
Events on one line are serialised: it waits while a write-back of the line is out. -/
def State.planLine (s : State) (w : Causer) (write : Bool) (l : Nat) : Ready × List Part :=
  let k := s.core w.i.core
  match k.regionOf l with
  | none => (.ok s, [])
  | some n =>
    if (s.lineOp w.i.core l true).isSome then (.wait s l, [])
    else
      match s.plan w.i.core w.who (k.reg 0x40).toNat write true (fun _ => none) (pieces (k.lineVa n l) 4096) with
      | (s, .fault cause va) => (.fault s cause va, [])
      | (s, .need va) => (.need s va, [])
      | (s, .ok ps) => if !w.engine && s.mustWait w.i 0 false (ps.any fun p => decide (p.order = 0)) [] then (.later s, []) else (.ok s, ps)

/-- Start the fill of an ABSENT line, which is FILLING now, or the write-back of a DIRTY one, which is read in one step and is CLEAN. -/
def State.sendLine (s : State) (w : Causer) (write : Bool) (l : Nat) (ps : List Part) : State :=
  let k := s.core w.i.core
  let data := if write then (readBytes k.store.spad (4096 * l) 4096).zipIdx.foldl (fun m e => writeByte m e.2 e.1) ([] : Memory) else []
  let (s, id) := (s.setCore w.i.core (k.setLine l (if write then .clean else .filling))).addOp
    (mapOp w l (k.reg 0x40).toNat (if write then .write else .read) data ps)
  s.performOp id

/-- Start the fill of an ABSENT line: translate with the read checks, and read its 4 KiB. -/
def State.startFill (s : State) (w : Causer) (l : Nat) : Ready :=
  match s.planLine w false l with
  | (.ok s, ps) => .wait (s.sendLine w false l ps) l
  | (r, _) => r

/-- The lines that n bytes from a scratchpad offset touch. -/
def linesOf (a n : Nat) : List Nat := (List.range ((a + n + 4095) / 4096 - a / 4096)).map (· + a / 4096)

/-- Make every line of a list readable: an ABSENT line's fill starts, and an access waits while a line is FILLING. -/
def State.readyLines (w : Causer) : State → List Nat → Ready
  | s, [] => .ok s
  | s, l :: t =>
    match (s.core w.i.core).line l with
    | .absent => s.startFill w l
    | .filling => .wait s l
    | _ => State.readyLines w s t

/-- Make lines readable for the instruction of the stream in focus. Where the fill of one that it waited for has failed, it takes the status
as its own, whatever has become of the line since (R170). -/
def State.focusLines (s : State) (ls : List Nat) : Ready :=
  match s.me.wait with
  | some (.lineFailed n st va) => if ls.contains n then .failed s st va else State.readyLines s.causer s ls
  | _ => State.readyLines s.causer s ls

/-- Bytes of a core's scratchpad. -/
def State.spadRead (s : State) (c : CoreId) (a n : Nat) : List Byte := readBytes (s.core c).store.spad a n

/-- Write bytes of a core's scratchpad: a CLEAN line becomes DIRTY (R170). -/
def State.spadWrite (s : State) (c : CoreId) (a : Nat) (bs : List Byte) : State :=
  let k := s.core c
  let k := { k with store := { k.store with spad := writeBytes k.store.spad a bs } }
  s.setCore c ((linesOf a bs.length).foldl (fun k l => if k.line l = .clean then k.setLine l .dirty else k) k)

/-! ## Untranslated addresses (R152, R154, R168) -/

/-- Size of a scratchpad. -/
def spadSize : Nat := 0x200000

/-- The checks of R168 for n bytes at an untranslated address; `align` is the alignment that the access needs. -/
def Core.spadCheck (k : Core) (a n align : Nat) (store : Bool) : Option Status :=
  let off := a % 2 ^ 26
  if a / 2 ^ 26 % 16 ≠ 0 then some Status.access
  else if spadSize < off + n then some Status.bounds
  else if off % align ≠ 0 then some Status.access
  else if store && (linesOf off n).any (fun l => match k.regionOf l with | some r => !k.regionW r | none => false) then some Status.access
  else none

/-- Bytes lie inside the core's Commons window (R153, R154). -/
def Core.inWindow (k : Core) (off n : Nat) : Bool :=
  let w := k.reg 0x42
  decide (field w 0 10 * 65536 ≤ off) && decide (off + n ≤ (field w 0 10 + field w 32 11) * 65536)

/-- The checks of R154. `align` 0 leaves out the row and alignment check, which is for single loads and stores. -/
def Core.commonsCheck (k : Core) (a n align : Nat) : Option Status :=
  let off := a % 2 ^ 26
  if a / 2 ^ 30 = 3 ∨ a / 2 ^ 26 % 16 ≠ 0 then some Status.access
  else if !k.inWindow off n then some Status.bounds
  else if align ≠ 0 ∧ (256 < off % 256 + n ∨ off % align ≠ 0) then some Status.access
  else none

/-- The space of an untranslated address. -/
def spaceOf (a : Nat) : Nat := a / 2 ^ 30 % 4

/-- The die whose Commons an untranslated address names, for a core of a die. -/
def commonsDie (d : DieId) (a : Nat) : DieId := if spaceOf a = 2 then DieId.other d else d

/-- The checks of an untranslated access of a core: the fault, if any. -/
def State.untransCheck (s : State) (c : CoreId) (a n align : Nat) (store : Bool) : Option FaultInfo :=
  if spaceOf a = 0 then ((s.core c).spadCheck a n align store).map fun st => FaultInfo.spad st a
  else ((s.core c).commonsCheck a n align).map fun st => FaultInfo.commons st a

/-- A fault of an untranslated access counts in `cm_fault` where it is a Commons fault (R166). -/
def State.untransFault (s : State) (f : FaultInfo) : Eff :=
  .abort (if f.kind = 4 then s.count s.focus.core.die 0x195 else s) f

/-- Make the bytes at an untranslated address ready for the stream in focus: only a scratchpad's lines wait. -/
def State.untransReady (s : State) (a n : Nat) : Ready :=
  if spaceOf a = 0 then s.focusLines (linesOf (a % 2 ^ 26) n) else .ok s

/-- Bytes at an untranslated address. -/
def State.untransRead (s : State) (c : CoreId) (a n : Nat) : List Byte :=
  if spaceOf a = 0 then s.spadRead c (a % 2 ^ 26) n else readBytes (s.die (commonsDie c.die a)).commons (a % 2 ^ 26) n

/-- Write bytes at an untranslated address. -/
def State.untransWrite (s : State) (c : CoreId) (a : Nat) (bs : List Byte) : State :=
  if spaceOf a = 0 then s.spadWrite c (a % 2 ^ 26) bs
  else
    let d := commonsDie c.die a
    s.setDie d { s.die d with commons := writeBytes (s.die d).commons (a % 2 ^ 26) bs }

/-- Write the status of a `.s` form of the stream in focus; p0 is never written. -/
def State.setP (s : State) (p : Nat) (st : Status) : State := s.setMe (s.me.setStatus p st)

/-- Complete an instruction with a status other than OK before it has done anything (R40, R170, R258): a plain form takes a remote fault. -/
def State.failWith (s : State) (p addr : Nat) (st : Status) : Eff :=
  if p = 0 then .abort s (.remote st addr) else .retire (s.setP p st) 0

/-- An effect once scratchpad lines are ready; the faults of a fill are the access's own, and its status goes to p (R170). -/
def Ready.andThen (r : Ready) (p : Nat) (f : State → Eff) : Eff :=
  match r with
  | .ok s => f s
  | .wait s l => .await s (.line l)
  | .later s => .await s .access
  | .fault s cause va => .abort s (.trans cause va)
  | .failed s st va => s.failWith p va st
  | .need s va => .await s (.walk va)

/-! ## `lds`, `sts` (R266) -/

/-- `lds` (R266): it always completes with OK, when it issues. -/
def execLds (sy d b : BitVec 5) (z : BitVec 2) (o p : BitVec 3) (s : State) : Host.Outcome State Fault Refusal :=
  s.issue (.lds sy d b z o p) fun s =>
    let a := (s.x b.toNat).toNat % 2 ^ 32
    let n := 2 ^ z.toNat
    match s.untransCheck s.focus.core a n n false with
    | some f => s.untransFault f
    | none =>
      if s.mustWait s.focus 0 (o != 0) false [] then .block .access
      else (s.untransReady a n).andThen p.toNat fun s =>
        .retire ((s.setX d.toNat (BitVec.ofNat 64 (ofBytes (s.untransRead s.focus.core a n)))).setP p.toNat Status.ok) 0

/-- `sts` (R266). -/
def execSts (sy d b : BitVec 5) (z : BitVec 2) (o p : BitVec 3) (s : State) : Host.Outcome State Fault Refusal :=
  s.issue (.sts sy d b z o p) fun s =>
    let a := (s.x b.toNat).toNat % 2 ^ 32
    let n := 2 ^ z.toNat
    match s.untransCheck s.focus.core a n n true with
    | some f => s.untransFault f
    | none =>
      if s.mustWait s.focus o false false [] then .block .access
      else (s.untransReady a n).andThen p.toNat fun s =>
        .retire ((s.untransWrite s.focus.core a (bytesOf n (s.x d.toNat).toNat)).setP p.toNat Status.ok) 0

/-! ## Region runs (R277) -/

/-- The run that `ra` gives: first line and count, counted from the region's first line. -/
def runOf (w : Word) : Nat × Nat := (field w 0 10, field w 16 10)

/-- The checks of a region run (R277). The address recorded is that of the run's first line. -/
def Core.runCheck (k : Core) (n : Nat) (w : Word) : Option FaultInfo :=
  let (first, count) := runOf w
  let a := 4096 * (k.regionBase n + first)
  if !k.regionValid n then some (.spad Status.access a)
  else if count = 0 ∨ k.regionLen n < first + count then some (.spad Status.bounds a)
  else none

/-- The lines of a run. -/
def Core.runLines (k : Core) (n : Nat) (w : Word) : List Nat :=
  (List.range (runOf w).2).map fun i => k.regionBase n + (runOf w).1 + i

/-- The lines of a list that are in a given state, with what the map unit's work on each needs; or why that work cannot start. -/
def State.planLines (w : Causer) (from_ : LineState) (write : Bool) : State → List Nat → Ready × List (Nat × List Part)
  | s, [] => (.ok s, [])
  | s, l :: t =>
    if (s.core w.i.core).line l = from_ then
      match s.planLine w write l with
      | (.ok s, ps) => let r := State.planLines w from_ write s t; (r.1, (l, ps) :: r.2)
      | (r, _) => (r, [])
    else State.planLines w from_ write s t

/-- Start the work of the map unit on every line of a run that is in a given state, for the stream in focus: all of it, or none where one
line's translation faults or must wait, so that no status of it is lost (R277). -/
def State.startAll (s : State) (from_ : LineState) (write : Bool) (ls : List Nat) : Ready :=
  match State.planLines s.causer from_ write s ls with
  | (.ok t, ps) => .ok (ps.foldl (fun t e => t.sendLine s.causer write e.1 e.2) t)
  | (r, _) => r

/-- A task that waits for the map unit's work on a line. -/
def lineTask (back : Bool) (l : Nat) : Task :=
  { obj := 0, pidx := 0, kind := .mapLine l back, leaf := none, passed := 0, st := .waiting }

/-- An operation that completes when the map unit's work on the lines listed has; its release, if it carries one, is performed then. -/
def State.sendLines (s : State) (p va : Nat) (back rel : Bool) (ls : List Nat) : Eff :=
  s.sendOp { Op.empty s.focus with plain := decide (p = 0), preg := p, rel := rel, tasks := ls.map (lineTask back), faultAddr := va, asid := s.asid }

/-- `rmap` (R277): it starts the fill of every ABSENT line of the run and completes when none of them is FILLING. -/
def execRmap (sy : BitVec 5) (n : BitVec 4) (a : BitVec 5) (p : BitVec 3) (s : State) : Host.Outcome State Fault Refusal :=
  s.issue (.rmap sy n a p) fun s =>
    let w := s.x a.toNat
    match s.cur.runCheck n.toNat w with
    | some f => .fault f
    | none =>
      let ls := s.cur.runLines n.toNat w
      if s.acquiring then .block .access
      else (s.startAll .absent false ls).andThen p.toNat fun s =>
        s.sendLines p.toNat (s.cur.lineVa n.toNat (ls.headD 0)) false false (ls.filter fun l => decide (s.cur.line l = .filling))

/-- `rflush` (R277): it writes back every DIRTY line of the run and completes when they have been acknowledged; a release waits for the
stream's earlier accesses, and is performed after the write-backs (R171). -/
def execRflush (sy : BitVec 5) (n : BitVec 4) (a : BitVec 5) (o p : BitVec 3) (s : State) : Host.Outcome State Fault Refusal :=
  s.issue (.rflush sy n a o p) fun s =>
    let w := s.x a.toNat
    match s.cur.runCheck n.toNat w with
    | some f => .fault f
    | none =>
      if s.mustWait s.focus o false false [] then .block .access
      else
        let c := s.focus.core
        let ls := s.cur.runLines n.toNat w
        (s.startAll .dirty true ls).andThen p.toNat fun s =>
          s.sendLines p.toNat (s.cur.lineVa n.toNat (ls.headD 0)) true (o != 0) (ls.filter fun l => (s.lineOp c l true).isSome)

/-- `rinv` (R277): it waits for FILLING to end, and discards the lines. -/
def execRinv (sy : BitVec 5) (n : BitVec 4) (a : BitVec 5) (s : State) : Host.Outcome State Fault Refusal :=
  s.issue (.rinv sy n a) fun s =>
    let w := s.x a.toNat
    match s.cur.runCheck n.toNat w with
    | some f => .fault f
    | none =>
      let ls := s.cur.runLines n.toNat w
      match ls.find? fun l => decide (s.cur.line l = .filling) with
      | some l => .block (.line l)
      | none => .retire (s.setCur (ls.foldl (fun k l => k.setLine l .absent) s.cur)) 0

/-! ## `rcfg region` (R169, R171, R278) -/

/-- The fields that a region's registers keep (R169). -/
def regaMask (w : Word) : Word := BitVec.ofNat 64 (field w 62 2 * 2 ^ 62 + field w 12 36 * 2 ^ 12)
def regbMask (w : Word) : Word := BitVec.ofNat 64 (field w 32 10 * 2 ^ 32 + field w 12 9 * 2 ^ 12)

/-- The checks of R169 for a region that would become valid. -/
def Core.regionCheck (k : Core) (n : Nat) (a b : Word) : Option FaultInfo :=
  let base := field b 12 9
  let len := field b 32 10
  if !bit a 63 then none
  else if len = 0 ∨ 512 < base + len then some (.spad Status.bounds (4096 * base))
  else if (List.range 16).any fun m => decide (m ≠ n) && k.regionValid m &&
      decide (base < k.regionBase m + k.regionLen m) && decide (k.regionBase m < base + len) then some (.spad Status.access (4096 * base))
  else none

/-- The lines of a region that is valid now. -/
def Core.regionLines (k : Core) (n : Nat) : List Nat :=
  if k.regionValid n then (List.range (k.regionLen n)).map (· + k.regionBase n) else []

/-- The map unit still works on a line of a core (R370). -/
def State.lineBusy (s : State) (c : CoreId) (l : Nat) : Bool :=
  s.ops.any fun o => decide (o.owner.core = c) && decide (o.dest = .line l)

/-- The registers of a region written, the old region's lines NONE and the new one's ABSENT. -/
def Core.setRegion (k : Core) (n : Nat) (a b : Word) : Core :=
  let k := (k.regionLines n).foldl (fun k l => k.setLine l .none) k
  let k := (k.setReg (0x50 + n) (regaMask a)).setReg (0x60 + n) (regbMask b)
  (k.regionLines n).foldl (fun k l => k.setLine l .absent) k

/-- The write-backs that `rcfg` has started are evictions, from an operation's number up: what one meets is the `rcfg`'s own (R171). -/
def State.markEvictions (s : State) (first : Nat) : State :=
  { s with ops := s.ops.map fun o => if first ≤ o.id then { o with plain := true } else o }

/-- `rcfg region` (R278): the old region's DIRTY lines are written back and acknowledged first. -/
def execRcfgRegion (sy : BitVec 5) (n : BitVec 4) (a b : BitVec 5) (s : State) : Host.Outcome State Fault Refusal :=
  s.issue (.rcfgRegion sy n a b) fun s =>
    let c := s.focus.core
    let va := s.x a.toNat
    let vb := s.x b.toNat
    match s.cur.regionCheck n.toNat va vb with
    | some f => .fault f
    | none =>
      if s.cur.reg (0x50 + n.toNat) = regaMask va ∧ s.cur.reg (0x60 + n.toNat) = regbMask vb then .retire s 0
      else
        let ls := s.cur.regionLines n.toNat
        if s.acquiring then .block .access
        else (s.startAll .dirty true ls).andThen 0 fun t =>
          let t := t.markEvictions s.nextOp
          match ls.find? fun l => t.lineBusy c l with
          | some l => .begun t (.line l)
          | none => .retire (t.setCur (t.cur.setRegion n.toNat va vb)) 0

/-! ## The map unit's completions (R170) -/

/-- Complete the tasks that wait for the fill or the write-back (`back`) of a line of a core with a status. -/
def State.lineDone (s : State) (c : CoreId) (l : Nat) (back : Bool) (st : Status) : State :=
  { s with ops := s.ops.map fun o =>
      if o.owner.core = c then { o with tasks := o.tasks.map fun t => if t.kind = .mapLine l back then { t with st := .done st } else t } else o }

/-- A stream that waited for a line takes the failure of its fill as its own (R170): the instruction completes with it when it issues. -/
def State.failStream (s : State) (i : StreamId) (l va : Nat) (st : Status) : State :=
  if (s.stream i).wait = some (.line l) then s.setStream i { s.stream i with wait := some (.lineFailed l st va) } else s

/-- A stream that waited for a line whose fill has ended well waits for it no longer. -/
def State.wakeLine (s : State) (i : StreamId) (l : Nat) : State :=
  if (s.stream i).wait = some (.line l) then s.setStream i { s.stream i with wait := some .other } else s

/-- `MU_FILL_COMPLETE` (R170): the data are installed and the line is CLEAN, or each waiting access takes the status and the line is
ABSENT. A copy command that waits for the line records the status. -/
def execMuFillComplete (core : CoreId) (line : Fin 512) (s : State) : Host.Outcome State Fault Refusal :=
  match s.lineOp core line.val false with
  | none => .next s
  | some o =>
    if !o.performed then .next s
    else
      let s := s.dropOp o.id
      let st := o.status
      let k := s.core core
      let va := match k.regionOf line.val with | some n => k.lineVa n line.val | none => 0
      if st = Status.ok then
        let k := { k with store := { k.store with spad := writeBytes k.store.spad (4096 * line.val) (readBytes o.data 0 4096) } }
        let k := (k.setLine line.val .clean).setReg 0x70 (k.reg 0x70 + 1)
        let s := [Cluster.a, .m, .v, .d].foldl (fun s cl => s.wakeLine ⟨core, cl⟩ line.val) (s.setCore core k)
        .next ((s.lineDone core line.val false Status.ok).settle o.owner o.id)
      else
        let s := (s.setCore core (k.setLine line.val .absent)).lineDone core line.val false st
        let s := [Cluster.a, .m, .v, .d].foldl (fun s cl => s.failStream ⟨core, cl⟩ line.val va st) s
        let s := s.settle o.owner o.id
        let d := s.die core.die
        .next (s.setDie core.die { d with channels := d.channels.map fun ch => (ch.1, { ch.2 with slots := ch.2.slots.map fun e =>
          (e.1, match e.2 with
            | some x => if x.core = core.core.val ∧ x.mapLine = some line.val then some { x with status := st, mapLine := none } else some x
            | none => none) }) })

/-- `MU_WRITEBACK_COMPLETE` (R170, R171): the line stays CLEAN, or is DIRTY again and the flush or eviction completes with the status. -/
def execMuWritebackComplete (core : CoreId) (line : Fin 512) (s : State) : Host.Outcome State Fault Refusal :=
  match s.lineOp core line.val true with
  | none => .next s
  | some o =>
    if !o.performed then .next s
    else
      let s := ((s.dropOp o.id).lineDone core line.val true o.status).settle o.owner o.id
      let k := s.core core
      if o.status = Status.ok then .next (s.setCore core (k.setReg 0x71 (k.reg 0x71 + 1)))
      else
        let s := if k.line line.val = .clean then s.setCore core (k.setLine line.val .dirty) else s
        let va := match k.regionOf line.val with | some n => k.lineVa n line.val | none => 0
        .next (if o.plain && decide ((s.stream o.owner).run = .running) then s.takeFault o.owner (.remote o.status va) else s)

end Sys2Proof.Machine
end

