-- ==== Sys2Proof/Machine/Pool.lean ====
section
/-!
DEFINITION. Leases and the pool cache (02_pool.md, 03_pool_cache.md): frames, lease time, pool requests and their answers, every change
of frame state of R58, victims, the prefetch engine, and the tasks of the operations that wait for pages.
-/

namespace Sys2Proof.Machine

/-! ## Pages and frames (R17, R27, R48, R49) -/

/-- The home die of a page (R48, R104). -/
def pageDie (obj pidx : Nat) : DieId := if (obj ^^^ pidx) % 2 = 0 then 0 else 1

/-- The channel whose allocator takes a page's frame: the leaf of a Sward fill (R104), or that of R48. -/
def pageChannel (obj pidx : Nat) (leaf : Option Nat) : Nat := leaf.getD ((obj ^^^ pidx) / 2 % 48)

/-- The number of frames of a die (R17). -/
def Die.frameCount (d : Die) : Nat := (backedEnd - d.localSize) / 65536

/-- The number of frames of a channel (R17). -/
def Die.channelFrames (d : Die) (ch : Nat) : Nat := (d.frameCount + 47 - ch) / 48

/-- The first table position of a channel: the positions from there up are in state TABLE (R49). -/
def Die.firstTable (d : Die) (ch : Nat) : Nat :=
  d.channelFrames ch - (d.channelFrames ch * 32 + 65535) / 65536

/-- The local address of a frame (R17). -/
def Die.frameAddr (d : Die) (f : Nat) : Nat := d.localSize + f * 65536

/-- A frame's lease record. -/
def Die.lease (d : Die) (f : Nat) : Lease := Sparse.get (fun _ => Lease.free) d.pool.frames f

/-- The frame that holds a page, with its record: the index of R104. -/
def Die.frameOf (d : Die) (obj pidx : Nat) : Option (Nat × Lease) :=
  d.pool.frames.find? fun e => decide (e.2.st ≠ .free) && decide (e.2.obj = obj ∧ e.2.pidx = pidx)

/-- The lowest-numbered FREE frame of a channel (R64). -/
def Die.freeFrame (d : Die) (ch : Nat) : Option Nat :=
  ((List.range (min (d.firstTable ch) (d.pool.frames.length + 1))).map fun p => p * 48 + ch).find? fun f => decide ((d.lease f).st = .free)

/-- A frame's record as the allocator writes it (R50): 32 bytes. -/
def Lease.record (l : Lease) : List Byte :=
  let st := match l.st with | .free => 0 | .filling => 1 | .valid => 2 | .draining => 3 | .lost => 4 | .table => 5
  let kind := match l.kind with | .none => 0 | .s => 1 | .x => 2
  bytesOf 32 (l.stp % 2 ^ 32 * 2 ^ 8 + l.lyr % 2 ^ 16 * 2 ^ 40 + ofBool l.prom * 2 ^ 57 + ofBool l.pf * 2 ^ 58 + ofBool (l.pin != 0) * 2 ^ 59 +
    ofBool l.own * 2 ^ 60 + ofBool l.a * 2 ^ 61 + kind * 2 ^ 62 + l.fgen.toNat * 2 ^ 64 + l.pend % 256 * 2 ^ 72 + l.dline * 2 ^ 80 +
    l.epoch.toNat * 2 ^ 128 + st * 2 ^ 192 + l.pidx % 2 ^ 20 * 2 ^ 196 + l.obj % 2 ^ 40 * 2 ^ 216)

/-- The record at a position of a channel: that of a table frame has state TABLE once the allocator has started (R49, R50). -/
def Die.recordAt (d : Die) (ch pos : Nat) : Lease :=
  if d.firstTable ch ≤ pos then (if d.pool.started then { Lease.free with st := .table } else Lease.free) else d.lease (pos * 48 + ch)

/-- A byte of a table frame (R49), where the local address lies in one. -/
def Die.tableByte (d : Die) (addr : Nat) : Option Byte :=
  if addr < d.localSize then none
  else
    let f := (addr - d.localSize) / 65536
    let ch := f % 48
    let p := f / 48
    if f < d.frameCount ∧ d.firstTable ch ≤ p then
      let t := (p - d.firstTable ch) * 65536 + addr % 65536
      if t / 32 < d.channelFrames ch then (d.recordAt ch (t / 32)).record[t % 32]? else some 0
    else none

/-- Drop the sequence-cache entries of an object on both dies (R101). -/
def State.dropSeq (s : State) (obj : Nat) : State :=
  let keep := fun (e : SeqEntry) => decide (field e.cap 88 40 ≠ obj)
  let s := s.setDie 0 { s.die0 with seqCache := s.die0.seqCache.filter keep }
  s.setDie 1 { s.die1 with seqCache := s.die1.seqCache.filter keep }

/-- Write a frame's record. Entering FREE advances `fgen` (R50), and clears the other fields, of which R50 says nothing (DESIGN CHOICE,
log 83); leaving VALID drops the sequence-cache entries of page 0
(R101); entering LOST counts in `lease_lost` (R71). -/
def State.setLease (s : State) (d : DieId) (f : Nat) (l : Lease) : State :=
  let x := s.die d
  let old := x.lease f
  let l := if l.st = .free && old.st ≠ .free then { Lease.free with fgen := old.fgen + 1 } else l
  let s := s.setDie d { x with pool := { x.pool with frames := Sparse.set (fun _ => Lease.free) x.pool.frames f l } }
  let s := if old.st = .valid && l.st ≠ .valid && old.pidx = 0 then s.dropSeq old.obj else s
  if l.st = .lost && old.st ≠ .lost then s.count d 0x185 else s

/-! ## Lease time (R55 to R57) -/

/-- `ltime` bits [47:0] of a die. -/
def State.ltime (s : State) (d : DieId) : Nat := (s.dieReg d 0x114).toNat % 2 ^ 48

/-- A time precedes a deadline, modulo 2^48. -/
def precedes (t dline : Nat) : Bool :=
  let x := (dline + 2 ^ 48 - t) % 2 ^ 48
  decide (0 < x) && decide (x < 2 ^ 47)

/-- `ldur` of a grant of d ticks, 0 where it is not positive. -/
def State.ldur (s : State) (d : DieId) (ticks : Nat) : Nat :=
  min (ticks * field (s.dieReg d 0x113) 32 20 * 9999 / 10000 - field (s.dieReg d 0x113) 0 20) (2 ^ 47 - 1)

/-! ## Ports and requests (R43 to R45) -/

/-- The ACTIVE pool ports of a die, in ascending order. -/
def State.poolPorts (s : State) (d : DieId) : List Nat :=
  (List.range 16).filter fun p =>
    let w := s.dieReg d (0x120 + p)
    field w 20 4 == 3 && !bit w 8

/-- The port of a page's requests: of its home die's list, else of the other die's; 16 × die + port (R43). -/
def State.poolPort (s : State) (d : DieId) (obj pidx : Nat) : Option Nat :=
  let h := (obj ^^^ pidx) % 65536
  let own := s.poolPorts d
  let far := s.poolPorts (DieId.other d)
  if own ≠ [] then own[h % own.length]?.map (· + 16 * d.val)
  else far[h % far.length]?.map (· + 16 * (DieId.other d).val)

/-- The pool's incarnation is not the one that software has accepted (R47). -/
def State.poolGone (s : State) (d : DieId) : Bool := field (s.dieReg d 0x111) 32 32 != field (s.dieReg d 0x112) 0 32

/-- The outcome of a request that cannot be sent now (R43, R47). -/
def State.poolClosed (s : State) (d : DieId) (obj pidx : Nat) : Option Status :=
  if s.poolGone d then some Status.targetGone else if (s.poolPort d obj pidx).isNone then some Status.linkDown else none

/-- The lowest free pool request tag of a die (R45). -/
def Pool.freeTag (p : Pool) : Option Nat :=
  ((List.range (min 2048 (p.reqs.length + 1))).find? fun n => !p.reqs.any fun e => decide (e.1 = n))

/-- Two requests are of one page. -/
def PoolReq.samePage (a b : PoolReq) : Bool := decide (a.obj = b.obj ∧ a.pidx = b.pidx)

/-- Send the waiting requests that can go, in order (R44, R45): not past one of the same page, nor while one of the page is outstanding on
another port. None goes while the pool is closed. -/
def State.pumpFrom (d : DieId) : State → List PoolReq → List PoolReq → State
  | s, left, [] => let x := s.die d; s.setDie d { x with pool := { x.pool with waiting := left.reverse } }
  | s, left, r :: t =>
    let x := s.die d
    match s.poolPort d r.obj r.pidx, x.pool.freeTag with
    | some port, some tag =>
      if s.poolGone d || left.any r.samePage || x.pool.reqs.any fun e => e.2.samePage r && decide (e.2.port ≠ port) then State.pumpFrom d s (r :: left) t
      else
        let q := { r with sent := s.cycle, tsend := s.ltime d, port := port }
        let reqs := (x.pool.reqs.filter fun e => decide (e.1 < tag)) ++ (tag, q) :: x.pool.reqs.filter fun e => decide (tag < e.1)
        State.pumpFrom d (s.setDie d { x with pool := { x.pool with reqs := reqs } }) left t
    | _, _ => State.pumpFrom d s (r :: left) t

/-- Send what can be sent of a die's waiting pool requests. -/
def State.pumpPool (s : State) (d : DieId) : State := State.pumpFrom d s [] (s.die d).pool.waiting

/-- Issue a pool request of a die. -/
def State.poolSend (s : State) (d : DieId) (r : PoolReq) : State :=
  let x := s.die d
  (s.setDie d { x with pool := { x.pool with waiting := x.pool.waiting ++ [{ r with num := x.pool.made }], made := x.pool.made + 1 } }).pumpPool d

/-- A request about a frame's page. -/
def poolReq (ask : PoolAsk) (f : Nat) (l : Lease) (cap : BitVec 128) (op : Option (Nat × Nat)) : PoolReq :=
  { num := 0, ask := ask, obj := l.obj, pidx := l.pidx, frame := f, fgen := l.fgen, epoch := l.epoch, sent := 0, tsend := 0, port := 0, cap := cap, op := op }

/-! ## Tasks -/

/-- Replace a task's state. -/
def State.setTask (s : State) (op k : Nat) (st : TaskState) : State :=
  { s with ops := s.ops.map fun o =>
      if o.id = op then { o with tasks := o.tasks.mapIdx fun j t => if j = k then { t with st := st } else t } else o }

/-- End a task with a status. -/
def State.endTask (s : State) (op : Option (Nat × Nat)) (st : Status) : State :=
  match op with | none => s | some (o, k) => s.setTask o k (.done st)

/-- Tasks that make a demand fill of an absent page with an S lease. -/
def TaskKind.demandsS : TaskKind → Bool
  | .ready => true
  | .fetch _ => true
  | .pages _ => true
  | .copyTo _ => true
  | _ => false

/-- Tasks that take a lease. -/
def TaskKind.isLease : TaskKind → Bool
  | .lease _ => true
  | _ => false

/-- Tasks that wait for a line of the map unit. -/
def TaskKind.isLine : TaskKind → Bool
  | .mapLine _ _ => true
  | _ => false

/-- End the tasks of a page that a fill has failed: the waiting demands, and the access that started it (R58). -/
def State.failPage (s : State) (obj pidx : Nat) (st : Status) (starter : Option (Nat × Nat)) : State :=
  { s with ops := s.ops.map fun o =>
      { o with tasks := o.tasks.mapIdx fun k t =>
          if t.st = .waiting ∧ t.obj = obj ∧ t.pidx = pidx ∧ (t.kind.demandsS ∨ some (o.id, k) = starter) then { t with st := .done st } else t } }

/-- A refused write-through ends the accesses that wait for the page's pending ones with its status (R362). -/
def State.failSettled (s : State) (obj pidx : Nat) (st : Status) : State :=
  { s with ops := s.ops.map fun o =>
      { o with tasks := o.tasks.map fun t =>
          if t.st = .waiting ∧ t.obj = obj ∧ t.pidx = pidx ∧ t.kind = .settled then { t with st := .done st } else t } }

/-- The task that put a page into DRAINING (R60, R61). -/
def State.drainer (s : State) (obj pidx : Nat) : Option (Nat × Nat × TaskKind) :=
  s.ops.findSome? fun o => (o.tasks.zipIdx).findSome? fun e =>
    if e.1.st = .requested 0 ∧ e.1.obj = obj ∧ e.1.pidx = pidx then some (o.id, e.2, e.1.kind) else none

/-! ## Changes of frame state (R58) -/

/-- The tasks that waited for a frame for a page start their count of rotations anew: the allocation has got one (R64). -/
def State.allocated (s : State) (obj pidx : Nat) : State :=
  { s with ops := s.ops.map fun o =>
      { o with tasks := o.tasks.map fun t => if t.obj = obj ∧ t.pidx = pidx then { t with passed := 0 } else t } }

/-- Start a fill (R58, first row) of an absent page in a free frame of its channel: the state after, or nothing where no frame is
free. -/
def State.fillPage (s : State) (obj pidx : Nat) (leaf : Option Nat) (x : Bool) (cap : BitVec 128) (op : Option (Nat × Nat))
    (pf : Option (DieId × Nat × Nat)) : Option State :=
  let d := pageDie obj pidx
  match (s.die d).freeFrame (pageChannel obj pidx leaf) with
  | none => none
  | some f =>
    let l := { (s.die d).lease f with
      obj := obj, pidx := pidx, st := .filling, pf := pf.isSome, eng := (pf.map fun e => e.1.val + 1).getD 0,
      stp := (pf.map (·.2.1)).getD 0, lyr := (pf.map (·.2.2)).getD 0 }
    some (((s.allocated obj pidx).setLease d f l).poolSend d (poolReq (.fill x) f l cap op))

/-- A VALID frame's page with an upgrade outstanding: its X request goes on as a demand for an absent page (R59), in a free frame. -/
def State.moveUpgrade (s : State) (d : DieId) (ch : Nat) (old : Lease) : State :=
  let hit := fun (r : PoolReq) => decide (r.ask = .upgrade ∧ r.obj = old.obj ∧ r.pidx = old.pidx)
  let x := s.die d
  if !(x.pool.reqs.any (fun e => hit e.2) || x.pool.waiting.any hit) then s
  else match x.freeFrame ch with
    | none => s
    | some f =>
      let l := { x.lease f with obj := old.obj, pidx := old.pidx, st := .filling }
      let mv := fun (r : PoolReq) => if hit r then { r with ask := .fill true, frame := f, fgen := l.fgen } else r
      let s := s.setLease d f l
      let x := s.die d
      s.setDie d { x with pool := { x.pool with reqs := x.pool.reqs.map fun e => (e.1, mv e.2), waiting := x.pool.waiting.map mv } }

/-- A frame goes to FREE, and an upgrade of its page goes on. -/
def State.freeLease (s : State) (d : DieId) (f : Nat) : State :=
  let l := (s.die d).lease f
  let s := s.setLease d f { l with st := .free }
  if l.st = .valid then s.moveUpgrade d (f % 48) l else s

/-- Send a release for a page (R57, R58). -/
def State.sendRelease (s : State) (d : DieId) (f : Nat) (l : Lease) (op : Option (Nat × Nat)) : State :=
  s.poolSend d (poolReq .release f l 0 op)

/-- A LOST frame with nothing pending goes to FREE; a DRAINING one sends its release or hand-over and goes to FREE (R58). -/
def State.drained (s : State) (d : DieId) (f : Nat) : State :=
  let l := (s.die d).lease f
  if l.pend ≠ 0 then s
  else match l.st with
    | .lost => s.setLease d f { l with st := .free }
    | .draining =>
      match s.drainer l.obj l.pidx with
      | some (o, k, .handover succ) =>
        ((s.setTask o k (.requested 1)).poolSend d (poolReq (.handover succ) f l 0 (some (o, k)))).setLease d f { l with st := .free }
      | some (o, k, _) => ((s.setTask o k (.requested 1)).sendRelease d f l (some (o, k))).setLease d f { l with st := .free }
      | none => (s.sendRelease d f l none).setLease d f { l with st := .free }
    | _ => s

/-- The lease of a frame is lost (R41, R54, R58): a VALID frame goes to LOST; a DRAINING one too, and its `lrel` or `lhand` ends with the
status. -/
def State.loseLease (s : State) (d : DieId) (f : Nat) (st : Status) : State :=
  let l := (s.die d).lease f
  match l.st with
  | .valid => (s.setLease d f { l with st := .lost }).drained d f
  | .draining =>
    let s := match s.drainer l.obj l.pidx with
      | some (o, k, _) => s.setTask o k (.done st)
      | none => s
    (s.setLease d f { l with st := .lost }).drained d f
  | _ => s

/-- `ltime` has reached a frame's `dline` (R58). -/
def State.expire (s : State) (d : DieId) (f : Nat) : State :=
  let l := (s.die d).lease f
  if precedes (s.ltime d) l.dline then s
  else match l.st with
    | .valid => if l.pend = 0 then s.freeLease d f else s.setLease d f { l with st := .lost }
    | .filling => if l.prom then s.setLease d f { l with st := .free } else s
    | _ => s

/-- Expire the frame of a page where its time has come: an access in that cycle comes after the expiry (R59). -/
def State.expirePage (s : State) (obj pidx : Nat) : State :=
  let d := pageDie obj pidx
  match (s.die d).frameOf obj pidx with
  | some (f, _) => s.expire d f
  | none => s

/-! ## Requests that end without an install (R41, R43, R45, R47, R54, R58) -/

/-- The frame of a fill is FILLING with the fill's generation. -/
def State.fillMatches (s : State) (d : DieId) (r : PoolReq) : Bool :=
  let l := (s.die d).lease r.frame
  decide (l.st = .filling ∧ l.fgen = r.fgen)

/-- A fill or upgrade ends with a status other than OK (R58). -/
def State.fillFails (s : State) (d : DieId) (r : PoolReq) (st : Status) : State :=
  match r.ask with
  | .upgrade => s.endTask r.op st
  | _ =>
    if s.fillMatches d r then (s.failPage r.obj r.pidx st r.op).setLease d r.frame { (s.die d).lease r.frame with st := .free }
    else s

/-- One write-through of a frame less is pending. -/
def State.lessPend (s : State) (d : DieId) (f : Nat) (fgen : BitVec 8) : State :=
  let l := (s.die d).lease f
  if l.fgen = fgen then s.setLease d f { l with pend := l.pend - 1 } else s

/-- A write-through of the same frame that the channel emitted after another. -/
def PoolReq.laterWrite (r q : PoolReq) : Bool :=
  (match q.ask with | .writeThrough _ _ => true | _ => false) && decide (q.frame = r.frame ∧ q.fgen = r.fgen ∧ r.num < q.num)

/-- The write-throughs of a frame that come after one and had not left end with a status (R41). -/
def State.dropUnsent (s : State) (d : DieId) (r : PoolReq) (st : Status) : State :=
  let hit := r.laterWrite
  let x := s.die d
  let gone := x.pool.waiting.filter hit
  let s := s.setDie d { x with pool := { x.pool with waiting := x.pool.waiting.filter fun r => !hit r } }
  gone.foldl (fun s q => (s.endTask q.op st).lessPend d r.frame r.fgen) s

/-- The stores of a frame whose write-throughs come after one and are in flight end with a status; their replies only lower `pend` (R41). -/
def State.endInFlight (s : State) (d : DieId) (r : PoolReq) (st : Status) : State :=
  let hit := r.laterWrite
  let x := s.die d
  let s := s.setDie d { x with pool := { x.pool with reqs := x.pool.reqs.map fun e => (e.1, if hit e.2 then { e.2 with op := none } else e.2) } }
  (x.pool.reqs.filter fun e => hit e.2).foldl (fun s e => s.endTask e.2.op st) s

/-- A write-through ends (R41). One that the pool does not accept loses the lease. After a refusal the later stores of the page end with its
status; after a time-out those that had left end with their own answers, the later others with NO_LEASE. An earlier store that is in flight ends
with its own answer. -/
def State.writeEnds (s : State) (d : DieId) (r : PoolReq) (st : Status) : State :=
  let s := (s.endTask r.op st).lessPend d r.frame r.fgen
  let l := (s.die d).lease r.frame
  if l.fgen ≠ r.fgen then s
  else if st = Status.ok then s.drained d r.frame
  else
    let s := (s.dropUnsent d r (if st = Status.timeout then Status.noLease else st)).failSettled r.obj r.pidx st
    let s := if st = Status.timeout then s else s.endInFlight d r st
    (s.loseLease d r.frame st).drained d r.frame

/-- A renewal is refused or times out: the lease is lost (R54). A frame that is DRAINING goes to LOST too, and its `lrel` or `lhand` ends with
that status, as for a write-through: R58 has no row for it (DESIGN CHOICE, log 62). -/
def State.renewFails (s : State) (d : DieId) (r : PoolReq) (st : Status) : State :=
  if ((s.die d).lease r.frame).fgen = r.fgen then s.loseLease d r.frame st else s

/-- A request ends with a status that no reply brought (R43, R45, R47, R136). -/
def State.requestEnds (s : State) (d : DieId) (r : PoolReq) (st : Status) : State :=
  match r.ask with
  | .fill _ => s.fillFails d r st
  | .upgrade => s.fillFails d r st
  | .writeThrough _ _ => s.writeEnds d r st
  | .renew => s.renewFails d r st
  | .release => s.endTask r.op st
  | .handover _ => s.endTask r.op st

/-- End the waiting requests of a die that cannot be sent: no pool port is ACTIVE on either die, or the pool has restarted (R43, R47); `fuel`
bounds them, with the releases that they bring about. -/
def State.shutFrom (d : DieId) : Nat → State → State
  | 0, s => s
  | fuel + 1, s =>
    let x := s.die d
    match x.pool.waiting with
    | [] => s
    | r :: t =>
      match s.poolClosed d r.obj r.pidx with
      | none => s
      | some st => State.shutFrom d fuel ((s.setDie d { x with pool := { x.pool with waiting := t } }).requestEnds d r st)

/-- End the waiting requests of both dies that cannot be sent. -/
def State.shut (s : State) : State :=
  [(0 : DieId), 1].foldl (fun s d => State.shutFrom d (2 * (s.die d).pool.waiting.length + 2) s) s

/-! ## Accesses to a frame (R38, R51) -/

/-- A granule that n bytes at an offset of a page touch has the type asked for. -/
def Lease.hasType (l : Lease) (off n : Nat) (cap : Bool) : Bool :=
  n != 0 && (List.range ((off + n - 1) / 16 + 1 - off / 16)).any fun i => Sparse.get (fun _ => false) l.types (off / 16 + i) == cap

/-- Mark a frame as accessed, and as touched by a demand (R50). -/
def State.touch (s : State) (d : DieId) (f : Nat) : State :=
  let x := s.die d
  s.setDie d { x with pool := { x.pool with frames := Sparse.set (fun _ => Lease.free) x.pool.frames f { x.lease f with a := true, pf := false } } }

/-- Read bytes of a frame, line by line. -/
def State.frameRead (s : State) (d : DieId) (f off n : Nat) : State × Status × List Byte :=
  let x := s.die d
  let a := x.frameAddr f + off
  if (List.range ((a + n + 127) / 128 - a / 128)).any fun i => x.poisoned (a / 128 + i) then (s.touch d f, Status.poison, [])
  else (s.touch d f, Status.ok, readBytes x.mem a n)

/-- Update a frame and emit the write-through (R38, R41): the status other than OK writes nothing. -/
def State.frameWrite (s : State) (d : DieId) (f off : Nat) (bs : List Byte) (op : Option (Nat × Nat)) : State × Status :=
  let x := s.die d
  match x.sliceWrite (x.frameAddr f + off) bs with
  | (x, st) =>
    if st ≠ Status.ok then (s.setDie d x, st)
    else
      let s := (s.setDie d x).touch d f
      let l := (s.die d).lease f
      let s := s.setLease d f { l with pend := l.pend + 1 }
      (s.poolSend d (poolReq (.writeThrough off bs) f l 0 op), Status.ok)

/-- A Sward write to page 0 of an object updates its sequence-cache entries with the frame (R101). -/
def State.refreshSeq (s : State) (d : DieId) (f obj : Nat) : State :=
  let bs := readBytes (s.die d).mem ((s.die d).frameAddr f) 1040
  let up := fun (e : SeqEntry) => if field e.cap 88 40 = obj then { e with bytes := bs } else e
  let s := s.setDie 0 { s.die0 with seqCache := s.die0.seqCache.map up }
  s.setDie 1 { s.die1 with seqCache := s.die1.seqCache.map up }

/-- The whole lines of a page as (offset, bytes). -/
def pageLines (bs : List Byte) : List (Nat × List Byte) :=
  (List.range 512).map fun i => (128 * i, (bs.drop (128 * i)).take 128)

/-! ## Trying the tasks of an operation -/

/-- A demand for an absent page. -/
def State.demand (s : State) (o : Op) (k : Nat) (t : Task) (x : Bool) : State :=
  match s.poolClosed (pageDie t.obj t.pidx) t.obj t.pidx with
  | some st => s.setTask o.id k (.done st)
  | none => (s.fillPage t.obj t.pidx t.leaf x o.cap (some (o.id, k)) none).getD s

/-- A task whose page has no frame (R51, R274). -/
def State.tryAbsent (s : State) (o : Op) (k : Nat) (t : Task) : State :=
  match t.kind with
  | .mapLine _ _ => s
  | .ready => s.demand o k t false
  | .fetch _ => s.demand o k t false
  | .pages _ => s.demand o k t false
  | .copyTo _ => s.demand o k t false
  | .lease x => s.demand o k t x
  | .release => s.setTask o.id k (.done Status.ok)
  | .settled => s.setTask o.id k (.done Status.ok)
  | .handover _ => s.setTask o.id k (.done Status.noLease)
  | .store _ _ => s.setTask o.id k (.done Status.noLease)

/-- A task of a page whose frame can be read: VALID, or DRAINING. -/
def State.tryRead (s : State) (o : Op) (k : Nat) (t : Task) (d : DieId) (f : Nat) (l : Lease) : State :=
  match t.kind with
  | .ready => (s.touch d f).setTask o.id k (.done Status.ok)
  | .settled => if l.pend = 0 then s.setTask o.id k (.done Status.ok) else s
  | .pages n =>
    if l.hasType 0 n true || l.hasType 32768 n true then s.setTask o.id k (.done Status.access)
    else
      let s := s.touch d f
      let l := (s.die d).lease f
      (s.setLease d f { l with pin := l.pin + 1 }).setTask o.id k (.done Status.ok)
  | .copyTo p =>
    if l.hasType 0 65536 true then s.setTask o.id k (.done Status.access)
    else
      let (s, st, bs) := s.frameRead d f 0 65536
      let s := s.setTask o.id k (.done st)
      if st ≠ Status.ok then s
      else
        let new := (pageLines bs).map fun e => ({ obj := t.obj, pidx := p, kind := .store e.1 e.2, leaf := t.leaf, passed := 0, st := .waiting } : Task)
        { s with ops := s.ops.map fun y => if y.id = o.id then { y with tasks := y.tasks ++ new } else y }
  | _ => s

/-- A task of a page whose frame is VALID. Pages of a `pget` below the lowest that fails are copied into the scratchpad, as its own entry says
(R270), though R40 has a `pget` that fails write nothing: R258 lets an entry state otherwise (DEDUCED, log 61). -/
def State.tryValid (s : State) (o : Op) (k : Nat) (t : Task) (d : DieId) (f : Nat) (l : Lease) : State :=
  match t.kind with
  | .lease x =>
    if !x ∨ l.kind = .x then (s.setLease d f { l with own := true }).setTask o.id k (.done Status.ok)
    else
      let p := (s.die d).pool
      let hit := fun (r : PoolReq) => decide (r.ask = .upgrade ∧ r.obj = l.obj ∧ r.pidx = l.pidx)
      if p.reqs.any (fun e => hit e.2) || p.waiting.any hit then s
      else match s.poolClosed d l.obj l.pidx with
        | some st => s.setTask o.id k (.done st)
        | none => s.poolSend d (poolReq .upgrade f l o.cap (some (o.id, k)))
  | .release => ((s.setLease d f { l with st := .draining }).setTask o.id k (.requested 0)).drained d f
  | .handover _ =>
    if l.kind ≠ .x then s.setTask o.id k (.done Status.noLease)
    else ((s.setLease d f { l with st := .draining }).setTask o.id k (.requested 0)).drained d f
  | .fetch none => (s.touch d f).setTask o.id k (.done Status.ok)
  | .fetch (some a) =>
    let before := o.tasks.take k
    if before.any fun u => decide (u.st ≠ .done Status.ok) && u.isDone then s.setTask o.id k (.done Status.ok)
    else if before.any fun u => !u.isDone then s
    else
      let (s, st, bs) := s.frameRead d f 0 65536
      let s := s.setTask o.id k (.done st)
      if st = Status.ok then s.spadWrite o.owner.core a bs else s
  | .store off bs =>
    if l.kind ≠ .x then s.setTask o.id k (.done Status.noLease)
    else match s.poolClosed d l.obj l.pidx with
      | some st => s.setTask o.id k (.done st)
      | none =>
        if l.hasType off bs.length true then s.setTask o.id k (.done Status.access)
        else if 255 ≤ l.pend then s
        else
          let (s, st) := s.frameWrite d f off bs (some (o.id, k))
          if st ≠ Status.ok then s.setTask o.id k (.done st)
          else (if l.pidx = 0 then s.refreshSeq d f l.obj else s).setTask o.id k (.requested 1)
  | _ => s.tryRead o k t d f l

/-- A demand access clears `pf` of a FILLING frame (R51). -/
def State.clearPf (s : State) (d : DieId) (f : Nat) (l : Lease) (k : TaskKind) : State :=
  if k.demandsS || k.isLease then s.setLease d f { l with pf := false } else s

/-- Try a waiting task at its page's frame (R51, R270, R274). A frame on the other die is reached whatever the state of the in-package X link, for
which R40 has no status (DESIGN CHOICE, log 84). -/
def State.tryTask (s : State) (op k : Nat) : State :=
  match s.op? op with
  | none => s
  | some o =>
    match o.tasks[k]? with
    | none => s
    | some t =>
      if t.st ≠ .waiting ∨ t.kind.isLine then s
      else
        let s := s.expirePage t.obj t.pidx
        let d := pageDie t.obj t.pidx
        match (s.die d).frameOf t.obj t.pidx with
        | none => s.tryAbsent o k t
        | some (f, l) =>
          match l.st with
          | .valid => s.tryValid o k t d f l
          | .draining =>
            match t.kind with
            | .handover _ => s.setTask op k (.done Status.noLease)
            | .store _ _ => s.setTask op k (.done Status.noLease)
            | _ => s.tryRead o k t d f l
          | .filling =>
            match t.kind with
            | .handover _ => s.setTask op k (.done Status.noLease)
            | kd => s.clearPf d f l kd
          | _ =>
            match t.kind with
            | .handover _ => s.setTask op k (.done Status.noLease)
            | _ => s

/-- Try the tasks of a slab growth one after another (R111): a task that waits holds those after it back, and one that has failed ends
them. -/
def State.tryGrow (op : Nat) : Nat → Nat → State → State
  | 0, _, s => s
  | fuel + 1, k, s =>
    match (s.op? op).bind fun o => o.tasks[k]?.map fun t => (o, t) with
    | none => s
    | some (o, t) =>
      if t.st ≠ .waiting then State.tryGrow op fuel (k + 1) s
      else if o.status ≠ Status.ok then State.tryGrow op fuel (k + 1) (s.setTask op k (.done Status.ok))
      else
        let s := s.tryTask op k
        match (s.op? op).bind fun o => o.tasks[k]? with
        | some t => if t.st = .waiting then s else State.tryGrow op fuel (k + 1) s
        | none => s

/-- Try every task of an operation, in order. -/
def State.tryOp (s : State) (op : Nat) : State :=
  match s.op? op with
  | none => s
  | some o =>
    if o.grow.isSome then State.tryGrow op 600 0 s
    else (List.range o.tasks.length).foldl (fun s k => s.tryTask op k) s

/-- Try every operation's tasks. -/
def State.tryAll (s : State) : State := s.ops.foldl (fun s o => if o.tasks.any (fun t => decide (t.st = .waiting)) then s.tryOp o.id else s) s

/-- What follows an event at the pool or a frame: requests that can go are sent, those that cannot end, and the tasks that wait are tried. -/
def State.settlePool (s : State) : State := ((s.pumpPool 0).pumpPool 1).shut.tryAll.shut.tryAll

/-! ## Answers of the pool -/

/-- The request of a tag, where the generation matches; a reply that does not match counts in `pool_late` (R45). So does a reply to a tag
with no outstanding request whose generation still matches (DESIGN CHOICE, log 63). -/
def State.poolReply (s : State) (d : DieId) (tag : Nat) (gen : BitVec 4) : State ⊕ PoolReq :=
  let p := (s.die d).pool
  match p.reqs.find? fun e => decide (e.1 = tag) with
  | some (_, r) => if Sparse.get (fun _ => 0) p.gens tag = gen then .inr r else .inl (s.count d 0x186)
  | none => .inl (s.count d 0x186)

/-- A tag is free again. -/
def State.dropReq (s : State) (d : DieId) (tag : Nat) : State :=
  let x := s.die d
  s.setDie d { x with pool := { x.pool with reqs := x.pool.reqs.filter fun e => decide (e.1 ≠ tag) } }

/-- Install a page in a frame: its bytes and the types of its granules (R58). -/
def Die.install (d : Die) (f : Nat) (bytes : List (Nat × Byte)) : Die :=
  let a := d.frameAddr f
  let mem := ((bytes.filter fun e => decide (e.1 < 65536)).map fun e => (a + e.1, e.2))
  { d with
    mem := Sparse.setAll Memory.unwritten (Sparse.clear d.mem a 65536) mem,
    poison := d.poison.filter fun l => decide (l < a / 128) || decide (a / 128 + 512 ≤ l) }

/-- A grant with its fill arrives (R57, R58, R70). -/
def State.grantArrives (s : State) (d : DieId) (r : PoolReq) (x : Bool) (epoch : BitVec 64) (ticks : Nat) (bytes : List (Nat × Byte))
    (caps : List Nat) : State :=
  let l := (s.die d).lease r.frame
  let ldur := s.ldur d ticks
  let dline := (r.tsend + ldur) % 2 ^ 48
  let l' := { l with epoch := epoch, kind := if x then .x else .s, dline := dline, ldur := ldur }
  if !s.fillMatches d r then s.count d 0x180
  else if ldur = 0 then
    ((s.failPage r.obj r.pidx Status.retry r.op).sendRelease d r.frame l' none).setLease d r.frame { l with st := .free }
  else if !precedes (s.ltime d) dline then
    ((s.count d 0x180).sendRelease d r.frame l' none).setLease d r.frame { l with st := .free }
  else
    let types := (caps.filter fun g => decide (g < 4096)).foldl (fun m g => Sparse.set (fun _ => false) m g true) ([] : Sparse Bool)
    (s.setDie d ((s.die d).install r.frame bytes)).setLease d r.frame { l' with st := .valid, types := types }

/-- A pool's answer whose status R9 reserves is no reply: the request goes on to its time-out (DESIGN CHOICE, log 64). -/
def reservedStatus (st : Status) : Bool := decide (12 ≤ st.toNat)

/-- An upgrade's X grant arrives (R52, R57). Where its duration is not positive, or it comes at or after the deadline that it would set, a
release is sent and the VALID frame is given up, since the pool no longer knows the S lease (DESIGN CHOICE, log 65). -/
def State.upgradeArrives (s : State) (d : DieId) (r : PoolReq) (epoch : BitVec 64) (ticks : Nat) : State :=
  let l := (s.die d).lease r.frame
  let ldur := s.ldur d ticks
  let dline := (r.tsend + ldur) % 2 ^ 48
  let l' := { l with epoch := epoch, kind := .x, dline := dline, ldur := ldur }
  if l.st ≠ .valid ∨ l.fgen ≠ r.fgen then s.count d 0x180
  else if ldur = 0 then ((s.endTask r.op Status.retry).sendRelease d r.frame l' none).freeLease d r.frame
  else if !precedes (s.ltime d) dline then ((s.count d 0x180).sendRelease d r.frame l' none).setLease d r.frame { l with st := .free }
  else s.setLease d r.frame l'

/-- Expire the frame of a page before an answer to a request for it is taken. At the very time of its `dline` a fill comes first (R58). -/
def State.expireFor (s : State) (r : PoolReq) : State :=
  match r.ask with
  | .fill _ => if ((s.die (pageDie r.obj r.pidx)).lease r.frame).dline = s.ltime (pageDie r.obj r.pidx) then s else s.expirePage r.obj r.pidx
  | _ => s.expirePage r.obj r.pidx

/-- `LEASE_FILL_REPLY` (R58, R59, R70). -/
def execLeaseFillReply (die : DieId) (tag : Nat) (gen : BitVec 4) (ans : PoolAnswer) (s : State) : Host.Outcome State Fault Refusal :=
  match s.poolReply die tag gen with
  | .inl t => .next t
  | .inr r =>
    let t := (s.expireFor r).dropReq die tag
    match r.ask, ans with
    | .fill x, .grant e n bs cs => .next (t.grantArrives die r x e n bs cs).settlePool
    | .upgrade, .grant e n _ _ => .next (t.upgradeArrives die r e n).settlePool
    | .fill _, .refused st => if reservedStatus st then .next s else .next (t.fillFails die r st).settlePool
    | .upgrade, .refused st => if reservedStatus st then .next s else .next (t.fillFails die r st).settlePool
    | _, _ => .next s

/-- `PROMOTION_REPLY` (R58, R70): the lease is recorded while the frame stays FILLING, or the promotion is dropped as a late fill is. -/
def execPromotionReply (die : DieId) (tag : Nat) (gen : BitVec 4) (epoch : BitVec 64) (ticks : Nat) (s : State) :
    Host.Outcome State Fault Refusal :=
  match s.poolReply die tag gen with
  | .inl t => .next t
  | .inr r =>
    match r.ask with
    | .fill x =>
      let l := (s.die die).lease r.frame
      let ldur := s.ldur die ticks
      let dline := (r.tsend + ldur) % 2 ^ 48
      let l' := { l with epoch := epoch, kind := if x then .x else .s, dline := dline, ldur := ldur, prom := true }
      if !s.fillMatches die r then .next (s.count die 0x180)
      else if ldur = 0 then
        .next (((s.failPage r.obj r.pidx Status.retry r.op).sendRelease die r.frame l' none).setLease die r.frame { l with st := .free }).settlePool
      else if !precedes (s.ltime die) dline then
        .next (((s.count die 0x180).sendRelease die r.frame l' none).setLease die r.frame { l with st := .free }).settlePool
      else
        let pos := field (s.dieReg (if l.eng = 0 then die else if l.eng = 1 then 0 else 1) 0x118) 0 48
        let s := if l.pf && decide (l.stp * 2 ^ 16 + l.lyr < pos) then s.count die 0x180 else s
        let s := s.setLease die r.frame l'
        let x := s.die die
        .next (s.setDie die { x with pool := { x.pool with reqs := x.pool.reqs.map fun e => if e.1 = tag then (e.1, { e.2 with sent := s.cycle }) else e } })
    | _ => .next s

/-- `LEASE_RECALL` (R58, R59): the recall of an S lease is acknowledged, and a FILLING or VALID frame that holds or awaits one is freed. -/
def execLeaseRecall (die : DieId) (obj pidx : Nat) (s : State) : Host.Outcome State Fault Refusal :=
  let t := s.note (.recallAck die obj pidx)
  if pageDie obj pidx ≠ die then .next t
  else match (s.die die).frameOf obj pidx with
    | none => .next t
    | some (f, l) =>
      let asked := (s.die die).pool.reqs.any fun e => decide (e.2.ask = .fill false ∧ e.2.frame = f ∧ e.2.fgen = l.fgen)
      match l.st with
      | .valid => if l.kind = .s then .next (t.freeLease die f).settlePool else .next t
      | .filling => if asked then .next (t.setLease die f { l with st := .free }).settlePool else .next t
      | _ => .next t

/-- `LEASE_EXPIRY` (R58). -/
def execLeaseExpiry (die : DieId) (frame : Nat) (s : State) : Host.Outcome State Fault Refusal := .next (s.expire die frame).settlePool

/-- The remaining local time of a lease. -/
def State.remaining (s : State) (d : DieId) (l : Lease) : Nat := if precedes (s.ltime d) l.dline then (l.dline + 2 ^ 48 - s.ltime d) % 2 ^ 48 else 0

/-- A renewal of a frame is outstanding. -/
def Die.renewing (d : Die) (f : Nat) (l : Lease) : Bool :=
  let hit := fun (r : PoolReq) => decide (r.ask = .renew ∧ r.frame = f ∧ r.fgen = l.fgen)
  d.pool.reqs.any (fun e => hit e.2) || d.pool.waiting.any hit

/-- A lease is due for renewal (R54). -/
def State.renewalDue (s : State) (d : DieId) (f : Nat) (l : Lease) : Bool :=
  decide (l.st = .valid) && l.own && decide (s.remaining d l * 16 < field (s.dieReg d 0x113) 20 4 * l.ldur) && !(s.die d).renewing f l &&
    precedes (s.ltime d) l.dline && (s.poolClosed d l.obj l.pidx).isNone

/-- `LEASE_RENEWAL` (R54). -/
def execLeaseRenewal (die : DieId) (frame : Nat) (s : State) : Host.Outcome State Fault Refusal :=
  let l := (s.die die).lease frame
  if s.renewalDue die frame l then .next (s.poolSend die (poolReq .renew frame l 0 none)) else .next s

/-- `RENEWAL_REPLY` (R54, R57, R59): a grant that finds the frame no longer VALID is released. -/
def execRenewalReply (die : DieId) (tag : Nat) (gen : BitVec 4) (ans : PoolAnswer) (s : State) : Host.Outcome State Fault Refusal :=
  match s.poolReply die tag gen with
  | .inl t => .next t
  | .inr r =>
    if r.ask ≠ .renew then .next s
    else
      let t := (s.expirePage r.obj r.pidx).dropReq die tag
      match ans with
      | .refused st => if reservedStatus st then .next s else .next (t.renewFails die r st).settlePool
      | .grant e n _ _ =>
        let l := (t.die die).lease r.frame
        let ldur := t.ldur die n
        if l.st ≠ .valid ∨ l.fgen ≠ r.fgen then .next (t.sendRelease die r.frame { l with obj := r.obj, pidx := r.pidx, epoch := e } none).settlePool
        else if ldur = 0 then .next ((t.sendRelease die r.frame l none).renewFails die r Status.retry).settlePool
        else .next (t.setLease die r.frame { l with dline := (r.tsend + ldur) % 2 ^ 48, ldur := ldur }).settlePool

/-- `WRITE_THROUGH_REPLY` (R41, R58). -/
def execWriteThroughReply (die : DieId) (tag : Nat) (gen : BitVec 4) (st : Status) (s : State) : Host.Outcome State Fault Refusal :=
  match s.poolReply die tag gen with
  | .inl t => .next t
  | .inr r =>
    match r.ask with
    | .writeThrough _ _ => if reservedStatus st then .next s else .next ((s.dropReq die tag).writeEnds die r st).settlePool
    | _ => .next s

/-- `RELEASE_REPLY` (R60). -/
def execReleaseReply (die : DieId) (tag : Nat) (gen : BitVec 4) (st : Status) (s : State) : Host.Outcome State Fault Refusal :=
  match s.poolReply die tag gen with
  | .inl t => .next t
  | .inr r => if r.ask = .release ∧ reservedStatus st = false then .next ((s.dropReq die tag).endTask r.op st).settlePool else .next s

/-- `HANDOVER_REPLY` (R61). -/
def execHandoverReply (die : DieId) (tag : Nat) (gen : BitVec 4) (st : Status) (s : State) : Host.Outcome State Fault Refusal :=
  match s.poolReply die tag gen with
  | .inl t => .next t
  | .inr r =>
    match r.ask with
    | .handover _ => if reservedStatus st then .next s else .next ((s.dropReq die tag).endTask r.op st).settlePool
    | _ => .next s

/-- A tag's request ends with TIMEOUT, and its generation advances (R45). -/
def State.poolTimeout (s : State) (d : DieId) (tag : Nat) : State :=
  let x := s.die d
  match x.pool.reqs.find? fun e => decide (e.1 = tag) with
  | none => s
  | some (_, r) =>
    let g := Sparse.get (fun _ => (0 : BitVec 4)) x.pool.gens tag
    let s := s.setDie d { x with pool := { x.pool with gens := Sparse.set (fun _ => 0) x.pool.gens tag (g + 1) } }
    (s.dropReq d tag).requestEnds d r Status.timeout

/-- A pool request has waited 2^n cycles. A fill that the pool has reported as promoting ends at its `dline` instead (R58). -/
def State.poolDue (s : State) (d : DieId) (r : PoolReq) : Bool :=
  decide (r.sent + 2 ^ field (s.dieReg d 0x110) 0 6 ≤ s.cycle)

/-- `POOL_REQUEST_TIMEOUT` (R45). -/
def execPoolRequestTimeout (die : DieId) (tag : Nat) (s : State) : Host.Outcome State Fault Refusal :=
  match (s.die die).pool.reqs.find? fun e => decide (e.1 = tag) with
  | some (_, r) => if s.poolDue die r then .next (s.poolTimeout die tag).settlePool else .next s
  | none => .next s

/-- The pool's incarnation changes (R47): every frame of the die is free, and every outstanding request ends with TARGET_GONE. -/
def State.poolRestarts (s : State) (d : DieId) : State :=
  let p := (s.die d).pool
  let x := s.die d
  let s := s.setDie d { x with pool := { x.pool with reqs := [], waiting := [] } }
  let s := (p.reqs.map (·.2) ++ p.waiting).foldl (fun s r => (s.failPage r.obj r.pidx Status.targetGone r.op).endTask r.op Status.targetGone) s
  let s := p.frames.foldl (fun s e => s.setLease d e.1 { (s.die d).lease e.1 with st := .free }) s
  let gone := fun (t : Task) => if t.st = .requested 0 ∧ pageDie t.obj t.pidx = d then { t with st := .done Status.targetGone } else t
  { s with ops := s.ops.map fun o => { o with tasks := o.tasks.map gone } }

/-! ## Victims and the sweeper (R64, R65) -/

/-- A channel's sweeper. -/
def Die.sweeper (d : Die) (ch : Nat) : Sweeper := Sparse.get (fun _ => Sweeper.reset) d.pool.sweepers ch

/-- Replace a channel's sweeper. -/
def State.setSweeper (s : State) (d : DieId) (ch : Nat) (w : Sweeper) : State :=
  let x := s.die d
  s.setDie d { x with pool := { x.pool with sweepers := Sparse.set (fun _ => Sweeper.reset) x.pool.sweepers ch w } }

/-- A frame that the head of a ready queue names can be taken. -/
def Lease.isVictim (l : Lease) : Bool := decide (l.st = .valid) && !l.a && !l.own && decide (l.pin = 0) && decide (l.pend = 0)

/-- Free a frame of a channel that has none (R64): a frame of the ready queue whose lease has ended meanwhile, or else the victim at its head;
entries at the head that no longer qualify are discarded. -/
def State.takeVictim (s : State) (d : DieId) (ch : Nat) : State :=
  let w := (s.die d).sweeper ch
  let s := w.ready.foldl (fun s f => s.expire d f) s
  if ((s.die d).freeFrame ch).isSome then s
  else match w.ready.dropWhile fun f => !((s.die d).lease f).isVictim with
    | [] => s.setSweeper d ch { w with ready := [] }
    | f :: rest =>
      let s := (s.setSweeper d ch { w with ready := rest }).count d 0x184
      (s.sendRelease d f ((s.die d).lease f) none).freeLease d f

/-- A task waits for a frame of a channel. -/
def State.wantsFrame (s : State) (d : DieId) (ch : Nat) (t : Task) : Bool :=
  decide (t.st = .waiting) && (t.kind.demandsS || t.kind.isLease) && decide (pageDie t.obj t.pidx = d) &&
    decide (pageChannel t.obj t.pidx t.leaf = ch) && ((s.die d).frameOf t.obj t.pidx).isNone

/-- A demand allocation of a channel waits. -/
def State.allocWaits (s : State) (d : DieId) (ch : Nat) : Bool :=
  ((s.die d).freeFrame ch).isNone && s.ops.any fun o => o.tasks.any fun t => s.wantsFrame d ch t

/-- The sweeper of a channel runs: from below `sweep.low` until `sweep.high`. -/
def State.sweeps (s : State) (d : DieId) (ch : Nat) : Bool :=
  let w := (s.die d).sweeper ch
  decide (w.ready.length < field (s.dieReg d 0x115) 0 6) || (w.running && decide (w.ready.length < field (s.dieReg d 0x115) 8 6))

/-- `SWEEPER_ADVANCE` (R65): the hand passes a frame, for every demand allocation that waits too (R64). -/
def execSweeperAdvance (die : DieId) (ch : Fin 48) (s : State) : Host.Outcome State Fault Refusal :=
  let n := (s.die die).channelFrames ch.val
  if !s.sweeps die ch.val || n == 0 || !(s.die die).pool.started then .next s
  else
    let w := (s.die die).sweeper ch.val
    let f := w.hand % n * 48 + ch.val
    let l := (s.die die).lease f
    let w := { w with hand := (w.hand + 1) % n, running := true }
    let free := decide (l.st = .valid) && !l.own && decide (l.pin = 0) && decide (l.pend = 0)
    let w := if free && !l.a && !w.ready.contains f then { w with ready := w.ready ++ [f] } else w
    let w := { w with running := decide (w.ready.length < field (s.dieReg die 0x115) 8 6) }
    let s := if free && l.a then s.setLease die f { l with a := false } else s
    let pass := fun (t : Task) => if s.wantsFrame die ch.val t then { t with passed := t.passed + 1 } else t
    let t : State := { s with ops := s.ops.map fun o => { o with tasks := o.tasks.map pass } }
    .next (t.setSweeper die ch.val w)

/-- `VICTIM_ALLOCATION` (R64): a waiting allocation takes the head of the ready queue. -/
def execVictimAllocation (die : DieId) (ch : Fin 48) (s : State) : Host.Outcome State Fault Refusal :=
  if s.allocWaits die ch.val then .next (s.takeVictim die ch.val).settlePool else .next s

/-- `ALLOCATION_RETRY` (R64): a demand allocation of the channel that the hand has passed every frame by twice, with no victim to take,
completes with RETRY. -/
def execAllocationRetry (die : DieId) (ch : Fin 48) (s : State) : Host.Outcome State Fault Refusal :=
  let due := fun (t : Task) => s.wantsFrame die ch.val t && decide (2 * (s.die die).channelFrames ch.val ≤ t.passed)
  if s.allocWaits die ch.val && (((s.die die).sweeper ch.val).ready.find? fun f => ((s.die die).lease f).isVictim).isNone then
    .next { s with ops := s.ops.map fun o =>
      { o with tasks := o.tasks.map fun t => if due t then { t with st := .done Status.retry } else t } }
  else .next s

/-! ## The prefetch engine (R66 to R69) -/

/-- Cancel the prefetch fills that a die's engine started, on either home die, and that its `pfpos` has passed (R69; log 31). A frame whose
promotion has lapsed expires first (R58). -/
def State.cancelPrefetch (s : State) (d : DieId) : State :=
  let drop := field (s.dieReg d 0x117) 8 4
  let pos := s.dieReg d 0x118
  if drop = 0 then s
  else [(0 : DieId), 1].foldl
    (fun s h => (s.die h).pool.frames.foldl
      (fun s e =>
        let s := s.expire h e.1
        let l := (s.die h).lease e.1
        if l.st = .filling ∧ l.pf = true ∧ l.eng = d.val + 1 ∧
            (l.stp < field pos 16 32 ∨ (l.stp = field pos 16 32 ∧ l.lyr + drop < field pos 0 16)) then
          ((s.count d 0x183).sendRelease h e.1 l none).setLease h e.1 { l with st := .free }
        else s) s) s

/-- `PFPOS_WRITE` (R67, R69): `step` and `layer` are written. -/
def execPfposWrite (die : DieId) (v : Word) (s : State) : Host.Outcome State Fault Refusal :=
  .next ((s.setDieReg die 0x118 (BitVec.ofNat 64 (field v 0 48))).cancelPrefetch die).settlePool

/-- The object offsets of a capability's window: start and end (R31). -/
def capStart (c : BitVec 128) : Nat := field c 15 20 * 2 ^ field c 35 5
def capLen (c : BitVec 128) : Nat := field c 0 15 * 2 ^ field c 35 5

/-- The pages that a byte range touches. -/
def pagesOf (start n : Nat) : List Nat :=
  if n = 0 then [] else (List.range ((start + n - 1) / 65536 + 1 - start / 65536)).map (· + start / 65536)

/-- Fill the free pages of a record, in ascending order (R68): the state, and how many pages were taken before the engine had to wait. -/
def State.prefetchPages (d : DieId) (cap : BitVec 128) (stp lyr : Nat) : State → Nat → List Nat → State × Nat
  | s, n, [] => (s, n)
  | s, n, p :: t =>
    let obj := field cap 88 40
    let h := pageDie obj p
    if 256 ≤ ((s.die0.pool.frames ++ s.die1.pool.frames).filter fun e => decide (e.2.st = .filling ∧ e.2.eng = d.val + 1)).length then (s, n)
    else if (((s.expirePage obj p).die h).frameOf obj p).isSome then State.prefetchPages d cap stp lyr (s.expirePage obj p) (n + 1) t
    else
      let s := s.expirePage obj p
      let ch := pageChannel obj p none
      let s := if ((s.die h).freeFrame ch).isSome then s else s.takeVictim h ch
      match s.fillPage obj p none false cap none (some (d, stp, lyr)) with
      | some s => State.prefetchPages d cap stp lyr (s.count d 0x181).shut (n + 1) t
      | none => State.prefetchPages d cap stp lyr (s.count d 0x182) (n + 1) t

/-- How far the prefetch engine of a die is in its current record. -/
def State.setPfAt (s : State) (d : DieId) (n : Option Nat) : State :=
  let x := s.die d
  s.setDie d { x with pool := { x.pool with pfAt := n } }

/-- `PREFETCH_WALK` (R66, R68): the record at `tail` is skipped, waited for, or fetched; one that it has begun it goes on with at the page
where it had to wait. What it has started for a position that `pfpos` has passed meanwhile is cancelled (R69). -/
def execPrefetchWalk (die : DieId) (s : State) : Host.Outcome State Fault Refusal :=
  let ring := s.dieReg die 0x116
  let cfg := s.dieReg die 0x117
  let pos := s.dieReg die 0x118
  let head := field ring 48 16
  let tail := field ring 32 16
  if !bit cfg 16 || head == tail then .next s
  else
    let rec_ := (s.die die).peek? (field ring 4 28 * 4096 + 32 * (tail % 2 ^ field ring 0 4)) 32
    let r : BitVec 256 := BitVec.ofNat 256 (ofBytes (rec_.getD []))
    let stp := field r 0 32
    let lyr := field r 32 16
    let lead := field r 48 8
    let cap : BitVec 128 := r.extractLsb' 128 128
    let begun := (s.die die).pool.pfAt
    let take := fun (s : State) => (s.setDieReg die 0x116 (setField (s.dieReg die 0x116) 32 16 (tail + 1))).setPfAt die none
    let ld := if lead = 255 then field cfg 0 4 else lead
    if rec_.isNone || begun.isNone && (!bit r 56 || decide (16 ≤ lead ∧ lead ≠ 255) || field r 57 7 != 0 || field r 64 64 != 0 || decide (21 < field cap 35 5)) then
      .next (take (s.count die 0x182))
    else if begun.isNone && decide (field pos 16 32 + ld < stp) then .next s
    else if begun.isNone && decide (stp * 2 ^ 16 + lyr < field pos 0 48) then .next (take (s.count die 0x182))
    else
      let ps := pagesOf (capStart cap) (capLen cap)
      let at_ := begun.getD 0
      match State.prefetchPages die cap stp lyr s at_ (ps.drop at_) with
      | (s, n) => .next ((if ps.length ≤ n then take s else s.setPfAt die (some n)).cancelPrefetch die).settlePool

/-! ## Waiting for pages before an instruction issues -/

/-- The pages that the stream in focus waits for before it issues. -/
def State.probe? (s : State) : Option Op := s.ops.find? fun o => decide (o.owner = s.focus) && decide (o.dest = .probe)

/-- Those pages have been looked for, and one of them has failed. -/
def State.probeFailed (s : State) : Bool := match s.probe? with | some o => o.performed && o.status != Status.ok | none => false

/-- A task at a page. -/
def pageTask (kind : TaskKind) (obj pidx : Nat) (leaf : Option Nat) : Task := { obj := obj, pidx := pidx, kind := kind, leaf := leaf, passed := 0, st := .waiting }

/-- Start the tasks that an instruction waits for before it issues. -/
def State.startProbe (s : State) (cap : BitVec 128) (ts : List Task) : Eff :=
  let (t, id) := s.addOp { Op.empty s.focus with engine := true, dest := .probe, plain := false, tasks := ts, cap := cap }
  .await (t.tryOp id).shut .pool

/-- Go on once the tasks that an instruction waited for have ended. -/
def State.afterProbe (s : State) (p addr : Nat) (go : State → Eff) : Eff :=
  match s.probe? with
  | none => go s
  | some o =>
    if !o.performed then .block .pool
    else if o.status = Status.ok then go (s.dropOp o.id)
    else (s.dropOp o.id).failWith p addr o.status

/-- Send an operation whose tasks are tried at once: the plain form holds its stream. -/
def State.sendTasks (s : State) (o : Op) : Eff :=
  let (s, id) := s.addOp o
  let s := ((s.setMe (s.me.addBusy o.targets)).tryOp id).shut
  if o.plain then .hold s id else .sent s id

end Sys2Proof.Machine
end

