-- ==== Sys2Proof/Machine/Cap.lean ====
section
/-!
DEFINITION. Capabilities and the instructions on pool space (R29 to R42, R267 to R274): `pld`, `pst`, `pamo`, `pcas`, `pget`, `kld`,
`kder`, `kchk`, `kmov`, `lacq`, `lrel`, `lhand`.
-/

namespace Sys2Proof.Machine

/-! ## Capability fields and checks (R29, R30, R37) -/

/-- The object number. -/
def Cap.obj (c : Cap) : Nat := field c.bits 88 40
/-- The rights. -/
def Cap.rights (c : Cap) : Nat := field c.bits 80 8
/-- The register holds no well-formed capability. -/
def Cap.bad (c : Cap) : Bool := !c.tag || decide (21 < field c.bits 35 5)
/-- The object offset of a window offset. -/
def Cap.at (c : Cap) (off : Nat) : Nat := capStart c.bits + off

/-- The first three checks of R37. -/
def Cap.check (c : Cap) (off n need : Nat) : Option Status :=
  if c.bad then some Status.access
  else if c.rights &&& need ≠ need then some Status.rights
  else if capLen c.bits < off + n then some Status.bounds
  else none

/-- The address that a capability fault records (R398). -/
def Cap.faultAddr (c : Cap) (off : Nat) : Nat := if c.tag then c.at off else 0

/-- `poolcheck` of R37 up to the feature check: `line` asks for one 128-byte line, `align` for an alignment of the object offset. -/
def Cap.poolCheck (c : Cap) (off n need : Nat) (line : Bool) (align : Nat) : Option Status :=
  match c.check off n need with
  | some st => some st
  | none =>
    if line ∧ c.at off / 128 ≠ (c.at off + n - 1) / 128 then some Status.access
    else if c.at off % align ≠ 0 then some Status.access
    else none

/-! ## Order of a stream's pool accesses -/

/-- A pool access waits: a release for every earlier access, every access for an earlier acquire and for earlier tasks at its pages that
still wait (R353, R38). -/
def State.poolWaits (s : State) (release : BitVec 3) (acq : Bool) (obj : Nat) (pages : List Nat) : Bool :=
  s.mustWait s.focus release acq false [] ||
    (s.unperformed s.focus).any fun o => o.tasks.any fun t => decide (t.st = .waiting) && decide (t.obj = obj) && pages.contains t.pidx

/-- The suffix of an ord4 field (R219): the scope of a release, 0 for none; an acquire; an acquire at `.sys`. -/
def ordRel (o : BitVec 4) : BitVec 3 := if 8 < o.toNat then o.setWidth 3 else 0
def ordAcq (o : BitVec 4) : Bool := decide (o.toNat ≠ 0 ∧ o.toNat < 8)
def ordAcqSys (o : BitVec 4) : Bool := o == 7

/-! ## Loads (R267, R271) -/

/-- A load from pool space once its page can be read: type check, the wait of an acquire at `.sys` (R362), then the bytes. `cap` says which
granule type the operation needs. The `.s` form waits for the page as well: the fault of the type check is exact in both forms (R35), and
the check comes after the demand fill (R37; DEDUCED, log 66). -/
def State.poolLoad (s : State) (k p : Nat) (c : Cap) (off n : Nat) (cap acq acqSys : Bool) (rel : BitVec 3) (use : State → List Byte → Eff) :
    Eff :=
  let a := c.at off
  let obj := c.obj
  let pg := a / 65536
  let d := pageDie obj pg
  if s.poolWaits rel acq obj [pg] then .block .access
  else s.afterProbe p a fun s =>
    let s := s.expirePage obj pg
    match (s.die d).frameOf obj pg with
    | none => s.startProbe c.bits [pageTask .ready obj pg none]
    | some (f, l) =>
      if l.st ≠ .valid ∧ l.st ≠ .draining then s.startProbe c.bits [pageTask .ready obj pg none]
      else if l.hasType (a % 65536) n (!cap) then .abort s (.cap k Status.access a)
      else if acqSys && l.pend != 0 then s.startProbe c.bits [pageTask .settled obj pg none]
      else
        match s.frameRead d f (a % 65536) n with
        | (s, st, bs) => if st ≠ Status.ok then s.failWith p a st else use s bs

/-- The scratchpad operand of R268: address and the byte or page count. -/
def spadOperand (w : Word) : Nat × Nat := (field w 0 32, field w 32 9)

/-- The checks of a scratchpad operand of `pld` and `pst` (R268). -/
def State.spadOperandCheck (s : State) (w : Word) (store : Bool) : Option FaultInfo :=
  let (a, n) := spadOperand w
  if spaceOf a ≠ 0 then some (.spad Status.access a)
  else if n < 16 ∨ 128 < n ∨ n % 16 ≠ 0 then some (.spad Status.access a)
  else (s.cur.spadCheck a n 16 store).map fun st => .spad st a

/-- `pld` (R267). -/
def execPld (sy d : BitVec 5) (k : BitVec 4) (z : BitVec 3) (o : BitVec 4) (p : BitVec 3) (s : State) : Host.Outcome State Fault Refusal :=
  s.issue (.pld sy d k z o p) fun s =>
    let c := s.cap k.toNat
    let off := (s.x d.toNat).toNat
    if z = 7 then
      let w := s.x (d.toNat + 1)
      let (a, n) := spadOperand w
      match s.spadOperandCheck w true with
      | some f => .fault f
      | none =>
        match c.poolCheck off n 1 true 1 with
        | some st => .fault (.cap k.toNat st (c.faultAddr off))
        | none =>
          (s.untransReady a n).andThen p.toNat fun s =>
            s.poolLoad k.toNat p.toNat c off n false (ordAcq o) (ordAcqSys o) (ordRel o) fun s bs =>
              .retire ((s.spadWrite s.focus.core (a % 2 ^ 26) bs).setP p.toNat Status.ok) 0
    else
      let n := 2 ^ z.toNat
      match c.poolCheck off n 1 true n with
      | some st => .fault (.cap k.toNat st (c.faultAddr off))
      | none =>
        s.poolLoad k.toNat p.toNat c off n false (ordAcq o) (ordAcqSys o) (ordRel o) fun s bs =>
          .retire ((s.setX d.toNat (BitVec.ofNat 64 (ofBytes bs))).setP p.toNat Status.ok) 0

/-- `kld` (R271): the k register takes the granule with its tag set. -/
def execKld (sy : BitVec 5) (d k a o : BitVec 4) (p : BitVec 3) (s : State) : Host.Outcome State Fault Refusal :=
  s.issue (.kld sy d k a o p) fun s =>
    let c := s.cap k.toNat
    let off := (s.x a.toNat).toNat
    match c.poolCheck off 16 32 true 16 with
    | some st => .fault (.cap k.toNat st (c.faultAddr off))
    | none =>
      s.poolLoad k.toNat p.toNat c off 16 true (ordAcq o) (ordAcqSys o) (ordRel o) fun s bs =>
        .retire ((s.setCap d.toNat ⟨BitVec.ofNat 128 (ofBytes bs), true⟩).setP p.toNat Status.ok) 0

/-! ## Stores and atomics (R267, R269, R38, R41) -/

/-- An update of pool space once its page can be reached: type check, lease check, room in `pend`, then `upd` gives the bytes to store, if any,
from the old ones. An update that stores nothing sends no request, so that nothing of the pool can refuse it (R41). -/
def State.poolUpdate (s : State) (k p : Nat) (c : Cap) (off n : Nat) (acq acqSys : Bool) (rel : BitVec 3) (dest : Dest)
    (upd : List Byte → Option (List Byte)) : Eff :=
  let a := c.at off
  let obj := c.obj
  let pg := a / 65536
  let d := pageDie obj pg
  if s.poolWaits rel acq obj [pg] then .block .access
  else s.afterProbe p a fun s =>
    let s := s.expirePage obj pg
    match (s.die d).frameOf obj pg with
    | none => s.failWith p a Status.noLease
    | some (f, l) =>
      if l.st = .filling ∨ l.st = .lost then .block .pool
      else if l.hasType (a % 65536) n true then .abort s (.cap k Status.access a)
      else if l.st ≠ .valid ∨ l.kind ≠ .x then s.failWith p a Status.noLease
      else if 255 ≤ l.pend then .block .pool
      else if acqSys && l.pend != 0 then s.startProbe c.bits [pageTask .settled obj pg none]
      else
        match s.frameRead d f (a % 65536) n with
        | (s, st, bs) =>
          let o : Op := { Op.empty s.focus with plain := decide (p = 0), preg := p, acq := acq, rel := rel != 0, dest := dest, size := n,
                                                data := writeBytes [] 0 bs, faultAddr := a }
          let read := match dest with | .x _ => true | _ => false
          if read && st != Status.ok then s.failWith p a st
          else match upd bs with
          | none =>
            let s := match dest with | .x r => s.setX r (BitVec.ofNat 64 (ofBytes bs)) | _ => s
            .retire (s.setP p Status.ok) 0
          | some new =>
            match s.poolClosed d obj pg with
            | some st => s.failWith p a st
            | none =>
              match s.frameWrite d f (a % 65536) new (some (s.nextOp, 0)) with
              | (s, st) =>
                if st ≠ Status.ok then s.failWith p a st
                else s.sendTasks { o with tasks := [{ pageTask (.store (a % 65536) new) obj pg none with st := .requested 1 }] }

/-- `pst` (R267). -/
def execPst (sy d : BitVec 5) (k : BitVec 4) (z : BitVec 3) (o : BitVec 4) (p : BitVec 3) (s : State) : Host.Outcome State Fault Refusal :=
  s.issue (.pst sy d k z o p) fun s =>
    let c := s.cap k.toNat
    let off := (s.x d.toNat).toNat
    let w := s.x (d.toNat + 1)
    if z = 7 then
      let (a, n) := spadOperand w
      match s.spadOperandCheck w false with
      | some f => .fault f
      | none =>
        match c.poolCheck off n 2 true 1 with
        | some st => .fault (.cap k.toNat st (c.faultAddr off))
        | none =>
          (s.untransReady a n).andThen p.toNat fun s =>
            s.poolUpdate k.toNat p.toNat c off n (ordAcq o) (ordAcqSys o) (ordRel o) .none fun _ => some (s.spadRead s.focus.core (a % 2 ^ 26) n)
    else
      let n := 2 ^ z.toNat
      match c.poolCheck off n 2 true n with
      | some st => .fault (.cap k.toNat st (c.faultAddr off))
      | none => s.poolUpdate k.toNat p.toNat c off n (ordAcq o) (ordAcqSys o) (ordRel o) .none fun _ => some (bytesOf n w.toNat)

/-- The result of a pool atomic (R39). -/
def pamoResult (aop size old x : Nat) : Nat :=
  let b := 8 * size
  match aop with
  | 0 => (old + x) % 2 ^ b
  | 1 => old &&& x
  | 2 => old ||| x
  | 3 => old ^^^ x
  | 4 => x
  | 5 => if signed b x ≤ signed b old then x else old
  | 6 => if signed b old ≤ signed b x then x else old
  | 7 => if x ≤ old then x else old
  | 8 => if old ≤ x then x else old
  | _ => rne32 ((v32 old).add (v32 x)).1

/-- The `poolrev` bit that a pool atomic needs (R39, R46). -/
def pamoFeature (aop : Nat) : Option Nat := if aop < 5 then none else if aop < 9 then some 17 else some 16

/-- The feature check of R46 at the issuing die: an operation whose feature the pool lacks completes with UNSUPPORTED. -/
def State.lacksFeature (s : State) (aop : Nat) : Bool :=
  match pamoFeature aop with | none => false | some b => !bit (s.dieReg s.focus.core.die 0x111) b

/-- `pamo` (R269, R39). -/
def execPamo (sy : BitVec 5) (r k c : BitVec 4) (z : BitVec 1) (o p : BitVec 3) (s : State) : Host.Outcome State Fault Refusal :=
  s.issue (.pamo sy r k c z o p) fun s =>
    let cp := s.cap k.toNat
    let off := (s.x (2 * r.toNat)).toNat
    let n := if z = 0 then 4 else 8
    let x := (s.x (2 * r.toNat + 1)).toNat % 2 ^ (8 * n)
    match cp.poolCheck off n 4 true n with
    | some st => .fault (.cap k.toNat st (cp.faultAddr off))
    | none =>
      if s.lacksFeature c.toNat then s.failWith p.toNat (cp.at off) Status.unsupported
      else s.poolUpdate k.toNat p.toNat cp off n (o != 0) (o == 7) o (.x (2 * r.toNat + 1))
        fun bs => some (bytesOf n (pamoResult c.toNat n (ofBytes bs) x))

/-- `pcas` (R269): a comparison that fails emits no write-through. -/
def execPcas (sy : BitVec 5) (r k n : BitVec 4) (z : BitVec 1) (o p : BitVec 3) (s : State) : Host.Outcome State Fault Refusal :=
  s.issue (.pcas sy r k n z o p) fun s =>
    let cp := s.cap k.toNat
    let off := (s.x (2 * r.toNat)).toNat
    let len := if z = 0 then 4 else 8
    let e := (s.x (2 * r.toNat + 1)).toNat % 2 ^ (8 * len)
    let new := (s.x n.toNat).toNat % 2 ^ (8 * len)
    match cp.poolCheck off len 4 true len with
    | some st => .fault (.cap k.toNat st (cp.faultAddr off))
    | none =>
      s.poolUpdate k.toNat p.toNat cp off len (o != 0) (o == 7) o (.x (2 * r.toNat + 1))
        fun bs => if ofBytes bs = e then some (bytesOf len new) else none

/-! ## `pget` (R270) -/

/-- `pget` (R270, R268): whole pages, in ascending order. -/
def execPget (sy a : BitVec 5) (k : BitVec 4) (b : BitVec 5) (p : BitVec 3) (s : State) : Host.Outcome State Fault Refusal :=
  s.issue (.pget sy a k b p) fun s =>
    let c := s.cap k.toNat
    let off := (s.x a.toNat).toNat
    let w := s.x b.toNat
    let sp := bit w 63
    let (ad, n) := spadOperand w
    if n = 0 ∨ (if sp then 32 else 256) < n then .fault (.cap k.toNat Status.access (c.faultAddr off))
    else if sp ∧ spaceOf ad ≠ 0 then .fault (.spad Status.access ad)
    else match (if sp then s.cur.spadCheck ad (n * 65536) 128 true else none) with
    | some st => .fault (.spad st ad)
    | none =>
      match c.poolCheck off (n * 65536) 8 false 65536 with
      | some st => .fault (.cap k.toNat st (c.faultAddr off))
      | none =>
        let pg := c.at off / 65536
        if s.poolWaits 0 false c.obj ((List.range n).map (· + pg)) then .block .access
        else (if sp then s.untransReady ad (n * 65536) else .ok s).andThen p.toNat fun s =>
          s.sendTasks { Op.empty s.focus with
            plain := p == 0, preg := p.toNat, cap := c.bits, faultAddr := c.at off,
            tasks := (List.range n).map fun j => pageTask (.fetch (if sp then some (ad % 2 ^ 26 + 65536 * j) else none)) c.obj (pg + j) none }

/-! ## `kder`, `kchk`, `kmov` (R34, R272) -/

/-- The smallest granule exponent from e up that represents a window exactly (R34): `fuel` exponents are tried. -/
def kderFrom (root : BitVec 128) (st n : Nat) : Nat → Nat → Option (BitVec 128)
  | 0, _ => none
  | fuel + 1, e =>
    if st % 2 ^ e = 0 ∧ n % 2 ^ e = 0 ∧ st / 2 ^ e < 2 ^ 20 ∧ n / 2 ^ e < 2 ^ 15 then
      some (setField (setField (setField root 35 5 e) 15 20 (st / 2 ^ e)) 0 15 (n / 2 ^ e))
    else kderFrom root st n fuel (e + 1)

/-- kder(ks, off, n) of R34. -/
def Cap.derive (c : Cap) (off n : Nat) : Except Status Cap :=
  if c.bad then .error Status.access
  else if capLen c.bits < off + n then .error Status.bounds
  else match kderFrom c.bits (c.at off) n 22 0 with
  | some b => .ok ⟨b, true⟩
  | none => .error Status.bounds

/-- `kder` (R272). -/
def execKder (sy : BitVec 5) (d k a b : BitVec 4) (s : State) : Host.Outcome State Fault Refusal :=
  s.issue (.kder sy d k a b) fun s =>
    let c := s.cap k.toNat
    let off := (s.x a.toNat).toNat
    match c.derive off (s.x b.toNat).toNat with
    | .ok r => .retire (s.setCap d.toNat r) 0
    | .error st => .fault (.cap k.toNat st (c.faultAddr off))

/-- `kchk` (R272): it never faults. -/
def execKchk (sy : BitVec 5) (p k a b : BitVec 4) (s : State) : Host.Outcome State Fault Refusal :=
  s.issue (.kchk sy p k a b) fun s =>
    let w := s.x b.toNat
    .retire (s.setP p.toNat (((s.cap k.toNat).check (s.x a.toNat).toNat (field w 0 36) (field w 40 8)).getD Status.ok)) 0

/-- `kmov` (R272). -/
def execKmov (sy : BitVec 5) (d k : BitVec 4) (s : State) : Host.Outcome State Fault Refusal :=
  s.issue (.kmov sy d k) fun s => .retire (s.setCap d.toNat (s.cap k.toNat)) 0

/-! ## `lacq`, `lrel`, `lhand` (R273, R274, R60, R61) -/

/-- The checks of a range of R273, in its order: `need` is the right. -/
def Cap.rangeCheck (c : Cap) (off n need : Nat) : Option Status :=
  if c.bad then some Status.access
  else if n = 0 ∨ 256 < (pagesOf (c.at off) n).length then some Status.access
  else if c.rights &&& need ≠ need then some Status.rights
  else if capLen c.bits < off + n then some Status.bounds
  else none

/-- A lease instruction over the pages that a range touches. -/
def leaseBody (k a b p need : Nat) (kind : TaskKind) (s : State) : Eff :=
  let c := s.cap k
  let off := (s.x a).toNat
  let n := field (s.x b) 0 36
  match c.rangeCheck off n need with
  | some st => .fault (.cap k st (c.faultAddr off))
  | none =>
    let ps := pagesOf (c.at off) n
    if s.poolWaits 0 false c.obj ps then .block .access
    else s.sendTasks { Op.empty s.focus with plain := decide (p = 0), preg := p, cap := c.bits, faultAddr := c.at off,
                                             tasks := ps.map fun j => pageTask kind c.obj j none }

/-- `lacq` (R274): S needs `r`, X needs `lx`. -/
def execLacq (sy : BitVec 5) (k : BitVec 4) (a b : BitVec 5) (p : BitVec 3) (s : State) : Host.Outcome State Fault Refusal :=
  s.issue (.lacq sy k a b p) fun s =>
    let x := bit (s.x b.toNat) 47
    leaseBody k.toNat a.toNat b.toNat p.toNat (if x then 16 else 1) (.lease x) s

/-- `lrel` (R274, R60): it needs no right. -/
def execLrel (sy : BitVec 5) (k : BitVec 4) (a b : BitVec 5) (p : BitVec 3) (s : State) : Host.Outcome State Fault Refusal :=
  s.issue (.lrel sy k a b p) (leaseBody k.toNat a.toNat b.toNat p.toNat 0 .release)

/-- `lhand` (R274, R61): it needs `hand`. -/
def execLhand (sy : BitVec 5) (k : BitVec 4) (a b : BitVec 5) (p : BitVec 3) (s : State) : Host.Outcome State Fault Refusal :=
  s.issue (.lhand sy k a b p) fun s =>
    leaseBody k.toNat a.toNat b.toNat p.toNat 64 (.handover (field (s.x b.toNat) 48 16)) s

end Sys2Proof.Machine
end

