-- ==== Sys2Proof/Machine/Barrier.lean ====
section
/-!
DEFINITION. Barriers of a stage or a pipeline (R282, R380) and the flip of the route banks (R142).
-/

namespace Sys2Proof.Machine

/-- Replace a gang. -/
def State.setGang (s : State) (g : Gang) : State :=
  { s with sched := { s.sched with gangs := s.sched.gangs.map fun x => if x.id = g.id then g else x } }

/-- A gang by its number. -/
def State.gang? (s : State) (id : Nat) : Option Gang := s.sched.gangs.find? fun x => decide (x.id = id)

/-- Every core of a pipeline, by package index. -/
def Gang.cores (g : Gang) : List Nat := (g.stages.map (·.cores)).flatten

/-- The cores of a barrier's group now: of the stage at level 0, of the pipeline at level 1. -/
def Gang.group (g : Gang) (level stage : Nat) : List Nat :=
  if level = 0 then (match g.stages[stage]? with | some t => t.cores | none => []) else g.cores

/-- The A stream of a core, by package index. -/
def streamA (n : Nat) : StreamId := ⟨CoreId.ofIndex n, .a⟩

/-- Invert `rtact` bit [0] on every die that holds a core of a pipeline (R142). -/
def State.flipRoutes (s : State) (g : Gang) : State :=
  [(0 : DieId), 1].foldl
    (fun s d => if g.cores.any fun n => decide ((CoreId.ofIndex n).die = d) then s.setDieReg d 0x10D (s.dieReg d 0x10D ^^^ 1) else s) s

/-- A barrier whose count is reached completes: the routes flip where `rt` is set, it is disarmed, and every waiting member goes on
(R282). -/
def State.completeBarrier (s : State) (g : Gang) (b : Barrier) : State :=
  let s := if b.flip then s.flipRoutes g else s
  let s := s.setGang { g with barriers := g.barriers.filter fun x => decide (x ≠ b) }
  b.waiting.foldl (fun s n => s.resumeAfter (streamA n)) s

/-- Put an armed barrier back, or complete it when got = need. -/
def State.updateBarrier (s : State) (g : Gang) (old new : Barrier) : State :=
  let g := { g with barriers := if g.barriers.contains old then g.barriers.map (fun x => if x = old then new else x)
                                else g.barriers ++ [new] }
  if new.got ≥ new.need then s.completeBarrier g new else s.setGang g

/-- A barrier of a group as it is armed: its need is the group's cores now, and the halted among them have arrived (R282). -/
def State.armBarrier (s : State) (g : Gang) (level stage id : Nat) : Barrier :=
  let m := g.group level stage
  { level := level, stage := stage, id := id, need := m.length,
    got := (m.filter fun n => decide ((s.stream (streamA n)).run = .halted)).length, waiting := [], members := m, flip := false }

/-- The armed barrier that an arrival of a stage's core meets. -/
def Gang.barrier? (g : Gang) (level stage id : Nat) : Option Barrier :=
  g.barriers.find? fun b => decide (b.level = level) && decide (b.id = id) && (decide (level = 1) || decide (b.stage = stage))

/-- A core's A stream has halted: it counts as arrived at every armed barrier that counts it (R282). -/
def State.arriveHalted (s : State) (n : Nat) : State :=
  match s.gangOf (CoreId.ofIndex n) with
  | none => s
  | some g =>
    (g.barriers.filter fun b => b.members.contains n && !b.waiting.contains n).foldl
      (fun s b => match s.gang? g.id with
        | some g => s.updateBarrier g b { b with got := b.got + 1 }
        | none => s) s

/-- `bar` arrives (R282): the A stream waits at the instruction until the barrier completes. A barrier whose count was taken without the
core makes it wait for the next instance (R380). Of a core in no pipeline R282 says nothing; there `bar` passes on (log 92). -/
def execBar (sy : Sync) (t : BitVec 1) (l : BitVec 2) (i : BitVec 8) (s : State) : Host.Outcome State Fault Refusal :=
  s.issue (.bar sy t l i) fun s =>
    if !(s.opsOf s.focus).isEmpty then .block .access
    else match s.gangOf s.focus.core with
      | none => .retire s 0
      | some g =>
        let n := s.focus.core.index
        let stage := s.cur.ctl.stage
        let old := (g.barrier? l.toNat stage i.toNat).getD (s.armBarrier g l.toNat stage i.toNat)
        if !old.members.contains n then .block .other
        else
          let s' := s.setMe { s.me with run := .atBar }
          let s' := s'.updateBarrier g old { old with got := old.got + 1, waiting := old.waiting ++ [n], flip := t == 1 }
          .again s'

end Sys2Proof.Machine
end

