-- ==== Sys2Proof/Machine/Ring.lean ====
section
/-!
DEFINITION. Rings (R173 to R175): the descriptor where it lies, its checks, and the four operations on it.
-/

namespace Sys2Proof.Machine

/-- A ring descriptor (R173), and where it lies: its untranslated address as the core at hand names it. -/
structure Ring where
  addr : Nat
  base : Nat
  ssz : Nat
  lgs : Nat
  wres : Nat
  head : Nat
  tail : Nat
  filled : Nat
  free : Nat
  done : Nat
  prod : Nat
  cons : Nat
  deriving DecidableEq, Repr

/-- The number of slots. -/
def Ring.slots (r : Ring) : Nat := 2 ^ r.lgs

/-- The bytes of a slot. -/
def Ring.slotBytes (r : Ring) : Nat := r.ssz * 128

/-- The 32 bytes of a descriptor. -/
def Ring.bytes (r : Ring) : List Byte :=
  bytesOf 4 r.base ++ bytesOf 2 r.ssz ++ bytesOf 1 r.lgs ++ bytesOf 1 1 ++ bytesOf 2 r.wres ++ bytesOf 2 r.head ++ bytesOf 2 r.tail ++
    bytesOf 1 r.filled ++ bytesOf 1 r.free ++ bytesOf 8 r.done ++ bytesOf 4 r.prod ++ bytesOf 4 r.cons

/-- A field of a list of bytes. -/
def bytesAt (l : List Byte) (o n : Nat) : Nat := ofBytes ((l.drop o).take n)

/-- Parse a descriptor's bytes; none where the descriptor is not valid, a reserved field is not 0, or `ssz` or `lgs` is out of range. -/
def Ring.parse (a : Nat) (l : List Byte) : Option Ring :=
  let ssz := bytesAt l 4 2
  let lgs := bytesAt l 6 1
  let base := bytesAt l 0 4
  let ok := decide (1 ≤ ssz) && decide (ssz ≤ 512) && decide (lgs ≤ 6) && bytesAt l 7 1 == 1 && base % 128 == 0 &&
    base / 2 ^ 30 != 3 && base / 2 ^ 26 % 16 == 0 && bytesAt l 24 4 / 256 % 2 ^ 20 == 0 && bytesAt l 28 4 / 256 % 2 ^ 20 == 0
  if ok then
    some { addr := a, base := base, ssz := ssz, lgs := lgs, wres := bytesAt l 8 2, head := bytesAt l 10 2, tail := bytesAt l 12 2,
           filled := bytesAt l 14 1, free := bytesAt l 15 1, done := bytesAt l 16 8, prod := bytesAt l 24 4, cons := bytesAt l 28 4 }
  else none

/-- The physical identity of a ring: which storage and offset its descriptor has. -/
def ringKey (c : CoreId) (a : Nat) : Nat :=
  if spaceOf a = 0 then 2 ^ 40 + c.index * 2 ^ 26 + a % 2 ^ 26 else (commonsDie c.die a).val * 2 ^ 26 + a % 2 ^ 26

/-- The untranslated address of a slot, as a core names it (R173). -/
def Ring.slotAddr (r : Ring) (c : CoreId) (n : Nat) : Nat :=
  let off := r.base % 2 ^ 26 + (n % r.slots) * r.slotBytes
  if spaceOf r.addr = 0 ∧ spaceOf r.base = 0 then off
  else
    let d := commonsDie c.die r.addr
    let k := if spaceOf r.base = 2 then DieId.other d else d
    (if k = c.die then 2 ^ 30 else 2 ^ 31) + off

/-- The address of a ring register's descriptor. -/
def Core.ringAddr (k : Core) (rg : Nat) : Nat := (Sparse.get (fun _ => 0) k.regs.rg rg).toNat % 2 ^ 32

/-- The ring register is valid (R174). -/
def Core.ringValid (k : Core) (rg : Nat) : Bool := bit (Sparse.get (fun _ => (0 : Word)) k.regs.rg rg) 63

/-- n bytes at an untranslated address lie in the scratchpad or the Commons window. -/
def Core.inBounds (k : Core) (a n : Nat) : Bool :=
  if spaceOf a = 0 then decide (a % 2 ^ 26 + n ≤ spadSize) else k.inWindow (a % 2 ^ 26) n

/-- A descriptor keeps the sum that R173 gives in every state. -/
def Ring.sound (r : Ring) : Bool := r.filled + r.free + (r.wres + 2 ^ 16 - r.head) % 2 ^ 16 == r.slots

/-- A descriptor as its operations find it: the cursors and counts of one that software has made against R173 are unspecified (R8, log 53). -/
def State.ringFound (s : State) (r : Ring) : Ring :=
  if r.sound then r
  else
    let v := fun (i n : Nat) => (Config.freeWord (s.fresh + i)).toNat % 2 ^ n
    { r with wres := v 0 16, head := v 1 16, tail := v 2 16, filled := v 3 8, free := v 4 8, done := v 5 64 }

/-- The ring whose descriptor a core names by an untranslated address, or the cause of R175's checks of the descriptor. A base in the
scratchpad, where the descriptor lies in a Commons, names no scratchpad: ACCESS (log 88). -/
def State.ringAt (s : State) (c : CoreId) (a : Nat) : Except Status Ring :=
  let k := s.core c
  if a % 32 ≠ 0 ∨ spaceOf a = 3 ∨ a / 2 ^ 26 % 16 ≠ 0 then .error Status.access
  else if !k.inBounds a 32 then .error Status.bounds
  else
    match Ring.parse a (s.untransRead c a 32) with
    | none => .error Status.access
    | some r =>
      if spaceOf r.base = 0 ∧ spaceOf a ≠ 0 then .error Status.access
      else if !k.inBounds (r.slotAddr c 0) (r.slots * r.slotBytes) then .error Status.bounds
      else .ok (s.ringFound r)

/-- The ring that a ring register of a core names, or the cause of R175's checks. -/
def State.ring (s : State) (c : CoreId) (rg : Nat) : Except Status Ring :=
  if (s.core c).ringValid rg then s.ringAt c ((s.core c).ringAddr rg) else .error Status.access

/-- The producer field names a stage's stores and the core belongs to the stage (kind 1). -/
def Ring.producer (r : Ring) (k : Core) : Bool := r.prod / 2 ^ 28 == 1 && r.prod % 256 == k.ctl.stage

/-- The copy commands of a core act as producer: the producer field names them (kind 0), or the core's stage (kind 1, R392). -/
def Ring.copyProducer (r : Ring) (c : CoreId) (k : Core) : Bool :=
  (r.prod / 2 ^ 28 == 0 && r.prod % 256 == c.index) || r.producer k

/-- The consumer field names the core: its M cluster (kind 2), or its stage (kind 3). -/
def Ring.consumer (r : Ring) (c : CoreId) (k : Core) : Bool :=
  (r.cons / 2 ^ 28 == 2 && r.cons % 256 == c.index) || (r.cons / 2 ^ 28 == 3 && r.cons % 256 == k.ctl.stage)

/-- Write a descriptor back where it lies. -/
def State.putRing (s : State) (c : CoreId) (r : Ring) : State :=
  let made := match Ring.parse r.addr (s.untransRead c r.addr 32) with | some old => old.sound | none => true
  { s with fresh := if made then s.fresh else s.fresh + 6 }.untransWrite c r.addr r.bytes

/-! ## The operations (R174) -/

/-- Reserve: slot `wres`, when `free` is not 0. -/
def Ring.reserve (r : Ring) : Ring × Nat := ({ r with free := r.free - 1, wres := (r.wres + 1) % 2 ^ 16 }, r.wres % r.slots)

/-- The head passes every completed slot; `fuel` is the slot count. -/
def Ring.advance : Nat → Ring → Ring
  | 0, r => r
  | fuel + 1, r =>
    let b := r.head % r.slots
    if r.done / 2 ^ b % 2 = 1 then
      Ring.advance fuel { r with done := r.done - 2 ^ b, head := (r.head + 1) % 2 ^ 16, filled := r.filled + 1 }
    else r

/-- Publish a reserved slot: its done bit is set, and the head advances over the completed prefix. -/
def Ring.publish (r : Ring) (slot : Nat) : Ring := Ring.advance 64 { r with done := r.done ||| 2 ^ slot }

/-- Pop. -/
def Ring.pop (r : Ring) : Ring := { r with tail := (r.tail + 1) % 2 ^ 16, filled := r.filled - 1, free := r.free + 1 }

/-- What a core has reserved and read on the ring that a ring register names: a core names a descriptor by one address, whichever register
holds it. -/
def Core.ringUse (k : Core) (rg : Nat) : RingUse := Sparse.get (fun _ => ⟨[], 0⟩) k.store.rings (k.ringAddr rg)

/-- A core with that replaced. -/
def Core.setRingUse (k : Core) (rg : Nat) (u : RingUse) : Core :=
  { k with store := { k.store with rings := Sparse.set (fun _ => ⟨[], 0⟩) k.store.rings (k.ringAddr rg) u } }

/-- The reads of a ring not yet popped, of every core that names it (R174). -/
def State.readsOf (s : State) (key : Nat) : Nat :=
  [(0 : DieId), 1].foldl
    (fun n d => (s.die d).cores.foldl
      (fun n e =>
        let c : CoreId := ⟨d, Fin.ofNat 128 e.1⟩
        e.2.store.rings.foldl (fun n u => if ringKey c u.1 = key then n + u.2.reads else n) n) n) 0

/-- The core's counter of ring reads that waited gains 1, once for each read that waits (R180): `mark` tells them apart. -/
def State.countRingWait (s : State) (mark : Nat) : State :=
  if s.me.wait = some (.ring mark) then s else s.setCur (s.cur.setReg 0x74 (s.cur.reg 0x74 + 1))

/-- Remember a read of the executing core. -/
def State.noteRead (s : State) (rg : Nat) : State :=
  let u := s.cur.ringUse rg
  s.setCur (s.cur.setRingUse rg { u with reads := u.reads + 1 })

/-- Every (core, register 0 to 3) that names a ring, for the crossbar's sources 12 to 19 (R381). -/
def State.namers (s : State) (key : Nat) : List (CoreId × Nat) :=
  ([(0 : DieId), 1].map fun d => ((s.die d).cores.map fun e =>
    let c : CoreId := ⟨d, Fin.ofNat 128 e.1⟩
    (List.range 4).filterMap fun rg => if e.2.ringValid rg && ringKey c (e.2.ringAddr rg) == key then some (c, rg) else none).flatten).flatten

end Sys2Proof.Machine
end

