-- ==== Sys2Proof/Machine/Crossbar.lean ====
section
/-!
DEFINITION. The event crossbar (R381 to R384), the flag file (R281), the checks of copy commands (R283, R284), and the instructions that
work on rings, flags and the crossbar: the ring forms of `qpush` and `qpop`, `flagadd`, `flagwait`, `evcfg`, `rcfg ring`.
-/

namespace Sys2Proof.Machine

/-! ## Copy commands: their registers and checks (R155, R283, R284) -/

/-- Fields of a command's registers (R283). -/
def CopyCmd.srcKind (c : CopyCmd) : Nat := field c.is 62 2
def CopyCmd.dstKind (c : CopyCmd) : Nat := field c.id 62 2
def CopyCmd.bytes (c : CopyCmd) : Nat := field c.ic 0 32 + 1
def CopyCmd.efmt (c : CopyCmd) : Nat := field c.ic 56 3
def CopyCmd.op (c : CopyCmd) : Nat := field c.ic 52 4
def CopyCmd.statusForm (c : CopyCmd) : Bool := bit c.ic 51
def CopyCmd.p (c : CopyCmd) : Nat := field c.ic 48 3
def CopyCmd.fstream (c : CopyCmd) : Option Nat := if bit c.ic 47 then some (field c.ic 41 6) else none
def CopyCmd.flag (c : CopyCmd) : Option Nat := if bit c.ic 40 then some (field c.ic 32 8) else none

/-- Bytes of an element of a bank operation's format (R155). -/
def bankBytes (f : Nat) : Nat := match f with | 2 => 8 | 4 => 2 | _ => 4

/-- The checks of a command when it is issued: R283, R284, and R175 for a ring destination. -/
def State.copyCheck (s : State) (c : CoreId) (m : CopyCmd) : Option FaultInfo :=
  let k := s.core c
  if m.srcKind = 3 then some (.ring (field m.is 0 4) Status.access (k.ringAddr (field m.is 0 4)))
  else if m.coll && (m.dstKind != 2 || decide (7 ≤ m.op) || decide (5 ≤ m.efmt) ||
      (decide (3 ≤ m.op) && decide (m.op ≤ 5) && decide (3 ≤ m.efmt)) || m.bytes % bankBytes m.efmt != 0) then
    some (.commons Status.access (field m.id 0 26))
  else if m.dstKind = 3 then
    let rg := field m.id 0 4
    match s.ring c rg with
    | .error st => some (.ring rg st (k.ringAddr rg))
    | .ok r => if !r.copyProducer c k ∨ m.bytes ≠ r.slotBytes then some (.ring rg Status.access (k.ringAddr rg)) else none
  else none

/-- Put a command into its core's queue (R157): the p register that it names waits to be written. -/
def State.enqueueCopy (s : State) (c : CoreId) (m : CopyCmd) : State :=
  let k := s.core c
  let k := { k with store := { k.store with
    copies := k.store.copies ++ [{ m with serial := s.nextOp }],
    copyLast := if m.p = 0 then k.store.copyLast else Sparse.set (fun _ => 0) k.store.copyLast m.p (s.nextOp + 1) } }
  let k := if m.p = 0 then k else k.setCluster .d (k.cd.addBusy [.p m.p])
  { s.setCore c k with nextOp := s.nextOp + 1 }

/-! ## Pulses wait in order (R381) -/

/-- A pulse of a source waits for a later cycle. -/
def State.deferPulse (s : State) (c : CoreId) (src : Nat) : State :=
  let k := s.core c
  s.setCore c { k with ex := { k.ex with deferred := k.ex.deferred ++ [src] } }

/-! ## Acts of targets (R383); the pulses that they cause come in a later cycle -/

/-- Add to a flag of a core's pipeline; flags 0 to 3 pulse sources 20 to 23 of every core of it. -/
def State.flagAdd (s : State) (c : CoreId) (flag : Nat) (v : BitVec 32) : State :=
  match s.gangOf c with
  | none => s
  | some g =>
    let f := Sparse.get (fun _ => (0 : BitVec 32)) g.flags flag
    let s := s.setGang { g with flags := Sparse.set (fun _ => 0) g.flags flag (f + v) }
    if flag < 4 then g.cores.foldl (fun s n => s.deferPulse (CoreId.ofIndex n) (20 + flag)) s else s

/-- Publish a slot of a ring, and pulse sources 12 to 15 of the cores that name it where the head advances. -/
def State.publishSlot (s : State) (c : CoreId) (r : Ring) (slot : Nat) : State :=
  let r' := r.publish slot
  let s := s.putRing c r'
  if r'.head = r.head then s else (s.namers (ringKey c r.addr)).foldl (fun s e => s.deferPulse e.1 (12 + e.2)) s

/-- Pop a ring, and pulse sources 16 to 19 of the cores that name it. -/
def State.popSlot (s : State) (c : CoreId) (r : Ring) : State :=
  (s.namers (ringKey c r.addr)).foldl (fun s e => s.deferPulse e.1 (16 + e.2)) (s.putRing c r.pop)

/-- An entry of the crossbar (R384). -/
def Core.ev (k : Core) (sel : Nat) : Word := Sparse.get (fun _ => 0) k.ex.entry sel

/-- A core with an entry of the crossbar written. -/
def Core.setEv (k : Core) (sel : Nat) (v : Word) : Core :=
  { k with ex := { k.ex with entry := Sparse.set (fun _ => 0) k.ex.entry sel v } }

/-- The command of a trigger slot, as if D had issued it (R383, R384). -/
def Core.slotCommand (k : Core) (n : Nat) : CopyCmd :=
  let w := k.ev (0x40 + 4 * n + 3)
  { id := k.ev (0x40 + 4 * n), is := k.ev (0x40 + 4 * n + 1), ic := k.ev (0x40 + 4 * n + 2), coll := bit w 0, acq := bit w 6, rel := bit w 5,
    scope := BitVec.ofNat 3 (field w 2 3), bulk := bit w 1, serial := 0, offset := 0, slot := none, restored := false, ringWait := false }

/-- A target that fails its checks posts an EX entry, parks no stream and has its `kind` set to 0 (R383). -/
def State.exFault (s : State) (c : CoreId) (t cause : Nat) : State :=
  let s := s.postNote ⟨c, .d⟩ { kind := 13, cause := cause }
  let k := s.core c
  s.setCore c (k.setEv (0x20 + t) (setField (k.ev (0x20 + t)) 48 4 0))

/-- The token queue of a target's arg (R383): the cluster that the token goes to, and whether it comes from its previous one. -/
def tokenTarget (arg : Nat) : Cluster × Bool :=
  match arg with
  | 0 => (.m, true) | 1 => (.v, true) | 2 => (.d, true) | 3 => (.a, true)
  | 4 => (.d, false) | 5 => (.a, false) | 6 => (.m, false) | _ => (.v, false)

/-- A target acts, or none where it cannot act at once (R383). -/
def State.exAct (s : State) (c : CoreId) (t : Nat) : Option State :=
  let k := s.core c
  let w := k.ev (0x20 + t)
  let arg := field w 0 16
  match field w 48 4 with
  | 1 =>
    let m := k.slotCommand (arg % 4)
    if 16 ≤ k.store.copies.length then none
    else if (m.acq || m.rel) != (m.scope != 0) then some (s.exFault c t 1)
    else match s.copyCheck c m with
      | some f => some (s.exFault c t (if f.kind = 5 then 2 else 1))
      | none => some (s.enqueueCopy c m)
  | 2 =>
    let (cl, prev) := tokenTarget arg
    let x := k.cluster cl
    if prev then (if 15 ≤ x.fromPrev + s.promised ⟨c, cl.prev⟩ signalsNext ClusterState.promisedNext then none else some (s.setCore c (k.setCluster cl { x with fromPrev := x.fromPrev + 1 })))
    else if 15 ≤ x.fromNext + s.promised ⟨c, cl.next⟩ signalsPrev ClusterState.promisedPrev then none else some (s.setCore c (k.setCluster cl { x with fromNext := x.fromNext + 1 }))
  | 3 => some (s.flagAdd c (arg % 256) 1)
  | 4 =>
    let rg := arg % 16
    match s.ring c rg with
    | .error _ => some (s.exFault c t 2)
    | .ok r =>
      let u := k.ringUse rg
      if arg / 16 % 2 = 0 then
        if !r.producer k then some (s.exFault c t 2)
        else match u.reserved with
          | [] => some s
          | e :: rest => some ((s.setCore c (k.setRingUse rg { u with reserved := rest })).publishSlot c r (e % 256))
      else if !r.consumer c k then some (s.exFault c t 2)
      else if u.reads = 0 then some s
      else some ((s.setCore c (k.setRingUse rg { u with reads := u.reads - 1 })).popSlot c r)
  | _ => some s

/-- A core's crossbar with the number of pending firings of a target replaced. -/
def Core.setPending (k : Core) (t n : Nat) : Core := { k with ex := { k.ex with pending := Sparse.set (fun _ => 0) k.ex.pending t n } }

/-- The pending firings of a target. -/
def Core.pendingOf (k : Core) (t : Nat) : Nat := Sparse.get (fun _ => 0) k.ex.pending t

/-- A target fires: it acts, or stays pending with up to 15 firings; a further one is discarded and counts in `ex_drop`. -/
def State.exFire (s : State) (c : CoreId) (t : Nat) : State :=
  let k := s.core c
  let n := k.pendingOf t
  if n = 0 then
    match s.exAct c t with
    | some s => s
    | none => s.setCore c (k.setPending t 1)
  else if n < 15 then s.setCore c (k.setPending t (n + 1))
  else s.setCore c (k.setReg 0x79 (k.reg 0x79 + 1))

/-! ## Counters, terms and targets (R382, R383) -/

/-- The counters that count a source: their new entries, and the counter outputs that pulse, as input bits 32 to 39. -/
def Core.exCount (k : Core) (src : Nat) : Core × BitVec 40 :=
  (List.range 8).foldl
    (fun (r : Core × BitVec 40) n =>
      let w := r.1.ev n
      let reload := field w 32 16
      if field w 48 5 = src ∧ reload ≠ 0 then
        let c := (field w 0 16 + 2 ^ 16 - 1) % 2 ^ 16
        if c = 0 then (r.1.setEv n (setField w 0 16 reload), r.2 ||| BitVec.ofNat 40 (2 ^ (32 + n)))
        else (r.1.setEv n (setField w 0 16 c), r.2)
      else r)
    (k, 0)

/-- A term latches the inputs that its mask selects, which are all that it has latches for; whether it fires, which clears them. -/
def Core.exTerm (k : Core) (inputs : BitVec 40) (n : Nat) : Core × Bool :=
  let w := k.ev (0x10 + n)
  let mask : BitVec 40 := w.setWidth 40
  let l := (Sparse.get (fun _ => (0 : BitVec 40)) k.ex.latch n ||| inputs) &&& mask
  let fires := if bit w 63 then decide (l = mask) && decide (mask ≠ 0) else decide (l ≠ 0)
  ({ k with ex := { k.ex with latch := Sparse.set (fun _ => 0) k.ex.latch n (if fires then 0 else l) } }, fires)

/-- Terms of a core take inputs, and the targets that those that fire drive act, in ascending index (R382, R383). -/
def State.exTerms (s : State) (c : CoreId) (inputs : BitVec 40) (terms : List Nat) : State :=
  let (k, fired) := terms.foldl (fun (r : Core × List Nat) n => let e := r.1.exTerm inputs n; (e.1, if e.2 then r.2 ++ [n] else r.2))
    (s.core c, [])
  (List.range 16).foldl
    (fun s t =>
      let w := (s.core c).ev (0x20 + t)
      if field w 48 4 ≠ 0 ∧ fired.contains (field w 32 3) then s.exFire c t else s)
    (s.setCore c k)

/-- Route one pulse of a source through a core's crossbar. -/
def State.routePulse (s : State) (c : CoreId) (src : Nat) : State :=
  let (k, outs) := (s.core c).exCount src
  (s.setCore c k).exTerms c (outs ||| BitVec.ofNat 40 (2 ^ src)) (List.range 8)

/-- A source pulses: at once, or behind a pulse of the same source that waits (R381). -/
def State.pulse (s : State) (c : CoreId) (src : Nat) : State :=
  if (s.core c).ex.deferred.contains src then s.deferPulse c src else s.routePulse c src

/-- `EX_DEFERRED_PULSE` (R381): the oldest pulse that waits is passed on. -/
def execExDeferredPulse (core : CoreId) (s : State) : Host.Outcome State Fault Refusal :=
  let k := s.core core
  match k.ex.deferred with
  | [] => .next s
  | src :: rest => .next ((s.setCore core { k with ex := { k.ex with deferred := rest } }).routePulse core src)

/-- `EX_PENDING_TARGET` (R383): a pending target acts once it can. -/
def execExPendingTarget (core : CoreId) (target : Fin 16) (s : State) : Host.Outcome State Fault Refusal :=
  let k := s.core core
  let n := k.pendingOf target.val
  if n = 0 ∨ s.stopping core then .next s
  else match (s.setCore core (k.setPending target.val (n - 1))).exAct core target.val with
    | some s => .next s
    | none => .next s

/-! ## `evcfg` (R255, R384) -/

/-- A selector names an entry and a value has no reserved field or code (R384). -/
def evLegal (sel : Nat) (v : Word) : Bool :=
  if sel < 8 then field v 53 11 == 0 && field v 16 16 == 0
  else if 0x10 ≤ sel ∧ sel < 0x18 then field v 40 23 == 0
  else if 0x20 ≤ sel ∧ sel < 0x30 then
    let arg := field v 0 16
    field v 52 12 == 0 && field v 35 13 == 0 && field v 16 16 == 0 &&
      (match field v 48 4 with
       | 0 => arg == 0 | 1 => decide (arg < 4) | 2 => decide (arg < 8) | 3 => decide (arg < 256) | 4 => decide (arg < 32) | _ => false)
  else if 0x40 ≤ sel ∧ sel < 0x50 then sel % 4 != 3 || field v 7 57 == 0
  else decide (0x50 ≤ sel) && decide (sel < 0x54)

/-- `evcfg` (R255): it writes one entry, or issues a software pulse. A term whose latches are set under what is written fires (R382). -/
def execEvcfg (sy a b : BitVec 5) (s : State) : Host.Outcome State Fault Refusal :=
  s.issue (.evcfg sy a b) fun s =>
    let sel := (s.x a.toNat).toNat
    let v := s.x b.toNat
    if !evLegal sel v then .fault (.illegal .csrAcc)
    else if 0x50 ≤ sel then .retire (s.pulse s.focus.core (24 + (sel - 0x50))) 0
    else
      let t := s.setCur (s.cur.setEv sel v)
      .retire (if 0x10 ≤ sel ∧ sel < 0x18 then t.exTerms s.focus.core 0 [sel - 0x10] else t) 0

/-! ## Ring forms of `qpush` and `qpop` (R275), `rcfg ring` (R278) -/

/-- A fault of a ring register of the executing core (R175). -/
def State.ringFault (s : State) (rg : Nat) (st : Status) : FaultInfo := .ring rg st (s.cur.ringAddr rg)

/-- The oldest slot that the executing cluster reserved on a ring register and has not published. -/
def State.oldestReserved (s : State) (rg : Nat) : Option Nat :=
  (s.cur.ringUse rg).reserved.find? fun e => decide (e / 256 = s.focus.cl.number)

/-- `qpush`, ring form (R275): publish, reserve, or both. A reserve that waits has issued: it has published already. -/
def execQpushRing (sy : BitVec 5) (q : BitVec 4) (a : BitVec 5) (s : State) : Host.Outcome State Fault Refusal :=
  s.issue (.qpushRing sy q a) fun s =>
    let c := s.focus.core
    let rg := q.toNat
    let w := (s.x a.toNat).toNat
    match s.ring c rg with
    | .error st => .fault (s.ringFault rg st)
    | .ok r =>
      if !r.producer s.cur then .fault (s.ringFault rg Status.access)
      else if s.mustWait s.focus (if w % 2 = 1 then 3 else 0) false false [] then .block .access
      else
        let s1 := if w % 2 = 1 ∧ !s.me.issued then
            (match s.oldestReserved rg with
             | some e =>
               let u := s.cur.ringUse rg
               (s.setCur (s.cur.setRingUse rg { u with reserved := u.reserved.erase e })).publishSlot c r (e % 256)
             | none => s)
          else s
        if w / 2 % 2 = 0 then .retire s1 0
        else match s1.ring c rg with
          | .error st => .fault (s.ringFault rg st)
          | .ok r =>
            if r.free = 0 then (if w % 2 = 1 then .begun s1 (.ring rg) else .block (.ring rg))
            else
              let (r', slot) := r.reserve
              let s2 := s1.putRing c r'
              let u := s2.cur.ringUse rg
              let s3 := s2.setCur (s2.cur.setRingUse rg { u with reserved := u.reserved ++ [slot + 256 * s.focus.cl.number] })
              .retire (s3.setX a.toNat (BitVec.ofNat 64 (r.slotAddr c slot))) 0

/-- `qpop`, ring form (R275): pop, read the next slot, or both. A read that waits has popped already. -/
def execQpopRing (sy : BitVec 5) (q : BitVec 4) (a : BitVec 5) (s : State) : Host.Outcome State Fault Refusal :=
  s.issue (.qpopRing sy q a) fun s =>
    let c := s.focus.core
    let rg := q.toNat
    let w := (s.x a.toNat).toNat
    match s.ring c rg with
    | .error st => .fault (s.ringFault rg st)
    | .ok r =>
      if !r.consumer c s.cur then .fault (s.ringFault rg Status.access)
      else if s.mustWait s.focus (if w % 2 = 1 then 3 else 0) (w / 2 % 2 == 1) false [] then .block .access
      else
        let u := s.cur.ringUse rg
        let s1 := if w % 2 = 1 ∧ u.reads ≠ 0 ∧ !s.me.issued then (s.setCur (s.cur.setRingUse rg { u with reads := u.reads - 1 })).popSlot c r else s
        if w / 2 % 2 = 0 then .retire s1 0
        else match s1.ring c rg with
          | .error st => .fault (s.ringFault rg st)
          | .ok r =>
            let k := s1.readsOf (ringKey c r.addr)
            if r.filled ≤ k then
              let s2 := s1.countRingWait rg
              if w % 2 = 1 then .begun s2 (.ring rg) else .await s2 (.ring rg)
            else .retire ((s1.noteRead rg).setX a.toNat (BitVec.ofNat 64 (r.slotAddr c (r.tail + k)))) 0

/-- The fields that a ring register keeps (R174, R5). -/
def rgMask (w : Word) : Word := BitVec.ofNat 64 (field w 63 1 * 2 ^ 63 + field w 0 32)

/-- `rcfg ring` (R278): a ring register is checked only when it is used. -/
def execRcfgRing (sy : BitVec 5) (n : BitVec 4) (a : BitVec 5) (s : State) : Host.Outcome State Fault Refusal :=
  s.issue (.rcfgRing sy n a) fun s =>
    let k := s.cur
    .retire (s.setCur { k with regs := { k.regs with rg := Sparse.set (fun _ => 0) k.regs.rg n.toNat (rgMask (s.x a.toNat)) } }) 0

/-! ## Flags of the pipeline (R281) -/

/-- A flag of the executing core's pipeline; a core of no pipeline reads 0. -/
def State.flagOf (s : State) (flag : Nat) : BitVec 32 :=
  match s.gangOf s.focus.core with
  | some g => Sparse.get (fun _ => 0) g.flags flag
  | none => 0

/-- `flagadd` (R281): a release at `.pl`, then the add. -/
def execFlagadd (sy : BitVec 5) (f : BitVec 8) (a : BitVec 5) (s : State) : Host.Outcome State Fault Refusal :=
  s.issue (.flagadd sy f a) fun s =>
    if s.mustWait s.focus 3 false false [] then .block .access
    else .retire (s.flagAdd s.focus.core f.toNat ((s.x a.toNat).setWidth 32)) 0

/-- The tests of `flagwait` (R281). -/
def flagTest (t : Nat) (f v : BitVec 32) : Bool :=
  match t with
  | 0 => f == v
  | 1 => f != v
  | 2 => v.toNat ≤ f.toNat
  | _ => decide ((f - v).toNat < 2 ^ 31)

/-- `flagwait` (R281): it waits until the flag passes, then acquires at `.pl`; as an acquire it follows the stream's earlier acquires and
releases (R353). -/
def execFlagwait (sy : BitVec 5) (f : BitVec 8) (a : BitVec 5) (t : BitVec 3) (s : State) : Host.Outcome State Fault Refusal :=
  s.issue (.flagwait sy f a t) fun s =>
    if s.mustWait s.focus 0 true false [] then .block .access
    else if flagTest t.toNat (s.flagOf f.toNat) ((s.x a.toNat).setWidth 32) then .retire s 0 else .block (.flag f.toNat)

end Sys2Proof.Machine
end

