-- ==== Sys2Proof/Machine/Copy.lean ====
section
/-!
DEFINITION. The copy engine (R157 to R164, R283 to R285), the Commons' bank operations (R155, R156, R286) and the four steps of a command.
One line of a command is in flight at a time (log 4).
-/

namespace Sys2Proof.Machine

/-! ## Bank operations (R155) -/

/-- op(e, y) on one element of a format. -/
def bankOp (fmt op e y : Nat) : Nat :=
  if fmt < 3 then
    let bits := 8 * bankBytes fmt
    let less := fun (a b : Nat) => if fmt = 0 then decide (a < b) else decide (signed bits a < signed bits b)
    match op with
    | 0 => (e + y) % 2 ^ bits
    | 1 => if less y e then y else e
    | 2 => if less e y then y else e
    | 3 => e &&& y
    | 4 => e ||| y
    | 5 => e ^^^ y
    | _ => y
  else
    let f := if fmt = 3 then fp32 else bf16
    let a := f.decode e
    let b := f.decode y
    match op with
    | 0 => (f.rnd 0 0 false false (a.add b).1).1
    | 1 => if a.isNan || b.isNan then f.nanCode else if a.lt b then e else y
    | 2 => if a.isNan || b.isNan then f.nanCode else if b.lt a then e else y
    | _ => y

/-- The elements of a span of bytes. -/
def elements (fmt : Nat) (bs : List Byte) (n : Nat) : List Nat :=
  (List.range n).map fun i => bytesAt bs (bankBytes fmt * i) (bankBytes fmt)

/-- Every element combined with its operand: the bytes of the span afterwards. -/
def bankUpdate (fmt op : Nat) (bs : List Byte) (ys : List Nat) : List Byte :=
  ((elements fmt bs ys.length).zip ys).flatMap fun p => bytesOf (bankBytes fmt) (bankOp fmt op p.1 p.2)

/-- The fold of a reduce, from left to right. -/
def bankReduce (fmt op : Nat) : List Nat → Nat
  | [] => 0
  | e :: t => t.foldl (fun a y => bankOp fmt op a y) e

/-- The checks of a span operand in the scratchpad or a Commons: natural alignment to its element. -/
def State.spanCheck (s : State) (a n size : Nat) (store : Bool) : Option FaultInfo :=
  if spaceOf a = 0 then (s.cur.spadCheck a n size store).map fun st => FaultInfo.spad st a
  else
    match s.cur.commonsCheck a n 0 with
    | some st => some (.commons st a)
    | none => if a % 2 ^ 26 % size ≠ 0 then some (.commons Status.access a) else none

/-- The checks of `bop`'s own span (R156, R286). An operand of space 0b00, for which R155 names no fault, raises a Commons fault with cause
ACCESS (log 88). -/
def State.bopCheck (s : State) (a n size : Nat) (counted : Bool) : Option FaultInfo :=
  if spaceOf a = 0 ∨ spaceOf a = 3 ∨ a / 2 ^ 26 % 16 ≠ 0 then some (.commons Status.access a)
  else if counted && (n == 0 || decide (65536 < n * size)) then some (.commons Status.bounds a)
  else s.spanCheck a (n * size) size true

/-- `bop` (R286): every element is checked before any is changed; it completes without a status. -/
def execBop (sy d : BitVec 5) (r : BitVec 4) (k : BitVec 2) (o : BitVec 4) (f : BitVec 3) (s : State) :
    Host.Outcome State Fault Refusal :=
  s.issue (.bop sy d r k o f) fun s =>
    let c := s.focus.core
    let w := s.x (2 * r.toNat)
    let a := field w 0 32
    let x := s.x (2 * r.toNat + 1)
    let fmt := f.toNat
    let size := bankBytes fmt
    let n := if k = 0 then 1 else field w 32 18
    match s.bopCheck a n size (k != 0) with
    | some g => s.untransFault g
    | none =>
      if s.acquiring then .block .access
      else
        let es := s.untransRead c a (n * size)
        let xv := x.toNat % 2 ^ (8 * size)
        if k = 0 then
          let e := bytesAt es 0 size
          let v := if o = 7 then (if e = xv then (s.x d.toNat).toNat % 2 ^ (8 * size) else e) else bankOp fmt o.toNat e xv
          .retire ((s.untransWrite c a (bytesOf size v)).setX d.toNat (BitVec.ofNat 64 e)) 0
        else if k = 1 then .retire (s.untransWrite c a (bankUpdate fmt o.toNat es (List.replicate n xv))) 0
        else if k = 2 then
          let ya := field x 0 32
          match s.spanCheck ya (n * size) size false with
          | some g => s.untransFault g
          | none =>
            (s.untransReady ya (n * size)).andThen 0 fun s =>
              .retire (s.untransWrite c a (bankUpdate fmt o.toNat es (elements fmt (s.untransRead c ya (n * size)) n))) 0
        else .retire (s.setX d.toNat (BitVec.ofNat 64 (bankReduce fmt o.toNat (elements fmt es n)))) 0

/-! ## `cpy`, `coll`, `cpyw`, `cpyq` (R283 to R285) -/

/-- Issue a command of D: its checks, then a place in the core's queue of 16 (R157). -/
def copyBody (d i c : Nat) (coll q l b : Bool) (o : BitVec 3) (s : State) : Eff :=
  let m : CopyCmd := { id := s.x d, is := s.x i, ic := s.x c, coll := coll, acq := q, rel := l, scope := o, bulk := b, serial := 0,
                       offset := 0, slot := none, restored := false, ringWait := false }
  match s.copyCheck s.focus.core m with
  | some f => s.untransFault f
  | none => if 16 ≤ s.cur.store.copies.length then .block .copyQueue else .retire (s.enqueueCopy s.focus.core m) 0

/-- `cpy` (R283). -/
def execCpy (sy : BitVec 5) (d i c : BitVec 4) (q l : BitVec 1) (o : BitVec 3) (b : BitVec 1) (s : State) :
    Host.Outcome State Fault Refusal :=
  s.issue (.cpy sy d i c q l o b) (copyBody d.toNat i.toNat c.toNat false (q == 1) (l == 1) (b == 1) o)

/-- `coll` (R284). -/
def execColl (sy : BitVec 5) (d i c : BitVec 4) (q l : BitVec 1) (o : BitVec 3) (b : BitVec 1) (s : State) :
    Host.Outcome State Fault Refusal :=
  s.issue (.coll sy d i c q l o b) (copyBody d.toNat i.toNat c.toNat true (q == 1) (l == 1) (b == 1) o)

/-- The channel of a core (R157). -/
def channelOf (core : Nat) : Nat := core % 32

/-- A copy channel of a die. -/
def Die.channel (d : Die) (ch : Nat) : Channel := Sparse.get (fun _ => Channel.reset) d.channels ch

/-- A die with a copy channel replaced. -/
def Die.setChannel (d : Die) (ch : Nat) (v : Channel) : Die := { d with channels := Sparse.set (fun _ => Channel.reset) d.channels ch v }

/-- The command in a slot. -/
def Channel.slot (c : Channel) (n : Nat) : Option SlotCmd := Sparse.get (fun _ => none) c.slots n

/-- A channel with a slot replaced. -/
def Channel.setSlot (c : Channel) (n : Nat) (v : Option SlotCmd) : Channel := { c with slots := Sparse.set (fun _ => none) c.slots n v }

/-- The commands of a core in channel slots (R285). -/
def State.inSlots (s : State) (c : CoreId) : List SlotCmd :=
  ((s.die c.die).channel (channelOf c.core.val)).slots.filterMap fun e =>
    match e.2 with
    | some x => if x.core = c.core.val then some x else none
    | none => none

/-- Every command of a core that has not completed. -/
def State.commands (s : State) (c : CoreId) : List CopyCmd := (s.inSlots c).map (·.cmd) ++ (s.core c).store.copies

/-- `cpyw` (R285): it waits for the latest earlier command that named p, or for every one; then a plain command's failure is raised. -/
def execCpyw (sy : BitVec 5) (p : BitVec 3) (s : State) : Host.Outcome State Fault Refusal :=
  s.issue (.cpyw sy p) fun s =>
    let c := s.focus.core
    let latest := Sparse.get (fun _ => 0) s.cur.store.copyLast p.toNat
    if (s.commands c).any fun m => p == 0 || (m.p == p.toNat && m.serial + 1 == latest) then .block .copyWait
    else
      let k := s.cur
      match k.store.copyFaults.find? fun f => p == 0 || f.p == p.toNat with
      | some f => .abort (s.setCur { k with store := { k.store with copyFaults := k.store.copyFaults.erase f } }) (.remote f.st f.addr)
      | none => .retire s 0

/-- `cpyq` (R285). -/
def execCpyq (sy : BitVec 5) (d : BitVec 4) (s : State) : Host.Outcome State Fault Refusal :=
  s.issue (.cpyq sy d) fun s =>
    .retire (s.setX d.toNat (BitVec.ofNat 64 (s.cur.store.copies.length + 256 * (s.inSlots s.focus.core).length))) 0

/-! ## Starting a command (R157, R160, R162) -/

/-- The lowest free slot of the eight of a channel. -/
def Channel.freeSlot (c : Channel) : Option Nat := (List.range 8).find? fun n => (c.slot n).isNone

/-- What the command at the head of a core's queue can do: nothing yet, wait for its ring, end at once with a status, or start. -/
inductive StartCheck where
  | no
  | ringFull
  | ends (st : Status)
  | go (ring : Option Ring)
  deriving DecidableEq, Repr

/-- Whether the command at the head of a core's queue can start: an acquire waits for the D stream's earlier accesses, at `.sys` also for the
write-throughs that are ordered before them (R160, R359, R42); a ring destination for a free slot (R162); a ring check that fails ends the
command (R175). -/
def State.startCheck (s : State) (c : CoreId) : StartCheck :=
  match (s.core c).store.copies with
  | [] => .no
  | m :: _ =>
    if s.stopping c then .no
    else if m.acq && !m.restored && (!(s.unperformed ⟨c, .d⟩).isEmpty || (m.scope == 7 && s.pendingWrites)) then .no
    else if m.dstKind = 3 && m.slot.isNone then
      match s.ring c (field m.id 0 4) with
      | .error st => .ends st
      | .ok r =>
        if !r.copyProducer c (s.core c) ∨ m.bytes ≠ r.slotBytes then .ends Status.access
        else if r.free = 0 then .ringFull else .go (some r)
    else .go none

/-- Take the command at the head of a core's queue into a slot, reserving its ring slot. -/
def State.startCommand (s : State) (c : CoreId) (slot : Nat) (st : Status) (ring : Option Ring) : State :=
  let k := s.core c
  match k.store.copies with
  | [] => s
  | m :: rest =>
    let s := s.setCore c { k with store := { k.store with copies := rest } }
    let (s, m) := match ring with
      | some r => let (r', n) := r.reserve; (s.putRing c r', { m with slot := some n })
      | none => (s, m)
    let d := s.die c.die
    let ch := d.channel (channelOf c.core.val)
    let x : SlotCmd := { core := c.core.val, cmd := m, ring := k.ringAddr (field m.id 0 4), line := none, lineLen := 0, writing := false,
                         status := st, stopped := none, mapLine := none, circuit := none, index := 0, first := m.offset }
    s.setDie c.die (d.setChannel (channelOf c.core.val) (ch.setSlot slot (some x)))

/-- The four cores of a channel, from the round-robin position on (R157). -/
def Channel.order (c : Channel) (ch : Nat) : List (Nat × Nat) := (List.range 4).map fun i => ((c.next + i) % 4, ch + 32 * ((c.next + i) % 4))

/-- Mark the head of a core's queue as waiting for its full ring, once (R162, R166). -/
def State.markRingWait (s : State) (c : CoreId) : State :=
  let k := s.core c
  match k.store.copies with
  | m :: rest =>
    if m.ringWait then s
    else (s.setCore c { k with store := { k.store with copies := { m with ringWait := true } :: rest } }).count c.die 0x197
  | [] => s

/-- The core of a channel whose turn it is, with its place among the four: the next in the round-robin whose head can start or ends (R157). -/
def State.nextStart (s : State) (die : DieId) (ch : Nat) : Option (Nat × Nat) :=
  (((s.die die).channel ch).order ch).find? fun e =>
    match s.startCheck ⟨die, Fin.ofNat 128 e.2⟩ with | .go _ => true | .ends _ => true | _ => false

/-- The channel starts the command at the head of a core's queue, and its round-robin goes on behind the core (R157). -/
def State.startHead (s : State) (die : DieId) (ch slot : Nat) (e : Nat × Nat) : State :=
  let id : CoreId := ⟨die, Fin.ofNat 128 e.2⟩
  let s := match s.startCheck id with
    | .go r => s.startCommand id slot Status.ok r
    | .ends st => s.startCommand id slot st none
    | _ => s
  s.setDie die ((s.die die).setChannel ch { (s.die die).channel ch with next := (e.1 + 1) % 4 })

/-- `CE_COMMAND_START` (R157): the channel starts the next ready command, round-robin; a head whose ring is full waits. -/
def execCeCommandStart (die : DieId) (ch : Fin 32) (s : State) : Host.Outcome State Fault Refusal :=
  let c := (s.die die).channel ch.val
  match c.freeSlot with
  | none => .next s
  | some slot =>
    let s := (c.order ch.val).foldl
      (fun s e => if s.startCheck ⟨die, Fin.ofNat 128 e.2⟩ = .ringFull then s.markRingWait ⟨die, Fin.ofNat 128 e.2⟩ else s) s
    match s.nextStart die ch.val with
    | none => .next s
    | some e => .next (s.startHead die ch.val slot e)

/-- `CE_RING_WAIT_END` (R162): a command that waited on a full ring starts once the ring's free count is not zero, in its core's turn
(R157). -/
def execCeRingWaitEnd (core : CoreId) (s : State) : Host.Outcome State Fault Refusal :=
  let ch := channelOf core.core.val
  match (s.core core).store.copies, ((s.die core.die).channel ch).freeSlot, s.startCheck core, s.nextStart core.die ch with
  | m :: _, some slot, .go (some _), some e =>
    if m.ringWait ∧ e.2 = core.core.val then .next (s.startHead core.die ch slot e) else .next s
  | _, _, _, _ => .next s

/-! ## Lines (R159) -/

/-- The core of a slot's command. -/
def SlotCmd.owner (x : SlotCmd) (d : DieId) : CoreId := ⟨d, Fin.ofNat 128 x.core⟩

/-- Replace the command in a slot of a die. -/
def State.setSlotCmd (s : State) (d : DieId) (ch slot : Nat) (x : Option SlotCmd) : State :=
  s.setDie d ((s.die d).setChannel ch (((s.die d).channel ch).setSlot slot x))

/-- The first byte of a command's source or destination in its own space. -/
def CopyCmd.srcBase (m : CopyCmd) : Nat := if m.srcKind = 0 then field m.is 0 48 else field m.is 0 26
def CopyCmd.dstBase (m : CopyCmd) : Nat := if m.dstKind = 0 then field m.id 0 48 else field m.id 0 26

/-- The untranslated address of a ring destination's slot (R173). -/
def State.copySlotAddr (s : State) (c : CoreId) (x : SlotCmd) : Nat :=
  match s.ringAt c x.ring, x.cmd.slot with
  | .ok r, some n => r.slotAddr c n
  | _, _ => 0

/-- Where a command's destination starts. -/
def State.copyDst (s : State) (c : CoreId) (x : SlotCmd) : Nat :=
  if x.cmd.dstKind = 3 then s.copySlotAddr c x % 2 ^ 26 else x.cmd.dstBase

/-! ### Overlap (R159) -/

/-- A run of bytes where they are stored: the local memory of die n (2n), its Commons (2n + 1), or the scratchpad of a core (1024 + its
index). -/
structure Place where
  store : Nat
  first : Nat
  len : Nat
  deriving DecidableEq, Repr

/-- Where the bytes at an untranslated address of a core are stored. -/
def State.untransPlace (s : State) (c : CoreId) (a n : Nat) : Place :=
  if spaceOf a = 0 then ⟨1024 + c.index, a % 2 ^ 26, n⟩ else ⟨2 * s.dieNum (commonsDie c.die a) + 1, a % 2 ^ 26, n⟩

/-- Where the bytes of a virtual range are stored, page by page; a page that has no translation holds none of them. Where a page's tables lie
on another package, what the walk that looks for it has found is used, or, with a state, the walk starts and is waited for; nothing else of
the state changes. -/
def State.virtualPlaces (s : State) (c : CoreId) (who : Asker) (va n : Nat) : List Nat → Except State (List Place)
  | [] => .ok []
  | i :: t =>
    let a := max va ((va / 4096 + i) * 4096)
    match s.translate c who ((s.core c).reg 0x40).toNat a false true with
    | (s', .need) => .error s'
    | (_, r) =>
      match State.virtualPlaces s c who va n t with
      | .ok l => (match r with
        | .ok e => let p := s.place c.die e a; .ok (⟨2 * p.1, p.2, min (va + n) ((va / 4096 + i + 1) * 4096) - a⟩ :: l)
        | _ => .ok l)
      | e => e

/-- The pages that n bytes from a virtual address touch, counted from the first. -/
def pageCount (va n : Nat) : Nat := (va + n + 4095) / 4096 - va / 4096

/-- Where a command's source is stored, and where n bytes from its offset on of its destination are. -/
def State.srcPlaces (s : State) (c : CoreId) (x : SlotCmd) (slot : Nat) : Except State (List Place) :=
  let m := x.cmd
  match m.srcKind with
  | 0 => s.virtualPlaces c (.source slot m.serial) m.srcBase m.bytes (List.range (pageCount m.srcBase m.bytes))
  | 1 => .ok [⟨1024 + c.index, m.srcBase, m.bytes⟩]
  | _ => .ok [⟨2 * field m.is 40 9 + 1, m.srcBase, m.bytes⟩]

def State.dstPlaces (s : State) (c : CoreId) (x : SlotCmd) (slot n : Nat) : Except State (List Place) :=
  let m := x.cmd
  let a := m.dstBase + m.offset
  match m.dstKind with
  | 0 => s.virtualPlaces c (.line slot m.offset true) a n (List.range (pageCount a n))
  | 1 => .ok [⟨1024 + c.index, a, n⟩]
  | 2 => .ok [⟨2 * field m.id 40 9 + 1, a, n⟩]
  | _ => .ok [s.untransPlace c (s.copySlotAddr c x + m.offset) n]

/-- The bytes of the next line of a command that lie in its source range, by their place in the line (R159); or the walks that have to end
before that is known. Only where both are domain memory, or neither is, can they share bytes. -/
def State.overlapOf (s : State) (c : CoreId) (x : SlotCmd) (slot n : Nat) : Except State (Nat → Bool) :=
  if (x.cmd.srcKind == 0) != (x.cmd.dstKind == 0) then .ok fun _ => false
  else match s.dstPlaces c x slot n, s.srcPlaces c x slot with
  | .ok [d], .ok src => .ok fun i => src.any fun p => decide (p.store = d.store ∧ p.first ≤ d.first + i ∧ d.first + i < p.first + p.len)
  | .ok _, .ok _ => .ok fun _ => false
  | .error s, _ => .error s
  | _, .error s => .error s

/-- What a side of a line answers; `walk` waits for another package's tables, `wait` for the map unit. -/
inductive Side where
  | data (s : State) (bs : List Byte)
  | op (s : State) (id : Nat)
  | status (s : State) (st : Status)
  | fault (s : State) (kind cause addr : Nat)
  | wait (s : State) (line : Option Nat)
  | walk (s : State)

/-- An operation of a copy command: it belongs to no program order (R359). A command that uses circuits reads a source on another die over
them too, where there are any to that die: R140 names the destination's alone (log 87). -/
def copyOp (s : State) (c : CoreId) (x : SlotCmd) (n : Nat) (req : Req) (data : Memory) (ps : List Part) : Op :=
  { Op.empty ⟨c, .d⟩ with engine := true, plain := false, dest := .copy, size := n, req := req, data := data, parts := ps,
                          asid := ((s.core c).reg 0x40).toNat, circ := if x.circuit = some true then some x.index else none }

/-- A list of bytes as an operation's buffer. -/
def bufferOf (bs : List Byte) : Memory := bs.zipIdx.foldl (fun m e => writeByte m e.2 e.1) []

/-- Start an operation of a copy command. -/
def State.startCopyOp (s : State) (o : Op) : Side :=
  let (s, id) := s.addOp o
  let s := s.performOp id
  match s.op? id with
  | some o => if o.performed then
      (if o.status = Status.ok then .data (s.dropOp id) (readBytes o.data 0 o.size) else .status (s.dropOp id) o.status)
    else .op s id
  | none => .op s id

/-- The part of a line that lies in a Commons of the domain (R158), by die number: none where the number names no die. -/
def State.commonsPart (s : State) (c : CoreId) (die off n : Nat) (fs : Option Nat) : Option (Sum DieId Part) :=
  if !s.inDomain c.die die then none
  else match s.ownDie die with
    | some d => some (.inl d)
    | none => some (.inr { die := die, com := true, addr := off, off := 0, len := n, segs := [], order := 1, inc := s.peer c.die die, va := off,
                           rep := off, fs := fs, st := .todo })

/-- The alignment that R168 asks of a line of n bytes in the scratchpad. -/
def lineAlign (n : Nat) : Nat := if n = 1 ∨ n = 2 ∨ n = 4 ∨ n = 8 then n else if 16 ≤ n then 16 else 1

/-- Bytes of the core's scratchpad for a line: its checks (R168), its region lines ready (R170), then what is done with them. -/
def State.copySpad (s : State) (c : CoreId) (x : SlotCmd) (slot a n : Nat) (store : Bool) (f : State → Side) : Side :=
  match (s.core c).spadCheck (a % 2 ^ 32) n (lineAlign n) store with
  | some st => .fault s 3 st.toNat a
  | none =>
    match State.readyLines ⟨⟨c, .d⟩, true, .line slot x.cmd.offset store⟩ s (linesOf a n) with
    | .ok s => f s
    | .wait s l => .wait s (some l)
    | .later s => .wait s none
    | .fault s cause va => .fault s 1 cause va
    | .failed s st _ => .status s st
    | .need s _ => .walk s

/-- Read n bytes of the source (R158, R162, R168). -/
def State.copyRead (s : State) (c : CoreId) (x : SlotCmd) (slot n : Nat) : Side :=
  let m := x.cmd
  let a := m.srcBase + m.offset
  match m.srcKind with
  | 0 =>
    match s.plan c (.line slot m.offset false) ((s.core c).reg 0x40).toNat false true (fun _ => none) (pieces a n) with
    | (s, .fault cause va) => .fault s 1 cause va
    | (s, .need _) => .walk s
    | (s, .ok ps) => s.startCopyOp (copyOp s c x n .read [] ps)
  | 1 => s.copySpad c x slot a n false fun s => .data s (s.spadRead c a n)
  | _ =>
    match s.commonsPart c (field m.is 40 9) a n none with
    | none => .status s Status.access
    | some p =>
      if !(s.core c).inWindow a n then .fault s 4 Status.bounds.toNat a
      else match p with
        | .inl d => .data s (readBytes (s.die d).commons a n)
        | .inr p => s.startCopyOp (copyOp s c x n .read [] [p])

/-- A line performed where it is issued, on a die of the package: it counts in the stream that the command names, whose generation is
compared first (R132, R133, R158). -/
def State.localLine (s : State) (c : CoreId) (m : CopyCmd) (t : DieId) (f : State → State) : Side :=
  match m.fstream with
  | none => .data (f s) []
  | some n =>
    let (s, take) := (s.issueCounted c.die n).adopt t (s.dieNum c.die) n (s.source c.die n).gen
    if take then .data ((f s).countWrite t (s.dieNum c.die) n (s.source c.die n).phase) [] else .status s Status.timeout

/-- Combine or replace bytes of a Commons: a `coll` updates elements (R284). -/
def CopyCmd.combine (m : CopyCmd) (old bs : List Byte) : List Byte :=
  if m.coll then bankUpdate m.efmt m.op old (elements m.efmt bs (bs.length / bankBytes m.efmt)) else bs

/-- Write the bytes of a line to the destination. -/
def State.copyWrite (s : State) (c : CoreId) (x : SlotCmd) (slot : Nat) (bs : List Byte) : Side :=
  let m := x.cmd
  let a := s.copyDst c x + m.offset
  let n := bs.length
  match m.dstKind with
  | 0 =>
    let fs := fun (_ : Nat) => m.fstream
    match s.plan c (.line slot m.offset true) ((s.core c).reg 0x40).toNat true true fs (pieces a n) with
    | (s, .fault cause va) => .fault s 1 cause va
    | (s, .need _) => .walk s
    | (s, .ok ps) => s.startCopyOp (copyOp s c x n .write (bufferOf bs) ps)
  | 1 => s.copySpad c x slot a n true fun s => s.localLine c m c.die fun s => s.spadWrite c a bs
  | 2 =>
    match s.commonsPart c (field m.id 40 9) a n m.fstream with
    | none => .status s Status.access
    | some p =>
      if !(s.core c).inWindow a n then .fault s 4 Status.bounds.toNat a
      else match p with
        | .inl d =>
          s.localLine c m d fun s =>
            let y := s.die d
            s.setDie d { y with commons := writeBytes y.commons a (m.combine (readBytes y.commons a n) bs) }
        | .inr p => s.startCopyOp (copyOp s c x n (if m.coll then .bank m.efmt m.op else .write) (bufferOf bs) [p])
  | _ =>
    let b := s.copySlotAddr c x + m.offset
    if spaceOf b = 0 then s.copySpad c x slot a n true fun s => s.localLine c m c.die fun s => s.spadWrite c a bs
    else s.localLine c m (commonsDie c.die b) fun s => s.untransWrite c b bs

/-- A line is done: the offset moves on, and the line counts in `ce_lines`. -/
def State.lineEnd (s : State) (d : DieId) (ch slot : Nat) (x : SlotCmd) (n : Nat) : State :=
  (s.setSlotCmd d ch slot (some { x with cmd := { x.cmd with offset := x.cmd.offset + n }, line := none, writing := false, lineLen := 0,
                                         mapLine := none, index := x.index + 1 })).count d 0x196

/-- A line stops its command with a fault: a CE entry is posted, and the command holds its slot (R162); a Commons fault counts (R166). Where it
was to be its first line, its fabric is not chosen yet (R139). -/
def State.lineFault (s : State) (d : DieId) (ch slot : Nat) (x : SlotCmd) (kind cause addr : Nat) : State :=
  let s := if kind = 4 then s.count d 0x195 else s
  let seq := (s.die d).faults.next
  let s := s.setSlotCmd d ch slot (some { x with line := none, writing := false, stopped := some seq.toNat,
                                                  circuit := if x.cmd.offset = x.first then none else x.circuit })
  s.postNote ⟨x.owner d, .d⟩ { kind := 12, cause := kind * 16 + cause, addr := addr, reg := slot, aux := x.cmd.offset }

/-- Write a line that has been read: unspecified bytes where source and destination overlap (R159). The operation that has read it from
another package is kept until the write goes. -/
def State.lineWrite (s : State) (d : DieId) (ch slot : Nat) (x : SlotCmd) (bs : List Byte) : State :=
  let drop := fun (s : State) => match x.line with | some id => s.dropOp id | none => s
  match s.overlapOf (x.owner d) x slot bs.length with
  | .error s => s.setSlotCmd d ch slot (some x)
  | .ok blurred =>
  let bs' := bs.zipIdx.map fun e => if blurred e.2 then Config.freeByte (s.fresh + e.2) else e.1
  let s := { s with fresh := s.fresh + bs.length }
  match s.copyWrite (x.owner d) x slot bs' with
  | .walk s => s.setSlotCmd d ch slot (some x)
  | .data s _ => (drop s).lineEnd d ch slot x bs.length
  | .op s id => (drop s).setSlotCmd d ch slot (some { x with line := some id, writing := true, lineLen := bs.length })
  | .status s st => (drop s).setSlotCmd d ch slot (some { x with line := none, writing := false, status := st })
  | .fault s kind cause addr => (drop s).lineFault d ch slot x kind cause addr
  | .wait s l => s.setSlotCmd d ch slot (some { x with mapLine := l })

/-- The length of the next line: up to a 128-byte boundary of the destination (R159). The lines of a `coll` hold whole elements: where its
destination is not aligned to them, a line ends with the element that crosses the boundary (log 60). -/
def State.lineLength (s : State) (c : CoreId) (x : SlotCmd) : Nat :=
  let m := x.cmd
  let skew := if m.coll then m.dstBase % bankBytes m.efmt else 0
  min (128 - (s.copyDst c x + m.offset - skew) % 128) (m.bytes - m.offset)

/-- What the choice of a command's fabric answers: the choice, a wait for a walk, or the translation fault of its first line. -/
inductive Fabric where
  | chosen (s : State) (x : SlotCmd)
  | walk (s : State)
  | fault (s : State) (cause va : Nat)

/-- The fabric of a command, chosen at its first line, and again at the first line after a restore, whose record holds none (log 87): circuits
where the destination's die has one and the command is bulk (R139). The destination of that line is translated then, before its source is
read. -/
def State.chooseFabric (s : State) (d : DieId) (slot : Nat) (x : SlotCmd) : Fabric :=
  let c := x.owner d
  let m := x.cmd
  if x.circuit.isSome then .chosen s x
  else
    let x := { x with index := (s.copyDst c x % 128 + m.offset) / 128 }
    let toDie := fun (s : State) (n : Nat) => Fabric.chosen s { x with circuit := some (!(s.circuits d n).isEmpty) }
    if m.bulk || decide (field (s.dieReg d 0x119) 0 32 ≤ m.bytes) then
      match m.dstKind with
      | 0 =>
        let va := m.dstBase + m.offset
        (match s.translate c (.line slot m.offset true) ((s.core c).reg 0x40).toNat va true true with
         | (s, .ok e) => toDie s (s.place c.die e va).1
         | (s, .need) => .walk s
         | (s, .fault cause) => .fault s cause va)
      | 2 => toDie s (field m.id 40 9)
      | _ => .chosen s { x with circuit := some false }
    else .chosen s { x with circuit := some false }

/-- `CE_LINE_COMPLETE` (R159): the next line of a command is read and written; where its bytes cross the torus, the step is taken again
when they have arrived. -/
def execCeLineComplete (die : DieId) (ch : Fin 32) (slot : Fin 8) (s : State) : Host.Outcome State Fault Refusal :=
  match ((s.die die).channel ch.val).slot slot.val with
  | none => .next s
  | some x =>
    if x.stopped.isSome ∨ (x.line.isNone ∧ (x.status ≠ Status.ok ∨ x.cmd.bytes ≤ x.cmd.offset ∨ s.stopping (x.owner die))) then .next s
    else match x.line with
      | some id =>
        (match s.op? id with
         | none => .next s
         | some o =>
           if !o.performed then .next s
           else
             let st := if x.status = Status.ok then o.status else x.status
             if st ≠ Status.ok then
               .next ((s.dropOp id).setSlotCmd die ch.val slot.val (some { x with line := none, writing := false, status := st }))
             else if x.writing then .next ((s.dropOp id).lineEnd die ch.val slot.val x x.lineLen)
             else .next (s.lineWrite die ch.val slot.val x (readBytes o.data 0 o.size)))
      | none =>
        let c := x.owner die
        match s.chooseFabric die slot.val x with
        | .walk s => .next s
        | .fault s cause va => .next (s.lineFault die ch.val slot.val x 1 cause va)
        | .chosen s x =>
        let n := s.lineLength c x
        (match s.copyRead c x slot.val n with
         | .data s bs => .next (s.lineWrite die ch.val slot.val x bs)
         | .walk s => .next (s.setSlotCmd die ch.val slot.val (some x))
         | .op s id => .next (s.setSlotCmd die ch.val slot.val (some { x with line := some id, lineLen := n }))
         | .status s st => .next (s.setSlotCmd die ch.val slot.val (some { x with status := st }))
         | .fault s kind cause addr => .next (s.lineFault die ch.val slot.val x kind cause addr)
         | .wait s l => .next (s.setSlotCmd die ch.val slot.val (some { x with mapLine := l })))

/-! ## Completion (R161) -/

/-- The status of a command reaches its p register; a plain command's failure is kept for the first reader (R161, R283). -/
def State.copyStatus (s : State) (c : CoreId) (m : CopyCmd) (st : Status) : State :=
  let k := s.core c
  let t := if m.p = 0 then k.cd else { k.cd.setStatus m.p st with busy := k.cd.busy.erase (.p m.p) }
  let k := k.setCluster .d t
  if st ≠ Status.ok ∧ !m.statusForm then
    s.setCore c { k with store := { k.store with copyFaults := k.store.copyFaults ++ [⟨m.p, st, if m.srcKind = 0 then m.srcBase + m.offset else m.dstBase + m.offset⟩] } }
  else s.setCore c k

/-- Actions 1 to 3 of R161: the ring is published, the flag gains 1, and crossbar sources 0 and p pulse. -/
def State.copyActions (s : State) (c : CoreId) (x : SlotCmd) : State :=
  let m := x.cmd
  let s := match m.slot, s.ringAt c x.ring with
    | some n, .ok r => if m.dstKind = 3 then s.publishSlot c r n else s
    | _, _ => s
  let s := match m.flag with | some f => s.flagAdd c f 1 | none => s
  let s := s.pulse c 0
  if m.p = 0 then s else s.pulse c m.p

/-- `CE_COMMAND_COMPLETE` (R161): after its last line and its release, the four actions; after a failure, the status alone. Its lines have
been performed when they have completed, so that its release waits for nothing but, at `.sys`, the write-throughs within its reach (R42). -/
def execCeCommandComplete (die : DieId) (ch : Fin 32) (slot : Fin 8) (s : State) : Host.Outcome State Fault Refusal :=
  match ((s.die die).channel ch.val).slot slot.val with
  | none => .next s
  | some x =>
    if x.line.isSome ∨ x.stopped.isSome ∨ (x.status = Status.ok ∧ x.cmd.offset < x.cmd.bytes) ∨
        (x.status = Status.ok ∧ x.cmd.rel ∧ x.cmd.scope = 7 ∧ s.pendingWrites) then .next s
    else
      let c := x.owner die
      let s := s.setSlotCmd die ch.val slot.val none
      let s := if x.status = Status.ok then s.copyActions c x else s
      .next (s.copyStatus c x.cmd x.status)

end Sys2Proof.Machine
end

