-- ==== Sys2Proof/Machine/Network.lean ====
section
/-!
DEFINITION. `flagw` (R279, R280) and the steps of the torus (R122 to R133): links, routers, requests that arrive, replies, time-outs, flags,
route tables and stream resets.
-/

namespace Sys2Proof.Machine

/-! ## `flagw` (R279, R280) -/

/-- A copy command of a core that has not completed names a stream. -/
def State.commandsNaming (s : State) (c : CoreId) (n : Nat) : Bool := (s.commands c).any fun m => m.fstream == some n

/-- Send a flag (R132, R280): it carries the stream's generation and phase and n, the count of its counted writes. -/
def State.sendFlag (s : State) (id n : Nat) : State :=
  match s.op? id with
  | none => s
  | some o =>
    let d := o.owner.core.die
    match o.parts with
    | p :: _ =>
      if !s.partOk d p then s.partDone id 0 Status.access
      else match s.path d p.die, (s.die d).torus.freeTag with
        | .down, _ => (s.count d 0x192).partDone id 0 Status.linkDown
        | _, none => s
        | path, some tag =>
          let q := s.requestPacket o p tag []
          let s := (if path = .self then s else s.countPart o p).takeTag d tag id 0 p.die none
          match path with
          | .self => s.flagArrives d { q with fcnt := n }
          | .sibling => s.flagArrives (DieId.other d) { q with fcnt := n }
          | _ => s.inject d { q with fcnt := n }
    | [] => s

/-- `flagw` (R279): it opens a stream, or sends a counted flag and may close the stream. It is ordered as any access of the stream (R353). -/
def execFlagw (sy : BitVec 5) (f : BitVec 6) (a b : BitVec 5) (p : BitVec 3) (s : State) : Host.Outcome State Fault Refusal :=
  s.issue (.flagw sy f a b p) fun s =>
    let va := (s.x a.toNat).toNat
    let w := s.x b.toNat
    let d := s.focus.core.die
    let n := f.toNat
    if va % 4 ≠ 0 then .fault (.trans causeAlign va)
    else match s.plan s.focus.core (s.asks s.focus) s.asid true true (fun _ => none) (pieces va 4) with
      | (t, .fault cause va) => .abort t (.trans cause va)
      | (t, .need va) => .await t (.walk va)
      | (t, .ok parts) =>
        let src := t.source d n
        let so := parts.any fun q => decide (q.order = 0)
        if t.mustWait t.focus 0 false (so && !bit w 63) (if bit w 63 then [] else parts) then .await t .access
        else if bit w 63 then
          let dest := (parts.head?.map (·.die)).getD 0
          let t := t.setSource d n { src with dest := dest, broken := src.broken || (src.count != 0 && src.dest != dest) }
          .retire ((t.setMe { t.me with streams := t.me.streams ||| BitVec.ofNat 64 (2 ^ n) }).setP p.toNat Status.ok) 0
        else if src.flagOut then .await t .access
        else if (t.opsOf t.focus).any fun o => o.parts.any fun q => decide (q.fs = some n) && decide (q.st = .todo) then .await t .access
        else if (t.commandsNaming t.focus.core n) then .await t .copyWait
        else if (t.die d).torus.freeTag.isNone then .await t .tag
        else
          let (t, count) := t.flagCount d n
          let o := { Op.empty t.focus with
            plain := p == 0, preg := p.toNat, dest := .flag n, size := 4, parts := parts, faultAddr := va, asid := t.asid, so := so,
            req := .flag (w.setWidth 32) n src.phase src.gen count }
          let t := t.setSource d n { src with count := 0, phase := !src.phase, flagOut := true }
          let t := if bit w 62 then t.setMe { t.me with streams := t.me.streams &&& ~~~(BitVec.ofNat 64 (2 ^ n)) } else t
          let (t, id) := t.addOp o
          let t := (t.setMe (t.me.addBusy o.targets)).sendFlag id count
          if p = 0 then .hold t id else .sent t id

/-! ## Requests and replies that arrive (R127 to R133) -/

/-- The atomic that a packet asks for: operation, size and operands. -/
def packetAtomic (p : Packet) : Req :=
  let size := if p.op.getLsbD 4 then 8 else 4
  if p.op.getLsbD 7 then .bank (p.op.toNat / 16 % 8) (p.op.toNat % 16)
  else if p.op.getLsbD 5 then .cas size (ofBytes (p.data.take size)) (ofBytes ((p.data.drop size).take size))
  else .amo (p.op.toNat % 16) size (ofBytes (p.data.take size))

/-- Perform a request at a die: local memory, or its Commons, whose addresses only copy-engine lines carry (R16, R87; log 14). -/
def State.serve (s : State) (d : DieId) (p : Packet) : State × Status × List Byte :=
  let n := p.size + 1
  let req : Req := match p.kind with | 0 => .read | 1 => .write | _ => packetAtomic p
  if commonsAddr ≤ p.addr then
    let off := p.addr - commonsAddr
    let x := s.die d
    if 2 ^ 26 < off + n then (s, Status.access, [])
    else match req with
      | .read => (s, Status.ok, readBytes x.commons off n)
      | .write => (s.setDie d { x with commons := writeBytes x.commons off p.data }, Status.ok, [])
      | .bank fmt op =>
        let old := readBytes x.commons off n
        let w := match fmt with | 2 => 8 | 4 => 2 | _ => 4
        let es := (List.range (n / w)).flatMap fun i =>
          bytesOf w (bankOp fmt op (ofBytes ((old.drop (w * i)).take w)) (ofBytes ((p.data.drop (w * i)).take w)))
        (s.setDie d { x with commons := writeBytes x.commons off es }, Status.ok, [])
      | _ => (s, Status.access, [])
  else if !(s.die d).inLocal p.addr n then (s, Status.access, [])
  else
    let unsupported := match req with | .amo aop _ _ => !bit (s.dieReg d 0x10A) (8 + aop) | _ => false
    if unsupported then (s, Status.unsupported, [])
    else
      let len := match req with | .amo _ z _ => z | .cas z _ _ => z | _ => n
      let (x, st, out) := (s.die d).atSlice req p.addr len p.data
      (s.setDie d x, st, out)

/-- A request reaches its target (R130 to R133). -/
def State.requestArrives (s : State) (d : DieId) (p : Packet) : State :=
  if (s.die d).inReset then s
  else if p.bad ∨ 4 < p.kind then s.count d 0x190
  else if p.kind = 3 then s.flagArrives d p
  else if p.kind = 4 then s.sendReply d p Status.ok []
  else if p.inc ≠ s.inc d then s.sendReply d p Status.targetGone []
  else
    let (take, s) := if p.counted then (let r := s.adopt d p.src p.fs p.fsg; (r.2, r.1)) else (true, s)
    if !take then s
    else
      let (s, st, out) := s.serve d p
      let s := s.sendReply d p st out
      if p.counted && st == Status.ok then s.countWrite d p.src p.fs p.phase else s

/-- A reply packet reaches its source (R128, R130). -/
def State.replyArrives (s : State) (d : DieId) (p : Packet) : State :=
  if (s.die d).inReset then s else if p.bad ∨ p.kind ≠ 8 then s.count d 0x190 else s.takeReply d p

/-- Send what waited for a tag or an earlier part on either die. -/
def State.pumpAll (s : State) : State := (s.pump 0).pump 1

/-- `REMOTE_REQUEST_ARRIVAL` (R130): the bytes of a packet from another package. -/
def execRemoteRequestArrival (die : DieId) (pkt : List Byte) (s : State) : Host.Outcome State Fault Refusal :=
  .next (s.requestArrives die (Packet.parse pkt)).pumpAll

/-- `REMOTE_REPLY` (R128). -/
def execRemoteReply (die : DieId) (pkt : List Byte) (s : State) : Host.Outcome State Fault Refusal :=
  .next (s.replyArrives die (Packet.parse pkt)).pumpAll

/-- `FLAG_ARRIVAL` (R132): a flag packet is performed, or withheld until its counter reaches n. -/
def execFlagArrival (die : DieId) (pkt : List Byte) (s : State) : Host.Outcome State Fault Refusal :=
  let p := Packet.parse pkt
  if (s.die die).inReset then .next s
  else if p.bad ∨ p.kind ≠ 3 then .next (s.count die 0x190)
  else .next (s.flagArrives die p).pumpAll

/-- 2^n cycles of `rtmo` have passed since a cycle (R128). -/
def State.remoteDue (s : State) (d : DieId) (since : Nat) : Bool := decide (since + 2 ^ field (s.dieReg d 0x10E) 0 6 ≤ s.cycle)

/-- A tag's request completes with TIMEOUT: the generation advances, and the tag rests (R128). -/
def State.tagTimesOut (s : State) (d : DieId) (tag : Nat) : State :=
  match (s.die d).torus.tag? tag with
  | none => s
  | some r =>
    let s := s.complete d tag Status.timeout []
    let x := s.die d
    let t := x.torus.putTag tag { r with resting := true, sent := s.cycle }
    s.setDie d { x with torus := { t with gens := Sparse.set (fun _ => 0) t.gens tag (t.gen tag + 1) } }

/-- `REMOTE_TIMEOUT` (R128). -/
def execRemoteTimeout (die : DieId) (tag : Nat) (s : State) : Host.Outcome State Fault Refusal :=
  match (s.die die).torus.tag? tag with
  | none => .next s
  | some r => if r.resting ∨ !s.remoteDue die r.sent then .next s else .next (s.tagTimesOut die tag).pumpAll

/-- `REMOTE_TAG_RELEASE` (R128): the tag is usable again. -/
def execRemoteTagRelease (die : DieId) (tag : Nat) (s : State) : Host.Outcome State Fault Refusal :=
  match (s.die die).torus.tag? tag with
  | none => .next s
  | some r =>
    if !r.resting ∨ !s.remoteDue die r.sent then .next s
    else
      let x := s.die die
      .next ((s.setDie die { x with torus := x.torus.dropTag tag }).pumpAll)

/-! ## Routers (R124, R125) -/

/-- A packet is delivered at a die. -/
def State.deliverPacket (s : State) (d : DieId) (p : Packet) : State :=
  if p.kind = 8 then s.replyArrives d p else s.requestArrives d p

/-- A router forwards one packet (R124): a request that meets a link that is down is answered with LINK_DOWN, a reply is lost. -/
def State.forward (s : State) (d : DieId) (p : Packet) : State :=
  if p.bad then s.count d 0x190
  else match s.hop d p with
    | .deliver => s.deliverPacket d p
    | .down => if p.kind = 8 then s else s.sendReply d p Status.linkDown []
    | _ => s.inject d p

/-- `PACKET_HOP` (R124): the packet whose bytes arrive over a link from outside, or the oldest one at the router. -/
def execPacketHop (die : DieId) (arrival : Option (List Byte)) (s : State) : Host.Outcome State Fault Refusal :=
  match arrival with
  | some bs => .next (s.forward die (Packet.parse bs)).pumpAll
  | none =>
    let x := s.die die
    match x.torus.router with
    | [] => .next s
    | p :: rest => .next ((s.setDie die { x with torus := { x.torus with router := rest } }).forward die p).pumpAll

/-! ## Links (R121, R122, R125) -/

/-- A link is used in a domain of a die's sizes (R121). -/
def Coord.usesLink (c : Coord) (d : DieId) (l : Nat) : Bool :=
  if l < 2 then c.nx != 2 || l == xLink d else if l < 4 then decide (1 < c.ny) else decide (1 < c.nz)

/-- The coordinates that the far end of a link shall hold (R121). -/
def Coord.farOf (c : Coord) (d : DieId) (l : Nat) : FarEnd :=
  let step := fun (v n : Nat) => if l % 2 = 0 then (v + 1) % n else (v + n - 1) % n
  let f : FarEnd := ⟨c.x, c.y, c.z, c.nx, c.ny, c.nz⟩
  if l = xLink d then { f with x := if d = 0 then c.x + 1 else c.x - 1 }
  else if l < 2 then { f with x := step c.x c.nx }
  else if l < 4 then { f with y := step c.y c.ny }
  else { f with z := step c.z c.nz }

/-- Set or clear a link's `up` bit at both ends that lie in the package; a fall counts in `tl_down` (R134). -/
def State.setLink (s : State) (d : DieId) (l : Nat) (up : Bool) : State :=
  let one := fun (s : State) (d : DieId) (l : Nat) =>
    let s := if s.linkUp d l && !up then s.count d 0x191 else s
    s.setDieReg d 0x10B (setBit (s.dieReg d 0x10B) l up)
  let s := one s d l
  if l = xLink d then one s (DieId.other d) (xLink (DieId.other d)) else s

/-- `TLINKS_ENABLE` (R122): the enable bits are written; a link whose bit is cleared goes down. -/
def execTlinksEnable (die : DieId) (v : Word) (s : State) : Host.Outcome State Fault Refusal :=
  let s := s.setDieReg die 0x10B (setField (s.dieReg die 0x10B) 8 6 (field v 8 6))
  .next ((List.range 6).foldl (fun s l => if s.linkUp die l && !bit v (8 + l) then s.setLink die l false else s) s)

/-- `LINK_TRAINING_RESULT` (R122): the link comes up where the far end holds the coordinates that R121 requires and equal sizes; a
mismatch counts in `tl_miswire`. The far end of the in-package X link is the other die. -/
def execLinkTrainingResult (die : DieId) (link : Fin 6) (far : Option FarEnd) (s : State) : Host.Outcome State Fault Refusal :=
  let l := link.val
  let c := s.coord die
  if !bit (s.dieReg die 0x10B) (8 + l) ∨ s.linkUp die l ∨ !c.usesLink die l then .next s
  else
    let o := DieId.other die
    let k := s.coord o
    let far := if l = xLink die then (if bit (s.dieReg o 0x10B) (8 + xLink o) then some ⟨k.x, k.y, k.z, k.nx, k.ny, k.nz⟩ else none) else far
    match far with
    | none => .next s
    | some f => if f = c.farOf die l then .next (s.setLink die l true) else .next (s.count die 0x18F)

/-- `LINK_FAILURE` (R122, R125): the link goes down; a request whose packet it had not confirmed ends by its time-out (R128). -/
def execLinkFailure (die : DieId) (link : Fin 6) (s : State) : Host.Outcome State Fault Refusal :=
  if s.linkUp die link.val then .next (s.setLink die link.val false) else .next s

/-! ## Route tables and stream resets (R123, R133) -/

/-- Store a route-table entry. -/
def State.setRoute (s : State) (d : DieId) (bank dest : Nat) (e : Byte) : State :=
  let x := s.die d
  s.setDie d { x with torus := { x.torus with route := Sparse.set routeReset x.torus.route (512 * bank + dest) (e &&& 0xBF) } }

/-- An entry holds 0b11 in no direction field. -/
def routeLegal (e : Nat) : Bool := e % 4 != 3 && e / 4 % 4 != 3 && e / 16 % 4 != 3

/-- `RTW_WRITE` (R123): the entry is stored, unless it names the active bank, no die, or a reserved direction. -/
def execRtwWrite (die : DieId) (v : Word) (s : State) : Host.Outcome State Fault Refusal :=
  let bank := field v 24 1
  if bank = s.bank die ∨ 383 < field v 8 9 ∨ !routeLegal (field v 0 8) then .next s
  else
    let w := BitVec.ofNat 64 (bank * 2 ^ 24 + field v 8 9 * 2 ^ 8 + field v 0 8 % 64 + field v 7 1 * 128)
    .next ((s.setDieReg die 0x10C w).setRoute die bank (field v 8 9) (BitVec.ofNat 8 (field v 0 8)))

/-- `FSRST_WRITE` (R133, R414): the stream's generation advances, and its phase and count are cleared. -/
def execFsrstWrite (die : DieId) (v : Word) (s : State) : Host.Outcome State Fault Refusal :=
  let n := field v 0 6
  .next ((s.resetSource die n).setDieReg die 0x10F (BitVec.ofNat 64 n))

end Sys2Proof.Machine
end

