-- ==== Sys2Proof/Machine/Vector.lean ====
section
/-!
DEFINITION. The vector cluster (14_isa_vector.md): lanes and masks, arithmetic, conversion, queues, memory and mask registers.
-/

namespace Sys2Proof.Machine

/-! ## Lanes (R215, R287) -/

/-- A vector register of the executing core. -/
def State.vec (s : State) (n : Nat) : BitVec 2048 := Sparse.get (fun _ => 0) s.cur.regs.v n

/-- Write a vector register. -/
def State.setVec (s : State) (n : Nat) (v : BitVec 2048) : State :=
  s.setCur { s.cur with regs := { s.cur.regs with v := Sparse.set (fun _ => 0) s.cur.regs.v n v } }

/-- Lane i of a vector register: 32 bits. -/
def laneOf (v : BitVec 2048) (i : Nat) : Nat := v.toNat / 2 ^ (32 * i) % 2 ^ 32

/-- A lane of a vector register of the executing core. -/
def State.lane (s : State) (n i : Nat) : Nat := laneOf (s.vec n) i

/-- The vector whose lanes, from lane 0 up, are listed. -/
def ofLanes : List Nat → Nat
  | [] => 0
  | a :: t => a % 2 ^ 32 + 2 ^ 32 * ofLanes t

/-- A lane mask holds a lane. -/
def State.active (s : State) (m i : Nat) : Bool := (s.mask m).getLsbD i

/-- Write each active lane of a register and retire with the classes that active lanes raise (R287). -/
def State.writeLanes (s : State) (d m : Nat) (f : Nat → Nat × Classes) : Eff :=
  let r := (List.range 64).map fun i => if s.active m i then f i else (s.lane d i, 0)
  .retire (s.setVec d (BitVec.ofNat 2048 (ofLanes (r.map (·.1))))) (r.foldl (fun c e => c ||| e.2) 0)

/-- Flushing of the executing cluster: an instruction's bits ORed with `fzmode` (R193). -/
def State.zi (s : State) (b : Bool) : Bool := b || bit (s.me.reg 1) 0
def State.zo (s : State) (b : Bool) : Bool := b || bit (s.me.reg 1) 1

/-- n draws of the executing cluster's generator (R194), and its state after. -/
def drawList : Nat → BitVec 32 → List Nat × BitVec 32
  | 0, x => ([], x)
  | n + 1, x => let y := lfsrDraw x; let r := drawList n y; (drawn y :: r.1, r.2)

/-- The draws of an instruction that rounds n elements by a mode: SR draws once for each (R194). -/
def State.draws (s : State) (mode n : Nat) : State × List Nat :=
  if mode = 4 then
    let r := drawList n ((s.me.reg 2).setWidth 32)
    (s.setMe (s.me.setReg 2 (r.2.setWidth 64)), r.1)
  else (s, List.replicate n 0)

/-! ## Floating-point lanes (R288 to R291) -/

/-- A result that a lane operation creates: the exact value, and whether it created a NaN. -/
abbrev Exact := Ext × Bool

/-- Round an exact result: invalid only where no input is NaN (R288). -/
def roundLane (mode d : Nat) (sat zo nanIn : Bool) (r : Exact) : Nat × Classes :=
  let (w, c) := fp32.rnd mode d sat zo r.1
  (w, c ||| if r.2 && !nanIn then Classes.invalid else 0)

/-- A three-operand form (R289): rounded RNE. -/
def State.fp3 (s : State) (d a b m : Nat) (e : Bool) (useC : Bool) (f : Ext → Ext → Ext → Exact) : Eff :=
  let zi := s.zi e
  let zo := s.zo e
  s.writeLanes d m fun i =>
    let (x, c1) := fp32.input zi (s.lane a i)
    let (y, c2) := fp32.input zi (s.lane b i)
    let (z, c3) := if useC then fp32.input zi (s.lane d i) else (Ext.zero, 0)
    let (w, c) := roundLane 0 0 false zo (x.isNan || y.isNan || z.isNan) (f x y z)
    (w, c1 ||| c2 ||| c3 ||| c)

/-- a × b + c with one rounding, and whether it created a NaN. -/
def fmaExact (neg : Bool) (a b c : Ext) : Exact :=
  let (p, i) := a.mul b
  let (r, j) := (if neg then p.neg else p).add c
  (if a.isNan || b.isNan || c.isNan then .nan else r, i || j)

/-- `vadd` (R289). -/
def execVadd (sy d a b : BitVec 5) (m : BitVec 3) (e : BitVec 1) (s : State) : Host.Outcome State Fault Refusal :=
  s.issue (.vadd sy d a b m e) fun s => s.fp3 d.toNat a.toNat b.toNat m.toNat (e == 1) false fun x y _ => x.add y

/-- `vsub` (R289). -/
def execVsub (sy d a b : BitVec 5) (m : BitVec 3) (e : BitVec 1) (s : State) : Host.Outcome State Fault Refusal :=
  s.issue (.vsub sy d a b m e) fun s => s.fp3 d.toNat a.toNat b.toNat m.toNat (e == 1) false fun x y _ => x.add y.neg

/-- `vmul` (R289). -/
def execVmul (sy d a b : BitVec 5) (m : BitVec 3) (e : BitVec 1) (s : State) : Host.Outcome State Fault Refusal :=
  s.issue (.vmul sy d a b m e) fun s => s.fp3 d.toNat a.toNat b.toNat m.toNat (e == 1) false fun x y _ => x.mul y

/-- `vfma` (R289). -/
def execVfma (sy d a b : BitVec 5) (m : BitVec 3) (e : BitVec 1) (s : State) : Host.Outcome State Fault Refusal :=
  s.issue (.vfma sy d a b m e) fun s => s.fp3 d.toNat a.toNat b.toNat m.toNat (e == 1) true (fmaExact false)

/-- `vfms` (R289). -/
def execVfms (sy d a b : BitVec 5) (m : BitVec 3) (e : BitVec 1) (s : State) : Host.Outcome State Fault Refusal :=
  s.issue (.vfms sy d a b m e) fun s => s.fp3 d.toNat a.toNat b.toNat m.toNat (e == 1) true (fmaExact true)

/-- `vmax` (R289). -/
def execVmax (sy d a b : BitVec 5) (m : BitVec 3) (e : BitVec 1) (s : State) : Host.Outcome State Fault Refusal :=
  s.issue (.vmax sy d a b m e) fun s => s.fp3 d.toNat a.toNat b.toNat m.toNat (e == 1) false fun x y _ => (x.max y, false)

/-- `vmin` (R289). -/
def execVmin (sy d a b : BitVec 5) (m : BitVec 3) (e : BitVec 1) (s : State) : Host.Outcome State Fault Refusal :=
  s.issue (.vmin sy d a b m e) fun s => s.fp3 d.toNat a.toNat b.toNat m.toNat (e == 1) false fun x y _ => (x.min y, false)

/-- A two-operand form (R290): the result, and the classes that its special cases raise. -/
def State.fp2 (s : State) (d a m : Nat) (i o sat sr : Bool) (f : Ext → Ext × Classes) : Eff :=
  let zi := s.zi i
  let zo := s.zo o
  let mode := if sr then 4 else 0
  let (t, ds) := s.draws mode 64
  t.writeLanes d m fun k =>
    let (x, c1) := fp32.input zi (s.lane a k)
    let (y, c2) := f x
    let (w, c3) := fp32.rnd mode (ds.getD k 0) sat zo y
    (w, c1 ||| c2 ||| c3)

/-- The integer square root, bit by bit: `n` bits of the root are still to be found. -/
def isqrt (v : Nat) : Nat → Nat → Nat
  | 0, r => r
  | n + 1, r => if (r + 2 ^ n) * (r + 2 ^ n) ≤ v then isqrt v n (r + 2 ^ n) else isqrt v n r

/-- 1 / a to more bits than any rounding needs, its last bit sticky (R290). -/
def recip : Ext → Ext × Classes
  | .nan => (.nan, 0)
  | .inf s => (.fin s 0 0, 0)
  | .fin s m e =>
    if m = 0 then (.inf s, Classes.divZero)
    else
      let k := bitsOf m + 64
      (.fin s (2 * (2 ^ k / m) + ofBool (2 ^ k % m != 0)) (-(k : Int) - 1 - e), 0)

/-- 1 / √a, its last bit sticky (R290). -/
def rsqrt : Ext → Ext × Classes
  | .nan => (.nan, 0)
  | .inf s => if s then (.nan, Classes.invalid) else (.fin false 0 0, 0)
  | .fin s m e =>
    if m = 0 then (.inf s, Classes.divZero)
    else if s then (.nan, Classes.invalid)
    else
      let odd := e % 2 != 0
      let m := if odd then 2 * m else m
      let h : Int := if odd then (e - 1) / 2 else e / 2
      let k := bitsOf m + 64
      let r := isqrt (2 ^ (2 * k) / m) (k + 1) 0
      (.fin false (2 * r + ofBool (r * r * m != 2 ^ (2 * k))) (-(k : Int) - 1 - h), 0)

/-- `vabs` (R290). -/
def execVabs (sy d a : BitVec 5) (m : BitVec 3) (i o : BitVec 1) (s : State) : Host.Outcome State Fault Refusal :=
  s.issue (.vabs sy d a m i o) fun s => s.fp2 d.toNat a.toNat m.toNat (i == 1) (o == 1) false false fun x => (x.abs, 0)

/-- `vneg` (R290). -/
def execVneg (sy d a : BitVec 5) (m : BitVec 3) (i o : BitVec 1) (s : State) : Host.Outcome State Fault Refusal :=
  s.issue (.vneg sy d a m i o) fun s => s.fp2 d.toNat a.toNat m.toNat (i == 1) (o == 1) false false fun x => (x.neg, 0)

/-- `vrcp` (R290). -/
def execVrcp (sy d a : BitVec 5) (m : BitVec 3) (i o t r : BitVec 1) (s : State) : Host.Outcome State Fault Refusal :=
  s.issue (.vrcp sy d a m i o t r) fun s => s.fp2 d.toNat a.toNat m.toNat (i == 1) (o == 1) (t == 1) (r == 1) recip

/-- `vrsq` (R290). -/
def execVrsq (sy d a : BitVec 5) (m : BitVec 3) (i o t r : BitVec 1) (s : State) : Host.Outcome State Fault Refusal :=
  s.issue (.vrsq sy d a m i o t r) fun s => s.fp2 d.toNat a.toNat m.toNat (i == 1) (o == 1) (t == 1) (r == 1) rsqrt

/-- `vexp2` (R291). -/
def execVexp2 (sy d a : BitVec 5) (m : BitVec 3) (i o : BitVec 1) (s : State) : Host.Outcome State Fault Refusal :=
  s.issue (.vexp2 sy d a m i o) fun s =>
    s.writeLanes d.toNat m.toNat fun k => exp2x (s.zi (i == 1)) (s.zo (o == 1)) (s.lane a.toNat k)

/-- `vlog2` (R291). -/
def execVlog2 (sy d a : BitVec 5) (m : BitVec 3) (i o : BitVec 1) (s : State) : Host.Outcome State Fault Refusal :=
  s.issue (.vlog2 sy d a m i o) fun s =>
    s.writeLanes d.toNat m.toNat fun k => log2x (s.zi (i == 1)) (s.zo (o == 1)) (s.lane a.toNat k)

/-! ## Integer and bitwise lanes (R292) -/

/-- A lane-wise operation on two registers that raises nothing. -/
def State.int3 (s : State) (d a b m : Nat) (f : Nat → Nat → Nat) : Eff :=
  s.writeLanes d m fun i => (f (s.lane a i) (s.lane b i) % 2 ^ 32, 0)

/-- `vand` (R292). -/
def execVand (sy d a b : BitVec 5) (m : BitVec 3) (s : State) : Host.Outcome State Fault Refusal :=
  s.issue (.vand sy d a b m) fun s => s.int3 d.toNat a.toNat b.toNat m.toNat fun x y => x &&& y

/-- `vor` (R292). -/
def execVor (sy d a b : BitVec 5) (m : BitVec 3) (s : State) : Host.Outcome State Fault Refusal :=
  s.issue (.vor sy d a b m) fun s => s.int3 d.toNat a.toNat b.toNat m.toNat fun x y => x ||| y

/-- `vxor` (R292). -/
def execVxor (sy d a b : BitVec 5) (m : BitVec 3) (s : State) : Host.Outcome State Fault Refusal :=
  s.issue (.vxor sy d a b m) fun s => s.int3 d.toNat a.toNat b.toNat m.toNat fun x y => x ^^^ y

/-- `vnot` (R292). -/
def execVnot (sy d a : BitVec 5) (m : BitVec 3) (s : State) : Host.Outcome State Fault Refusal :=
  s.issue (.vnot sy d a m) fun s => s.writeLanes d.toNat m.toNat fun i => (2 ^ 32 - 1 - s.lane a.toNat i, 0)

/-- `vshl` (R292). -/
def execVshl (sy d a b : BitVec 5) (m : BitVec 3) (s : State) : Host.Outcome State Fault Refusal :=
  s.issue (.vshl sy d a b m) fun s => s.int3 d.toNat a.toNat b.toNat m.toNat fun x y => x * 2 ^ (y % 32)

/-- `vshr` (R292). -/
def execVshr (sy d a b : BitVec 5) (m : BitVec 3) (s : State) : Host.Outcome State Fault Refusal :=
  s.issue (.vshr sy d a b m) fun s => s.int3 d.toNat a.toNat b.toNat m.toNat fun x y => x / 2 ^ (y % 32)

/-- `vsar` (R292). -/
def execVsar (sy d a b : BitVec 5) (m : BitVec 3) (s : State) : Host.Outcome State Fault Refusal :=
  s.issue (.vsar sy d a b m) fun s =>
    s.int3 d.toNat a.toNat b.toNat m.toNat fun x y => ((BitVec.ofNat 32 x).sshiftRight (y % 32)).toNat

/-- `sat` of R6 to the INT32 range; a clamp raises saturated. -/
def satInt32 (t : Bool) (v : Int) : Nat × Classes :=
  if t ∧ v < -(2 ^ 31) then (2 ^ 31, Classes.saturated)
  else if t ∧ 2 ^ 31 - 1 < v then (2 ^ 31 - 1, Classes.saturated)
  else ((v % 2 ^ 32).toNat, 0)

/-- `viadd` (R292). -/
def execViadd (sy d a b : BitVec 5) (m : BitVec 3) (t : BitVec 1) (s : State) : Host.Outcome State Fault Refusal :=
  s.issue (.viadd sy d a b m t) fun s =>
    s.writeLanes d.toNat m.toNat fun i => satInt32 (t == 1) (signed 32 (s.lane a.toNat i) + signed 32 (s.lane b.toNat i))

/-- `vimul` (R292). -/
def execVimul (sy d a b : BitVec 5) (m : BitVec 3) (t : BitVec 1) (s : State) : Host.Outcome State Fault Refusal :=
  s.issue (.vimul sy d a b m t) fun s =>
    s.writeLanes d.toNat m.toNat fun i => satInt32 (t == 1) (signed 32 (s.lane a.toNat i) * signed 32 (s.lane b.toNat i))

/-! ## Comparison, selection, reduction, permutation (R293 to R295) -/

/-- The tests of `vcmp` on two lanes. -/
def laneTest (t : Nat) (zi : Bool) (a b : Nat) : Bool × Classes :=
  let (x, c1) := fp32.input zi a
  let (y, c2) := fp32.input zi b
  match t with
  | 0 => (x.eq y, c1 ||| c2)
  | 1 => (!x.eq y, c1 ||| c2)
  | 2 => (x.lt y, c1 ||| c2)
  | 3 => (x.lt y || x.eq y, c1 ||| c2)
  | 4 => (x.isNan || y.isNan, c1 ||| c2)
  | 5 => (a == b, 0)
  | 6 => (decide (signed 32 a < signed 32 b), 0)
  | _ => (decide (a < b), 0)

/-- `vcmp` (R293): every bit of md is written. -/
def execVcmp (sy : BitVec 5) (d : BitVec 3) (a b : BitVec 5) (t m : BitVec 3) (s : State) : Host.Outcome State Fault Refusal :=
  s.issue (.vcmp sy d a b t m) fun s =>
    let r := (List.range 64).map fun i =>
      if s.active m.toNat i then laneTest t.toNat (s.zi false) (s.lane a.toNat i) (s.lane b.toNat i) else (false, 0)
    let v := r.zipIdx.foldl (fun n e => if e.1.1 then n + 2 ^ e.2 else n) 0
    .retire (s.setMask d.toNat (BitVec.ofNat 64 v)) (r.foldl (fun c e => c ||| e.2) 0)

/-- `vsel` (R294): the mask selects; every lane is written. -/
def execVsel (sy d a b : BitVec 5) (m : BitVec 3) (s : State) : Host.Outcome State Fault Refusal :=
  s.issue (.vsel sy d a b m) fun s =>
    s.writeLanes d.toNat 0 fun i => (if s.active m.toNat i then s.lane a.toNat i else s.lane b.toNat i, 0)

/-- `vperm` (R294). -/
def execVperm (sy d a b : BitVec 5) (m : BitVec 3) (s : State) : Host.Outcome State Fault Refusal :=
  s.issue (.vperm sy d a b m) fun s =>
    s.writeLanes d.toNat m.toNat fun i => (s.lane a.toNat (s.lane b.toNat i % 64), 0)

/-- A node of `vred`'s tree (R295). -/
def redNode (fn : Nat) (zo : Bool) (x y : Nat) : Nat × Classes :=
  let a := fp32.decode x
  let b := fp32.decode y
  let nan := a.isNan || b.isNan
  match fn with
  | 0 => roundLane 0 0 false zo nan (a.add b)
  | 1 => roundLane 0 0 false zo nan (a.max b, false)
  | _ => roundLane 0 0 false zo nan (a.min b, false)

/-- One level of the tree: neighbours are combined. -/
def redLevel (fn : Nat) (zo : Bool) : List (Nat × Classes) → List (Nat × Classes)
  | x :: y :: t => let (w, c) := redNode fn zo x.1 y.1; (w, c ||| x.2 ||| y.2) :: redLevel fn zo t
  | l => l

/-- The identity of a reduction (R295). -/
def redIdent (fn : Nat) : Nat := match fn with | 0 => 0x80000000 | 1 => 0xFF800000 | _ => 0x7F800000

/-- `vred` (R295): the mask selects inputs; lane 0 is always written, the others never. -/
def execVred (sy d a : BitVec 5) (m : BitVec 3) (f : BitVec 2) (s : State) : Host.Outcome State Fault Refusal :=
  s.issue (.vred sy d a m f) fun s =>
    let t0 := (List.range 64).map fun i =>
      if s.active m.toNat i then
        let w := s.lane a.toNat i
        if s.zi false && fp32.subnormal w then (w / 2 ^ 31 * 2 ^ 31, Classes.flushed) else (w, 0)
      else (redIdent f.toNat, 0)
    let r := (Nat.repeat (redLevel f.toNat (s.zo false)) 6 t0).headD (0, 0)
    .retire (s.setVec d.toNat (setField (s.vec d.toNat) 0 32 r.1)) r.2

/-! ## Conversion and quantisation (R296 to R300) -/

/-- Element i of width w of a packed register (R296). -/
def packedElem (v : BitVec 2048) (w i : Nat) : Nat := v.toNat / 2 ^ (w * i) % 2 ^ w

/-- Pack elements of width w from bit 0. -/
def packElems (w : Nat) : List Nat → Nat
  | [] => 0
  | e :: t => e % 2 ^ w + 2 ^ w * packElems w t

/-- Convert an exact value to a code's element (R191, R297). -/
def toElem (code mode d : Nat) (sat zo : Bool) (x : Ext) : Nat × Classes :=
  if isInt code then let (v, c) := rndInt (elemBits code) mode d x; ((v % 2 ^ elemBits code).toNat, c)
  else (floatFmt code).rnd mode d sat zo x

/-- The exact value of an element that has no block scale (R298), its subnormals flushed where zi is set. -/
def fromElem (code : Nat) (zi : Bool) (w : Nat) : Ext × Classes :=
  if code = 10 then (Ext.ofInt (signed 8 w) (-6), 0)
  else if isInt code then (Ext.ofInt (signed (elemBits code) w) 0, 0)
  else (floatFmt code).input zi w

/-- `vcvt vd, va, fmt` (R297). -/
def execVcvtFromFp32 (sy d a f : BitVec 5) (r : BitVec 3) (t : BitVec 1) (s : State) : Host.Outcome State Fault Refusal :=
  s.issue (.vcvtFromFp32 sy d a f r t) fun s =>
    let (u, ds) := s.draws r.toNat 64
    let es := (List.range 64).map fun i =>
      let (x, c1) := fp32.input (s.zi false) (s.lane a.toNat i)
      let (w, c2) := toElem f.toNat r.toNat (ds.getD i 0) (t == 1) (s.zo false) x
      (w, c1 ||| c2)
    .retire (u.setVec d.toNat (BitVec.ofNat 2048 (packElems (elemBits f.toNat) (es.map (·.1))))) (es.foldl (fun c e => c ||| e.2) 0)

/-- `vcvt vd, fmt, va` (R298). -/
def execVcvtToFp32 (sy d a f : BitVec 5) (s : State) : Host.Outcome State Fault Refusal :=
  s.issue (.vcvtToFp32 sy d a f) fun s =>
    s.writeLanes d.toNat 0 fun i =>
      let (x, c1) := fromElem f.toNat (s.zi false) (packedElem (s.vec a.toNat) (elemBits f.toNat) i)
      let (w, c2) := fp32.rnd 0 0 false (s.zo false) x
      (w, c1 ||| c2)

/-- The 8 planes of a PINT block (R188) as one number: bit i of plane p holds bit 7 − p of element i. -/
def planesOf (es : List Nat) : Nat :=
  (List.range 8).foldl
    (fun n p => n + 2 ^ (64 * p) * (es.zipIdx.foldl (fun r e => r + e.1 / 2 ^ (7 - p) % 2 * 2 ^ e.2) 0)) 0

/-- Element i of the 8 planes of a PINT block: its 8-bit code. -/
def planeElem (v : Nat) (i : Nat) : Nat :=
  (List.range 8).foldl (fun n p => n + v / 2 ^ (64 * p + i) % 2 * 2 ^ (7 - p)) 0

/-- `vquant` (R299). -/
def execVquant (sy d a f : BitVec 5) (r : BitVec 3) (t : BitVec 1) (s : State) : Host.Outcome State Fault Refusal :=
  s.issue (.vquant sy d a f r t) fun s =>
    let (u, ds) := s.draws r.toNat 64
    let xs := (List.range 64).map fun i => fp32.input (s.zi false) (s.lane a.toNat i)
    let c0 := xs.foldl (fun c e => c ||| e.2) (0 : Classes)
    let code := f.toNat
    let zo := s.zo false
    if code = 16 then
      let (x, es, c) := quantBlock code r.toNat zo (xs.map (·.1)) ds
      .retire (u.setVec d.toNat (BitVec.ofNat 2048 (planesOf es + x * 2 ^ (32 * 63)))) (c0 ||| c)
    else
      let (x0, e0, k0) := quantBlock code r.toNat zo ((xs.take 32).map (·.1)) (ds.take 32)
      let (x1, e1, k1) := quantBlock code r.toNat zo ((xs.drop 32).map (·.1)) (ds.drop 32)
      .retire (u.setVec d.toNat (BitVec.ofNat 2048
        (packElems (elemBits code) (e0 ++ e1) + (x0 + 256 * x1) * 2 ^ (32 * 63)))) (c0 ||| k0 ||| k1)

/-- The value of an element under a block scale: NaN where the scale is 0xFF (R184, R185). -/
def underScale (x : Nat) (v : Ext) : Ext := if x = 0xFF then .nan else v.scale ((x : Int) - 127)

/-- `vdeq` (R300). -/
def execVdeq (sy d a f : BitVec 5) (s : State) : Host.Outcome State Fault Refusal :=
  s.issue (.vdeq sy d a f) fun s =>
    let v := s.vec a.toNat
    let code := f.toNat
    s.writeLanes d.toNat 0 fun i =>
      let (x, c1) := if code = 16 then (Ext.ofInt (signed 8 (planeElem v.toNat i)) 0, 0)
        else fromElem code (s.zi false) (packedElem v (elemBits code) i)
      let (w, c2) := fp32.rnd 0 0 false (s.zo false)
        (underScale (laneOf v 63 / (if code ≠ 16 ∧ 32 ≤ i then 256 else 1) % 256) x)
      (w, c1 ||| c2)

/-! ## Moves and queues (R301, R302) -/

/-- `vbcast` (R301). -/
def execVbcast (sy d a : BitVec 5) (l : BitVec 6) (s : State) : Host.Outcome State Fault Refusal :=
  s.issue (.vbcast sy d a l) fun s => s.writeLanes d.toNat 0 fun _ => (s.lane a.toNat l.toNat, 0)

/-- `vsplat` (R301). -/
def execVsplat (sy d : BitVec 5) (i : BitVec 6) (s : State) : Host.Outcome State Fault Refusal :=
  s.issue (.vsplat sy d i) fun s => s.writeLanes d.toNat 0 fun _ => ((s.x i.toNat).toNat % 2 ^ 32, 0)

/-- `viota` (R301). -/
def execViota (sy d : BitVec 5) (x : BitVec 6) (s : State) : Host.Outcome State Fault Refusal :=
  s.issue (.viota sy d x) fun s => s.writeLanes d.toNat 0 fun i => (i + x.toNat, 0)

/-- `vmov vd, va` (R301). -/
def execVmov (sy d a : BitVec 5) (s : State) : Host.Outcome State Fault Refusal :=
  s.issue (.vmov sy d a) fun s => .retire (s.setVec d.toNat (s.vec a.toNat)) 0

/-- The move cursor of a core (R302). -/
def State.setCursor (s : State) (n : Nat) : State := s.setCur { s.cur with regs := { s.cur.regs with cursor := n } }

/-- Push the entries of a vector from the cursor on, as far as the queue allows; fuel is the number left. -/
def pushVec (a q : Nat) : Nat → State → State
  | 0, s => s
  | n + 1, s =>
    let l := s.cur.queue q
    let j := s.cur.regs.cursor
    if queueDepth q ≤ l.length then s
    else
      let w := BitVec.ofNat 64 (s.lane a (2 * j) + 2 ^ 32 * s.lane a (2 * j + 1))
      pushVec a q n ((s.setCur (s.cur.setQueue q (l ++ [.filled w]))).setCursor (j + 1))

/-- Pop entries into a vector from the cursor on, as far as the queue allows. -/
def popVec (d q : Nat) : Nat → State → State
  | 0, s => s
  | n + 1, s =>
    let j := s.cur.regs.cursor
    match s.cur.queue q with
    | .filled w :: t => popVec d q n (((s.setCur (s.cur.setQueue q t)).setVec d (setField (s.vec d) (64 * j) 64 w.toNat)).setCursor (j + 1))
    | _ => s

/-- `vmov q, va` (R302): each entry is pushed as soon as the queue allows; it retires after its 32nd. -/
def execVmovToQueue (sy a : BitVec 5) (q : BitVec 4) (s : State) : Host.Outcome State Fault Refusal :=
  s.issue (.vmovToQueue sy a q) fun s =>
    let t := pushVec a.toNat q.toNat (32 - s.cur.regs.cursor) s
    if 32 ≤ t.cur.regs.cursor then .retire (t.setCursor 0) 0 else .begun t (.queueWrite q.toNat)

/-- `vmov vd, q` (R302). -/
def execVmovFromQueue (sy d : BitVec 5) (q : BitVec 4) (s : State) : Host.Outcome State Fault Refusal :=
  s.issue (.vmovFromQueue sy d q) fun s =>
    let t := popVec d.toNat q.toNat (32 - s.cur.regs.cursor) s
    if 32 ≤ t.cur.regs.cursor then .retire (t.setCursor 0) 0 else .begun t (.queueRead q.toNat)

/-- `vmov id, va, lane` (R301). -/
def execVmovToInteger (sy d a : BitVec 5) (l : BitVec 6) (s : State) : Host.Outcome State Fault Refusal :=
  s.issue (.vmovToInteger sy d a l) fun s => .retire (s.setX d.toNat (BitVec.ofNat 64 (s.lane a.toNat l.toNat))) 0

/-! ## Memory (R303 to R306) -/

/-- The active lanes of an access with their byte addresses, in ascending lane index. -/
def State.laneAddrs (s : State) (m : Nat) (addr : Nat → Nat) : List (Nat × Nat) :=
  (List.range 64).filterMap fun i => if s.active m i then some (i, addr i) else none

/-- The pieces of lane accesses: neighbouring lanes at consecutive words of one line are one piece (R87). -/
def lanePieces : List (Nat × Nat) → List (Nat × Nat × Nat) → List (Nat × Nat × Nat)
  | [], acc => acc.reverse
  | (i, a) :: t, (va, off, n) :: r =>
    if off + n = 4 * i ∧ va + n = a ∧ a / 128 = va / 128 then lanePieces t ((va, off, n + 4) :: r)
    else lanePieces t ((a, 4 * i, 4) :: (va, off, n) :: r)
  | (i, a) :: t, [] => lanePieces t [(a, 4 * i, 4)]

/-- Two parts lie in one line of one die. -/
def Part.sameLine (p q : Part) : Bool := decide (p.die = q.die ∧ p.addr / 128 = q.addr / 128 ∧ p.order = q.order ∧ p.inc = q.inc)

/-- Put a part with those of its line that go with it (R303): on an SO page only with those just before it, and those of a store that goes in
runs only where its words follow theirs, so that its lanes are performed in ascending order (R306, R357). -/
def addToLine (inRuns : Nat → Bool) (gs : List (List Part)) (p : Part) : List (List Part) :=
  let joins_ := fun (g : List Part) => match g.head? with | some q => q.sameLine p | none => false
  if p.order = 0 then
    match gs.getLast? with
    | some g =>
      if joins_ g && (!inRuns p.die || (match g.getLast? with | some q => q.addr + q.len == p.addr | none => false)) then gs.dropLast ++ [g ++ [p]]
      else gs ++ [[p]]
    | none => [[p]]
  else if gs.any joins_ then gs.map fun g => if joins_ g then g ++ [p] else g
  else gs ++ [[p]]

/-- The request that parts of one line go as, over n bytes from an address: each part's bytes at their places, a later lane's last. -/
def joinParts (g : List Part) (a n : Nat) : List Part :=
  let inside := g.filter fun p => decide (a ≤ p.addr) && decide (p.addr + p.len ≤ a + n)
  match inside with
  | [] => []
  | p :: _ => [{ p with addr := a, len := n, segs := inside.map fun q => (q.addr - a, q.off, q.len) }]

/-- The requests of the parts of a line: one; for a store that leaves the package, whose packet carries bytes without a mask (R127), one for
every run of words (DEDUCED, log 67). -/
def lineRequests (inRuns : Nat → Bool) (g : List Part) : List Part :=
  match g with
  | [] => []
  | p :: _ =>
    let lo := g.foldl (fun m q => min m q.addr) p.addr
    let whole := joinParts g lo (g.foldl (fun m q => max m (q.addr + q.len)) 0 - lo)
    if inRuns p.die then (whole.flatMap Part.runs).flatMap fun r => joinParts g (lo + r.1) r.2 else whole

/-- Insert a part by its lowest lane. -/
def insertPart (p : Part) : List Part → List Part
  | [] => [p]
  | q :: t => if p.off < q.off then p :: q :: t else q :: insertPart p t

/-- The requests of a vector access, in ascending order of their lowest lanes (R303, R304). -/
def mergeLines (inRuns : Nat → Bool) (ps : List Part) : List Part :=
  (((ps.foldl (addToLine inRuns) []).flatMap (lineRequests inRuns)).foldr insertPart [])

/-- A store of the executing core to a die leaves the package as packets. -/
def State.leaves (s : State) (write : Bool) (n : Nat) : Bool :=
  write && (match s.path s.focus.core.die n with | .self => false | .sibling => false | _ => true)

/-- A vector access to domain memory: every active lane is checked in order, ALIGN before its walk (R303). -/
def State.vecAccess (s : State) (ls : List (Nat × Nat)) (release : BitVec 3) (o : Op) : Eff :=
  let good := ls.takeWhile fun e => e.2 % 4 == 0
  match ls.drop good.length with
  | [] => s.accessWith (lanePieces ls []) release o (mergeLines (s.leaves o.req.isWrite)) id
  | (_, va) :: _ =>
    match s.plan s.focus.core (s.asks s.focus) s.asid o.req.isWrite true (fun _ => none) (lanePieces good []) with
    | (t, .fault cause x) => .abort t (.trans cause x)
    | (t, .need x) => .await t (.walk x)
    | (t, .ok _) => .abort t (.trans causeAlign va)

/-- The check of a lane at an untranslated address (R303 to R305). A lane of consecutive words stays in its base's space: one beyond it takes
BOUNDS. -/
def State.laneCheck (s : State) (base a : Nat) (seq store : Bool) : Option FaultInfo :=
  let fault := fun (st : Status) => if spaceOf base = 0 then FaultInfo.spad st a else FaultInfo.commons st a
  if !seq then s.untransCheck s.focus.core a 4 4 store
  else if base / 2 ^ 26 % 16 ≠ 0 ∨ spaceOf base = 3 then some (fault Status.access)
  else if a / 2 ^ 26 ≠ base / 2 ^ 26 then some (fault Status.bounds)
  else s.untransCheck s.focus.core a 4 4 store

/-- The scratchpad lines that lane accesses touch. -/
def spadLines (ls : List (Nat × Nat)) : List Nat :=
  distinct ((ls.filter fun e => spaceOf e.2 == 0).map fun e => e.2 % 2 ^ 26 / 4096)

/-- A vector access to an untranslated base: all lanes, or the fault of the lowest (R303). `o` is the ordering code. -/
def State.vecUntrans (s : State) (w : Word) (ls : List (Nat × Nat)) (seq : Bool) (p : Nat) (o : BitVec 3) (store : Option Nat) (vd : Nat) : Eff :=
  let base := field w 0 32
  if field w 32 31 ≠ 0 then .fault (.spad Status.access ((ls.head?.map (·.2)).getD base))
  else match ls.findSome? fun e => s.laneCheck base e.2 seq store.isSome with
    | some f => s.untransFault f
    | none =>
      if s.mustWait s.focus (if store.isSome then o else 0) (store.isNone && o != 0) false [] then .block .access
      else (s.focusLines (spadLines ls)).andThen p fun s =>
        let c := s.focus.core
        match store with
        | some v => .retire ((ls.foldl (fun t e => t.untransWrite c e.2 (bytesOf 4 (s.lane v e.1))) s).setP p Status.ok) 0
        | none =>
          let v := ls.foldl (fun v e => setField v (32 * e.1) 32 (ofBytes (s.untransRead c e.2 4))) (s.vec vd)
          .retire ((s.setVec vd v).setP p Status.ok) 0

/-- The mask of active lanes. -/
def maskOfLanes (ls : List (Nat × Nat)) : Word := BitVec.ofNat 64 (ls.foldl (fun n e => n + 2 ^ e.1) 0)

/-- A vector load (R304, R305); `seq` says that its lanes are consecutive words, `o` is its ordering code. -/
def State.vload (s : State) (w : Word) (ls : List (Nat × Nat)) (seq : Bool) (vd p : Nat) (o : BitVec 3) : Eff :=
  if bit w 63 then s.vecUntrans w ls seq p o none vd
  else s.vecAccess ls 0
    { Op.empty s.focus with plain := decide (p = 0), preg := p, acq := o != 0, dest := .v vd (maskOfLanes ls), size := 256,
                            faultAddr := (ls.head?.map (·.2)).getD w.toNat }

/-- A vector store. -/
def State.vstore (s : State) (w : Word) (ls : List (Nat × Nat)) (seq : Bool) (vs p : Nat) (o : BitVec 3) : Eff :=
  if bit w 63 then s.vecUntrans w ls seq p o (some vs) vs
  else s.vecAccess ls o
    { Op.empty s.focus with plain := decide (p = 0), preg := p, dest := .none, size := 256, req := .write,
                            data := ls.foldl (fun d e => writeNat d (4 * e.1) 4 (s.lane vs e.1)) [],
                            faultAddr := (ls.head?.map (·.2)).getD w.toNat }

/-- The addresses of 64 consecutive words. -/
def seqAddr (w : Word) (i : Nat) : Nat := if bit w 63 then field w 0 32 + 4 * i else (w + BitVec.ofNat 64 (4 * i)).toNat

/-- The addresses of a gather or scatter (R305). -/
def State.offsetAddr (s : State) (w : Word) (vb i : Nat) : Nat :=
  let off := sext64 32 (s.lane vb i)
  if bit w 63 then (BitVec.ofNat 64 (field w 0 32) + off).toNat % 2 ^ 32 else (w + off).toNat

/-- `vld` (R304). -/
def execVld (sy d : BitVec 5) (a : BitVec 4) (m o p : BitVec 3) (s : State) : Host.Outcome State Fault Refusal :=
  s.issue (.vld sy d a m o p) fun s =>
    let w := s.x a.toNat
    s.vload w (s.laneAddrs m.toNat (seqAddr w)) true d.toNat p.toNat o

/-- `vst` (R304). -/
def execVst (sy d : BitVec 5) (a : BitVec 4) (m o p : BitVec 3) (s : State) : Host.Outcome State Fault Refusal :=
  s.issue (.vst sy d a m o p) fun s =>
    let w := s.x a.toNat
    s.vstore w (s.laneAddrs m.toNat (seqAddr w)) true d.toNat p.toNat o

/-- `vgath` (R305). -/
def execVgath (sy d : BitVec 5) (a b : BitVec 4) (m p : BitVec 3) (s : State) : Host.Outcome State Fault Refusal :=
  s.issue (.vgath sy d a b m p) fun s =>
    let w := s.x a.toNat
    s.vload w (s.laneAddrs m.toNat (s.offsetAddr w b.toNat)) false d.toNat p.toNat 0

/-- `vscat` (R305). -/
def execVscat (sy d : BitVec 5) (a b : BitVec 4) (m p : BitVec 3) (s : State) : Host.Outcome State Fault Refusal :=
  s.issue (.vscat sy d a b m p) fun s =>
    let w := s.x a.toNat
    s.vstore w (s.laneAddrs m.toNat (s.offsetAddr w b.toNat)) false d.toNat p.toNat 0

/-! ## Mask registers (R307) -/

/-- `mand` (R307). -/
def execMand (sy : BitVec 5) (d a b : BitVec 3) (s : State) : Host.Outcome State Fault Refusal :=
  s.issue (.mand sy d a b) fun s => .retire (s.setMask d.toNat (s.mask a.toNat &&& s.mask b.toNat)) 0

/-- `mor` (R307). -/
def execMor (sy : BitVec 5) (d a b : BitVec 3) (s : State) : Host.Outcome State Fault Refusal :=
  s.issue (.mor sy d a b) fun s => .retire (s.setMask d.toNat (s.mask a.toNat ||| s.mask b.toNat)) 0

/-- `mnot` (R307). -/
def execMnot (sy : BitVec 5) (d a : BitVec 3) (s : State) : Host.Outcome State Fault Refusal :=
  s.issue (.mnot sy d a) fun s => .retire (s.setMask d.toNat (~~~(s.mask a.toNat))) 0

/-- `mpop` (R307). -/
def execMpop (sy : BitVec 5) (a : BitVec 3) (r : BitVec 5) (s : State) : Host.Outcome State Fault Refusal :=
  s.issue (.mpop sy a r) fun s => .retire (s.setX r.toNat (BitVec.ofNat 64 (popCount 64 (s.mask a.toNat).toNat))) 0

/-- `mffs` (R307). -/
def execMffs (sy : BitVec 5) (a : BitVec 3) (r : BitVec 5) (s : State) : Host.Outcome State Fault Refusal :=
  s.issue (.mffs sy a r) fun s =>
    let n := (s.mask a.toNat).toNat
    .retire (s.setX r.toNat (BitVec.ofNat 64 (if n = 0 then 0 else 1 + lowBit 64 n))) 0

end Sys2Proof.Machine
end

