-- ==== Sys2Proof/Machine/Complete.lean ====
section
/-!
DEFINITION. Completion of an operation that a stream has sent (R258): the write of its destination, its status, the stream that it held,
and the remote fault of a plain form.
-/

namespace Sys2Proof.Machine

/-- The cells of an accumulator that 16 KiB of little-endian words hold (R317). -/
def tileOf (m : Memory) : Tile := Sparse.tabulate (fun _ => 0) 4096 fun k => BitVec.ofNat 32 (readNat m (4 * k) 4)

/-- Replace the entry that an operation reserved in a queue (R263). -/
def fillEntry (id : Nat) (w : Word) (l : List QEntry) : List QEntry := l.map fun e => if e = .reserved id then .filled w else e

/-- Cancel the entry that an operation reserved in a queue (R263). -/
def cancelEntry (id : Nat) (l : List QEntry) : List QEntry := l.filter fun e => decide (e ≠ .reserved id)

/-- The lanes of a mask take the words of a buffer; the others keep theirs (R304). -/
def mergeLanes (v : BitVec 2048) (mask : Word) (m : Memory) : BitVec 2048 :=
  BitVec.ofNat 2048 (ofLanes ((List.range 64).map fun i => if mask.getLsbD i then readNat m (4 * i) 4 else laneOf v i))

/-- Write the destination of an operation that has completed with OK (R258). -/
def State.deliverData (s : State) (o : Op) : State :=
  let c := o.owner.core
  let k := s.core c
  match o.dest with
  | .x n =>
    let t := s.stream o.owner
    s.setStream o.owner { t with x := Sparse.set (fun _ => 0) t.x n (BitVec.ofNat 64 (readNat o.data 0 o.size)) }
  | .queue q => s.setCore c (k.setQueue q (fillEntry o.id (BitVec.ofNat 64 (readNat o.data 0 o.size)) (k.queue q)))
  | .v vd mask =>
    let v := Sparse.get (fun _ => 0) k.regs.v vd
    s.setCore c { k with regs := { k.regs with v := Sparse.set (fun _ => 0) k.regs.v vd (mergeLanes v mask o.data) } }
  | .k kd =>
    let w : Cap := ⟨BitVec.ofNat 128 (readNat o.data 0 16), readNat o.data 16 1 == 1⟩
    s.setCore c { k with regs := { k.regs with k := Sparse.set (fun _ => Cap.empty) k.regs.k kd w } }
  | .tile z => s.setCore c { k with regs := { k.regs with z := Sparse.set (fun _ => []) k.regs.z z (tileOf o.data) } }
  | .spad a => s.spadWrite c a (readBytes o.data 0 o.size)
  | _ => s

/-- The scratchpad lines that an operation's destination needs (R270). -/
def Op.spadLines (o : Op) : List Nat := match o.dest with | .spad a => linesOf a o.size | _ => []

/-- Undo what a plain operation did at issue when it ends with a fault: its tokens come back, and a reserved entry is cancelled (R258,
R263, R399). -/
def State.undoIssue (s : State) (o : Op) : State :=
  let y := match s.instrAt o.owner with | some j => syncBits j | none => 0
  let t := s.stream o.owner
  let s := s.setStream o.owner { t with hold := none, fromPrev := t.fromPrev + ofBool (waitsPrev y), fromNext := t.fromNext + ofBool (waitsNext y) }
  match o.dest with
  | .queue q => let k := s.core o.owner.core; s.setCore o.owner.core (k.setQueue q (cancelEntry o.id (k.queue q)))
  | _ => s

/-- The registers that waited for an operation are free, but for the marks of others that name them, the signals that waited for it are
added, and a stream that a restore left waiting for it runs (R407). -/
def State.releaseOp (s : State) (o : Op) : State :=
  let t := s.stream o.owner
  let s := s.setStream o.owner { t with busy := o.targets.foldl List.erase t.busy, run := if t.run = .atGrow o.id then .running else t.run }
  let s := (s.dropOp o.id).settle o.owner o.id
  match o.dest with
  | .flag n => let src := s.source o.owner.core.die n; s.setSource o.owner.core.die n { src with flagOut := false }
  | _ => s

/-- An operation of the M cluster that stores an accumulator (R317). -/
def Op.isTileStore (o : Op) : Bool := decide (o.owner.cl = .m) && o.size == 16384 && decide (o.req = .write)

/-- The address that the remote fault of a plain operation records: for a vector access that of the lowest lane that failed (R304, R308). -/
def Op.failAddr (o : Op) : Nat :=
  if o.owner.cl = .v ∧ 8 < o.size then ((o.parts.find? fun p => decide (p.isDone = true ∧ p.st ≠ .done Status.ok)).map (·.rep)).getD o.faultAddr else o.faultAddr

/-- An operation completes with a status (R258). A plain form retires or takes a remote fault; a `.s` form writes its p register. -/
def State.completeOp (s : State) (o : Op) (st : Status) : State :=
  let s := if st = Status.ok then s.deliverData o else s
  let s := s.releaseOp o
  let i := o.owner
  if st = Status.ok then
    let s := s.setStream i ((s.stream i).setStatus o.preg st)
    let s := if o.isTileStore then s.pulse i.core 10 else s
    if o.plain then (s.setStream i { s.stream i with hold := none }).resumeAfter i else s
  else if o.plain then (s.undoIssue o).takeFault i (.remote st o.failAddr)
  else
    let s := match o.dest with
      | .queue q => let k := s.core i.core; s.setCore i.core (k.setQueue q (fillEntry o.id 0 (k.queue q)))
      | _ => s
    s.setStream i ((s.stream i).setStatus o.preg st)

/-- Operations that complete by a step of their own: the map unit's, the copy engine's, slab growths, and the pages that an instruction
waits for before it issues, and `kvattn`. -/
def Op.ownStep (o : Op) : Bool :=
  (match o.grow with | some g => !g.ended | none => false) ||
    (match o.dest with
      | .line _ => true | .copy => true | .probe => true | .attn _ _ => true | .plane => true | .node => true | .walk _ _ _ _ _ => true
      | _ => false)

/-- `MEMORY_ACCESS_COMPLETE` (R258): an access whose parts have all been performed and answered completes. Where its bytes go to a region
line of the scratchpad whose fill is under way, it waits for it, and takes a failure as its own (R170). -/
def execMemoryAccessComplete (op : Nat) (s : State) : Host.Outcome State Fault Refusal :=
  match s.op? op with
  | none => .next s
  | some o =>
    if !o.performed then .next ((s.tryOp op).shut.performOp op)
    else if o.ownStep || s.awayOp op then .next s
    else if o.status ≠ Status.ok then .next (s.completeOp o o.status)
    else match State.readyLines ⟨o.owner, false, .op o.id⟩ s o.spadLines with
      | .ok s => .next (s.completeOp o Status.ok)
      | .wait s l =>
        .next (if (s.core o.owner.core).line l = .filling then s.setOp { o with tasks := o.tasks ++ [lineTask false l] } else s)
      | .later s => .next s
      | .failed s st _ => .next (s.completeOp o st)
      | .fault s cause va => .next ((s.releaseOp o).undoIssue o |>.takeFault o.owner (.trans cause va))
      | .need s _ => .next s

end Sys2Proof.Machine
end

