-- ==== Sys2Proof/Machine/Matrix.lean ====
section
/-!
DEFINITION. The matrix cluster (15_isa_matrix.md): the format queue and its words, `mma` and `mmas`, tile adjusts, accumulator loads and
stores, `mcvt`, and the transforms.
-/

namespace Sys2Proof.Machine

/-! ## Accumulators -/

/-- An accumulator of the executing core. -/
def State.tile (s : State) (n : Nat) : Tile := Sparse.get (fun _ => []) s.cur.regs.z n

/-- Write an accumulator. -/
def State.setTile (s : State) (n : Nat) (t : Tile) : State :=
  s.setCur { s.cur with regs := { s.cur.regs with z := Sparse.set (fun _ => []) s.cur.regs.z n t } }

/-- Cell (i, j). -/
def cell (t : Tile) (i j : Nat) : Nat := (Sparse.get (fun _ => (0 : Cell)) t (64 * i + j)).toNat

/-- The accumulator whose cells a function gives, and the classes raised. -/
def tileFrom (f : Nat → Nat → Nat × Classes) : Tile × Classes :=
  let l := (List.range 4096).map fun k => f (k / 64) (k % 64)
  (l.zipIdx.filterMap (fun e => if e.1.1 % 2 ^ 32 = 0 then none else some (e.2, BitVec.ofNat 32 e.1.1)), l.foldl (fun c e => c ||| e.2) 0)

/-! ## Format words (R220 to R222, R178, R179, R310, R311) -/

/-- Fields of the matrix layout (R220). -/
def fwA (w : Word) : Nat := field w 59 5
def fwB (w : Word) : Nat := field w 54 5
def fwO (w : Word) : Nat := field w 49 5
def fwAcc (w : Word) : Bool := bit w 48
def fwSemi (w : Word) : Nat := field w 45 3
def fwTa (w : Word) : Bool := bit w 44
def fwTb (w : Word) : Bool := bit w 43
def fwK (w : Word) : Nat := field w 39 4
def fwSpn (w : Word) : Nat := field w 36 3
def fwRm (w : Word) : Nat := field w 31 3
def fwSat (w : Word) : Bool := bit w 30
def fwSca (w : Word) : Nat := field w 28 2
def fwScb (w : Word) : Nat := field w 26 2
def fwSoa (w : Word) : Nat := field w 13 13
def fwSob (w : Word) : Nat := field w 0 13

/-- The checks of the whole word in the matrix layout (R222). -/
def fwWhole (w : Word) : Bool :=
  (decide (fwA w ≤ 13) || fwA w == 16) && (decide (fwB w ≤ 13) || fwB w == 16) && (decide (fwO w ≤ 14) || fwO w == 16) &&
    decide (fwSemi w ≤ 4) && (fwK w == 0 || (decide (2 ≤ fwK w) && decide (fwK w ≤ 8))) && decide (fwSpn w ≤ 4) && decide (fwRm w ≤ 4) &&
    fwSca w != 3 && fwScb w != 3

/-- `k` agrees with whether PINTk is in use. -/
def fwKOk (w : Word) (pint : Bool) : Bool := if pint then decide (2 ≤ fwK w) && decide (fwK w ≤ 8) else fwK w == 0

/-- The checks that `mma` (dense) and `mmas` add (R222, R311). -/
def fwMul (dense : Bool) (w : Word) : Bool :=
  let int := fun c => c == 11 || c == 12
  fwWhole w && fwKOk w (fwA w == 16 || fwB w == 16) && (!fwAcc w || (int (fwA w) && int (fwB w))) &&
    (fwSpn w == 0 || decide (fwA w ≤ 6) || (decide (9 ≤ fwA w) && decide (fwA w ≤ 13))) &&
    (isBlock (fwA w) == (fwSca w != 0)) && (isBlock (fwB w) == (fwScb w != 0)) && ((fwSpn w == 0) == dense) &&
    !(fwAcc w && decide (1 ≤ fwSemi w) && decide (fwSemi w ≤ 3))

/-- The radices of the transform layout (R221). -/
def radixOf (c : Nat) : Nat := match c with | 0 => 2 | 1 => 3 | 2 => 4 | 3 => 5 | _ => 8

/-- The stages' radices. -/
def fwRadices (w : Word) : List Nat := (List.range (field w 61 3)).map fun i => radixOf (field w (43 + 3 * i) 3)

/-- The checks of a word in the transform layout, with the generator's length (R222, R311). -/
def fwTransform (lt : Nat) (w : Word) : Bool :=
  let n := field w 61 3
  let p := (fwRadices w).foldl (· * ·) 1
  decide (1 ≤ n) && decide (n ≤ 6) &&
    ((List.range 6).all fun i => if i < n then decide (field w (43 + 3 * i) 3 ≤ 4) else field w (43 + 3 * i) 3 == 0) &&
    field w 41 2 != 3 && field w 36 4 == 0 && field w 0 34 == 0 && decide (p ≤ 64) && p == lt

/-- No word can come any more: the A cluster has closed the queue, has halted, or is blocked at an instruction that reads q15 or waits for
M's token, where M has sent neither the entry nor the token (R179). -/
def Core.noMoreWords (k : Core) : Bool :=
  k.store.fqClosed || k.ca.run == .halted || (k.ca.wait == some (.queueRead 15) && (k.queue 15).isEmpty) ||
    (k.ca.wait.isSome && !k.ca.issued && k.ca.fromNext == 0 && (match k.instrAt .a with | some i => waitsNext (syncBits i) | none => false))

/-- A tile command meets the word at the head of `fq` (R310): an empty queue blocks or faults; a word that fails stays. -/
def State.withWord (s : State) (ok : Word → Bool) (f : Word → Eff) : Eff :=
  match s.cur.store.fq with
  | [] =>
    if s.cur.noMoreWords then .abort (s.setCur (s.cur.setReg 0x75 (s.cur.reg 0x75 + 1))) { kind := 9, cause := 0 }
    else .block .formatQueue
  | w :: _ => if ok w then f w else .fault (.illegal .fmtWord)

/-- Pop the word. -/
def State.popWord (s : State) : State :=
  let k := s.cur
  s.setCur { k with store := { k.store with fq := k.store.fq.tail } }

/-- A tile command retires: crossbar source 8 pulses (R381). -/
def State.tileDone (s : State) (cs : Classes) : Eff := .retire (s.pulse s.focus.core 8) cs

/-! ## Operands of `mma` and `mmas` (R313, R185 to R189) -/

/-- Bytes of a dense operand's element data: 64 rows of 64 elements. -/
def denseBytes (code : Nat) : Nat := 512 * elemBits code

/-- Present elements of a sparse group (R220). -/
def sparseN (spn : Nat) : Nat := match spn with | 1 => 8 | 2 => 16 | 3 => 32 | _ => 48

/-- Bytes of a sparse group. -/
def groupBytes (code spn : Nat) : Nat := 8 + sparseN spn * elemBits code / 8

/-- Blocks in a stored row. -/
def blocksPerRow (code : Nat) : Nat := if code = 16 then 1 else if isBlock code then 2 else 0

/-- An operand as it was read: its element data and its scales. -/
structure OperandData where
  code : Nat
  planes : Nat
  zi : Bool
  data : List Byte
  scales : List Byte

/-- The scale of the block that holds position t of stored row r. -/
def OperandData.scaleOf (o : OperandData) (r t : Nat) : Nat :=
  (o.scales.getD (r * blocksPerRow o.code + t / blockLen o.code) 0).toNat

/-- A PINT element read with k planes (R188): (q × 2^(8 − k) + ck). -/
def pintValue (k v : Nat) : Int :=
  if k = 8 then signed 8 v else signed 8 v / (2 ^ (8 - k) : Nat) * (2 ^ (8 - k) : Nat) + (2 ^ (7 - k) : Nat)

/-- Element t of the stored row whose bits are `row` (R313). -/
def OperandData.elem (o : OperandData) (r row t : Nat) : Ext × Classes :=
  if o.code = 16 then (underScale (o.scaleOf r t) (Ext.ofInt (pintValue o.planes (planeElem row t)) 0), 0)
  else
    let w := elemBits o.code
    let (x, c) := fromElem o.code o.zi (row / 2 ^ (w * t) % 2 ^ w)
    (if isBlock o.code then underScale (o.scaleOf r t) x else x, c)

/-- The bits of stored row r of a dense operand. -/
def OperandData.row (o : OperandData) (r : Nat) : Nat :=
  ofBytes ((o.data.drop (8 * elemBits o.code * r)).take (8 * elemBits o.code))

/-- The present positions of a sparse group and their elements; surplus positions contribute nothing, and a count other than N raises
invalid (R189). -/
def OperandData.sparseRow (o : OperandData) (spn r : Nat) : List (Nat × (Ext × Classes)) × Classes :=
  let g := groupBytes o.code spn
  let b := (o.data.drop (g * r)).take g
  let mask := ofBytes (b.take 8)
  let row := ofBytes (b.drop 8)
  let w := elemBits o.code
  let n := sparseN spn
  let ps := (List.range 64).filter fun t => mask / 2 ^ t % 2 == 1
  ((ps.take n).zipIdx.map (fun e =>
      let (x, c) := fromElem o.code o.zi (row / 2 ^ (w * e.2) % 2 ^ w)
      (e.1, (if isBlock o.code then underScale (o.scaleOf r e.1) x else x, c))),
    if ps.length = n then 0 else Classes.invalid)

/-- The dense rows of an operand, element by element. -/
def OperandData.rows (o : OperandData) : List (List (Ext × Classes)) :=
  (List.range 64).map fun r => let row := o.row r; (List.range 64).map fun t => o.elem r row t

/-- An element of a table of rows. -/
def at2 (l : List (List (Ext × Classes))) (i j : Nat) : Ext × Classes := ((l.getD i []).getD j (Ext.zero, 0))

/-! ## Cells (R197 to R200) -/

/-- The group size of a format (R197). -/
def groupSize (code k : Nat) : Nat :=
  if code = 16 then (if 5 ≤ k then 4 else if 3 ≤ k then 8 else 16)
  else if 16 ≤ elemBits code then 2 else if 6 ≤ elemBits code then 4 else 8

/-- ⊗ of a semiring, and whether it created a NaN (R199). -/
def semiMul (semi : Nat) (a b : Ext) : Exact :=
  match semi with
  | 0 => a.mul b
  | 1 => if a.isNan || b.isNan then (.nan, false) else if a = .inf false ∨ b = .inf false then (.inf false, false) else a.add b
  | 2 => if a.isNan || b.isNan then (.nan, false) else if a = .inf true ∨ b = .inf true then (.inf true, false) else a.add b
  | _ => a.mul b

/-- ⊕ of a semiring. -/
def semiAdd (semi : Nat) (a b : Ext) : Exact :=
  match semi with
  | 0 => a.add b
  | 1 => (a.min b, false)
  | _ => (a.max b, false)

/-- True for or-and: non-zero or NaN. -/
def truth (x : Ext) : Bool := x.isNan || !x.isZero

/-- Round a cell of the FP32 accumulate format. -/
def cellRound (zo nanIn : Bool) (v : Exact) : Nat × Classes := roundLane 0 0 false zo nanIn v

/-- `cellstep` with FP32 accumulation (R198). -/
def cellStepFp (semi : Nat) (zo : Bool) (c : Nat) (ps : List (Ext × Ext)) : Nat × Classes :=
  if semi = 4 then (if truth (v32 c) || ps.any fun p => truth p.1 && truth p.2 then 0x3F800000 else 0, 0)
  else
    let nanIn := (v32 c).isNan || ps.any fun p => p.1.isNan || p.2.isNan
    cellRound zo nanIn (ps.foldl
      (fun (v : Exact) p =>
        let (q, i) := semiMul semi p.1 p.2
        let (r, j) := semiAdd semi v.1 q
        (r, v.2 || i || j))
      (v32 c, false))

/-- The integer that an exact integer element is. -/
def Ext.toInt : Ext → Int
  | .fin n m e => let v : Int := (m * pow2 e : Nat); if n then -v else v
  | _ => 0

/-- `cellstep` with INT32 accumulation (R200). -/
def cellStepInt (semi : Nat) (sat : Bool) (c : Nat) (ps : List (Ext × Ext)) : Nat × Classes :=
  if semi = 4 then (if c != 0 || ps.any fun p => truth p.1 && truth p.2 then 1 else 0, 0)
  else satInt32 sat (ps.foldl (fun v p => v + p.1.toInt * p.2.toInt) (signed 32 c))

/-- Runs of g entries. -/
def runsOf {α : Type} (g : Nat) : Nat → List α → List (List α)
  | 0, _ => []
  | fuel + 1, l => if l.isEmpty then [] else l.take g :: runsOf g fuel (l.drop g)

/-- One step of a cell under a word: FP32 or INT32 accumulation; the classes raised are united. -/
def stepCell (w : Word) (zo : Bool) (r : Nat × Classes) (run : List (Ext × Ext)) : Nat × Classes :=
  let (v, k) := if fwAcc w then cellStepInt (fwSemi w) (fwSat w) r.1 run else cellStepFp (fwSemi w) zo r.1 run
  (v, r.2 ||| k)

/-- The classes of a cell's operands: or-and raises no flag (R198, R199). -/
def inputClasses (w : Word) (ps : List ((Ext × Classes) × (Ext × Classes))) : Classes :=
  if fwSemi w = 4 then 0 else ps.foldl (fun k p => k ||| p.1.2 ||| p.2.2) 0

/-- The products of a cell without the classes. -/
def pairValues (ps : List ((Ext × Classes) × (Ext × Classes))) : List (Ext × Ext) := ps.map fun p => (p.1.1, p.2.1)

/-- A cell of `mma` (R314): its products in ascending k, g at a time. -/
def mmaCell (w : Word) (g : Nat) (zo : Bool) (c : Nat) (ps : List ((Ext × Classes) × (Ext × Classes))) : Nat × Classes :=
  if ps.isEmpty then (if fwAcc w then (c, 0) else cellRound zo (v32 c).isNan (v32 c, false))
  else (runsOf g 64 (pairValues ps)).foldl (stepCell w zo) (c, inputClasses w ps)

/-- The whole tile: `zc ⊕ A ⊗ B` (R312, R314). -/
def mmaTile (w : Word) (zo : Bool) (zc : Tile) (a b : OperandData) : Tile × Classes :=
  let g := min (groupSize a.code (fwK w)) (groupSize b.code (fwK w))
  let br := b.rows
  let bAt := fun (k j : Nat) => if fwTb w then at2 br k j else at2 br j k
  if fwSpn w = 0 then
    let ar := a.rows
    let aAt := fun (i k : Nat) => if fwTa w then at2 ar k i else at2 ar i k
    tileFrom fun i j => mmaCell w g zo (cell zc i j) ((List.range 64).map fun k => (aAt i k, bAt k j))
  else
    let ar := (List.range 64).map fun i => a.sparseRow (fwSpn w) i
    let (t, c) := tileFrom fun i j => mmaCell w g zo (cell zc i j) ((ar.getD i ([], 0)).1.map fun e => (e.2, bAt e.1 j))
    (t, ar.foldl (fun c r => c ||| r.2) c)

/-! ## `mma`, `mmas` (R312 to R314) -/

/-- Bytes of an operand's element data in its slot. -/
def operandBytes (w : Word) (isA : Bool) : Nat :=
  if isA ∧ fwSpn w ≠ 0 then 64 * groupBytes (fwA w) (fwSpn w) else denseBytes (if isA then fwA w else fwB w)

/-- Bytes of an operand's scales. -/
def scaleBytes (code : Nat) : Nat := 64 * blocksPerRow code

/-- The size and scale checks of an operand (R313). -/
def operandCheck (w : Word) (isA : Bool) (rg : Nat) (r : Ring) : Option FaultInfo :=
  let code := if isA then fwA w else fwB w
  let src := if isA then fwSca w else fwScb w
  let so := if isA then fwSoa w else fwSob w
  if r.slotBytes < operandBytes w isA + (if src = 1 then scaleBytes code else 0) then some (.ring rg Status.bounds r.addr)
  else if src = 2 ∧ spadSize < 256 * so + scaleBytes code then some (.spad Status.bounds (256 * so))
  else none

/-- Read an operand from a slot, and its scales. -/
def State.operand (s : State) (w : Word) (isA : Bool) (slot : Nat) : OperandData :=
  let c := s.focus.core
  let code := if isA then fwA w else fwB w
  let src := if isA then fwSca w else fwScb w
  let n := operandBytes w isA
  { code := code, planes := fwK w, zi := s.zi (bit w 35), data := s.untransRead c slot n,
    scales := if src = 1 then s.untransRead c (slot + n) (scaleBytes code)
              else if src = 2 then s.spadRead c (256 * (if isA then fwSoa w else fwSob w)) (scaleBytes code) else [] }

/-- The ring that an operand names, checked for the M cluster (R175). -/
def State.operandRing (s : State) (rg : Nat) : Except FaultInfo Ring :=
  let c := s.focus.core
  match s.ring c rg with
  | .error st => .error (.ring rg st (s.cur.ringAddr rg))
  | .ok r => if r.consumer c s.cur then .ok r else .error (.ring rg Status.access (s.cur.ringAddr rg))

/-- The scratchpad lines that hold an operand: those of its slot, and those of its scales (R170, R313). -/
def operandLines (w : Word) (isA : Bool) (slot : Nat) : List Nat :=
  let code := if isA then fwA w else fwB w
  let src := if isA then fwSca w else fwScb w
  (if spaceOf slot = 0 then linesOf (slot % 2 ^ 26) (operandBytes w isA + if src = 1 then scaleBytes code else 0) else []) ++
    (if src = 2 then linesOf (256 * if isA then fwSoa w else fwSob w) (scaleBytes code) else [])

/-- The operands of a command under a word (R314): the ring checks, the size and scale checks, the slots, whose reads are acquires, and the
region lines that hold them; the state passed on has the word and both slots popped. A wait for B's slot is marked apart from one for A's
(R180). -/
def State.mulOperands (s : State) (w : Word) (a b : Nat) (f : State → OperandData → OperandData → Eff) : Eff :=
  match s.operandRing a, s.operandRing b with
  | .error e, _ => .fault e
  | _, .error e => .fault e
  | .ok ra, .ok rb =>
    match operandCheck w true a ra with
    | some e => .fault e
    | none =>
      match operandCheck w false b rb with
      | some e => .fault e
      | none =>
        let id := s.focus.core
        let same := ringKey id ra.addr == ringKey id rb.addr
        let ka := s.readsOf (ringKey id ra.addr)
        let kb := s.readsOf (ringKey id rb.addr) + ofBool same
        if ra.filled ≤ ka then .await (s.countRingWait a) (.ring a)
        else if rb.filled ≤ kb then .await (s.countRingWait (16 + b)) (.ring (16 + b))
        else if s.mustWait s.focus 0 true false [] then .block .access
        else
          let slotA := ra.slotAddr id (ra.tail + ka)
          let slotB := rb.slotAddr id (rb.tail + kb)
          (s.focusLines (operandLines w true slotA ++ operandLines w false slotB)).andThen 0 fun s =>
            let x := s.operand w true slotA
            let y := s.operand w false slotB
            let s := s.popWord.popSlot id ra
            f (match s.ring id b with | .ok r => s.popSlot id r | .error _ => s) x y

/-- `mma` and `mmas` (R314). -/
def mulBody (dense : Bool) (d c a b : Nat) (s : State) : Eff :=
  s.withWord (fwMul dense) fun w => s.mulOperands w a b fun s x y =>
    let (t, cs) := mmaTile w (s.zo (bit w 34)) (s.tile c) x y
    (s.setTile d t).tileDone cs

/-- `mma` (R312). -/
def execMma (sy : BitVec 5) (d c a b : BitVec 4) (s : State) : Host.Outcome State Fault Refusal :=
  s.issue (.mma sy d c a b) (mulBody true d.toNat c.toNat a.toNat b.toNat)

/-- `mmas` (R312). -/
def execMmas (sy : BitVec 5) (d c a b : BitVec 4) (s : State) : Host.Outcome State Fault Refusal :=
  s.issue (.mmas sy d c a b) (mulBody false d.toNat c.toNat a.toNat b.toNat)

/-! ## Tile adjusts (R316) -/

/-- `mzero` (R316). -/
def mzeroBody (d m : Nat) (s : State) : Eff :=
  let v := match m with | 1 => 0x7F800000 | 2 => 0xFF800000 | 3 => 0xFF800000 | _ => 0
  .retire (s.setTile d (tileFrom fun _ _ => (v, 0)).1) 0

def execMzero (sy : BitVec 5) (d : BitVec 4) (m : BitVec 3) (s : State) : Host.Outcome State Fault Refusal :=
  s.issue (.mzero sy d m) (mzeroBody d.toNat m.toNat)

/-- `mtr` (R316). -/
def mtrBody (d a : Nat) (s : State) : Eff :=
  let t := s.tile a
  .retire (s.setTile d (tileFrom fun i j => (cell t j i, 0)).1) 0

def execMtr (sy : BitVec 5) (d a : BitVec 4) (s : State) : Host.Outcome State Fault Refusal :=
  s.issue (.mtr sy d a) (mtrBody d.toNat a.toNat)

/-- One cell of `madd` and `msc`: flushed, combined, rounded. -/
def adjustCell (zi zo : Bool) (f : Ext → Ext → Exact) (a b : Nat) : Nat × Classes :=
  let (x, c1) := fp32.input zi a
  let (y, c2) := fp32.input zi b
  let (w, c3) := roundLane 0 0 false zo (x.isNan || y.isNan) (f x y)
  (w, c1 ||| c2 ||| c3)

/-- `madd` (R316). -/
def maddBody (d a b : Nat) (s : State) : Eff :=
  let x := s.tile a
  let y := s.tile b
  let (t, c) := tileFrom fun i j => adjustCell (s.zi false) (s.zo false) Ext.add (cell x i j) (cell y i j)
  .retire (s.setTile d t) c

def execMadd (sy : BitVec 5) (d a b : BitVec 4) (s : State) : Host.Outcome State Fault Refusal :=
  s.issue (.madd sy d a b) (maddBody d.toNat a.toNat b.toNat)

/-- `mmov` (R316). -/
def mmovBody (d a : Nat) (s : State) : Eff := .retire (s.setTile d (s.tile a)) 0

def execMmov (sy : BitVec 5) (d a : BitVec 4) (s : State) : Host.Outcome State Fault Refusal :=
  s.issue (.mmov sy d a) (mmovBody d.toNat a.toNat)

/-- `msc` (R316): the zb field names an integer register. -/
def mscBody (d a i : Nat) (s : State) : Eff :=
  let x := s.tile a
  let v := (s.x i).toNat % 2 ^ 32
  let (t, c) := tileFrom fun i j => adjustCell (s.zi false) (s.zo false) Ext.mul (cell x i j) v
  .retire (s.setTile d t) c

def execMsc (sy : BitVec 5) (d a i : BitVec 4) (s : State) : Host.Outcome State Fault Refusal :=
  s.issue (.msc sy d a i) (mscBody d.toNat a.toNat i.toNat)

/-! ## Accumulators and memory (R317) -/

/-- The check of 16 KiB at an untranslated base: the fault of the lowest address. The base's alignment comes before it, where R317 and R168 give
no order (log 88). -/
def State.tileCheck (s : State) (w : Word) (store : Bool) : Option FaultInfo :=
  let base := field w 0 32
  if field w 32 31 ≠ 0 then some (.spad Status.access base)
  else if base % 128 ≠ 0 then some (if spaceOf base = 0 then .spad Status.access base else .commons Status.access base)
  else (List.range 128).findSome? fun i => s.laneCheck base (base + 128 * i) true store

/-- The bytes of an accumulator. -/
def tileBytes (t : Tile) : List Byte := (List.range 4096).flatMap fun k => bytesOf 4 (cell t (k / 64) (k % 64))

/-- `mldz` (R317). -/
def execMldz (sy : BitVec 5) (z : BitVec 4) (a : BitVec 5) (s : State) : Host.Outcome State Fault Refusal :=
  s.issue (.mldz sy z a) fun s =>
    let w := s.x a.toNat
    if bit w 63 then
      match s.tileCheck w false with
      | some f => s.untransFault f
      | none =>
        if s.acquiring then .block .access
        else (s.untransReady (field w 0 32) 16384).andThen 0 fun s =>
          .retire (s.setTile z.toNat (tileOf (bufferOf (s.untransRead s.focus.core (field w 0 32) 16384)))) 0
    else if w.toNat % 128 ≠ 0 then .fault (.trans causeAlign w.toNat)
    else s.access (pieces w.toNat 16384) 0
      { Op.empty s.focus with dest := .tile z.toNat, size := 16384, faultAddr := w.toNat }

/-- `mstz` (R317): its completion pulses crossbar source 10. -/
def execMstz (sy : BitVec 5) (z : BitVec 4) (a : BitVec 5) (s : State) : Host.Outcome State Fault Refusal :=
  s.issue (.mstz sy z a) fun s =>
    let w := s.x a.toNat
    let bs := tileBytes (s.tile z.toNat)
    if bit w 63 then
      match s.tileCheck w true with
      | some f => s.untransFault f
      | none =>
        if s.acquiring then .block .access
        else (s.untransReady (field w 0 32) 16384).andThen 0 fun s =>
          .retire ((s.untransWrite s.focus.core (field w 0 32) bs).pulse s.focus.core 10) 0
    else if w.toNat % 128 ≠ 0 then .fault (.trans causeAlign w.toNat)
    else s.access (pieces w.toNat 16384) 0
      { Op.empty s.focus with dest := .none, size := 16384, req := .write, data := bufferOf bs, faultAddr := w.toNat }

/-! ## `mcvt` (R318) -/

/-- The word check of `mcvt`. -/
def fwConvert (w : Word) : Bool := fwWhole w && fwKOk w (fwO w == 16)

/-- One output row of `mcvt`: its data bytes, its scales and its classes. -/
def convertRow (w : Word) (zo : Bool) (xs : List Ext) (ds : List Nat) : List Byte × List Byte × Classes :=
  let o := fwO w
  let rm := fwRm w
  if o = 16 then
    let (x, es, c) := quantBlock o rm zo xs ds
    (bytesOf 64 (planesOf es), [BitVec.ofNat 8 x], c)
  else if isBlock o then
    let (x0, e0, c0) := quantBlock o rm zo (xs.take 32) (ds.take 32)
    let (x1, e1, c1) := quantBlock o rm zo (xs.drop 32) (ds.drop 32)
    (bytesOf (8 * elemBits o) (packElems (elemBits o) (e0 ++ e1)), [BitVec.ofNat 8 x0, BitVec.ofNat 8 x1], c0 ||| c1)
  else
    let es := (xs.zip ds).map fun p => toElem o rm p.2 (fwSat w) zo p.1
    (bytesOf (8 * elemBits o) (packElems (elemBits o) (es.map (·.1))), [], es.foldl (fun c e => c ||| e.2) 0)

/-- A cell as `mcvt` reads it: INT32, or FP32 flushed, times the scale factor of a scaled conversion (R340). -/
def convertInput (int zi : Bool) (scale : Option (Ext × Classes)) (v : Nat) : Ext × Classes :=
  let (x, c) := if int then (Ext.ofInt (signed 32 v) 0, 0) else fp32.input zi v
  match scale with
  | none => (x, c)
  | some (y, k) =>
    let (z, created) := x.mul y
    (z, c ||| k ||| if created && !(x.isNan || y.isNan) then Classes.invalid else 0)

/-- `mcvt` (R318): its bytes are checked before the word is popped. With `is`, the scaled conversion of R340. -/
def mcvtBody (z a : Nat) (t : Bool) (is : Option Nat) (s : State) : Eff :=
  s.withWord fwConvert fun w =>
    let addr := (s.x a).toNat % 2 ^ 32
    let n := denseBytes (fwO w) + scaleBytes (fwO w)
    match (if spaceOf addr = 0 then (s.cur.spadCheck addr n 1 true).map fun st => FaultInfo.spad st addr
           else (s.cur.commonsCheck addr n 0).map fun st => FaultInfo.commons st addr) with
    | some f => s.untransFault f
    | none =>
      if s.acquiring then .block .access
      else (s.untransReady addr n).andThen 0 fun s =>
        let tz := s.tile z
        let scale := is.map fun i => fp32.input (s.zi false) ((s.x i).toNat % 2 ^ 32)
        let (u, ds) := s.draws (fwRm w) 4096
        let rows := (List.range 64).map fun r =>
          let xs := (List.range 64).map fun j => convertInput (fwAcc w) (s.zi (bit w 35)) scale (if t then cell tz j r else cell tz r j)
          let (bs, sc, c) := convertRow w (s.zo (bit w 34)) (xs.map (·.1)) ((ds.drop (64 * r)).take 64)
          (bs, sc, xs.foldl (fun c (e : Ext × Classes) => c ||| e.2) c)
        let bytes := rows.flatMap (·.1) ++ rows.flatMap fun r => r.2.1
        (u.popWord.untransWrite s.focus.core addr bytes).tileDone (rows.foldl (fun c r => c ||| r.2.2) 0)

def execMcvt (sy : BitVec 5) (z : BitVec 4) (a : BitVec 5) (t : BitVec 1) (s : State) : Host.Outcome State Fault Refusal :=
  s.issue (.mcvt sy z a t) (mcvtBody z.toNat a.toNat (t != 0) none)

/-! ## Transforms (R319 to R322) -/

/-- Set the twiddle generator's length. -/
def State.setTwiddle (s : State) (n : Nat) : State := s.setCur { s.cur with regs := { s.cur.regs with twiddle := n } }

/-- The generator length that `mtw` sets (R319). -/
def twiddleLength (w : Word) : Nat := if 2 ≤ field w 0 7 ∧ field w 0 7 ≤ 64 then field w 0 7 else 0

/-- `mtw` (R319). -/
def mtwBody (a : Nat) (s : State) : Eff := .retire (s.setTwiddle (twiddleLength (s.x a))) 0

def execMtw (sy a : BitVec 5) (s : State) : Host.Outcome State Fault Refusal := s.issue (.mtw sy a) (mtwBody a.toNat)

/-- floor(π × 2^256). -/
def piFixed : Nat := 0x3243f6a8885a308d313198a2e03707344a4093822299f31d0082efa98ec4e6c89

/-- The Taylor series of sin in units of 2^−256, from its kth term on. -/
def sinTerms (x2 : Int) : Nat → Nat → Int → Int
  | 0, _, _ => 0
  | fuel + 1, k, t => t + sinTerms x2 fuel (k + 1) (-(t * x2 / 2 ^ 256) / ((2 * k + 2) * (2 * k + 3) : Nat))

/-- sin(2π n / l) in units of 2^−256, for 0 ≤ n < l. -/
def sinFixed (n l : Nat) : Int :=
  let x : Int := (2 * piFixed * n / l : Nat)
  sinTerms (x * x / 2 ^ 256) 60 0 x

/-- S(e) = rne32(sin(2πe / l)) (R319): exact at the multiples of 1/12 where the sine is 0, ±1/2 or ±1. -/
def twiddleS (e l : Nat) : Nat :=
  let e := e % l
  let q := 12 * e / l
  if 12 * e % l = 0 ∧ q ∉ [2, 4, 8, 10] then
    match q with
    | 1 | 5 => 0x3F000000
    | 3 => 0x3F800000
    | 7 | 11 => 0xBF000000
    | 9 => 0xBF800000
    | _ => 0
  else rne32 (Ext.ofInt (sinFixed e l) (-256))

/-- C(e) = rne32(cos(2πe / l)): the sine of 4e + l parts of 4l. -/
def twiddleC (e l : Nat) : Nat := twiddleS ((4 * e + l) % (4 * l)) (4 * l)

/-- `rnd` of R321 of an exact value divided by an integer: an exact zero gives +0. -/
def rndT (zo nanIn : Bool) (d : Nat) (v : Exact) : Nat × Classes :=
  match v.1 with
  | .fin n m e =>
    if m = 0 then (0, 0)
    else if d = 1 then fp32.rnd 0 0 false zo (.fin n m e)
    else fp32.rnd 0 0 false zo (.fin n (2 * (m * 2 ^ 80 / d) + ofBool (m * 2 ^ 80 % d != 0)) (e - 81))
  | _ => roundLane 0 0 false zo nanIn v

/-- A complex FP32 value, as two codes. -/
abbrev Cplx := Nat × Nat

/-- A sum of products, and whether it created a NaN. -/
def sumProducts (l : List (Ext × Ext)) : Exact :=
  l.foldl
    (fun (v : Exact) p => let (q, i) := p.1.mul p.2; let (r, j) := v.1.add q; (r, v.2 || i || j))
    (Ext.zero, false)

/-- A value with its sign inverted where σ is −1. -/
def sgn (inv : Bool) (x : Ext) : Ext := if inv then x else x.neg

/-- A complex value is NaN in either part. -/
def Cplx.nan (x : Cplx) : Bool := (v32 x.1).isNan || (v32 x.2).isNan

/-- `bfly` (R321): one output of a butterfly, scaled by 1 / d. -/
def bfly (zo inv : Bool) (n d : Nat) (xq : List Cplx) (p : Nat) : Cplx × Classes :=
  let r := xq.length
  let e := fun (q : Nat) => p * q % r * (n / r)
  let nan := xq.any fun x => Cplx.nan x
  let re := sumProducts (xq.zipIdx.flatMap fun x =>
    [(v32 x.1.1, v32 (twiddleC (e x.2) n)), (v32 x.1.2, (sgn inv (v32 (twiddleS (e x.2) n))).neg)])
  let im := sumProducts (xq.zipIdx.flatMap fun x =>
    [(v32 x.1.1, sgn inv (v32 (twiddleS (e x.2) n))), (v32 x.1.2, v32 (twiddleC (e x.2) n))])
  let (a, c1) := rndT zo nan d re
  let (b, c2) := rndT zo nan d im
  ((a, b), c1 ||| c2)

/-- One product, or a product and a sum, rounded once. -/
def mulRnd (zo : Bool) (a b : Ext) : Nat × Classes := rndT zo (a.isNan || b.isNan) 1 (a.mul b)
def mulAddRnd (zo : Bool) (a b c : Ext) : Nat × Classes := rndT zo (a.isNan || b.isNan || c.isNan) 1 (fmaExact false a b c)

/-- `twid` (R321). -/
def twid (zo inv : Bool) (n : Nat) (y : Cplx) (t : Nat) : Cplx × Classes :=
  if t = 0 then (y, 0)
  else
    let c := v32 (twiddleC t n)
    let σs := sgn inv (v32 (twiddleS t n))
    let (u, k1) := mulRnd zo (v32 y.2) σs
    let (re, k2) := mulAddRnd zo (v32 y.1) c (v32 u).neg
    let (v, k3) := mulRnd zo (v32 y.2) c
    let (im, k4) := mulAddRnd zo (v32 y.1) σs (v32 v)
    ((re, im), k1 ||| k2 ||| k3 ||| k4)

/-- One stage of a row's transform (R320): spans of `ll` columns, radix r. -/
def fftStage (zo inv : Bool) (n ll r d : Nat) (x : List Cplx) : List Cplx × Classes :=
  let m := ll / r
  let out := (List.range n).map fun pos =>
    let base := pos / ll * ll
    let p := pos % ll / m
    let j := pos % m
    let xq := (List.range r).map fun q => x.getD (base + j + q * m) (0, 0)
    let (y, c1) := bfly zo inv n d xq p
    let (z, c2) := twid zo inv n y (p * j * (n / ll) % n)
    (z, c1 ||| c2)
  (out.map (·.1), out.foldl (fun c e => c ||| e.2) 0)

/-- Every stage of a row's transform. `scl` is the scaling code (R221). -/
def fftRow (zo inv : Bool) (n scl : Nat) : List Nat → Nat → List Cplx → List Cplx × Classes
  | [], _, x => (x, 0)
  | r :: t, ll, x =>
    let d := if scl = 1 then r else if scl = 2 ∧ t.isEmpty then n else 1
    let (y, c) := fftStage zo inv n ll r d x
    let (z, k) := fftRow zo inv n scl t (ll / r) y
    (z, c ||| k)

/-- `mfft` (R320). -/
def mfftBody (r i : Nat) (s : State) : Eff :=
  s.withWord (fun w => fwTransform s.cur.regs.twiddle w && r != i) fun w =>
    let zi := s.zi (bit w 35)
    let zo := s.zo (bit w 34)
    let rad := fwRadices w
    let n := rad.foldl (· * ·) 1
    let tr := s.tile r
    let ti := s.tile i
    let flush := fun (v : Nat) => if zi && fp32.subnormal v then (v / 2 ^ 31 * 2 ^ 31, Classes.flushed) else (v, (0 : Classes))
    let rows := (List.range 64).map fun k =>
      let x := (List.range n).map fun c => (flush (cell tr k c), flush (cell ti k c))
      let c0 := x.foldl (fun c (e : (Nat × Classes) × (Nat × Classes)) => c ||| e.1.2 ||| e.2.2) (0 : Classes)
      let (y, c1) := fftRow zo (bit w 40) n (field w 41 2) rad n (x.map fun e => (e.1.1, e.2.1))
      (y, c0 ||| c1)
    let pick := fun (t : Tile) (f : Cplx → Nat) =>
      (tileFrom fun k c => (if c < n then f ((rows.getD k ([], 0)).1.getD c (0, 0)) else cell t k c, 0)).1
    ((s.popWord.setTile r (pick tr (·.1))).setTile i (pick ti (·.2))).tileDone (rows.foldl (fun c (e : List Cplx × Classes) => c ||| e.2) 0)

def execMfft (sy : BitVec 5) (r i : BitVec 4) (s : State) : Host.Outcome State Fault Refusal :=
  s.issue (.mfft sy r i) (mfftBody r.toNat i.toNat)

end Sys2Proof.Machine
end

