-- ==== Sys2Proof/Machine/Kv.lean ====
section
/-!
DEFINITION. The Sward (05_kv_space.md, R323 to R328): directory and sequence cache, translation, append, commit, reads, slab growth and
attention at the memory channel.
-/

namespace Sys2Proof.Machine

/-! ## KV addresses, records and slabs (R95 to R100) -/

/-- The causes of a KV fault (R105). -/
def kvFormat : Nat := 1
def kvNoseq : Nat := 2
def kvNoslab : Nat := 3
def kvRange : Nat := 4
def kvHole : Nat := 5
def kvLength : Nat := 6

/-- The fields of a KV address (R95). -/
def kvSeq (a : Word) : Nat := field a 40 20
def kvLayer (a : Word) : Nat := field a 32 8
def kvHead (a : Word) : Nat := field a 24 8
def kvPos (a : Word) : Nat := field a 0 24

/-- A capability fault for the directory's capability: 0x10 in `reg` and the KV address (R97). -/
def kvCapFault (st : Status) (a : Word) : FaultInfo := { kind := 2, cause := st.toNat, addr := a.toNat, reg := 0x10 }

/-- The fields of the sequence record (R98). -/
def SeqEntry.num (e : SeqEntry) (at_ n : Nat) : Nat := ofBytes ((e.bytes.drop at_).take n)
def SeqEntry.clen (e : SeqEntry) : Nat := e.num 0 4
def SeqEntry.nlay (e : SeqEntry) : Nat := e.num 4 1
def SeqEntry.lgh (e : SeqEntry) : Nat := e.num 5 1
def SeqEntry.lhd (e : SeqEntry) : Nat := e.num 6 1
def SeqEntry.fmt (e : SeqEntry) : Nat := e.num 7 1

/-- Bytes of an element, of a row, and tokens of a page (R99). -/
def SeqEntry.eb (e : SeqEntry) : Nat := if e.fmt < 2 then 2 else 1
def SeqEntry.row (e : SeqEntry) : Nat := 2 ^ e.lhd * e.eb
def SeqEntry.tokens (e : SeqEntry) : Nat := 65536 / (2 * e.row)

/-- The record is well formed (R98). -/
def SeqEntry.good (e : SeqEntry) : Bool :=
  decide (e.clen < 2 ^ 24) && decide (e.lgh ≤ 8) && decide (5 ≤ e.lhd) && decide (e.lhd ≤ 8) && decide (e.fmt ≤ 3) && e.num 8 8 == 0

/-- A slab record (R100). -/
structure Slab where
  v : Bool
  rot : Nat
  lc : Nat
  base : Nat

/-- The slab record of a layer. -/
def SeqEntry.slab (e : SeqEntry) (l : Nat) : Slab :=
  let w : BitVec 32 := BitVec.ofNat 32 (e.num (16 + 4 * l) 4)
  ⟨bit w 31, field w 25 6, field w 20 5, field w 0 20⟩

/-- A valid slab record is malformed (R100). -/
def SeqEntry.badSlab (e : SeqEntry) (sl : Slab) : Bool :=
  sl.v && (decide (47 < sl.rot) || decide (sl.lc < e.lgh) || decide (20 < sl.lc) || sl.base == 0 || decide (2 ^ 20 < sl.base + 2 ^ sl.lc))

/-! ## The directory and the sequence cache (R96, R97, R101) -/

/-- What a look-up of a sequence answers: an entry, a fault, a failed read, or a page 0 that has to be fetched. -/
inductive Looked where
  | entry (e : SeqEntry)
  | fault (f : FaultInfo)
  | failed (st : Status)
  | absent (cap : BitVec 128)

/-- The directory's entry for a pair (R97): its capability, or what the look-up ends with. A poisoned entry cannot be read (log 81). -/
def State.directory (s : State) (d : DieId) (asid : Nat) (a : Word) : Except Looked (BitVec 128) :=
  let kd := s.dieReg d 0x105
  let lgn := field kd 0 5
  if lgn = 0 then .error (.fault (.kv kvNoseq a.toNat))
  else
    let i := (kvSeq a ^^^ (asid * 16)) % 2 ^ lgn
    match (s.die d).peek? (field kd 12 28 * 4096 + 32 * i) 32 with
    | none => .error (.failed Status.poison)
    | some bs =>
      let w : BitVec 256 := BitVec.ofNat 256 (ofBytes bs)
      let cap : BitVec 128 := w.extractLsb' 0 128
      if bit w 184 && (field w 164 4 != 0 || field w 168 16 != 0 || field w 185 7 != 0 || field w 192 64 != 0) then
        .error (.fault (.kv kvFormat a.toNat))
      else if !bit w 184 || field w 128 16 != asid || field w 144 20 != kvSeq a then .error (.fault (.kv kvNoseq a.toNat))
      else if 21 < field cap 35 5 then .error (.fault (kvCapFault Status.access a))
      else if !bit cap 87 then .error (.fault (kvCapFault Status.rights a))
      else .ok cap

/-- The sequence cache's entry for a pair. -/
def Die.seqEntry (d : Die) (asid seq : Nat) : Option SeqEntry := d.seqCache.find? fun e => decide (e.asid = asid ∧ e.seq = seq)

/-- Look a sequence up for a core's die: from the cache, or from page 0 where it is held (R51, R101); only a VALID frame's record enters the
cache, an entry serves while its frame's lease lasts, and a full cache drops its oldest entry (DESIGN CHOICE, log 69). Every miss counts;
`counted` says that this one has been. -/
def State.lookSeq (s : State) (d : DieId) (asid : Nat) (a : Word) (counted : Bool) : State × Looked :=
  let judge := fun (e : SeqEntry) => if e.good then Looked.entry e else Looked.fault (.kv kvFormat a.toNat)
  let s := match (s.die d).seqEntry asid (kvSeq a) with | some e => s.expirePage (field e.cap 88 40) 0 | none => s
  match (s.die d).seqEntry asid (kvSeq a) with
  | some e => (s, judge e)
  | none =>
    let s := if counted then s else s.count d 0x18B
    match s.directory d asid a with
    | .error r => (s, r)
    | .ok cap =>
      let obj := field cap 88 40
      let h := pageDie obj 0
      let s := s.expirePage obj 0
      match (s.die h).frameOf obj 0 with
      | none => (s, .absent cap)
      | some (f, l) =>
        if l.st ≠ .valid ∧ l.st ≠ .draining then (s, .absent cap)
        else
          match s.frameRead h f 0 1040 with
          | (s, st, bs) =>
            if st ≠ Status.ok then (s, .failed st)
            else
              let e : SeqEntry := ⟨asid, kvSeq a, cap, bs⟩
              let x := s.die d
              (if l.st = .valid then s.setDie d { x with seqCache := (x.seqCache ++ [e]).drop (x.seqCache.length + 1 - 1024) } else s, judge e)

/-- An instruction goes on with the sequence record of its KV address; page 0 is fetched where it is absent, through the channel that R48
gives it, since R102 gives it no leaf (DESIGN CHOICE, log 70). The miss that started that fetch has been counted. -/
def State.withRecord (s : State) (p : Nat) (a : Word) (go : State → SeqEntry → Eff) : Eff :=
  let counted := match s.probe? with | some o => o.tasks.any fun t => decide (t.kind = .ready ∧ t.pidx = 0) | none => false
  s.afterProbe p a.toNat fun s =>
    match s.lookSeq s.focus.core.die s.asid a counted with
    | (s, .entry e) => go s e
    | (s, .fault f) => .abort s f
    | (s, .failed st) => s.failWith p a.toNat st
    | (s, .absent cap) => s.startProbe cap [pageTask .ready (field cap 88 40) 0 none]

/-! ## Forwarding pairs and translation (R102, R111 to R113) -/

/-- A valid forwarding pair (R112). -/
structure Pair where
  n : Nat
  obase : Nat
  nbase : Nat
  bound : Nat

/-- The pair that matches a layer of a sequence; both dies hold the same pairs. -/
def State.pairOf (s : State) (asid seq l : Nat) : Option Pair :=
  (List.range 16).findSome? fun n =>
    let a := s.dieReg 0 (0x140 + n)
    let b := s.dieReg 0 (0x150 + n)
    if bit a 63 && field a 28 16 == asid && field a 8 20 == seq && field a 0 8 == l then some ⟨n, field b 24 20, field b 44 20, field b 0 24⟩
    else none

/-- Write pair n on both dies. -/
def State.setPair (s : State) (n : Nat) (a b : Word) : State :=
  (((s.setDieReg 0 (0x140 + n) a).setDieReg 1 (0x140 + n) a).setDieReg 0 (0x150 + n) b).setDieReg 1 (0x150 + n) b

/-- What the translation of a KV address answers: page, row offset, leaf, and whether a pair forwarded it; a fault; or a wait for the block
that is being copied (R113). -/
inductive KvTo where
  | ok (page koff leaf : Nat) (fwd : Bool)
  | fault (f : FaultInfo)
  | wait

/-- kvxlate of R102 for a position of a layer and head; `a` is the address that a fault records. A block is being copied while the pair's
old slab is still the record's (R113). -/
def State.kvxlate (s : State) (asid : Nat) (e : SeqEntry) (a : Word) (l h p : Nat) : KvTo :=
  if e.nlay < l ∨ 2 ^ e.lgh ≤ h then .fault (.kv kvRange a.toNat)
  else
    let sl := e.slab l
    let k := p / e.tokens
    if e.badSlab sl then .fault (.kv kvFormat a.toNat)
    else if !sl.v then .fault (.kv (if p < e.clen then kvHole else kvNoslab) a.toNat)
    else
      let nblk := 2 ^ (sl.lc - e.lgh)
      let fw := s.pairOf asid (kvSeq a) l
      let (b, n, wait) := match fw with
        | some f => (if p < f.bound ∨ nblk ≤ k then f.nbase else sl.base, 2 * nblk,
            f.obase == sl.base && decide (f.bound ≤ p) && decide (k = f.bound / e.tokens) && decide (k < nblk))
        | none => (sl.base, nblk, false)
      if wait then .wait
      else if n ≤ k then .fault (.kv (if p < e.clen then kvHole else kvRange) a.toNat)
      else .ok (b + k * 2 ^ e.lgh + h) (p % e.tokens * e.row) ((sl.rot + k + h) % 48) fw.isSome

/-- The window check of R37 at an object offset, and the rights that an X request needs (R106). -/
def SeqEntry.inWindow (e : SeqEntry) (at_ n : Nat) : Bool :=
  decide (capStart e.cap ≤ at_) && decide (at_ + n ≤ capStart e.cap + capLen e.cap)
def SeqEntry.mayX (e : SeqEntry) : Bool := bit e.cap 84

/-- The object of a sequence. -/
def SeqEntry.obj (e : SeqEntry) : Nat := field e.cap 88 40

/-- The frame of a page that an X lease holds now. -/
def State.heldX (s : State) (obj pg : Nat) : Option (Nat × Lease) :=
  ((s.die (pageDie obj pg)).frameOf obj pg).filter fun e =>
    decide (e.2.st = .valid) && decide (e.2.kind = .x) && precedes (s.ltime (pageDie obj pg)) e.2.dline

/-- The lines of n bytes at an offset of a page, as (offset, start in the bytes, length). -/
def lineCuts (off n : Nat) : List (Nat × Nat × Nat) := linePieces (n / 128 + 2) off 0 n

/-- Write the lines of a list at one page, each with its write-through (R107): the tasks that follow them. -/
def State.kvWrite (d : DieId) (f obj pg op : Nat) : State → Nat → List (Nat × List Byte) → State × List Task
  | s, _, [] => (s, [])
  | s, k, (off, bs) :: t =>
    match s.frameWrite d f off bs (some (op, k)) with
    | (s, st) =>
      let task := { pageTask (.store off bs) obj pg none with st := if st = Status.ok then .requested 1 else .done st }
      match State.kvWrite d f obj pg op s (k + 1) t with
      | (s, r) => (s, task :: r)

/-- Count the accesses that a forwarding pair translated (R119). -/
def State.countFwd (s : State) (n : Nat) : State := if n = 0 then s else s.count s.focus.core.die 0x18C n

/-! ## `kvapp` (R107, R325) -/

/-- One row to write: page, offset, leaf, and its place in the source. -/
structure KvRow where
  page : Nat
  off : Nat
  leaf : Nat
  src : Nat
  deriving DecidableEq, Repr

/-- Translate every head of a layer at a position: the K and V rows, and how many translations a pair forwarded. -/
def State.appRows (s : State) (e : SeqEntry) (a : Word) (p : Nat) : List Nat → Except (Option FaultInfo) (List KvRow × Nat)
  | [] => .ok ([], 0)
  | h :: t =>
    match s.kvxlate s.asid e a (kvLayer a) h p with
    | .fault f => .error (some f)
    | .wait => .error none
    | .ok pg koff leaf fwd =>
      match State.appRows s e a p t with
      | .error f => .error f
      | .ok (r, n) => .ok (⟨pg, koff, leaf, 2 * h * e.row⟩ :: ⟨pg, koff + 32768, leaf, (2 * h + 1) * e.row⟩ :: r, n + ofBool fwd)

/-- Write the rows of an append. -/
def State.writeRows (e : SeqEntry) (src op : Nat) : State → Nat → List KvRow → State × List Task
  | s, _, [] => (s, [])
  | s, k, r :: t =>
    let d := pageDie e.obj r.page
    match (s.die d).frameOf e.obj r.page with
    | none => State.writeRows e src op s k t
    | some (f, _) =>
      let bs := s.spadRead s.focus.core (src + r.src) e.row
      let cuts := (lineCuts r.off e.row).map fun c => (c.1, (bs.drop c.2.1).take c.2.2)
      match State.kvWrite d f e.obj r.page op s k cuts with
      | (s, ts) =>
        match State.writeRows e src op s (k + ts.length) t with
        | (s, us) => (s, ts ++ us)

/-- The lines that an append writes, as they are before it. -/
def State.oldRows (s : State) (e : SeqEntry) (preg : Nat) (rows : List KvRow) : List OldRow :=
  rows.flatMap fun r =>
    let d := pageDie e.obj r.page
    match (s.die d).frameOf e.obj r.page with
    | none => []
    | some (f, _) => (lineCuts r.off e.row).map fun c => ⟨e.obj, r.page, c.1, readBytes (s.die d).mem ((s.die d).frameAddr f + c.1) c.2.2, preg⟩

/-- The executing core with rows that it may still read old, after those that it had. -/
def State.keepOld (s : State) (l : List OldRow) : State := s.setCur { s.cur with store := { s.cur.store with old := s.cur.store.old ++ l } }

/-- `kvapp` (R107, R325). The window of every page is checked before the right that its X request needs (DESIGN CHOICE, log 71). -/
def execKvapp (sy a b c : BitVec 5) (p : BitVec 3) (s : State) : Host.Outcome State Fault Refusal :=
  s.issue (.kvapp sy a b c p) fun s =>
    let va := s.x a.toNat
    let e0 := (s.x b.toNat).toNat
    let ua := field (s.x c.toNat) 0 32
    let off := kvPos va % 256
    if field va 60 4 ≠ 0 then .fault (.kv kvFormat va.toNat)
    else if kvPos va / 256 ≠ 0 ∨ e0 / 2 ^ 24 ≠ 0 then .fault (.kv kvRange va.toNat)
    else s.withRecord p.toNat va fun s e =>
      let heads := 2 ^ e.lgh
      let len := 2 * heads * e.row
      if spaceOf ua ≠ 0 then .abort s (.spad Status.access ua)
      else match s.cur.spadCheck ua len 16 false with
      | some st => .abort s (.spad st ua)
      | none =>
        if e.clen < e0 then .abort s (.kv kvLength va.toNat)
        else if 2 ^ 24 - 1 < e0 + off then .abort s (.kv kvRange va.toNat)
        else if e0 + off < e.clen then .retire (s.setP p.toNat Status.ok) 0
        else match s.appRows e va (e0 + off) (List.range heads) with
        | .error (some f) => .abort s f
        | .error none => .block .pool
        | .ok (rows, fwd) =>
          let pages := distinct (rows.map fun r => (r.page, r.leaf))
          let s := pages.foldl (fun s q => s.expirePage e.obj q.1) s
          let missing := pages.filter fun q => (s.heldX e.obj q.1).isNone
          if rows.any fun r => !e.inWindow (r.page * 65536 + r.off) e.row then .abort s (kvCapFault Status.bounds va)
          else if !missing.isEmpty && !e.mayX then .abort s (kvCapFault Status.rights va)
          else if !missing.isEmpty then s.startProbe e.cap (missing.map fun q => pageTask (.lease true) e.obj q.1 (some q.2))
          else if rows.any (fun r => match s.heldX e.obj r.page with | some (_, l) => l.hasType r.off e.row true | none => false) then
            .abort s (kvCapFault Status.access va)
          else if s.poolWaits 0 false e.obj (pages.map (·.1)) then .block .access
          else if pages.any (fun q => match s.heldX e.obj q.1 with | some (_, l) => decide (247 < l.pend) | none => false) then .block .pool
          else match pages.findSome? fun q => s.poolClosed (pageDie e.obj q.1) e.obj q.1 with
          | some st => s.failWith p.toNat va.toNat st
          | none =>
            (s.focusLines (linesOf (ua % 2 ^ 26) len)).andThen p.toNat fun s =>
              match State.writeRows e (ua % 2 ^ 26) s.nextOp ((s.keepOld (s.oldRows e p.toNat rows)).countFwd fwd) 0 rows with
              | (s, ts) => s.sendTasks { Op.empty s.focus with plain := p == 0, preg := p.toNat, cap := e.cap, tasks := ts, faultAddr := va.toNat }

/-! ## Writes to the record, `kvcmt` (R108, R326) -/

/-- Write four bytes of a sequence's record under X (R106). The window is checked first (DESIGN CHOICE, log 71). -/
def State.writeRecord (s : State) (p : Nat) (va : Word) (e : SeqEntry) (off v : Nat) : Eff :=
  let s := s.expirePage e.obj 0
  let d := pageDie e.obj 0
  if !e.inWindow off 4 then .abort s (kvCapFault Status.bounds va)
  else match s.heldX e.obj 0 with
  | none => if e.mayX then s.startProbe e.cap [pageTask (.lease true) e.obj 0 none] else .abort s (kvCapFault Status.rights va)
  | some (f, l) =>
    if l.hasType off 4 true then .abort s (kvCapFault Status.access va)
    else if 255 ≤ l.pend then .block .pool
    else match s.poolClosed d e.obj 0 with
    | some st => s.failWith p va.toNat st
    | none =>
      match s.frameWrite d f off (bytesOf 4 v) (some (s.nextOp, 0)) with
      | (s, st) =>
        if st ≠ Status.ok then s.failWith p va.toNat st
        else (s.refreshSeq d f e.obj).sendTasks
          { Op.empty s.focus with plain := decide (p = 0), preg := p, cap := e.cap, faultAddr := va.toNat,
                                  tasks := [{ pageTask (.store off (bytesOf 4 v)) e.obj 0 none with st := .requested 1 }] }

/-- `kvcmt` (R108, R326): the release at `.sys` comes first. -/
def execKvcmt (sy a b c : BitVec 5) (p : BitVec 3) (s : State) : Host.Outcome State Fault Refusal :=
  s.issue (.kvcmt sy a b c p) fun s =>
    let va := s.x a.toNat
    let e0 := (s.x b.toNat).toNat
    let n := (s.x c.toNat).toNat
    if field va 60 4 ≠ 0 then .fault (.kv kvFormat va.toNat)
    else if 2 ^ 24 ≤ e0 ∨ 2 ^ 24 ≤ n ∨ n ≤ e0 ∨ e0 + 256 < n then .fault (.kv kvRange va.toNat)
    else if !(s.opsOf s.focus).isEmpty || s.pendingWrites then .block .access
    else s.withRecord p.toNat va fun s e =>
      if e.clen = e0 then s.writeRecord p.toNat va e 0 n
      else if n ≤ e.clen then .retire (s.setP p.toNat Status.ok) 0
      else .abort s (.kv kvLength va.toNat)

/-! ## `kvld` (R109, R327) -/

/-- The committed length that `kvld` reads lies in page 0 and is checked as a row is (R102, R109): the window, and its granule's type. -/
def State.lengthFault (s : State) (e : SeqEntry) : Option Status :=
  if !e.inWindow 0 4 then some Status.bounds
  else match (s.die (pageDie e.obj 0)).frameOf e.obj 0 with
    | some (_, l) => if l.hasType 0 4 true then some Status.access else none
    | none => none

/-- `kvld` (R327). Its destination is checked before its position (DESIGN CHOICE, log 72). -/
def execKvld (sy d a : BitVec 5) (w : BitVec 2) (p : BitVec 3) (s : State) : Host.Outcome State Fault Refusal :=
  s.issue (.kvld sy d a w p) fun s =>
    let va := s.x a.toNat
    let ua := field (s.x d.toNat) 0 32
    if field va 60 4 ≠ 0 then .fault (.kv kvFormat va.toNat)
    else if s.poolWaits 0 false 0 [] then .block .access
    else s.withRecord p.toNat va fun s e =>
      if w = 0 then
        match s.lengthFault e with
        | some st => .abort s (kvCapFault st va)
        | none => .retire ((s.setX d.toNat (BitVec.ofNat 64 e.clen)).setP p.toNat Status.ok) 0
      else if spaceOf ua ≠ 0 then .abort s (.spad Status.access ua)
      else match s.cur.spadCheck ua e.row 16 true with
      | some st => .abort s (.spad st ua)
      | none =>
        if e.clen + 255 < kvPos va then .abort s (.kv kvRange va.toNat)
        else match s.kvxlate s.asid e va (kvLayer va) (kvHead va) (kvPos va) with
        | .fault f => .abort s f
        | .wait => .block .pool
        | .ok pg koff leaf fwd =>
          let off := if w = 1 then koff else koff + 32768
          let h := pageDie e.obj pg
          let s := s.expirePage e.obj pg
          if !e.inWindow (pg * 65536 + off) e.row then .abort s (kvCapFault Status.bounds va)
          else match (s.die h).frameOf e.obj pg with
          | none => s.startProbe e.cap [pageTask .ready e.obj pg (some leaf)]
          | some (f, l) =>
            if l.st ≠ .valid ∧ l.st ≠ .draining then s.startProbe e.cap [pageTask .ready e.obj pg (some leaf)]
            else if l.hasType off e.row true then .abort s (kvCapFault Status.access va)
            else (s.focusLines (linesOf (ua % 2 ^ 26) e.row)).andThen p.toNat fun s =>
              match (s.countFwd (ofBool fwd)).frameRead h f off e.row with
              | (s, st, bs) =>
                if st ≠ Status.ok then s.failWith p.toNat va.toNat st
                else .retire ((s.spadWrite s.focus.core (ua % 2 ^ 26) bs).setP p.toNat Status.ok) 0

/-! ## `kvgrow` (R111, R326) -/

/-- A growth of the same layer is under way. -/
def State.growing (s : State) (asid seq l : Nat) : Bool :=
  (s.pairOf asid seq l).isSome ||
    s.ops.any fun o => match o.grow with | some g => !g.ended && decide (g.asid = asid ∧ g.seq = seq ∧ g.layer = l) | none => false

/-- Every page that a move writes is under X already: those that it copies to, and page 0 (R106). -/
def State.holdsSlab (s : State) (obj base n : Nat) : Bool :=
  (s.heldX obj 0).isSome && (List.range n).all fun j => (s.heldX obj (base + j)).isSome

/-- `kvgrow` (R111, R326): a layer without a slab gets its record; otherwise the move starts. The wait for an earlier growth of the layer
comes after the check of the target, which is made again on the slab found then (log 22); the windows of both slabs come before the right
(log 71). -/
def execKvgrow (sy a b c : BitVec 5) (p : BitVec 3) (s : State) : Host.Outcome State Fault Refusal :=
  s.issue (.kvgrow sy a b c p) fun s =>
    let va := s.x a.toNat
    let nb := field (s.x b.toNat) 0 20
    let rot := field (s.x c.toNat) 0 6
    let l := kvLayer va
    if field va 60 4 ≠ 0 then .fault (.kv kvFormat va.toNat)
    else s.withRecord p.toNat va fun s e =>
      if e.nlay < l then .abort s (.kv kvRange va.toNat)
      else
        let sl := e.slab l
        if e.badSlab sl then .abort s (.kv kvFormat va.toNat)
        else if !sl.v then
          if nb < 1 ∨ 2 ^ 20 < nb + 2 ^ e.lgh then .abort s (.kv kvRange va.toNat)
          else if 47 < rot then .abort s (.kv kvFormat va.toNat)
          else s.writeRecord p.toNat va e (16 + 4 * l) (2 ^ 31 + rot * 2 ^ 25 + e.lgh * 2 ^ 20 + nb)
        else
          let cap := 2 ^ sl.lc
          if 20 < sl.lc + 1 ∨ nb < 1 ∨ 2 ^ 20 < nb + 2 * cap ∨ (nb < sl.base + cap ∧ sl.base < nb + 2 * cap) then
            .abort s (.kv kvRange va.toNat)
          else if s.growing s.asid (kvSeq va) l then .block .pool
          else if !e.inWindow (nb * 65536) (cap * 65536) || !e.inWindow (sl.base * 65536) (cap * 65536) then
            .abort s (kvCapFault Status.bounds va)
          else if !e.mayX && !s.holdsSlab e.obj nb cap then .abort s (kvCapFault Status.rights va)
          else
            let g : Grow := { asid := s.asid, seq := kvSeq va, layer := l, oldBase := sl.base, newBase := nb, lc := sl.lc, rot := sl.rot,
                              heads := 2 ^ e.lgh, tokens := e.tokens, pair := 0, phase := .pair }
            s.sendTasks { Op.empty s.focus with plain := p == 0, preg := p.toNat, cap := e.cap, faultAddr := va.toNat, grow := some g }

/-- Replace an operation's growth and tasks. -/
def State.setGrow (s : State) (id : Nat) (g : Grow) (ts : List Task) : State :=
  let s : State := { s with ops := s.ops.map fun o => if o.id = id then { o with grow := some g, tasks := ts } else o }
  (s.tryOp id).shut

/-- The task that gets an X lease on a page for a move; a request needs the `lx` right (R106), which may have been left out at issue where
every page was held. -/
def State.leaseTask (s : State) (cap : BitVec 128) (pg : Nat) (leaf : Option Nat) : Task :=
  let t := pageTask (.lease true) (field cap 88 40) pg leaf
  if bit cap 84 || (s.heldX (field cap 88 40) pg).isSome then t else { t with st := .done Status.rights }

/-- The tasks that copy page j of the old slab: an X lease on the new page, then the copy. -/
def State.copyTasks (s : State) (g : Grow) (cap : BitVec 128) (j : Nat) : List Task :=
  let leaf := (g.rot + j / g.heads + j % g.heads) % 48
  [s.leaseTask cap (g.newBase + j) (some leaf), pageTask (.copyTo (g.newBase + j)) (field cap 88 40) (g.oldBase + j) (some leaf)]

/-- The two CSRs of a pair for a growth whose copy has reached a position; `bound` stays at the last position that its field holds
(DESIGN CHOICE, log 73). -/
def Grow.pairRegs (g : Grow) (bound : Nat) : Word × Word :=
  (BitVec.ofNat 64 (2 ^ 63 + g.asid % 2 ^ 16 * 2 ^ 28 + g.seq * 2 ^ 8 + g.layer),
   BitVec.ofNat 64 (g.newBase * 2 ^ 44 + g.oldBase * 2 ^ 24 + min bound (2 ^ 24 - 1)))

/-- `KVGROW_PAIR_INSTALL` (R111, step 2). It takes the free pair of the lowest number (DESIGN CHOICE, log 74). -/
def execKvgrowPairInstall (op : Nat) (s : State) : Host.Outcome State Fault Refusal :=
  match (s.op? op).bind fun o => o.grow.map fun g => (o, g) with
  | none => .next s
  | some (o, g) =>
    if g.phase ≠ .pair ∨ (s.pairOf g.asid g.seq g.layer).isSome then .next s
    else match (List.range 16).find? fun n => !bit (s.dieReg 0 (0x140 + n)) 63 with
    | none => .next s
    | some n =>
      let r := g.pairRegs 0
      .next ((s.setPair n r.1 r.2).setGrow op { g with pair := n, phase := .copy 0 } (s.copyTasks g o.cap 0))

/-- The move ends with a status, and its pair is invalidated (R111). -/
def State.endGrow (s : State) (op : Nat) (g : Grow) (st : Status) : State :=
  (s.setPair g.pair 0 0).setGrow op { g with phase := .finished st } [{ pageTask .settled 0 0 none with st := .done st }]

/-- `KVGROW_PAGE_COPY` (R111, steps 3 to 6): a page copy completes, and `bound` advances after every H pages; after the last, the new slab
record is written, the old pages are released one by one, and the pair is invalidated. -/
def execKvgrowPageCopy (op : Nat) (s : State) : Host.Outcome State Fault Refusal :=
  match (s.op? op).bind fun o => o.grow.map fun g => (o, g) with
  | none => .next s
  | some (o, g) =>
    let obj := field o.cap 88 40
    if !o.performed then .next (s.tryOp op).shut
    else match g.phase with
    | .copy j =>
      if o.status ≠ Status.ok then .next (s.endGrow op g o.status)
      else
        let n := j + 1
        let r := g.pairRegs (n / g.heads * g.tokens)
        let s := if n % g.heads = 0 then s.setPair g.pair r.1 r.2 else s
        if n < 2 ^ g.lc then .next (s.setGrow op { g with phase := .copy n } (s.copyTasks g o.cap n))
        else
          let rec' := 2 ^ 31 + g.rot * 2 ^ 25 + (g.lc + 1) * 2 ^ 20 + g.newBase
          .next (s.setGrow op { g with phase := .record }
            [s.leaseTask o.cap 0 none, pageTask (.store (16 + 4 * g.layer) (bytesOf 4 rec')) obj 0 none])
    | .record =>
      if o.status ≠ Status.ok then .next (s.endGrow op g o.status)
      else .next (s.setGrow op { g with phase := .release 0 } [pageTask .release obj g.oldBase none])
    | .release j =>
      if j + 1 < 2 ^ g.lc then .next (s.setGrow op { g with phase := .release (j + 1) } [pageTask .release obj (g.oldBase + j + 1) none])
      else .next (s.endGrow op g Status.ok)
    | _ => .next s

/-! ## `kvinv` (R101) -/

/-- The entries that a `kvinv` value matches. -/
def kvinvHits (v : Word) (e : SeqEntry) : Bool := bit v 62 || (e.asid == field v 36 16 && e.seq == field v 0 20)

/-- The operations of Sward instructions outstanding: a `kvinv` waits for all of them, whatever entry they used. -/
def State.swardOps (s : State) : List Nat := (s.ops.filter fun o => decide (o.cap ≠ 0) && decide (o.owner.cl = .m)).map (·.id)

/-- `KVINV_WRITE` (R101): a write while `go` reads 1 is discarded. -/
def execKvinvWrite (die : DieId) (v : Word) (s : State) : Host.Outcome State Fault Refusal :=
  if bit (s.dieReg die 0x106) 63 then .next s
  else
    let v' : Word := BitVec.ofNat 64 (field v 62 2 * 2 ^ 62 + field v 36 16 * 2 ^ 36 + field v 0 20)
    let s := s.setDieReg die 0x106 v'
    if !bit v 63 then .next s
    else
      let x := s.die die
      .next (s.setDie die { x with seqCache := x.seqCache.filter fun e => !kvinvHits v' e, kvinvOps := s.swardOps })

/-- `KVINV_COMPLETE` (R101): `go` clears once every access that used the dropped entries has completed. -/
def execKvinvComplete (die : DieId) (s : State) : Host.Outcome State Fault Refusal :=
  let x := s.die die
  if bit (s.dieReg die 0x106) 63 && !(s.ops.any fun o => x.kvinvOps.contains o.id) then
    .next ((s.setDie die { x with kvinvOps := [] }).setDieReg die 0x106 (setBit (s.dieReg die 0x106) 63 false))
  else .next s

end Sys2Proof.Machine
end

