-- ==== Sys2Proof/Machine/Attn.lean ====
section
/-!
DEFINITION. Attention at the memory channel (R114 to R118, R323, R324): the triples, the return network, and `kvattn` with its rounds.
-/

namespace Sys2Proof.Machine

/-! ## Triples (R115, R117) -/

/-- A partial triple: m, l and o as FP32 codes. -/
structure Triple where
  m : Nat
  l : Nat
  o : List Nat

/-- The codes of −∞ and of the canonical NaN. -/
def negInf32 : Nat := 0xFF800000
def nan32 : Nat := 0x7FC00000

/-- The empty triple of n elements. -/
def Triple.empty (n : Nat) : Triple := ⟨negInf32, 0, List.replicate n 0⟩

/-- The triple of NaNs. -/
def Triple.nan (n : Nat) : Triple := ⟨nan32, nan32, List.replicate n nan32⟩

/-- exp2x of a rounded difference. -/
def expDiff (x y : Nat) : Nat := (exp2x false false (rne32 ((v32 x).add (v32 y).neg).1)).1

/-- rne32 of an exact sum of two values. -/
def sum32 (x y : Ext) : Nat := rne32 (x.add y).1

/-- The exact product of two FP32 codes. -/
def prod (x y : Nat) : Ext := ((v32 x).mul (v32 y)).1

/-- tok of R115: a triple takes a token with score s and value v; the Bool says that invalid is raised. -/
def Triple.tok (t : Triple) (s : Nat) (v : List Ext) : Triple × Bool :=
  let n := t.o.length
  if (v32 s).isNan ∨ s = 0x7F800000 then (Triple.nan n, true)
  else if s = negInf32 ∨ (v32 t.m).isNan then (t, false)
  else if t.m = negInf32 then (⟨s, 0x3F800000, v.map rne32⟩, false)
  else if (v32 t.m).lt (v32 s) then
    let a := expDiff t.m s
    (⟨s, sum32 (prod t.l a) Ext.one, (t.o.zip v).map fun e => sum32 (prod e.1 a) e.2⟩, false)
  else
    let g := expDiff s t.m
    (⟨t.m, sum32 (v32 t.l) (v32 g), (t.o.zip v).map fun e => sum32 (v32 e.1) ((v32 g).mul e.2).1⟩, false)

/-- merge of R117. -/
def Triple.merge (a b : Triple) : Triple :=
  if (v32 a.m).isNan ∨ (v32 b.m).isNan then Triple.nan a.o.length
  else if b.m = negInf32 then a
  else if a.m = negInf32 then b
  else
    let m := rne32 ((v32 a.m).max (v32 b.m))
    let x := expDiff a.m m
    let y := expDiff b.m m
    ⟨m, sum32 (prod a.l x) (prod b.l y), (a.o.zip b.o).map fun e => sum32 (prod e.1 x) (prod e.2 y)⟩

/-- One level of the return network: neighbours merge. -/
def mergeLevel : List Triple → List Triple
  | a :: b :: t => a.merge b :: mergeLevel t
  | l => l

/-- The six levels over 64 leaves. -/
def mergeTree (l : List Triple) : Triple :=
  (mergeLevel (mergeLevel (mergeLevel (mergeLevel (mergeLevel (mergeLevel l)))))).headD ⟨negInf32, 0, []⟩

/-! ## Pages (R103, R115) -/

/-- An element of a row, exactly. -/
def kvElem (fmt : Nat) (bs : List Byte) (eb i : Nat) : Ext :=
  let w := ofBytes ((bs.drop (eb * i)).take eb)
  match fmt with
  | 0 => bf16.decode w
  | 1 => (floatFmt 1).decode w
  | 2 => (floatFmt 3).decode w
  | _ => (floatFmt 4).decode w

/-- The elements of a row. -/
def kvRow (e : SeqEntry) (bs : List Byte) : List Ext := (List.range (2 ^ e.lhd)).map fun i => kvElem e.fmt bs e.eb i

/-- The score of a token (R115). -/
def score (q k : List Ext) (c : Nat) : Nat :=
  let d := rne32 ((q.zip k).foldl (fun (acc : Ext) e => (acc.add (e.1.mul e.2).1).1) Ext.zero)
  rne32 (prod d c)

/-- A query takes n tokens of a page, in ascending position: the page's bytes are K rows from 0 and V rows from 32,768. -/
def pageTriple (e : SeqEntry) (q : List Ext) (c n : Nat) (ks vs : List Byte) : Triple × Bool :=
  (List.range n).foldl
    (fun (r : Triple × Bool) i =>
      let k := kvRow e ((ks.drop (i * e.row)).take e.row)
      let v := kvRow e ((vs.drop (i * e.row)).take e.row)
      let t := r.1.tok (score q k c) v
      (t.1, r.2 || t.2))
    (Triple.empty (2 ^ e.lhd), false)

/-! ## Queries and running triples (R323) -/

/-- Element d of query i. -/
def queryOf (t : Tile) (i n : Nat) : List Ext := (List.range n).map fun d => v32 (cell t (4 * i + d / 64) (d % 64))

/-- The running triple of query i. -/
def tripleOf (t : Tile) (i n : Nat) : Triple :=
  ⟨cell t 32 i, cell t 33 i, (List.range n).map fun d => cell t (4 * i + d / 64) (d % 64)⟩

/-- Write the running triple of query i. -/
def putTriple (t : Tile) (i : Nat) (x : Triple) : Tile :=
  let put := fun (t : Tile) (k v : Nat) => Sparse.set (fun _ => (0 : Cell)) t k (BitVec.ofNat 32 v)
  let t := put (put t (64 * 32 + i) x.m) (64 * 33 + i) x.l
  x.o.zipIdx.foldl (fun t e => put t (64 * (4 * i + e.2 / 64) + e.2 % 64) e.1) t

/-- The number of tokens of a query that has lim positions, in block k of T tokens. -/
def tokensIn (lim k t : Nat) : Nat := min t (lim - k * t)

/-- lim_i of R114. -/
def limOf (lim nq i : Nat) (causal : Bool) : Nat := if causal then lim - (nq - 1 - i) else lim

/-! ## Rounds (R116, R118) -/

/-- `kvcur` of a core's M cluster. -/
def State.kvcur (s : State) (c : CoreId) : Word := (s.core c).cm.reg 0x18

/-- Write `kvcur`. -/
def State.setKvcur (s : State) (c : CoreId) (act : Bool) (cur : Nat) : State :=
  let k := s.core c
  s.setCore c { k with cm := k.cm.setReg 0x18 (BitVec.ofNat 64 (ofBool act * 2 ^ 63 + cur % 2 ^ 24)) }

/-- The operands of the `kvattn` at which a core's M stream stands: KV address, i(rb), and the p register. -/
def State.attnArgs (s : State) (c : CoreId) : Option (Word × Word) :=
  match s.instrAt ⟨c, .m⟩ with
  | some (.kvattn _ _ a b _) =>
    let x := fun n => Sparse.get (fun _ => (0 : Word)) (s.core c).cm.x n
    some (x a.toNat, x b.toNat)
  | _ => none

/-- Give back the pins of a round. -/
def State.unpin (s : State) (o : Op) : State :=
  o.tasks.foldl
    (fun s t =>
      match t.kind, t.st with
      | .pages _, .done st =>
        if st ≠ Status.ok then s
        else
          let d := pageDie t.obj t.pidx
          match (s.die d).frameOf t.obj t.pidx with
          | some (f, l) => s.setLease d f { l with pin := l.pin - 1 }
          | none => s
      | _, _ => s) s

/-- Replace an operation's stage and tasks, and try them. -/
def State.setAttn (s : State) (o : Op) (zd stage : Nat) (cap : BitVec 128) (ts : List Task) : State :=
  (s.setOp { o with dest := .attn zd stage, cap := cap, tasks := ts }).tryOp o.id |>.shut

/-- What a `kvattn` needs next: tasks, which at stage 1 read the pages of a round of a record, with how many a pair forwarded; its end; a
fault; a failed read; a wait for a block that is being copied. -/
inductive Round where
  | tasks (cap : BitVec 128) (stage : Nat) (ts : List Task) (e : Option SeqEntry) (fwd : Nat)
  | finished
  | fault (f : FaultInfo)
  | failed (st : Status)
  | wait

/-- The blocks of a round: (block, page, leaf, tokens) (R116), or what keeps it from starting. -/
def State.roundPages (s : State) (e : SeqEntry) (asid : Nat) (va : Word) (nq : Nat) (causal : Bool) : List Nat → Except Round (List (Nat × Nat × Nat) × Nat)
  | [] => .ok ([], 0)
  | k :: t =>
    match s.kvxlate asid e va (kvLayer va) (kvHead va) (k * e.tokens) with
    | .fault f => .error (.fault f)
    | .wait => .error .wait
    | .ok pg _ leaf fwd =>
      let n := tokensIn (limOf (kvPos va) nq (nq - 1) causal) k e.tokens * e.row
      if !e.inWindow (pg * 65536) n || !e.inWindow (pg * 65536 + 32768) n then .error (.fault (kvCapFault Status.bounds va))
      else match s.roundPages e asid va nq causal t with
      | .error r => .error r
      | .ok (l, c) => .ok ((pg, leaf, n) :: l, c + ofBool fwd)

/-- The blocks of the round that starts at the cursor. -/
def roundBlocks (e : SeqEntry) (lim cur : Nat) : List Nat :=
  let nb := (lim + e.tokens - 1) / e.tokens
  (List.range (min (cur + 48) nb - cur)).map (· + cur)

/-- A `kvattn` that has started afresh empties every query's triple (R324) as soon as the record gives the number of elements
(DESIGN CHOICE, log 75). -/
def State.emptyTriples (s : State) (c : CoreId) (zd nq n : Nat) : State :=
  let k := s.core c
  if k.regs.fresh then
    let t := (List.range nq).foldl (fun t i => putTriple t i (Triple.empty n)) (Sparse.get (fun _ => ([] : Tile)) k.regs.z zd)
    s.setCore c { k with regs := { k.regs with z := Sparse.set (fun _ => []) k.regs.z zd t, fresh := false } }
  else s

/-- What a core's `kvattn` needs next. Its pages are those that R102 gives now (R113). -/
def State.nextRound (s : State) (c : CoreId) (zd : Nat) (va rb : Word) (counted : Bool) : State × Round :=
  let asid := ((s.core c).reg 0x40).toNat
  match s.lookSeq c.die asid va counted with
  | (s, .fault f) => (s, .fault f)
  | (s, .failed st) => (s, .failed st)
  | (s, .absent cap) => (s, .tasks cap 0 [pageTask .ready (field cap 88 40) 0 none] none 0)
  | (s, .entry e) =>
    let lim := kvPos va
    let nq := field rb 32 3 + 1
    let s := s.emptyTriples c zd nq (2 ^ e.lhd)
    if e.clen + 256 < lim then (s, .fault (.kv kvRange va.toNat))
    else
      match roundBlocks e lim (field (s.kvcur c) 0 24) with
      | [] => (s, .finished)
      | bs =>
        match s.roundPages e asid va nq (bit rb 35) bs with
        | .error r => (s, r)
        | .ok (l, fwd) => (s, .tasks e.cap 1 (l.map fun x => pageTask (.pages x.2.2) e.obj x.1 (some x.2.1)) (some e) fwd)

/-- A `kvattn` that will run again after its fault restarts with the held word (R118, R324). -/
def State.markRestart (s : State) (c : CoreId) (b : Bool) : State :=
  let k := s.core c
  s.setCore c { k with regs := { k.regs with restarted := b } }

/-- A round is discarded with a fault (R118). -/
def State.attnStops (s : State) (o : Op) (f : FaultInfo) : State :=
  let s := ((s.unpin o).releaseOp o).undoIssue o
  (s.markRestart o.owner.core true).takeFault o.owner f

/-- The M stream retires its `kvattn` with the class that its rounds raised (R116), and sources 8 and 9 pulse (R381). -/
def State.attnRetires (s : State) (o : Op) (st : Status) : State :=
  let c := o.owner.core
  let s := s.releaseOp o
  let k := s.core c
  let cs := if k.regs.raised then Classes.invalid else 0
  let s := s.setCore c { k with regs := { k.regs with raised := false, restarted := false } }
  let (t, due) := (s.stream o.owner).countClasses cs
  let s := (s.setStream o.owner ({ t with hold := none }.setStatus o.preg st)).postClasses o.owner due
  ((s.resumeAfter o.owner).pulse c 8).pulse c 9

/-- A round ends with a pool status other than OK (R118). -/
def State.attnFails (s : State) (o : Op) (va : Word) (st : Status) : State :=
  if st = Status.access then s.attnStops o (kvCapFault st va)
  else if o.plain then s.attnStops o (.remote st va.toNat)
  else (s.unpin o).attnRetires o st

/-- What a `kvattn` does next: it starts tasks, ends, stops, or waits with no page pinned. The operation's own tasks are done with. -/
def State.attnGoes (s : State) (o : Op) (zd : Nat) (va : Word) : Round → State
  | .tasks cap stage ts _ _ => (s.unpin o).setAttn o zd stage cap ts
  | .finished => ((s.unpin o).setKvcur o.owner.core false 0).attnRetires o Status.ok
  | .fault f => s.attnStops o f
  | .failed st => s.attnFails o va st
  | .wait => (s.unpin o).setAttn o zd 0 o.cap []

/-- `kvattn` (R323, R324): the operand check comes before the word is popped (R95, R310); it holds its stream until it completes or faults,
and its rounds are KVATTN_ROUND's. -/
def execKvattn (sy : BitVec 5) (d : BitVec 4) (a b : BitVec 5) (p : BitVec 3) (s : State) : Host.Outcome State Fault Refusal :=
  s.issue (.kvattn sy d a b p) fun s =>
    let c := s.focus.core
    let va := s.x a.toNat
    let rb := s.x b.toNat
    let resumes := bit (s.kvcur c) 63 && s.cur.regs.heldDest == d.toNat
    let go := fun (s : State) =>
      let o : Op := { Op.empty s.focus with plain := p == 0, preg := p.toNat, dest := .attn d.toNat 0, faultAddr := va.toNat }
      let (t, id) := s.addOp o
      let t := t.setMe (t.me.addBusy o.targets)
      .hold (t.setAttn { o with id := id } d.toNat 0 0 []) id
    if resumes && s.cur.regs.restarted then
      if field va 60 4 ≠ 0 then .fault (.kv kvFormat va.toNat) else go (s.markRestart c false)
    else s.withWord (fun w => fwWhole w && field rb 36 4 != d.toNat) fun w =>
      if field va 60 4 ≠ 0 then .fault (.kv kvFormat va.toNat)
      else
      let s := s.popWord
      let s := s.setCur { s.cur with regs := { s.cur.regs with heldWord := w, heldDest := d.toNat, restarted := false } }
      if resumes then go s
      else
        let t := (List.range (field rb 32 3 + 1)).foldl (fun t i => putTriple t i (Triple.empty 0)) (s.tile d.toNat)
        let s := (s.setTile d.toNat t).setKvcur c true 0
        go (s.setCur { s.cur with regs := { s.cur.regs with raised := false, fresh := true } })

/-- Replace bytes of a list from a place on. -/
def patchBytes (bs : List Byte) (o : Nat) (v : List Byte) : List Byte := bs.mapIdx fun i x => if o ≤ i ∧ i < o + v.length then v.getD (i - o) 0 else x

/-- Bytes of a page as a round of a core's `kvattn` reads them: of every line that an earlier `kvapp` of the stream has written, and that
nothing orders before it, the old bytes or the new, a free choice (R110, R360). -/
def State.pageView (s : State) (c : CoreId) (t : Task) (o n : Nat) : List Byte :=
  let d := pageDie t.obj t.pidx
  let base := match (s.die d).frameOf t.obj t.pidx with | some (f, _) => (s.die d).frameAddr f | none => 0
  (s.core c).store.old.zipIdx.foldl
    (fun bs e =>
      if e.1.obj = t.obj ∧ e.1.pidx = t.pidx ∧ o ≤ e.1.off ∧ e.1.off + e.1.bytes.length ≤ o + n ∧ bit (Config.freeWord (s.fresh + e.2)) 0 then
        patchBytes bs (e.1.off - o) e.1.bytes
      else bs) (readBytes (s.die d).mem (base + o) n)

/-- Merge a round into the running triples (R116): page triples at their leaves, the tree, and the running triple. -/
def State.mergeRound (s : State) (c : CoreId) (zd : Nat) (e : SeqEntry) (va rb : Word) (ts : List Task) : State :=
  let k := s.core c
  let n := 2 ^ e.lhd
  let nq := field rb 32 3 + 1
  let qs := Sparse.get (fun _ => ([] : Tile)) k.regs.z (field rb 36 4)
  let cur := field (s.kvcur c) 0 24
  let pages := ts.zipIdx.map fun t =>
    let len := match t.1.kind with | .pages m => m | _ => 0
    (t.1.leaf.getD 0, cur + t.2, s.pageView c t.1 0 len, s.pageView c t.1 32768 len)
  let step := fun (r : Tile × Bool) (i : Nat) =>
    let q := queryOf qs i n
    let lim := limOf (kvPos va) nq i (bit rb 35)
    let leaves := pages.map fun x => (x.1, pageTriple e q (field rb 0 32) (tokensIn lim x.2.1 e.tokens) x.2.2.1 x.2.2.2)
    let tree := (List.range 64).map fun x => ((leaves.find? fun l => decide (l.1 = x)).map (·.2.1)).getD (Triple.empty n)
    (putTriple r.1 i ((tripleOf r.1 i n).merge (mergeTree tree)), r.2 || leaves.any (·.2.2))
  let (t, bad) := (List.range nq).foldl step (Sparse.get (fun _ => ([] : Tile)) k.regs.z zd, false)
  let k := { k with regs := { k.regs with z := Sparse.set (fun _ => []) k.regs.z zd t, raised := k.regs.raised || bad } }
  let k := if bad then { k with cm := k.cm.raise Classes.invalid } else k
  s.setCore c k

/-- The line of a page that a round reads is poisoned. -/
def State.roundPoisoned (s : State) (ts : List Task) : Bool :=
  ts.any fun t =>
    let d := pageDie t.obj t.pidx
    match (s.die d).frameOf t.obj t.pidx, t.kind with
    | some (f, _), .pages n =>
      let a := (s.die d).frameAddr f / 128
      (s.die d).poison.any fun l => (decide (a ≤ l) && decide (128 * l < 128 * a + n)) || (decide (a + 256 ≤ l) && decide (128 * l < 128 * (a + 256) + n))
    | _, _ => false

/-- Two lists of tasks read the same pages through the same leaves. -/
def samePages (a b : List Task) : Bool :=
  a.map (fun t => (t.obj, t.pidx, t.leaf, t.kind)) == b.map (fun t => (t.obj, t.pidx, t.leaf, t.kind))

/-- The frame of a page has gone, or is not readable. -/
def State.pageGone (s : State) (t : Task) : Bool :=
  match (s.die (pageDie t.obj t.pidx)).frameOf t.obj t.pidx with
  | some (_, l) => decide (l.st ≠ .valid ∧ l.st ≠ .draining)
  | none => true

/-- The pages of a round are read and its triple is merged (R116): the cursor advances, and the round counts. -/
def State.roundDone (s : State) (o : Op) (zd : Nat) (e : SeqEntry) (va rb : Word) (fwd : Nat) : State :=
  let c := o.owner.core
  let s := { s.mergeRound c zd e va rb o.tasks with fresh := s.fresh + (s.core c).store.old.length }
  let s := (s.unpin o).count c.die 0x18D
  let s := if fwd = 0 then s else s.count c.die 0x18C fwd
  s.setKvcur c true (field (s.kvcur c) 0 24 + 48)

/-- `KVATTN_ROUND` (R116, R118): page 0 has been fetched, or the pages of a round. They are read now, and so are the pages that the record and
the pairs give now (R113): the round is merged where its pages are those, all there; else it fetches them. -/
def execKvattnRound (core : CoreId) (s : State) : Host.Outcome State Fault Refusal :=
  match s.ops.find? fun o => decide (o.owner = ⟨core, .m⟩) && (match o.dest with | .attn _ _ => true | _ => false) with
  | none => .next s
  | some o =>
    match o.dest, s.attnArgs core with
    | .attn zd stage, some (va, rb) =>
      if !o.performed then .next (s.tryOp o.id).shut
      else if o.status ≠ Status.ok then .next (s.attnFails o va o.status)
      else
        match s.nextRound core zd va rb (stage == 0 && !o.tasks.isEmpty) with
        | (s, .tasks cap 1 ts (some e) fwd) =>
          if stage = 0 || !samePages o.tasks ts || o.tasks.any s.pageGone then .next (s.attnGoes o zd va (.tasks cap 1 ts none 0))
          else if s.roundPoisoned o.tasks then .next (s.attnFails o va Status.poison)
          else
            let s := s.roundDone o zd e va rb fwd
            match s.nextRound core zd va rb false with
            | (s, r) => .next (s.attnGoes { o with tasks := [] } zd va r)
        | (s, r) => .next (s.attnGoes o zd va r)
    | _, _ => .next s

end Sys2Proof.Machine
end

