-- ==== Sys2Proof/Machine/Control.lean ====
section
/-!
DEFINITION. Block headers, steering, compares and tests, the join set and stream control (R234 to R245, R251) and the compact forms of
R208 that belong to them.
-/

namespace Sys2Proof.Machine

/-- A block header (R210, R211): a broken rule is BLOCK; a count of 0 skips the body; otherwise the entry is pushed. -/
def header (s : State) (len : Nat) (n : BitVec 32) : Eff :=
  let c := s.me
  let start := c.pc + 2
  let stop := start + BitVec.ofNat 16 len
  if len % 2 = 1 ∨ len < 2 ∨ 1022 < len then .fault (.illegal .block)
  else if 4 ≤ c.stack.length then .fault (.illegal .block)
  else if (match c.stack with | b :: _ => decide (b.stop < stop) | [] => false) then .fault (.illegal .block)
  else if n = 0 then let e := endcheck stop c.stack; .jump s e.1 e.2
  else .jump s start (⟨start, stop, n⟩ :: c.stack)

/-- `blk` (R234). -/
def execBlk (l : BitVec 10) (c : BitVec 9) (s : State) : Host.Outcome State Fault Refusal :=
  s.issue (.blk l c) fun s => header s l.toNat (c.setWidth 32)

/-- `blkr` (R234): the count is rc[31:0], read when the header issues. -/
def execBlkr (l : BitVec 10) (r : BitVec 5) (s : State) : Host.Outcome State Fault Refusal :=
  s.issue (.blkr l r) fun s => header s l.toNat ((s.x r.toNat).setWidth 32)

/-- `prep` (R235): `c` is unchanged. -/
def execPrep (sy : Sync) (g : BitVec 4) (t : BitVec 15) (s : State) : Host.Outcome State Fault Refusal :=
  s.issue (.prep sy g t) fun s => .retire (s.setSteer g.toNat { s.steer g.toNat with tv := true, tgt := t }) 0

/-- A taken branch (R213, R236): BLOCK where no target is prepared or the target holds no block header; otherwise the stack keeps the
entries whose bodies contain the target. -/
def branchTo (s : State) (tv : Bool) (t : BitVec 15) : Eff :=
  if tv && s.cur.headerAt s.focus.cl t.toNat then
    .jump s (t.setWidth 16) (pruneStack (t.setWidth 16) s.me.stack)
  else .fault (.illegal .block)

/-- `br` (R236). -/
def execBr (sy : Sync) (g : BitVec 4) (s : State) : Host.Outcome State Fault Refusal :=
  s.issue (.br sy g) fun s =>
    let r := s.steer g.toNat
    if r.c then branchTo s r.tv r.tgt else .retire s 0

/-- `brl` (R236): the link replaces the target in the same register; `tv` is left at 1 and `c` unchanged. -/
def execBrl (sy : Sync) (g : BitVec 4) (s : State) : Host.Outcome State Fault Refusal :=
  s.issue (.brl sy g) fun s =>
    let r := s.steer g.toNat
    if r.c then
      branchTo (s.setSteer g.toNat { r with tgt := (s.me.pc + 2).setWidth 15 }) r.tv r.tgt
    else .retire s 0

/-- `ret` (R236): unconditional. -/
def execRet (sy : Sync) (g : BitVec 4) (s : State) : Host.Outcome State Fault Refusal :=
  s.issue (.ret sy g) fun s => let r := s.steer g.toNat; branchTo s r.tv r.tgt

/-- The compare conditions (R237). -/
def compare (cc : Nat) (a y : Word) : Bool :=
  match cc with
  | 0 => a == y
  | 1 => a != y
  | 2 => a.toInt < y.toInt
  | 3 => y.toInt ≤ a.toInt
  | 4 => a.toNat < y.toNat
  | _ => y.toNat ≤ a.toNat

/-- `cmp` (R237). -/
def execCmp (sy : Sync) (g : BitVec 4) (a b : BitVec 5) (c : BitVec 3) (s : State) : Host.Outcome State Fault Refusal :=
  s.issue (.cmp sy g a b c) fun s => .retire (s.setCond g.toNat (compare c.toNat (s.x a.toNat) (s.x b.toNat))) 0

/-- `cmpi` (R237): imm7 is sign-extended for cc 0 to 3 and zero-extended for cc 4 and 5. -/
def execCmpi (sy : Sync) (g : BitVec 4) (a : BitVec 5) (c : BitVec 3) (i : BitVec 7) (s : State) : Host.Outcome State Fault Refusal :=
  s.issue (.cmpi sy g a c i) fun s =>
    .retire (s.setCond g.toNat (compare c.toNat (s.x a.toNat) (if c.toNat < 4 then i.signExtend 64 else i.setWidth 64))) 0

/-- A plain copy command's failure that the first reader of its p register meets (R161), and the state with it raised. -/
def State.copyFault (s : State) (p : Nat) : Option (State × FaultInfo) :=
  if s.focus.cl ≠ .d then none
  else
    let k := s.cur
    match k.store.copyFaults.find? fun f => decide (f.p = p) && decide (p ≠ 0) with
    | some f => some (s.setCur { k with store := { k.store with copyFaults := k.store.copyFaults.erase f } }, .remote f.st f.addr)
    | none => none

/-- `tstp` (R238). -/
def execTstp (sy : Sync) (g p v : BitVec 4) (t : BitVec 3) (s : State) : Host.Outcome State Fault Refusal :=
  s.issue (.tstp sy g p v t) fun s =>
    match s.copyFault p.toNat with
    | some (s, f) => .abort s f
    | none =>
    let q := s.me.status p.toNat
    .retire (s.setCond g.toNat (if t = 0 then q == v else q != v)) 0

/-- The test of a queue count (R238). -/
def countTest (t n v : Nat) : Bool :=
  match t with
  | 0 => n == v
  | 1 => n != v
  | 2 => v ≤ n
  | _ => n < v

/-- `tstq` (R238): it samples the number of entries and does not block. -/
def execTstq (sy : Sync) (g p v : BitVec 4) (t : BitVec 3) (s : State) : Host.Outcome State Fault Refusal :=
  s.issue (.tstq sy g p v t) fun s => .retire (s.setCond g.toNat (countTest t.toNat (s.cur.queue p.toNat).length v.toNat)) 0

/-- The test of a lane mask (R238). -/
def maskTest (t : Nat) (m : Word) : Bool :=
  match t with
  | 0 => m == 0
  | 1 => m != 0
  | 2 => m == BitVec.allOnes 64
  | _ => m != BitVec.allOnes 64

/-- `tstm` (R238): val is ignored. -/
def execTstm (sy : Sync) (g p v : BitVec 4) (t : BitVec 3) (s : State) : Host.Outcome State Fault Refusal :=
  s.issue (.tstm sy g p v t) fun s => .retire (s.setCond g.toNat (maskTest t.toNat (s.mask p.toNat))) 0

/-- The executing core with its join set replaced. -/
def State.setJoinSet (s : State) (j : BitVec 4) : State := s.setCur { s.cur with ctl := { s.cur.ctl with joinSet := j } }

/-- The clusters of a core that have halted, as join-set bits (R239). -/
def Core.haltedBits (c : Core) : BitVec 4 :=
  [Cluster.a, .m, .v, .d].foldl (fun j k => if (c.cluster k).run = .halted then j ||| k.joinBit else j) 0

/-- `fork` (R239). -/
def execFork (sy : Sync) (m : BitVec 4) (s : State) : Host.Outcome State Fault Refusal :=
  s.issue (.fork sy m) fun s => .retire (s.setJoinSet (s.cur.ctl.joinSet &&& ~~~m)) 0

/-- `join` (R239). -/
def execJoin (sy : Sync) (m : BitVec 4) (s : State) : Host.Outcome State Fault Refusal :=
  s.issue (.join sy m) fun s => .retire (s.setJoinSet (s.cur.ctl.joinSet ||| (m &&& ~~~s.cur.haltedBits))) 0

/-- `nop` (R240). -/
def execNop (sy : Sync) (s : State) : Host.Outcome State Fault Refusal :=
  s.issue (.nop sy) fun s => .retire s 0

/-- A drain request is pending on a core (R241): pre-emption, a swap token, or a reassignment; a shadow load that has failed stands for the
swap that would take place (R374). -/
def State.drainPending (s : State) (c : CoreId) : Bool :=
  (s.core c).ctl.swapToken || (s.core c).ctl.drain || (s.core c).ctl.loadFailed ||
    (match s.gangOf c with | some g => g.request.isSome | none => false)

/-- `yield` (R241): with no request pending it retires; otherwise the stream stops at it, once the p registers of its outstanding `.s`
forms are written (R376). -/
def yieldBody (s : State) : Eff :=
  if !s.drainPending s.focus.core then .retire s 0
  else if !(s.opsOf s.focus).isEmpty then .block .access
  else .stop s .atYield

/-- `yield` (R241). -/
def execYield (sy : Sync) (s : State) : Host.Outcome State Fault Refusal := s.issue (.yield sy) yieldBody

/-- `halt` (R242): it waits for the stream's outstanding operations; then the stream has halted and leaves the join set, and a halted A
counts at barriers (R282). -/
def execHalt (sy : Sync) (s : State) : Host.Outcome State Fault Refusal :=
  s.issue (.halt sy) fun s =>
    if !(s.opsOf s.focus).isEmpty then .block .access
    else
      let s := s.setMe { s.me with run := .halted }
      let s := s.setJoinSet (s.cur.ctl.joinSet &&& ~~~s.focus.cl.joinBit)
      .retire (if s.focus.cl = .a then s.arriveHalted s.focus.core.index else s) 0

/-- `tfence` (R243): an arithmetic trap when `pend` is set or `sticky` and `en` share a bit; it clears `pend` and leaves `sticky`. -/
def execTfence (sy : Sync) (s : State) : Host.Outcome State Fault Refusal :=
  s.issue (.tfence sy) fun s =>
    let f := s.me.reg 0
    if bit f 16 ∨ field f 0 8 &&& field f 8 8 ≠ 0 then
      .faultIn (s.setMe (s.me.setReg 0 (setBit f 16 false)))
        { kind := 10, cause := 0, aux := field f 0 17, aux2 := (s.me.reg 3).toNat }
    else .retire s 0

/-- `trap` (R244): a host trap, or in A with the frame empty a local trap to the header that g11 names. -/
def execTrap (sy : Sync) (c : BitVec 16) (s : State) : Host.Outcome State Fault Refusal :=
  s.issue (.trap sy c) fun s =>
    if c.toNat < 0x8000 ∨ s.focus.cl ≠ .a ∨ s.cur.regs.frame.isSome then .faultIn s { kind := 11, cause := 0, addr := c.toNat }
    else
      let g := s.steer 11
      if g.tv && s.cur.headerAt .a g.tgt.toNat then
        let k := s.cur
        .jump (s.setCur { k with regs := { k.regs with frame := some ⟨s.me.pc + 2, s.me.stack, c⟩ } }) (g.tgt.setWidth 16) []
      else .fault (.illegal .block)

/-- `eret` (R245). -/
def execEret (sy : Sync) (s : State) : Host.Outcome State Fault Refusal :=
  s.issue (.eret sy) fun s =>
    match s.cur.regs.frame with
    | none => .fault (.illegal .block)
    | some f =>
      let k := s.cur
      let e := endcheck f.pc f.stack
      .jump (s.setCur { k with regs := { k.regs with frame := none } }) e.1 e.2

/-- `swap` (R251): the A stream stops at it, once the p registers of its outstanding `.s` forms are written (R376). -/
def execSwap (sy : Sync) (s : State) : Host.Outcome State Fault Refusal :=
  s.issue (.swap sy) fun s => if !(s.opsOf s.focus).isEmpty then .block .access else .stop s .atSwap

/-- Compact `nop` (R208). -/
def execCompactNop (s : State) : Host.Outcome State Fault Refusal := s.issue .compactNop fun s => .retire s 0

/-- Compact `br` (R208): a taken branch skips the second word (R206). -/
def execCompactBr (g : BitVec 4) (s : State) : Host.Outcome State Fault Refusal :=
  s.issue (.compactBr g) fun s =>
    let r := s.steer g.toNat
    if r.c then branchTo s r.tv r.tgt else .retire s 0

/-- Compact `yield` (R208). -/
def execCompactYield (s : State) : Host.Outcome State Fault Refusal := s.issue .compactYield yieldBody

/-- A word that is no legal instruction (R224): the stream in focus parks at it. -/
def execIllegalInstruction (cause : IllegalCause) (s : State) : Host.Outcome State Fault Refusal :=
  .next (s.takeFault s.focus (.illegal cause))

end Sys2Proof.Machine
end

