-- ==== Sys2Proof/Machine/Swath.lean ====
section
/-!
DEFINITION. The Swath (16_swath.md): the rule table and its check at activation, matching, the extended forms, the decision, and the issue
of a replacement in place of its originals; `rwctl` (R256).
-/

namespace Sys2Proof.Machine

/-! ## Rules (R332 to R336) -/

/-- An entry of a rule table. -/
abbrev Rule := BitVec 512

/-- Entry n of a plane's rule table (R332, R371). -/
def Plane.rule (p : Plane) (n : Nat) : Rule := BitVec.ofNat 512 (readNat p.image (0x10000 + 64 * n) 64)

/-- The header (R333). -/
def Rule.valid (r : Rule) : Bool := bit r 31
def Rule.cls (r : Rule) : Nat := field r 29 2
def Rule.np (r : Rule) : Nat := field r 27 2
def Rule.nr (r : Rule) : Nat := field r 25 2
def Rule.grd (r : Rule) : Nat := field r 23 2

/-- A pattern slot (R334). -/
def Rule.slotVal (r : Rule) (p : Nat) : Nat := field r (32 + 56 * p) 26
def Rule.slotMask (r : Rule) (p : Nat) : Nat := field r (58 + 56 * p) 26

/-- A bit field of operand constraint c (R335). -/
def Rule.eq (r : Rule) (c lo n : Nat) : Nat := field r (256 + 16 * c + lo) n

/-- A bit field of replacement template t (R336). -/
def Rule.rep (r : Rule) (t lo n : Nat) : Nat := field r (352 + 80 * t + lo) n

/-- The width of a template's copied field. -/
def Rule.wd (r : Rule) (t : Nat) : Nat := 3 + r.rep t 11 2

/-- The replacement word that template t builds from the originals (R336). -/
def Rule.build (r : Rule) (orig : List Nat) (t : Nat) : Nat :=
  let set := r.rep t 26 32
  let keep := r.rep t 58 19
  let low := (set % 2 ^ 19 &&& (2 ^ 19 - 1 - keep)) ||| (orig.getD (r.rep t 77 2) 0 % 2 ^ 19 &&& keep)
  let w := BitVec.ofNat 32 (set / 2 ^ 19 * 2 ^ 19 + low)
  (if r.rep t 25 1 = 1 then setField w (r.rep t 13 5) (r.wd t) (orig.getD (r.rep t 23 2) 0 / 2 ^ r.rep t 18 5) else w).toNat

/-- The replacement words of a rule. -/
def Rule.words (r : Rule) (orig : List Nat) : List Nat := (List.range r.nr).map (r.build orig)

/-- The major of a 32-bit word. -/
def majorOf (w : Nat) : Nat := w / 2 ^ 19 % 128

/-- The matchable majors (R330). -/
def matchableMajor (m : Nat) : Bool := (decide (0x70 ≤ m) && decide (m ≤ 0x74)) || m == 0x76

/-- A word pops one format word (R341). -/
def wordPops (w : Nat) : Nat := ofBool (decide (majorOf w ∈ [0x70, 0x71, 0x72, 0x76]))

/-- A word is a chain head or a chain tail (R339). -/
def isHead (w : Nat) : Bool := majorOf w == 0x70 && w % 2 == 1
def isTail (w : Nat) : Bool := majorOf w == 0x70 && w / 2 % 2 == 1

/-- Each chain head is followed by its tail, and no tail stands alone (R338). -/
def chainsOk : Bool → List Nat → Bool
  | after, [] => !after
  | after, w :: t => (after == isTail w) && !(isHead w && isTail w) && chainsOk (isHead w) t

/-- The conditions that R337 and R338 share: chains, format words popped, and the guard. -/
def Rule.shapeOk (r : Rule) (orig words : List Nat) : Bool :=
  chainsOk false words && (orig.map wordPops).sum == (words.map wordPops).sum &&
    (r.grd != 1 || words.any isHead) && (r.grd != 2 || words.any fun w => majorOf w == 0x76)

/-- A rule is malformed (R338). -/
def Rule.malformed (r : Rule) : Bool :=
  let slots := List.range (r.np + 1)
  let vals := slots.map r.slotVal
  field r 0 23 != 0 || r.cls == 3 || r.nr == 3 || r.grd == 3 ||
    (List.range 4).any (fun p => field r (84 + 56 * p) 4 != 0 || (r.slotVal p &&& r.slotMask p) != r.slotVal p ||
      (decide (r.np < p) && (r.slotMask p != 0 || r.slotVal p != 0))) ||
    slots.any (fun p => r.slotMask p / 2 ^ 19 != 127 || !matchableMajor (majorOf (r.slotVal p))) ||
    (List.range 6).any (fun c => r.eq c 15 1 == 1 &&
      (decide (r.np < r.eq c 12 2) || decide (r.np < r.eq c 5 2) || decide (15 < r.eq c 7 5) || decide (15 < r.eq c 0 5))) ||
    (List.range 2).any (fun t => r.rep t 0 11 != 0 || r.rep t 11 2 == 3 || (r.rep t 79 1 == 1) != decide (t < r.nr)) ||
    (List.range r.nr).any (fun t => decide (r.np < r.rep t 77 2) ||
      (r.rep t 25 1 == 1 && (decide (r.np < r.rep t 23 2) || decide (19 < r.rep t 18 5 + r.wd t) || decide (19 < r.rep t 13 5 + r.wd t))) ||
      !matchableMajor (majorOf (r.rep t 26 32)) || r.rep t 52 6 != 32) ||
    !r.shapeOk vals (r.words vals)

/-- The malformed rules of a plane, as a mask, and the lowest (R338). -/
def Plane.malformed (p : Plane) : List Nat := (List.range 64).filter fun n => (p.rule n).valid && (p.rule n).malformed

/-- The check of a plane's rule table at its activation (R338). -/
def CoreCtl.checkRules (c : CoreCtl) : CoreCtl :=
  let l := c.active.malformed
  { c with badRule := l.head?, rulesOff := BitVec.ofNat 64 (l.map (2 ^ ·)).sum }

/-- The 20-byte rewrite record (R345). -/
def rewriteRecord (rule : Nat) (orig : List Nat) : List Byte :=
  bytesOf 4 (2 ^ 31 + rule * 2 ^ 25 + (orig.length - 1) * 2 ^ 23) ++ (List.range 4).flatMap fun i => bytesOf 4 (orig.getD i 0)

/-! ## Matching (R330, R331, R337, R339) -/

/-- The body of a matchable instruction (R330). -/
def matchBody : Instr → Option (State → Eff)
  | .mma sy d c a b => if sy = 0 then some (mulBody true d.toNat c.toNat a.toNat b.toNat) else none
  | .mmas sy d c a b => if sy = 0 then some (mulBody false d.toNat c.toNat a.toNat b.toNat) else none
  | .mfft sy r i => if sy = 0 then some (mfftBody r.toNat i.toNat) else none
  | .mtw sy a => if sy = 0 then some (mtwBody a.toNat) else none
  | .mzero sy d m => if sy = 0 then some (mzeroBody d.toNat m.toNat) else none
  | .mtr sy d a => if sy = 0 then some (mtrBody d.toNat a.toNat) else none
  | .madd sy d a b => if sy = 0 then some (maddBody d.toNat a.toNat b.toNat) else none
  | .mmov sy d a => if sy = 0 then some (mmovBody d.toNat a.toNat) else none
  | .msc sy d a i => if sy = 0 then some (mscBody d.toNat a.toNat i.toNat) else none
  | .mcvt sy z a t => if sy = 0 then some (mcvtBody z.toNat a.toNat (t != 0) none) else none
  | _ => none

/-- The matchable instruction that a word is, as an M instruction that passes the tests of R224. -/
def matchable (w : Nat) : Option Instr :=
  match decodeContainer w false with
  | .ok i => if (matchBody i).isSome && clusterOk i .m && (operands i).all (fun o => o.legal .m) then some i else none
  | _ => none

/-- A word of a replacement: a chain head or tail, a scaled conversion, or an instruction (R339). -/
inductive Rep where
  | head (d c a b : Nat)
  | tail (d c a b : Nat)
  | scaled (z a : Nat) (t : Bool) (i : Nat)
  | plain (i : Instr)
  deriving DecidableEq, Repr

/-- What a replacement word encodes, with the fields that R339 allows. -/
def repOf (w : Nat) : Option Rep :=
  if isHead w || isTail w then
    match matchable (w / 4 * 4) with
    | some (.mma _ d c a b) =>
      some (if isHead w then .head d.toNat c.toNat a.toNat b.toNat else .tail d.toNat c.toNat a.toNat b.toNat)
    | _ => none
  else if majorOf w = 0x76 ∧ w / 2 ^ 8 % 2 = 1 then
    match matchable (w / 2 ^ 9 * 2 ^ 9 + w % 2 ^ 4) with
    | some (.mcvt _ z a t) => some (.scaled z.toNat a.toNat (t != 0) (w / 2 ^ 4 % 2 ^ 4))
    | _ => none
  else (matchable w).map .plain

/-- The run at the head of the window: up to 4 matchable words at consecutive container addresses below the end of the innermost body. -/
def Core.window (k : Core) : List Nat :=
  let pc := k.cm.pc.toNat
  let stop := match k.cm.stack with | [] => 0 | b :: _ => b.stop.toNat
  if pc % 2 = 1 then []
  else ((List.range 4).map fun j => pc + 2 * j).takeWhile (fun a =>
      decide (a < stop) && decide (a < (k.entry .m).2) && (matchable (k.container .m a)).isSome) |>.map (k.container .m)

/-- A rule matches a run at the head (R337). -/
def Rule.fits (r : Rule) (run : List Nat) : Bool :=
  let n := r.np + 1
  let orig := run.take n
  let words := r.words orig
  decide (n ≤ run.length) &&
    ((List.range n).all fun p => (orig.getD p 0 % 2 ^ 26 &&& r.slotMask p) == r.slotVal p) &&
    ((List.range 6).all fun c => r.eq c 15 1 == 0 ||
      ((orig.getD (r.eq c 12 2) 0 / 2 ^ r.eq c 7 5 % 16 == orig.getD (r.eq c 5 2) 0 / 2 ^ r.eq c 0 5 % 16) == (r.eq c 14 1 == 0))) &&
    (words.all fun w => (repOf w).isSome) && r.shapeOk orig words

/-- A match: the rule, the originals, and what replaces them. -/
structure Match where
  rule : Nat
  grd : Nat
  orig : List Nat
  reps : List Rep

/-- The core is inside a bypassed window (R344, R342): the head follows the window's first instruction in one run of containers. The end of
a block body, which is a flush point (R330), breaks the run or changes the depth. -/
def Core.bypassed (k : Core) : Bool :=
  let n := (k.cm.reg 3 - k.regs.bypassFrom).toNat
  decide (n < k.regs.bypass) && k.cm.pc == k.regs.bypassPc + BitVec.ofNat 16 (2 * n) && k.cm.stack.length == k.regs.bypassDepth

/-- The first rule that the Swath finds for the run at the head (R331), under the mask of R256. -/
def Core.findRule (k : Core) : Option Nat :=
  let p := k.ctl.active
  (List.range 64).find? fun n =>
    let r := p.rule n
    r.valid && !bit k.ctl.rulesOff n && bit k.ctl.ruleMask n && bit (k.reg 0x43) r.cls && r.fits k.window

/-- What the Swath decides for the head, a rule or none: a match once begun stays, whatever `rwctl` does meanwhile (R256). -/
def Core.decided (k : Core) : Option Nat :=
  if k.window.isEmpty || k.bypassed then none
  else match k.regs.begun with
    | some (n, r) => if n = k.cm.reg 3 then r else k.findRule
    | none => k.findRule

/-- The match at the head. -/
def Core.firstMatch (k : Core) : Option Match :=
  let p := k.ctl.active
  k.decided.map fun n =>
    let orig := k.window.take ((p.rule n).np + 1)
    { rule := n, grd := (p.rule n).grd, orig := orig, reps := ((p.rule n).words orig).filterMap repOf }

/-- The Swath keeps what it has decided for the head. -/
def State.begin_ (s : State) : State :=
  let k := s.cur
  if k.bypassed then s else s.setCur { k with regs := { k.regs with begun := some (k.cm.reg 3, k.decided) } }

/-- The rewrite record of a match that has not issued, for a forced save (R344). -/
def Core.pendingRewrite (k : Core) : List Byte :=
  match k.firstMatch with
  | some m => if k.cm.run = .running then rewriteRecord m.rule m.orig else []
  | none => []

/-! ## The extended forms (R340) -/

/-- The accumulating half of a chained cell: the first word's groups, then both accumulators with the first group of the second word,
rounded as FP32 under that word's `zo`, then the rest (log 68 where the words differ). -/
def chainCell (w1 w2 : Word) (g1 g2 : Nat) (zo1 zo2 : Bool) (c d : Nat) (p1 p2 : List ((Ext × Classes) × (Ext × Classes))) : Nat × Classes :=
  let r := (runsOf g1 64 (pairValues p1)).foldl (stepCell w1 zo1) (c, inputClasses w1 p1 ||| inputClasses w2 p2)
  match runsOf g2 64 (pairValues p2) with
  | [] => r
  | first :: rest =>
    let nanIn := (v32 r.1).isNan || (v32 d).isNan || first.any fun p => p.1.isNan || p.2.isNan
    let (v, k) := cellRound zo2 nanIn (first.foldl
      (fun (v : Exact) p => let (q, i) := p.1.mul p.2; let (x, j) := v.1.add q; (x, v.2 || i || j))
      ((v32 r.1).add (v32 d)))
    rest.foldl (stepCell w2 zo2) (v, r.2 ||| k)

/-- The pairs of elements that a cell of a dense product multiplies. -/
def cellPairs (w : Word) (a b : List (List (Ext × Classes))) (i j : Nat) : List ((Ext × Classes) × (Ext × Classes)) :=
  (List.range 64).map fun k => (if fwTa w then at2 a k i else at2 a i k, if fwTb w then at2 b k j else at2 b j k)

/-- A chained operation (R340): two words and four slots. -/
def chainBody (zA zC a1 b1 zB zD a2 b2 : Nat) (s : State) : Eff :=
  s.withWord (fwMul true) fun w1 => s.mulOperands w1 a1 b1 fun s x1 y1 =>
    s.withWord (fwMul true) fun w2 => s.mulOperands w2 a2 b2 fun s x2 y2 =>
      let (zo1, zo2) := (s.zo (bit w1 34), s.zo (bit w2 34))
      let (r1, c1, r2, c2) := (x1.rows, y1.rows, x2.rows, y2.rows)
      let g1 := min (groupSize x1.code (fwK w1)) (groupSize y1.code (fwK w1))
      let g2 := min (groupSize x2.code (fwK w2)) (groupSize y2.code (fwK w2))
      let (tc, td) := (s.tile zC, s.tile zD)
      let (tb, k1) := mmaTile w2 zo2 td x2 y2
      let (ta, k2) := tileFrom fun i j =>
        chainCell w1 w2 g1 g2 zo1 zo2 (cell tc i j) (cell td i j) (cellPairs w1 r1 c1 i j) (cellPairs w2 r2 c2 i j)
      ((((s.setTile zB tb).setTile zA ta).pulse s.focus.core 8)).tileDone (k1 ||| k2)

/-! ## The decision (R341, R342) -/

/-- The check of the format word that an instruction pops, if it pops one (R341); `lt` is the generator's length. -/
def Rep.check (lt : Nat) : Rep → Option (Word → Bool)
  | .head _ _ _ _ => some (fwMul true)
  | .tail _ _ _ _ => some (fwMul true)
  | .scaled _ _ _ _ => some fwConvert
  | .plain (.mma _ _ _ _ _) => some (fwMul true)
  | .plain (.mmas _ _ _ _ _) => some (fwMul false)
  | .plain (.mfft _ r i) => some fun w => fwTransform lt w && r != i
  | .plain (.mcvt _ _ _ _) => some fwConvert
  | .plain _ => none

/-- The generator's length after an instruction. -/
def Rep.length (s : State) (lt : Nat) : Rep → Nat
  | .plain (.mtw _ a) => twiddleLength (s.x a.toNat)
  | _ => lt

/-- The format words that a run pops are present and pass their checks (R342). -/
def wordsOk (s : State) : Nat → List Word → List Rep → Bool
  | _, _, [] => true
  | lt, fq, r :: t =>
    match r.check lt, fq with
    | none, _ => wordsOk s (r.length s lt) fq t
    | some _, [] => false
    | some ok, w :: rest => ok w && wordsOk s lt rest t

/-- The replacement words that pop a format word, with the words that they pop. -/
def wordsOf : List Word → List Rep → List (Word × Rep)
  | _, [] => []
  | fq, r :: t => if (r.check 0).isSome then (fq.headD 0, r) :: wordsOf fq.tail t else wordsOf fq t

/-- A word of a chained operation that guard 1 allows, beside another one (R340); `zo` is that of `fzmode`. -/
def chainWordOk (zo : Bool) (v w : Word) : Bool :=
  fwSemi w == 0 && !fwAcc w && fwSpn w == 0 && bit w 34 == zo && bit w 35 == bit v 35

/-- Guard 1 of R340 over the words that a replacement pops. -/
def chainGuard (zo : Bool) : List (Word × Rep) → Bool
  | (w1, .head _ _ _ _) :: (w2, .tail _ _ _ _) :: t => chainWordOk zo w2 w1 && chainWordOk zo w1 w2 && chainGuard zo t
  | _ :: t => chainGuard zo t
  | [] => true

/-- The word is popped by an `mcvt`. -/
def Rep.converts : Rep → Bool
  | .scaled _ _ _ _ => true
  | .plain (.mcvt _ _ _ _) => true
  | _ => false

/-- A rule's guard holds: 1 the chained sum's, 2 the scaled conversion's, 0 none (R333, R340). -/
def guardOk (grd : Nat) (zo : Bool) (l : List (Word × Rep)) : Bool :=
  if grd = 1 then chainGuard zo l else if grd = 2 then l.all fun e => !e.2.converts || !fwAcc e.1 else true

/-- The ring registers that a replacement word reads, in order. -/
def Rep.rings : Rep → List Nat
  | .head _ _ a b => [a, b]
  | .tail _ _ a b => [a, b]
  | .plain (.mma _ _ _ a b) => [a.toNat, b.toNat]
  | .plain (.mmas _ _ _ a b) => [a.toNat, b.toNat]
  | _ => []

/-- The slots that the M stream would read of rings in turn, each after the reads before it: address, and whether it is published. A ring
that fails a check has none. -/
def State.slotsOf (s : State) : List Nat → List Nat → List (Option (Nat × Bool))
  | _, [] => []
  | seen, rg :: t =>
    match s.operandRing rg with
    | .error _ => none :: State.slotsOf s seen t
    | .ok r =>
      let key := ringKey s.focus.core r.addr
      let n := s.readsOf key + seen.count key
      some (r.slotAddr s.focus.core (r.tail + n), decide (n < r.filled)) :: State.slotsOf s (key :: seen) t

/-- The conditions of R342 on a match whose head is ready. -/
def State.matchHolds (s : State) (m : Match) : Bool :=
  let fq := s.cur.store.fq
  let lt := s.cur.regs.twiddle
  wordsOk s lt fq ((m.orig.filterMap matchable).map .plain) && wordsOk s lt fq m.reps &&
    (s.slotsOf [] (m.reps.flatMap Rep.rings)).all (fun x => match x with | some (_, p) => p | none => true) &&
    guardOk m.grd (bit (s.me.reg 1) 1) (wordsOf fq m.reps)

/-- Run the words of a replacement one after the other; the classes raised are united (R343). -/
def runReps : List Rep → Classes → State → Eff
  | [], cs, s => .retire s cs
  | .head d c a b :: .tail d' c' a' b' :: t, cs, s =>
    match chainBody d c a b d' c' a' b' s with
    | .retire s k => runReps t (cs ||| k) s
    | e => e
  | .head _ _ _ _ :: _, cs, s => .retire s cs
  | .tail _ _ _ _ :: _, cs, s => .retire s cs
  | .scaled z a x i :: t, cs, s =>
    match mcvtBody z a x (some i) s with
    | .retire s k => runReps t (cs ||| k) s
    | e => e
  | .plain i :: t, cs, s =>
    match matchBody i with
    | some f =>
      match f s with
      | .retire s k => runReps t (cs ||| k) s
      | e => e
    | none => .retire s cs

/-- The scratchpad lines that a conversion under a word writes at a register's address. -/
def State.convertLines (s : State) (w : Word) (a : Nat) : List Nat :=
  let addr := (s.x a).toNat % 2 ^ 32
  let n := denseBytes (fwO w) + scaleBytes (fwO w)
  if spaceOf addr = 0 && (s.cur.spadCheck addr n 1 true).isNone then linesOf (addr % 2 ^ 26) n else []

/-- The lines of a multiply under a word whose slots are the first two of a list. -/
def slotLines (w : Word) (l : List (Option (Nat × Bool))) : List Nat :=
  let lines := fun (isA : Bool) (x : Option (Nat × Bool)) => match x with | some (slot, _) => operandLines w isA slot | none => []
  lines true (l.headD none) ++ lines false (l.tail.headD none)

/-- The scratchpad lines that a replacement touches, by the format words that it pops and the slots that it reads. -/
def repLines (s : State) : List (Option (Nat × Bool)) → List (Word × Rep) → List Nat
  | _, [] => []
  | l, (w, r) :: t =>
    match r with
    | .scaled _ a _ _ => s.convertLines w a ++ repLines s l t
    | .plain (.mcvt _ _ a _) => s.convertLines w a.toNat ++ repLines s l t
    | .plain (.mfft _ _ _) => repLines s l t
    | _ => slotLines w l ++ repLines s (l.drop 2) t

/-- The match is dropped (R342): its originals issue unchanged. -/
def State.dropMatch (s : State) (m : Match) : State :=
  let k := s.cur.bypassNext m.orig.length
  s.setCur (k.setReg 0x77 (k.reg 0x77 + 1))

/-- A replacement retires as its originals (R343). -/
def State.retireAs (s : State) (n : Nat) (cs : Classes) : State :=
  let s := (List.range (n - 1)).foldl (fun s _ => s.retireFlags s.focus 0) (s.awake.retireFlags s.focus cs)
  let e := endcheck (s.me.pc + BitVec.ofNat 16 (2 * n)) s.me.stack
  let s := s.setPc s.focus e.1 e.2
  s.setCur (s.cur.setReg 0x76 (s.cur.reg 0x76 + 1))

/-- What a turn of the M stream comes to at the Swath: it is used up, or the instruction at the pc issues in the state given. -/
inductive SwathTurn where
  | used (s : State)
  | issue (s : State)

/-- A fault of a replacement, at its first original, with the rewrite record (R344). -/
def State.swathFault (s : State) (m : Match) (f : FaultInfo) : State :=
  (if f.kind = 4 then s.count s.focus.core.die 0x195 else s).awake.takeFault s.focus { f with rwr := rewriteRecord m.rule m.orig }

/-- An `mtw` among the originals whose register is outstanding: the checks of the words after it need its value. -/
def State.lengthWaits (s : State) (is : List Instr) : Bool :=
  is.any fun i => match i with | .mtw _ _ => (s.obstacle i).isSome | _ => false

/-- Apply a match whose head is ready (R342 to R344). A replacement that R342 admits waits only for registers, for earlier accesses and for
region lines, and takes effect as a whole. -/
def State.applyMatch (s : State) (m : Match) : SwathTurn :=
  let orig := m.orig.filterMap matchable
  if s.lengthWaits orig then .used (s.blocked .register)
  else if !s.matchHolds m then .issue (s.dropMatch m)
  else
    match runReps m.reps 0 s with
    | .retire t cs =>
      if orig.any fun i => (s.obstacle i).isSome then .used (s.blocked .register) else .used (t.retireAs m.orig.length cs)
    | .await _ _ =>
      match s.focusLines (repLines s (s.slotsOf [] (m.reps.flatMap Rep.rings)) (wordsOf s.cur.store.fq m.reps)) with
      | .ok t => .used (t.blocked .other)
      | .wait t l => .used (t.blocked (.line l))
      | .later t => .used (t.blocked .access)
      | .need t va => .used (t.blocked (.walk va))
      | .fault t cause va => .used (t.swathFault m (.trans cause va))
      | .failed t st va => .used (t.swathFault m (.remote st va))
    | .block w => .used (s.blocked w)
    | .fault f => .used (s.swathFault m f)
    | .abort _ f => .used (s.swathFault m f)
    | .faultIn _ f => .used (s.swathFault m f)
    | _ => .issue s

/-- The head's own conditions of R310 hold: what is left to wait for or to fail are region lines and earlier accesses. -/
def headReady : Eff → Bool
  | .retire _ _ => true
  | .await _ (.ring _) => false
  | .await _ _ => true
  | .block .formatQueue => false
  | .block _ => true
  | .abort _ f => f.kind == 1 || f.kind == 7
  | _ => false

/-- The Swath's part of a turn of the M stream (R330, R331, R338, R342): the malformed-rule fault first; then, when the head is matchable
and ready and a rule matches, the replacement. A flush point at the head ends a bypassed window and what was decided before it. -/
def State.swathTurn (s : State) : SwathTurn :=
  let k := s.cur
  match k.ctl.badRule with
  | some r =>
    let s := s.setCur { k with ctl := { k.ctl with badRule := none } }
    .used (s.takeFault s.focus { FaultInfo.illegal .resv with rwr := rewriteRecord r [0] })
  | none =>
    match matchable (k.container .m k.cm.pc.toNat) with
    | none => .issue (if k.regs.bypass ≠ 0 then s.setCur (k.bypassNext 0) else if k.regs.begun.isSome then s.setCur k.freshMatch else s)
    | some i =>
      let s := s.begin_
      match k.firstMatch, matchBody i with
      | some m, some f =>
        if (s.obstacle i).isSome || !headReady (f s) then .issue s else s.applyMatch m
      | _, _ => .issue s

/-- SWATH_REPLACEMENT (R331): the Swath's part of a turn of a core's M stream, where that stream may issue. -/
def execSwathReplacement (core : CoreId) (s : State) : Host.Outcome State Fault Refusal :=
  let t := { s with focus := ⟨core, .m⟩ }
  if t.me.run = .running ∧ t.me.hold = none ∧ t.cur.ctl.released = true ∧ t.stopping core = false then
    match t.swathTurn with
    | .used u => .next { u with focus := s.focus }
    | .issue u => .next { u with focus := s.focus }
  else .next s

/-- `rwctl` (R256). -/
def execRwctl (sy a b : BitVec 5) (s : State) : Host.Outcome State Fault Refusal :=
  s.issue (.rwctl sy a b) fun s =>
    let k := s.cur
    let m := k.ctl.ruleMask
    let put := fun (v : Word) => Eff.retire (s.setCur { k with ctl := { k.ctl with ruleMask := v } }) 0
    match (s.x a.toNat).toNat with
    | 0 => put (s.x b.toNat)
    | 1 => put (m &&& s.x b.toNat)
    | 2 => put (m ||| s.x b.toNat)
    | _ => .fault (.illegal .csrAcc)

end Sys2Proof.Machine
end

