-- ==== Sys2Proof/Machine/Launch.lean ====
section
/-!
DEFINITION. Pipelines on cores (18_execution.md, 19_scheduling.md R391 to R393, 01_package.md R24, R25): launch records, the choice of cores
and of a Commons window, plane loads and their activation, the launch state, release, completion, growth, drain points, swaps and moves.
-/

namespace Sys2Proof.Machine

/-! ## The launch record (R391, R392) -/

def lrAsid (r : List Byte) : Nat := bytesAt r 0 2
def lrPrio (r : List Byte) : Nat := bytesAt r 2 1 % 128
def lrStages (r : List Byte) : Nat := bytesAt r 3 1
def lrTickets (r : List Byte) : Nat := bytesAt r 4 2
def lrRwp (r : List Byte) : Nat := bytesAt r 6 1 % 8
def lrDies (r : List Byte) : Nat := bytesAt r 7 1
/-- The deadline: 0 gives 200,000. -/
def lrDeadline (r : List Byte) : Nat := if bytesAt r 8 4 = 0 then 200000 else bytesAt r 8 4
def lrCmLen (r : List Byte) : Nat := bytesAt r 12 2
def lrRings (r : List Byte) : Nat := bytesAt r 14 1
def lrCaps (r : List Byte) : Nat := bytesAt r 15 1
def lrArg (r : List Byte) : Word := BitVec.ofNat 64 (bytesAt r 16 8)
/-- The entry of a stage (R392). -/
def lrStage (r : List Byte) (n : Nat) : Word := BitVec.ofNat 64 (bytesAt r (32 + 8 * n) 8)
def lrPlaced (r : List Byte) (n : Nat) : Bool := bit (lrStage r n) 63
def lrMax (r : List Byte) (n : Nat) : Nat := field (lrStage r n) 45 9
def lrMin (r : List Byte) (n : Nat) : Nat := field (lrStage r n) 36 9
def lrPlane (r : List Byte) (n : Nat) : Nat := field (lrStage r n) 0 36 * 4096
/-- The placed indices of a stage. -/
def lrPlaces (r : List Byte) (n : Nat) : List Nat :=
  let stride := if bytesAt r (24 + n) 1 = 0 then 1 else bytesAt r (24 + n) 1
  (List.range (lrMin r n)).map fun j => field (lrStage r n) 54 9 + j * stride
/-- The entry of a ring (R392): register, producer and consumer stage, slot count, slot size. -/
def lrRing (r : List Byte) (n : Nat) : BitVec 32 := BitVec.ofNat 32 (bytesAt r (96 + 4 * n) 4)
def lrRg (r : List Byte) (n : Nat) : Nat := field (lrRing r n) 28 4
def lrPs (r : List Byte) (n : Nat) : Nat := field (lrRing r n) 25 3
def lrCs (r : List Byte) (n : Nat) : Nat := field (lrRing r n) 22 3
def lrLgs (r : List Byte) (n : Nat) : Nat := field (lrRing r n) 19 3
def lrSsz (r : List Byte) (n : Nat) : Nat := field (lrRing r n) 0 10

/-- The window offset at which the slot array of ring n starts, and at n = the ring count where the last one ends (R165). -/
def lrSlots (r : List Byte) : Nat → Nat
  | 0 => 256
  | n + 1 => roundUp (lrSlots r n) 128 + 2 ^ lrLgs r n * lrSsz r n * 128

/-- The record is malformed (R392). -/
def lrMalformed (r : List Byte) : Bool :=
  let stages := List.range (lrStages r)
  let rings := List.range (lrRings r)
  let placed := stages.flatMap fun n => if lrPlaced r n then lrPlaces r n else []
  bytesAt r 2 1 / 128 != 0 || bytesAt r 6 1 / 8 != 0 || lrDies r / 4 != 0 || lrDies r == 0 ||
    lrStages r == 0 || decide (8 < lrStages r) || decide (1024 < lrCmLen r) || decide (8 < lrRings r) || decide (8 < lrCaps r) ||
    (List.range 8).any (fun n => decide (lrStages r ≤ n) && lrStage r n != 0) ||
    (List.range 8).any (fun n => decide (lrRings r ≤ n) && lrRing r n != 0) ||
    stages.any (fun n => lrMin r n == 0 || decide (lrMax r n < lrMin r n) || decide (256 < lrMax r n)) ||
    placed.any (fun i => decide (256 ≤ i) || lrDies r / 2 ^ (i / 128) % 2 == 0) || (distinct placed).length != placed.length ||
    rings.any (fun n => field (lrRing r n) 10 9 != 0 || decide (6 < lrLgs r n) || lrSsz r n == 0 || decide (512 < lrSsz r n) ||
      decide (lrStages r ≤ lrPs r n) || decide (lrStages r ≤ lrCs r n)) ||
    (distinct (rings.map (lrRg r))).length != rings.length ||
    (!rings.isEmpty && decide (lrCmLen r * 65536 < lrSlots r (lrRings r)))

/-! ## Cores and Commons (R368) -/

/-- A core that no pipeline holds. -/
def State.coreFree (s : State) (n : Nat) : Bool :=
  let k := s.core (CoreId.ofIndex n)
  k.ctl.gang.isNone && k.ctl.outOfReset && !(s.die (CoreId.ofIndex n).die).inReset

/-- Take counts of cores for the stages of a record: the placed indices, then free cores of lowest package index, stage by stage. -/
def pickFrom (r : List Byte) : List Nat → Nat → List Nat → Option (List (List Nat))
  | [], _, _ => some []
  | n :: t, stage, free =>
    let own := if lrPlaced r stage then (lrPlaces r stage).take n else []
    let more := free.take (n - own.length)
    if own.length + more.length < n then none
    else (pickFrom r t (stage + 1) (free.drop more.length)).map fun l => (own ++ more) :: l

/-- The cores that a launch, or a restore with saved counts, can have where some cores are free (R368, R392, R414). -/
def pickWith (free : Nat → Bool) (r : List Byte) (counts : List Nat) : Option (List (List Nat)) :=
  let placed := (List.range (lrStages r)).flatMap fun n => if lrPlaced r n then lrPlaces r n else []
  if placed.any fun i => !free i then none
  else pickFrom r counts 0 ((List.range 256).filter fun i => free i && !placed.contains i && lrDies r / 2 ^ (i / 128) % 2 == 1)

/-- The cores that it can have now. -/
def State.pick (s : State) (r : List Byte) (counts : List Nat) : Option (List (List Nat)) := pickWith s.coreFree r counts

/-- The minimum counts of a record. -/
def lrMins (r : List Byte) : List Nat := (List.range (lrStages r)).map (lrMin r)

/-- The lowest run of Commons units that is free on both dies (R368, R393). -/
def State.commonsRun (s : State) (len : Nat) : Option Nat :=
  if len = 0 then some 0
  else (List.range (1025 - len)).find? fun b =>
    s.sched.gangs.all fun g => g.cmLen == 0 || decide (b + len ≤ g.cmBase) || decide (g.cmBase + g.cmLen ≤ b)

/-! ## Plane loads (R374, R375) -/

/-- Bytes of a plane image (R371). -/
def planeBytes : Nat := 98304

/-- The trailer of an image (R372). -/
def Plane.trailer (p : Plane) (o n : Nat) : Nat := readNat p.image (0x17FC0 + o) n

/-- Live range i of the trailer: first line and count, where it is valid. -/
def Plane.live (p : Plane) (i : Nat) : Option (Nat × Nat) :=
  let e := p.trailer (24 + 4 * i) 4
  if e / 2 ^ 31 % 2 = 1 then some (e % 512, e / 2 ^ 16 % 2 ^ 10) else none

/-- The selectors of the crossbar's entries (R384). -/
def evSelectors : List Nat :=
  (List.range 8) ++ (List.range 8).map (· + 0x10) ++ (List.range 16).map (· + 0x20) ++ (List.range 16).map (· + 0x40)

/-- The crossbar entry of a selector in a plane (R371). -/
def Plane.ev (p : Plane) (sel : Nat) : Word := BitVec.ofNat 64 (readNat p.image (0x11800 + 8 * sel) 8)

/-- The checks of a loaded plane (R374). -/
def Plane.ok (p : Plane) : Bool :=
  let t := p.trailer
  t 16 1 / 16 == 0 && t 17 1 == 1 && t 20 2 / 2 ^ 12 == 0 && t 22 2 / 2 ^ 13 == 0 &&
    ((List.range 24).all fun i => t (40 + i) 1 == 0) &&
    ((List.range 128).all fun sel => if evSelectors.contains sel then evLegal sel (p.ev sel) else p.ev sel == 0) &&
    ((List.range 4).all fun c =>
      let b := t (4 * c) 2
      let l := t (4 * c + 2) 2
      b % 2 == 0 && l % 2 == 0 && decide (2 ≤ l) && decide (l ≤ 32768) && decide (b + l ≤ 32768)) &&
    ((List.range 4).all fun i =>
      let e := t (24 + 4 * i) 4
      e / 2 ^ 26 % 2 ^ 5 == 0 && e / 2 ^ 9 % 2 ^ 7 == 0 &&
        (e / 2 ^ 31 == 0 || (decide (1 ≤ e / 2 ^ 16 % 2 ^ 10) && decide (e % 512 + e / 2 ^ 16 % 2 ^ 10 ≤ 512)))) &&
    decide (t 20 2 ≤ 3064) && decide (t 22 2 * 256 + 8 * t 20 2 ≤ 0x200000)

/-- Replace a core's control state. -/
def State.setCtl (s : State) (c : CoreId) (f : CoreCtl → CoreCtl) : State := s.setCore c { s.core c with ctl := f (s.core c).ctl }

/-- Plan and send the reads of a core's plane load (R374), where they are not sent yet. A walk over other packages' tables makes it wait. -/
def State.tryLoad (s : State) (c : CoreId) : State :=
  match (s.core c).ctl.load with
  | none => s
  | some l =>
    if l.op.isSome ∨ l.failed then s
    else if l.va % 4096 ≠ 0 then s.setCtl c fun k => { k with load := some { l with failed := true } }
    else
      let asid := ((s.core c).reg 0x40).toNat
      match s.plan c .loader asid false false (fun _ => none) (pieces l.va planeBytes) with
      | (s, .fault _ _) => s.setCtl c fun k => { k with load := some { l with failed := true } }
      | (s, .need _) => s
      | (s, .ok ps) =>
        let (s, id) := s.addOp { Op.empty ⟨c, .a⟩ with engine := true, plain := false, dest := .plane, size := planeBytes, parts := ps, asid := asid }
        (s.setCtl c fun k => { k with load := some { l with op := some id } }).performOp id

/-- Start a plane load. -/
def State.startLoad (s : State) (c : CoreId) (va : Nat) (kind : LoadKind) : State :=
  (s.setCtl c fun k => { k with load := some ⟨va, kind, none, false⟩ }).tryLoad c

/-- Drop a core's plane load. -/
def State.dropLoad (s : State) (c : CoreId) : State :=
  let s := match (s.core c).ctl.load with
    | some l => match l.op with | some id => s.dropOp id | none => s
    | none => s
  s.setCtl c fun k => { k with load := none }

/-! ## Activation (R377) -/

/-- The three actions at the activation of a core's active plane: the crossbar, the constants, the rule check. -/
def State.activate (s : State) (c : CoreId) : State :=
  let k := s.core c
  let p := k.ctl.active
  let ev := Sparse.setAll (fun _ => 0) [] (evSelectors.map fun sel => (sel, p.ev sel))
  let s := s.setCore c { k with ex := { k.ex with entry := ev, latch := [], pending := [] } }
  let s := s.spadWrite c (p.trailer 22 2 * 256) (readBytes p.image 0x12000 (8 * p.trailer 20 2))
  s.setCtl c CoreCtl.checkRules

/-! ## The launch state (R393) -/

/-- Release a core from its pipeline (R370). -/
def State.freeCore (s : State) (c : CoreId) : State :=
  let s := s.dropLoad c
  let s := s.setCtl c fun k => { k with gang := none, stage := 0, released := false, shadow := Plane.empty, shadowFor := none,
                                        loadFailed := false, swapToken := false, drain := false, badRule := none }
  let x := s.die c.die
  s.setDie c.die { x with start := { x.start with queue := x.start.queue.filter fun e => decide (e.core ≠ c.core.val) } }

/-- The die that a ring lies on: its consumer stage's die, or die 0 where that stage spans both (R165). -/
def ringDieOf (cores : List Nat) : DieId :=
  match cores.map fun i => (CoreId.ofIndex i).die with
  | d :: l => if l.all (· = d) then d else 0
  | [] => 0

/-- The die of ring n of a pipeline. -/
def Gang.ringDie (g : Gang) (n : Nat) : DieId := g.ringDies.getD n 0

/-- Build the descriptors of a pipeline's rings at the start of its window (R165, R392). -/
def State.buildRings (s : State) (g : Gang) : State :=
  (List.range (lrRings g.launch)).foldl
    (fun s n =>
      let d := g.ringDie n
      let base := g.cmBase * 65536
      let r : Ring := { addr := 0, base := 2 ^ 30 + base + roundUp (lrSlots g.launch n) 128, ssz := lrSsz g.launch n, lgs := lrLgs g.launch n,
                        wres := 0, head := 0, tail := 0, filled := 0, free := 2 ^ lrLgs g.launch n, done := 0,
                        prod := 2 ^ 28 + lrPs g.launch n, cons := 3 * 2 ^ 28 + lrCs g.launch n }
      let x := s.die d
      s.setDie d { x with commons := writeBytes x.commons (base + 32 * n) r.bytes }) s

/-- The ring registers of a core of a stage (R392, R393). -/
def Gang.ringRegs (g : Gang) (c : CoreId) (stage : Nat) : Sparse Word :=
  Sparse.setAll (fun _ => 0) [] (((List.range (lrRings g.launch)).filter fun n => lrPs g.launch n == stage || lrCs g.launch n == stage).map fun n =>
    (lrRg g.launch n, BitVec.ofNat 64 (2 ^ 63 + (if g.ringDie n = c.die then 2 ^ 30 else 2 ^ 31) + g.cmBase * 65536 + 32 * n)))

/-- The capability registers of a launch. -/
def lrCapRegs (r : List Byte) : Sparse Cap :=
  Sparse.setAll (fun _ => Cap.empty) [] ((List.range (lrCaps r)).map fun n => (n, ⟨BitVec.ofNat 128 (bytesAt r (128 + 16 * n) 16), true⟩))

/-- A core's CSRs at launch: the region registers cleared, `asid`, `cmwin` and `rwperm` written; the counters stay. -/
def Core.launchCsrs (k : Core) (g : Gang) : Core :=
  let k := (List.range 32).foldl (fun k n => k.setReg (0x50 + n) 0) k
  ((k.setReg 0x40 (BitVec.ofNat 64 g.asid)).setReg 0x42 (BitVec.ofNat 64 (g.cmLen * 2 ^ 32 + g.cmBase))).setReg 0x43
    (BitVec.ofNat 64 (lrRwp g.launch))

/-- The launch state of a core (R393). The bytes of the scratchpad are undefined at launch (R167): nothing has written them. A core that a
chained launch takes over at its swap keeps its scratchpad and its copy commands (R376). -/
def Core.launched (k : Core) (c : CoreId) (g : Gang) (stage : Nat) (keep : Bool) : Core :=
  let a := { ClusterState.reset with x := Sparse.setAll (fun _ => 0) [] [(0, lrArg g.launch), (1, BitVec.ofNat 64 stage)] }
  let d := { ClusterState.reset with busy := if keep then k.cd.busy else [] }
  let st := k.store
  let k := { k with
    ca := a, cm := ClusterState.reset, cv := ClusterState.reset, cd := d,
    regs := { Core.reset.regs with k := lrCapRegs g.launch, rg := g.ringRegs c stage },
    store := { st with spad := if keep then st.spad else [], lines := [], queues := [], fq := [], fqClosed := false, rings := [],
                       copies := if keep then st.copies else [], copyFaults := if keep then st.copyFaults else [],
                       copyLast := if keep then st.copyLast else [], walked := [], old := [] },
    ctl := { k.ctl with joinSet := 15, ruleMask := BitVec.allOnes 64, gang := some g.id, stage := stage },
    ex := { k.ex with deferred := if keep then k.ex.deferred else [] } }
  k.launchCsrs g

/-- A launch's place in the order of admission. -/
def State.admitted (s : State) (g : Nat) : Nat := match s.gang? g with | some x => x.order | none => g

/-- Pass a core to its die's start sequencer (R24): behind every request but those that launches admitted later have made in the same
cycle. -/
def State.enqueueStart (s : State) (c : CoreId) (g : Nat) : State :=
  let x := s.die c.die
  let after := fun (e : StartReq) => decide (e.cycle = s.cycle) && decide (s.admitted g < s.admitted e.gang)
  let queue := x.start.queue.filter (fun e => !after e) ++ ⟨c.core.val, g, s.cycle⟩ :: x.start.queue.filter after
  s.setDie c.die { x with start := { x.start with queue := queue } }

/-- The cores of a gang in the order of release: stages ascending, cores ascending within a stage (R25). -/
def Gang.startOrder (g : Gang) : List (Nat × Nat) :=
  g.stages.zipIdx.flatMap fun t => ((List.range 256).filter fun i => t.1.cores.contains i).map fun i => (t.2, i)

/-- Every plane of a launch has loaded: the launch state, the activation, and the start sequencers (R368, R377). -/
def State.launchReady (s : State) (g : Gang) : State :=
  let g := { g with phase := .running }
  let s := (s.setGang g).buildRings g
  g.startOrder.foldl
    (fun s e =>
      let c := CoreId.ofIndex e.2
      ((s.setCore c ((s.core c).launched c g e.1 false)).activate c).enqueueStart c g.id) s

/-! ## Nodes of the step that a gang belongs to -/

/-- A queue by number. -/
def State.queue (s : State) (q : Nat) : QueueRun := Sparse.get (fun _ => QueueRun.reset) s.sched.queues q

/-- Replace a queue. -/
def State.setQueueRun (s : State) (q : Nat) (r : QueueRun) : State :=
  { s with sched := { s.sched with queues := Sparse.set (fun _ => QueueRun.reset) s.sched.queues q r } }

/-- The state of a node of a queue's step. -/
def State.node (s : State) (q n : Nat) : Option NodeState := (s.queue q).run.bind fun r => r.nodes[n]?

/-- Replace the state of a node. -/
def State.setNode (s : State) (q n : Nat) (v : NodeState) : State :=
  let r := s.queue q
  s.setQueueRun q { r with run := r.run.map fun t => { t with nodes := t.nodes.mapIdx fun i x => if i = n then v else x } }

/-- Remove a gang, its cores freed and its node ended; copy commands that its cores still had at their swaps hold its completion back
(R389). -/
def State.endGang (s : State) (g : Gang) (st : Status) : State :=
  let mine := (List.range 256).filter fun i => decide ((s.core (CoreId.ofIndex i)).ctl.gang = some g.id)
  let s := mine.foldl (fun s i => s.freeCore (CoreId.ofIndex i)) s
  let s := { s with sched := { s.sched with gangs := s.sched.gangs.filter fun x => decide (x.id ≠ g.id) } }
  s.setNode g.queue g.node (if g.trailing.isEmpty then .ended st else .closing st g.trailing)

/-! ## Admission (R368) -/

/-- Give the cores of a pick to a gang, each with the ASID under which its plane loads. -/
def State.seat (s : State) (g : Gang) : State :=
  g.startOrder.foldl
    (fun s e =>
      let c := CoreId.ofIndex e.2
      let s := s.setCore c ((s.core c).setReg 0x40 (BitVec.ofNat 64 g.asid))
      s.setCtl c fun k => { k with gang := some g.id, stage := e.1, released := false, active := Plane.empty, shadow := Plane.empty,
                                   shadowFor := none, loadFailed := false, swapToken := false, drain := false, badRule := none }) s

/-- Start the loads of the active planes of a gang. -/
def State.loadPlanes (s : State) (g : Gang) (va : Nat → Nat → Nat) : State :=
  g.startOrder.foldl (fun s e => s.startLoad (CoreId.ofIndex e.2) (va e.1 e.2) .active) s

/-- A new gang from a record. -/
def newGang (id queue node addr : Nat) (r : List Byte) (base : Nat) (cores : List (List Nat)) : Gang :=
  { id := id, order := id, queue := queue, node := node, record := addr, launch := r, asid := lrAsid r, prio := lrPrio r,
    pdl := lrDeadline r, cmBase := base, cmLen := lrCmLen r,
    stages := cores.zipIdx.map fun e => ⟨lrPlane r e.2, lrMin r e.2, lrMax r e.2, e.1⟩,
    ringDies := (List.range (lrRings r)).map fun n => ringDieOf (cores.getD (lrCs r n) []),
    phase := .loading, flags := [], barriers := [], request := none, forced := false, ctx := (0, 0), saved := [], samples := [], evaluated := 0, chain := none, trailing := [] }

/-- Add a gang. -/
def State.addGang (s : State) (g : Gang) : State :=
  { s with sched := { s.sched with gangs := s.sched.gangs ++ [g], nextGang := s.sched.nextGang + 1 } }

/-- The physical address of the launch record that a node names (R390). -/
def State.nodeRecord (s : State) (q n : Nat) : Nat :=
  match (s.queue q).run.bind fun r => r.recs[n]? with
  | some b => bytesAt b 8 8 % 2 ^ 49
  | none => 0

/-- `LAUNCH_ADMISSION` (R368): the launch that has won its draw takes its cores and its window, and its planes load. -/
def execLaunchAdmission (queue : Nat) (s : State) : Host.Outcome State Fault Refusal :=
  match s.sched.won with
  | none => .next s
  | some (q, n) =>
    if q ≠ queue then .next s
    else
      match s.node q n with
      | some (.candidate r) =>
        let s := { s with sched := { s.sched with won := none } }
        match s.pick r (lrMins r), s.commonsRun (lrCmLen r) with
        | some cores, some base =>
          let g := newGang s.sched.nextGang q n (s.nodeRecord q n) r base cores
          .next ((((s.addGang g).setNode q n (.running g.id)).seat g).loadPlanes g fun t _ => lrPlane r t)
        | _, _ => .next s
      | _ => .next s

/-! ## Release (R24, R25) -/

/-- A saved stream goes on with its core: one stopped at `yield` retires it, and one whose fault has been acknowledged restarts (R241,
R404, R414). -/
def State.wakeStream (s : State) (i : StreamId) : State :=
  match (s.stream i).run with
  | .idle => s.setStream i { s.stream i with run := .running }
  | .atYield => s.resumeAfter i
  | .parked _ =>
    match [(0 : DieId), 1].findSome? fun d => ((s.die d).faults.posted.find? fun e => decide (e.stream = some i) && e.acked).map fun e => (d, e) with
    | some (d, e) =>
      let x := s.die d
      let posted := x.faults.posted.map fun y => if y.seq = e.seq then { y with stream := none } else y
      (s.setDie d { x with faults := { x.faults with posted := posted } }).restart i e
    | none => s
  | _ => s

/-- Release a core: its four clusters begin in the same cycle, and a core that its stage gains joins it (R369). -/
def State.release (s : State) (c : CoreId) (g : Nat) : State :=
  let s := s.setCtl c fun k => { k with released := true }
  let s := match s.gang? g with
    | some x =>
      let t := (s.core c).ctl.stage
      s.setGang { x with stages := x.stages.mapIdx fun i y => if i = t ∧ !y.cores.contains c.index then { y with cores := y.cores ++ [c.index] } else y }
    | none => s
  [Cluster.a, .m, .v, .d].foldl (fun s k => s.wakeStream ⟨c, k⟩) s

/-- `CORE_RELEASE` (R24): the sequencer releases the oldest core of its queue, 64 cycles after the last at the earliest. -/
def execCoreRelease (die : DieId) (s : State) : Host.Outcome State Fault Refusal :=
  let x := s.die die
  match x.start.queue with
  | [] => .next s
  | e :: rest =>
    if x.start.last ≠ 0 ∧ s.cycle + 1 < x.start.last + 64 then .next s
    else .next ((s.setDie die { x with start := { x.start with queue := rest, last := s.cycle + 1 } }).release ⟨die, Fin.ofNat 128 e.core⟩ e.gang)

/-! ## Completion (R370) -/

/-- A fill or write-back of a core's map unit is in progress. -/
def State.mapBusy (s : State) (c : CoreId) : Bool :=
  s.ops.any fun o => decide (o.owner.core = c) && (match o.dest with | .line _ => true | _ => false)

/-- A crossbar target or pulse of a core is pending. -/
def Core.exBusy (k : Core) : Bool := !k.ex.pending.isEmpty || !k.ex.deferred.isEmpty

/-- A core meets the conditions of R370. -/
def State.coreDone (s : State) (c : CoreId) : Bool :=
  let k := s.core c
  k.ctl.released && ([Cluster.a, .m, .v, .d].all fun j => (k.cluster j).run == .halted) && (s.commands c).isEmpty && !k.exBusy && !s.mapBusy c

/-- A gang that another is chained to: the launch whose cores swap into it one by one (R395). -/
def State.chainedTo (s : State) (g : Gang) : Bool := s.sched.gangs.any fun x => decide (x.chain = some g.id)

/-- `LAUNCH_COMPLETE` (R370): every core is done, and the launch's resources are freed. A launch that a chained launch follows completes
with its last swap instead, and the chained launch not before it has its last core (R395). -/
def execLaunchComplete (gang : Nat) (s : State) : Host.Outcome State Fault Refusal :=
  match s.gang? gang with
  | none => .next s
  | some g =>
    if g.phase = .running ∧ g.chain = none ∧ !s.chainedTo g ∧ !g.cores.isEmpty ∧ g.cores.all fun n => s.coreDone (CoreId.ofIndex n) then .next (s.endGang g Status.ok)
    else .next s

/-! ## Growth (R369) -/

/-- The index, plus 1, of the launch node that a launch node's `chain` names, or 0 (R390). -/
def State.chainOf (s : State) (q n : Nat) : Nat := match (s.queue q).run.bind fun r => r.recs[n]? with | some b => bytesAt b 16 1 | none => 0

/-- A node has ended, completed or been skipped. -/
def NodeState.isOver : NodeState → Bool | .ended _ => true | .closing _ _ => true | .done _ => true | .skipped => true | _ => false

/-- A chained launch whose earlier launch has not completed: it takes part in no draw (R395). -/
def State.chainPending (s : State) (q n : Nat) : Bool :=
  s.chainOf q n != 0 && !(match s.node q (s.chainOf q n - 1) with | some x => x.isOver | none => true)

/-- What a launch node asks for: its record, the core counts of its stages, and whether it holds its Commons window already. -/
structure Offer where
  launch : List Byte
  counts : List Nat
  window : Bool
  deriving DecidableEq, Repr

/-- A launch that waits to be admitted: one whose record has been read, or one whose gang is switched out (R394, R395). -/
def State.offer (s : State) (q n : Nat) : Option Offer :=
  match s.node q n with
  | some (.candidate r) => if s.chainPending q n then none else some ⟨r, lrMins r, false⟩
  | some (.running id) =>
    match s.gang? id with
    | some g => if g.phase = .saved then some ⟨g.launch, g.stages.map (·.cores.length), true⟩ else none
    | none => none
  | _ => none

/-- It has the Commons units that it needs, or could have them now. -/
def State.windowFree (s : State) (o : Offer) : Bool := o.window || (s.commonsRun (lrCmLen o.launch)).isSome

/-- It can be admitted now (R368). -/
def State.admits (s : State) (o : Offer) : Bool := (s.pick o.launch o.counts).isSome && s.windowFree o

/-- The offers of a queue whose steps may run, by node. -/
def State.offers (s : State) (q : Nat) : List (Nat × Offer) :=
  if (s.queue q).en && (s.queue q).state != 2 then (List.range 32).filterMap fun n => (s.offer q n).map fun o => (n, o) else []

/-- An admissible launch of a priority or above is waiting. -/
def State.launchWaits (s : State) (prio : Nat) : Bool :=
  s.sched.won.isSome || s.sched.queues.any fun e => (s.offers e.1).any fun o => decide (prio ≤ lrPrio o.2.launch) && s.admits o.2

/-- The stage that a core's shadow plane, or the load of it, is to move the core to. -/
def CoreCtl.moveTo (k : CoreCtl) : Option Nat :=
  match k.shadowFor, k.load with
  | some (.reassign t), _ => some t
  | _, some l => match l.kind with | .reassign t => some t | _ => none
  | _, _ => none

/-- The stages of a gang that can gain a core: their cores, with those that have been chosen and wait for release. -/
def State.stageCount (s : State) (g : Gang) (t : Nat) : Nat :=
  ((List.range 256).filter fun i => let k := s.core (CoreId.ofIndex i); decide (k.ctl.gang = some g.id) && k.ctl.stage == t).length

/-- The cores that are to move to a stage, and those that are to leave it (R379). -/
def State.arriving (s : State) (g : Gang) (t : Nat) : Nat :=
  ((List.range 256).filter fun i => let k := (s.core (CoreId.ofIndex i)).ctl; decide (k.gang = some g.id) && decide (k.moveTo = some t)).length
def State.leaving (s : State) (g : Gang) (t : Nat) : Nat :=
  ((List.range 256).filter fun i => let k := (s.core (CoreId.ofIndex i)).ctl
    decide (k.gang = some g.id) && k.stage == t && (k.drain || k.moveTo.isSome)).length

/-- `STAGE_GROWTH` (R369): the lowest-numbered stage below its maximum gains the free core of lowest package index, whose plane loads. -/
def execStageGrowth (gang : Nat) (s : State) : Host.Outcome State Fault Refusal :=
  match s.gang? gang with
  | none => .next s
  | some g =>
    if g.phase ≠ .running ∨ g.request.isSome ∨ g.chain.isSome ∨ s.launchWaits g.prio then .next s
    else match (List.range g.stages.length).find? fun t => decide (s.stageCount g t + s.arriving g t < lrMax g.launch t),
        (List.range 256).find? fun i => s.coreFree i && lrDies g.launch / 2 ^ (i / 128) % 2 == 1 with
    | some t, some i =>
      let c := CoreId.ofIndex i
      let s := s.setCore c ((s.core c).setReg 0x40 (BitVec.ofNat 64 g.asid))
      let s := s.setCtl c fun k => { k with gang := some g.id, stage := t, released := false, active := Plane.empty, shadow := Plane.empty }
      .next (s.startLoad c (lrPlane g.launch t) (.growth t))
    | _, _ => .next s

/-! ## Drain points, swaps and moves (R241, R251, R376 to R379) -/

/-- Every stream of a core that has not halted has stopped at a `yield`, or A at a `swap` (R241). -/
def Core.atDrain (k : Core) : Bool :=
  k.ctl.released && ([Cluster.a, .m, .v, .d].all fun j =>
    match (k.cluster j).run with | .halted => true | .atYield => true | .atSwap => true | _ => false)

/-- Every stopped `yield` of a core retires, where no request is pending any more. -/
def State.retireYields (s : State) (c : CoreId) : State :=
  if s.drainPending c then s
  else [Cluster.a, .m, .v, .d].foldl (fun s k => if (s.stream ⟨c, k⟩).run = Run.atYield then s.resumeAfter ⟨c, k⟩ else s) s

/-- An armed barrier counts a core (R379). -/
def Gang.counts (g : Gang) (n : Nat) : Bool := g.barriers.any fun b => b.members.contains n

/-- A move is cancelled (R379): the drain request is withdrawn, the shadow plane is not loaded, every stopped `yield` retires. -/
def State.cancelMove (s : State) (c : CoreId) : State :=
  let s := (s.dropLoad c).setCtl c fun k => { k with shadow := Plane.empty, shadowFor := none, drain := false, swapToken := false, loadFailed := false }
  (s.count c.die 0x19A).retireYields c

/-- A failed shadow load raises RESV on A where the swap would take place (R374), and cancels what it was for. -/
def State.loadFault (s : State) (c : CoreId) : State :=
  let move := (s.core c).ctl.drain
  let s := s.setCtl c fun k => { k with loadFailed := false, drain := false, swapToken := false, shadowFor := none }
  let s := if move then s.count c.die 0x19A else s
  let a := (s.stream ⟨c, .a⟩).run
  let s := if a = .atYield ∨ a = .atSwap then s.takeFault ⟨c, .a⟩ (.illegal .resv) else s
  s.retireYields c

/-- `DRAIN_POINT` (R241, R379): at its drain point, a core whose move has its plane loaded gets its swap token, unless an armed barrier
counts it or a pre-emption request meets it, which cancel the move; a failed load faults; and with no request left every `yield` retires. -/
def execDrainPoint (core : CoreId) (s : State) : Host.Outcome State Fault Refusal :=
  let k := s.core core
  if !k.atDrain then .next s
  else match s.gangOf core with
  | none => .next (s.retireYields core)
  | some g =>
    if g.request.isSome then (if k.ctl.drain || k.ctl.moveTo.isSome then .next (s.cancelMove core) else .next s)
    else if k.ctl.loadFailed then .next (s.loadFault core)
    else if k.ctl.drain then
      if k.ctl.load.isSome then .next s
      else if g.counts core.index then .next (s.cancelMove core)
      else .next (s.setCtl core fun c => { c with swapToken := true })
    else .next (s.retireYields core)

/-- The engine work that the outgoing trailer's mask names is done (R376). -/
def State.engineDone (s : State) (c : CoreId) : Bool :=
  let k := s.core c
  let m := k.ctl.active.trailer 16 1
  (m % 2 == 0 || (s.commands c).isEmpty) && (m / 4 % 2 == 0 || !s.mapBusy c) && (m / 8 % 2 == 0 || !k.exBusy)

/-- A cluster at a swap (R251): it starts at halfword 0 with an empty block stack, its steer registers read 0. -/
def ClusterState.swapped (c : ClusterState) : ClusterState := { c with pc := 0, run := .running, stack := [], g := [], join := .none, issued := false, wait := none }

/-- The effects of R251 and R377 on a core whose shadow plane is loaded. -/
def State.swapPlanes (s : State) (c : CoreId) : State :=
  let k := s.core c
  let k := { k with
    ca := k.ca.swapped, cm := k.cm.swapped, cv := k.cv.swapped, cd := k.cd.swapped,
    regs := { k.regs with frame := none, bypass := 0, begun := none },
    store := { k.store with fqClosed := false },
    ctl := { k.ctl with joinSet := 15, ruleMask := BitVec.allOnes 64, active := k.ctl.shadow, shadow := { k.ctl.active with loaded := false },
                        shadowFor := none, swapToken := false, drain := false } }
  (s.setCore c k).activate c

/-- A core leaves a stage of a gang. -/
def Gang.leave (g : Gang) (n : Nat) : Gang := { g with stages := g.stages.map fun t => { t with cores := t.cores.filter fun i => decide (i ≠ n) } }

/-- A core joins a stage of a gang. -/
def Gang.enter (g : Gang) (n t : Nat) : Gang :=
  { g with stages := g.stages.mapIdx fun i x => if i = t then { x with cores := x.cores ++ [n] } else x }

/-- A move completes at the swap instant (R379). -/
def State.moveCore (s : State) (c : CoreId) (t : Nat) : State :=
  match s.gangOf c with
  | none => s
  | some g => ((s.setGang ((g.leave c.index).enter c.index t)).setCtl c fun k => { k with stage := t }).count c.die 0x199

/-- A chained launch takes a core at its swap (R395); with the last one, the earlier launch ends. Copy commands of the core that the swap did
not wait for (R376) are still the earlier launch's (R389). -/
def State.chainCore (s : State) (c : CoreId) (next : Nat) : State :=
  match s.gangOf c, s.gang? next with
  | some g, some x =>
    let left := (s.commands c).map fun m => (c.index, m.serial)
    let g := { g.leave c.index with trailing := g.trailing ++ left }
    let x := x.enter c.index 0
    let k := (s.core c).launched c x 0 true
    let k := [Cluster.a, .m, .v, .d].foldl (fun k j => k.setCluster j { k.cluster j with run := .running }) k
    let s := ((s.setGang g).setGang x).setCore c k
    if g.cores.isEmpty then s.endGang g Status.ok else s
  | _, _ => s

/-- `PLANE_SWAP` (R376): at a drain point with the shadow plane loaded, A at `swap` or a token pending, and the named engine work done. -/
def execPlaneSwap (core : CoreId) (s : State) : Host.Outcome State Fault Refusal :=
  let k := s.core core
  let asked := k.ca.run == .atSwap || k.ctl.swapToken
  let wanted := match s.gangOf core with | some g => g.request.isSome | none => false
  if !k.atDrain || !k.ctl.shadow.loaded || !asked || wanted || !s.engineDone core then .next s
  else match k.ctl.shadowFor with
  | some (.reassign t) =>
    if !k.ctl.swapToken then .next s
    else if (match s.gangOf core with | some g => g.counts core.index | none => false) then .next (s.cancelMove core)
    else .next ((s.moveCore core t).swapPlanes core)
  | some (.chained g) => .next ((s.swapPlanes core).chainCore core g)
  | _ => .next (s.swapPlanes core)

/-! ## The end of a plane load (R374) -/

/-- A chained launch whose plane cannot be loaded takes no core, where it has taken none (R374, R392). -/
def State.chainFails (s : State) (next : Nat) : State :=
  match s.gang? next with
  | none => s
  | some x =>
    if !x.cores.isEmpty then s
    else
      let s := (List.range 256).foldl
        (fun s i =>
          let c := CoreId.ofIndex i
          let k := (s.core c).ctl
          let s := match k.load with | some l => if l.kind = .chained next then s.dropLoad c else s | none => s
          if k.shadowFor = some (.chained next) then
            (s.setCtl c fun k => { k with shadow := Plane.empty, shadowFor := none, swapToken := false }).retireYields c
          else s) s
      let s := { s with sched := { s.sched with gangs := s.sched.gangs.map fun (g : Gang) => if g.chain = some next then { g with chain := none } else g } }
      s.endGang x Status.access

/-- What a gang's core saved of its shadow plane: what it was, or was being, loaded for (R412). -/
def Gang.savedShadow (g : Gang) (n : Nat) : Option LoadKind :=
  match (g.cores.zip g.saved).find? fun e => decide (e.1 = n) with
  | some e => e.2.core.ctl.shadowFor.or (e.2.core.ctl.load.map (·.kind))
  | none => none

end Sys2Proof.Machine
end

