-- ==== Sys2Proof/Machine/Optical.lean ====
section
/-!
DEFINITION. Optical ports, laser modules, lane remaps, telemetry and the power governor (07_optical.md), and `snap` (R254).
-/

namespace Sys2Proof.Machine

/-! ## Ports (R135 to R138) -/

/-- The port states of R135. -/
def portOff : Nat := 0
def portGated : Nat := 1
def portTraining : Nat := 2
def portActive : Nat := 3
def portDraining : Nat := 4
def portAbsent : Nat := 5
def portFailed : Nat := 6

/-- A port's register. -/
def State.oport (s : State) (d : DieId) (p : Nat) : Word := s.dieReg d (0x120 + p)

/-- A port's state. -/
def State.portSt (s : State) (d : DieId) (p : Nat) : Nat := field (s.oport d p) 20 4

/-- A port's run. -/
def State.portRun (s : State) (d : DieId) (p : Nat) : PortRun := Sparse.get (fun _ => PortRun.reset) (s.die d).optical.ports p

/-- Replace a port's run. -/
def State.setPortRun (s : State) (d : DieId) (p : Nat) (r : PortRun) : State :=
  let x := s.die d
  s.setDie d { x with optical := { x.optical with ports := Sparse.set (fun _ => PortRun.reset) x.optical.ports p r } }

/-- The governor's bidder of the laser module that feeds a port. -/
def portBidder (d : DieId) (p : Nat) : Nat := 2 + 4 * d.val + p / 4

/-- A port that the module feeding a port feeds is TRAINING, ACTIVE or DRAINING (R146). -/
def State.moduleBusy (s : State) (d : DieId) (m : Nat) : Bool :=
  (List.range 4).any fun i => let st := s.portSt d (4 * m + i); st == portTraining || st == portActive || st == portDraining

/-- A port enters a state; the floor of a module none of whose ports is busy is 0 (R146), and whatever waits for ports goes on. -/
def State.setPort (s : State) (d : DieId) (p st : Nat) : State :=
  let s := s.setDieReg d (0x120 + p) (setField (s.oport d p) 20 4 st)
  let b := 0x170 + portBidder d p
  (if s.moduleBusy d (p / 4) then s else s.setDieReg 0 b (setField (s.dieReg 0 b) 16 16 0)).settlePool

/-- GATE (R136). -/
def State.portGate (s : State) (d : DieId) (p : Nat) : State := if s.portSt d p = portOff then s.setPort d p portGated else s

/-- TRAIN (R136): the first attempt starts. -/
def State.portTrain (s : State) (d : DieId) (p : Nat) : State :=
  if s.portSt d p = portGated then
    (s.setPortRun d p ⟨0, (s.dieReg d 0x114).toNat, 1, (s.dieReg d 0x114).toNat⟩).setPort d p portTraining
  else s

/-- DRAIN (R136). -/
def State.portDrain (s : State) (d : DieId) (p : Nat) : State :=
  if s.portSt d p = portActive then (s.setPortRun d p ⟨0, s.cycle, 1, 0⟩).setPort d p portDraining
  else if s.portSt d p = portTraining then s.setPort d p portGated
  else s

/-- OFF (R136). -/
def State.portPowerOff (s : State) (d : DieId) (p : Nat) : State :=
  if s.portSt d p = portTraining then s.setPort d p portGated
  else if s.portSt d p = portGated ∨ s.portSt d p = portFailed then s.setPort d p portOff
  else s

/-- `GATE`. -/
def execGate (die : DieId) (port : Fin 16) (s : State) : Host.Outcome State Fault Refusal := .next (s.portGate die port.val)
/-- `TRAIN`. -/
def execTrain (die : DieId) (port : Fin 16) (s : State) : Host.Outcome State Fault Refusal := .next (s.portTrain die port.val)
/-- `DRAIN`. -/
def execDrain (die : DieId) (port : Fin 16) (s : State) : Host.Outcome State Fault Refusal := .next (s.portDrain die port.val)
/-- `OFF`. -/
def execOff (die : DieId) (port : Fin 16) (s : State) : Host.Outcome State Fault Refusal := .next (s.portPowerOff die port.val)

/-- The commands that R136 lists for a state: 1 GATE, 2 TRAIN, 3 DRAIN, 4 OFF. -/
def portTakes (st cmd : Nat) : Bool :=
  match cmd with
  | 1 => st == portOff
  | 2 => st == portGated
  | 3 => st == portActive || st == portTraining
  | 4 => st == portGated || st == portTraining || st == portFailed
  | _ => true

/-- A write to a port's register (R135): one that changes `role` while the port is neither OFF nor GATED, or whose command is not listed for
the port's state, is discarded whole (R5); else `role` is written and the command acts. -/
def State.writeOport (s : State) (d : DieId) (p : Nat) (v : Word) : State :=
  let old := s.oport d p
  let st := s.portSt d p
  if (bit v 8 ≠ bit old 8 ∧ st ≠ portOff ∧ st ≠ portGated) ∨ portTakes st (field v 12 4) = false then s
  else
    let s := s.setDieReg d (0x120 + p) (setBit old 8 (bit v 8))
    match field v 12 4 with
    | 1 => s.portGate d p
    | 2 => s.portTrain d p
    | 3 => s.portDrain d p
    | 4 => s.portPowerOff d p
    | _ => s

/-! ## Circuit changes that name a port (R141) -/

/-- The first status that is not OK. -/
def firstBad (a b : Status) : Status := if a = Status.ok then b else a

/-- The ports that a circuit-change node names. -/
def nodePorts (b : List Byte) : List (DieId × Nat) :=
  ((List.range 16).filter fun p => bytesAt b 8 2 / 2 ^ p % 2 == 1).map (fun p => ((0 : DieId), p)) ++
    ((List.range 16).filter fun p => bytesAt b 10 2 / 2 ^ p % 2 == 1).map fun p => ((1 : DieId), p)

/-- A circuit change under way that a port takes part in takes a status, where it has none yet; `steps` says at which of its steps it can. With
`gone` the port takes no further part. -/
def StepRun.markPort (r : StepRun) (d : DieId) (p : Nat) (steps : Nat → Bool) (st : Status) (gone : Bool) : StepRun :=
  { r with nodes := r.nodes.map fun x => match x with
    | .circuit stage since old op ports =>
      if steps stage && ports.contains (d, p) then
        .circuit stage since (firstBad old st) op (if gone then ports.filter fun e => decide (e ≠ (d, p)) else ports)
      else x
    | x => x }

/-- Every circuit change under way that a port takes part in takes a status (R141). -/
def State.markPort (s : State) (d : DieId) (p : Nat) (steps : Nat → Bool) (st : Status) (gone : Bool) : State :=
  { s with sched := { s.sched with queues := s.sched.queues.map fun e =>
      (e.1, { e.2 with run := e.2.run.map fun r => r.markPort d p steps st gone }) } }

/-! ## Laser modules (R19, R136, R143) -/

/-- A port loses its module: circuit changes that it takes part in end with LINK_DOWN, without it (R136, R141). -/
def State.portRemoved (s : State) (d : DieId) (p : Nat) : State := (s.markPort d p (fun _ => true) Status.linkDown true).setPort d p portAbsent

/-- `LASER_MODULE_REMOVED` (R136, R143): its ports go to ABSENT, and the governor's grant to 0. -/
def execLaserModuleRemoved (die : DieId) (m : Fin 4) (s : State) : Host.Outcome State Fault Refusal :=
  if !bit (s.dieReg die (0x130 + m.val)) 8 then .next s
  else
    let s := s.setDieReg die (0x130 + m.val) (setBit (s.dieReg die (0x130 + m.val)) 8 false)
    let s := (List.range 4).foldl (fun s i => s.portRemoved die (4 * m.val + i)) s
    let b := 0x172 + 4 * die.val + m.val
    .next (s.setDieReg 0 b (setField (s.dieReg 0 b) 48 16 0))

/-- `LASER_MODULE_INSERTED` (R136). -/
def execLaserModuleInserted (die : DieId) (m : Fin 4) (s : State) : Host.Outcome State Fault Refusal :=
  if bit (s.dieReg die (0x130 + m.val)) 8 then .next s
  else
    let s := s.setDieReg die (0x130 + m.val) (setBit (s.dieReg die (0x130 + m.val)) 8 true)
    .next ((List.range 4).foldl (fun s i =>
      let p := 4 * m.val + i
      if s.portSt die p = portAbsent then s.setPort die p portOff else s) s)

/-- `rmok` of a module (R143), computed where it is read: at reset too, when every port is OFF or ABSENT, it reads as its meaning has it and
not as the Reset column does (DESIGN CHOICE, log 78). -/
def State.rmok (s : State) (d : DieId) (m : Nat) : Bool :=
  (List.range 4).all fun i => let st := s.portSt d (4 * m + i); st == portOff || st == portGated || st == portFailed || st == portAbsent

/-! ## Training (R46, R137) -/

/-- An attempt fails: the next one starts, or the port goes to FAILED after `octl.tries`. -/
def State.attemptFails (s : State) (d : DieId) (p : Nat) : State :=
  let n := (s.portRun d p).tries + 1
  if field (s.dieReg d 0x11A) 0 4 ≤ n then s.setPort d p portFailed
  else s.setPortRun d p ⟨n, (s.dieReg d 0x114).toNat, 1, (s.dieReg d 0x114).toNat⟩

/-- The lanes that remain: those of at most 2^10 corrected symbols (R137, step 3). -/
def trainedLanes (counts : List Nat) : Nat := ((List.range 8).map fun i => if counts.getD i 0 ≤ 2 ^ 10 then 2 ^ i else 0).sum

/-- The time limits of steps 1 to 6, in ns; steps 4 and 6 take no time of their own. -/
def stepLimit (k : Nat) : Nat := [0, 20000, 100000, 200000, 0, 100000, 0].getD k 0

/-- The time that an attempt has from the start of its step to its end. -/
def stepsLeft (k : Nat) : Nat := (((List.range 7).filter (k ≤ ·)).map stepLimit).sum

/-- The time of a port's attempt and of its step so far, in ns of `ltime`. -/
def State.attemptTime (s : State) (d : DieId) (p : Nat) : Nat := (s.dieReg d 0x114).toNat - (s.portRun d p).since
def State.stepTime (s : State) (d : DieId) (p : Nat) : Nat := (s.dieReg d 0x114).toNat - (s.portRun d p).stepSince

/-- An attempt that ends now has exceeded 1 ms, or the limits of its steps. -/
def State.attemptLate (s : State) (d : DieId) (p : Nat) : Bool :=
  decide (1000000 < s.attemptTime d p) || decide (stepsLeft (s.portRun d p).step < s.stepTime d p)

/-- A port of the package that is an ACTIVE pool port has recorded another pool identity (R46). -/
def State.otherPool (s : State) (pid : BitVec 8) : Bool :=
  [(0 : DieId), 1].any fun d => !(s.poolPorts d).isEmpty && field (s.dieReg d 0x111) 8 8 != pid.toNat

/-- A port becomes ACTIVE with its lanes and peer, and its first period of the lane check begins. -/
def State.portUp (s : State) (d : DieId) (p lanes peer : Nat) : State :=
  let w := setField (setField (s.oport d p) 40 8 lanes) 48 9 peer
  ((s.setDieReg d (0x120 + p) w).setPortRun d p ⟨0, s.cycle, 1, 0⟩).setPort d p portActive

/-- A step of an attempt ends (R137): the next step that takes time begins, unless its limit was exceeded. -/
def State.stepEnds (s : State) (d : DieId) (p : Nat) : State :=
  let r := s.portRun d p
  if stepLimit r.step < s.stepTime d p ∨ 1000000 < s.attemptTime d p then s.attemptFails d p
  else s.setPortRun d p { r with step := if r.step = 3 then 5 else min (r.step + 1) 6, stepSince := (s.dieReg d 0x114).toNat }

/-- The first ACTIVE pool port of a die starts its frame allocators: every record is 0 but those of table frames (R50). -/
def State.startFrames (s : State) (d : DieId) : State :=
  let x := s.die d
  if x.pool.started then s else s.setDie d { x with pool := { x.pool with frames := [], started := true } }

/-- Record the pool's report (R46, R56), acting on a new incarnation (R47). -/
def State.poolReport (s : State) (d : DieId) (pid : BitVec 8) (inc : BitVec 32) (famo mmx jrnl : Bool) (tick : Nat) : State :=
  let old := field (s.dieReg d 0x111) 32 32
  let s := if old ≠ inc.toNat then s.poolRestarts d else s
  let rev := BitVec.ofNat 64 (inc.toNat * 2 ^ 32 + ofBool jrnl * 2 ^ 18 + ofBool mmx * 2 ^ 17 + ofBool famo * 2 ^ 16 + pid.toNat * 2 ^ 8 + 1)
  (s.setDieReg d 0x111 rev).setDieReg d 0x113 (setField (s.dieReg d 0x113) 32 20 tick)

/-- `PORT_TRAINING_RESULT` (R46, R137). A pool of revision 0 puts the port in FAILED. -/
def execPortTrainingResult (die : DieId) (port : Fin 16) (res : TrainResult) (s : State) : Host.Outcome State Fault Refusal :=
  let p := port.val
  let circuit := bit (s.oport die p) 8
  let c := s.coord die
  if s.portSt die p ≠ portTraining then .next s
  else match res with
  | .failed => .next (s.attemptFails die p)
  | .stepDone => .next (s.stepEnds die p)
  | .pool counts rev pid inc famo mmx jrnl tick =>
    let lanes := trainedLanes counts
    if circuit || s.attemptLate die p || decide (popCount 8 lanes < 6) then .next (s.attemptFails die p)
    else if rev = 0 then .next (s.setPort die p portFailed)
    else if s.otherPool pid then .next (s.attemptFails die p)
    else .next (((s.startFrames die).poolReport die pid inc famo mmx jrnl tick).portUp die p lanes 0)
  | .circuit counts peer nx ny nz farPool =>
    let lanes := trainedLanes counts
    if !circuit || s.attemptLate die p || decide (popCount 8 lanes < 6) || farPool || decide (nx ≠ c.nx ∨ ny ≠ c.ny ∨ nz ≠ c.nz) then .next (s.attemptFails die p)
    else .next (s.portUp die p lanes peer)

/-- `PORT_TRAINING_TIMEOUT` (R137): the attempt exceeds the limit of its step, or 1 ms. -/
def execPortTrainingTimeout (die : DieId) (port : Fin 16) (s : State) : Host.Outcome State Fault Refusal :=
  let p := port.val
  if s.portSt die p = portTraining ∧ (stepLimit (s.portRun die p).step < s.stepTime die p ∨ 1000000 < s.attemptTime die p) then
    .next (s.attemptFails die p)
  else .next s

/-! ## Draining (R136) -/

/-- The pool tags and the circuit tags outstanding on a port: (die, tag). -/
def State.portPoolTags (s : State) (d : DieId) (p : Nat) : List (DieId × Nat) :=
  [(0 : DieId), 1].flatMap fun x => (s.die x).pool.reqs.filterMap fun e => if e.2.port = 16 * d.val + p then some (x, e.1) else none
def State.portCircuitTags (s : State) (d : DieId) (p : Nat) : List Nat :=
  (s.die d).torus.tags.filterMap fun e => if e.2.port = some p && !e.2.resting then some e.1 else none

/-- `PORT_DRAIN_COMPLETE` (R136). -/
def execPortDrainComplete (die : DieId) (port : Fin 16) (s : State) : Host.Outcome State Fault Refusal :=
  if s.portSt die port.val = portDraining ∧ s.portPoolTags die port.val = [] ∧ s.portCircuitTags die port.val = [] then
    .next (s.setPort die port.val portGated)
  else .next s

/-- `PORT_DRAIN_TIMEOUT` (R136): the outstanding requests complete with TIMEOUT, and their tags advance; a circuit change that waits for the
port takes TIMEOUT (R141). With no request outstanding the drain completes instead. -/
def execPortDrainTimeout (die : DieId) (port : Fin 16) (s : State) : Host.Outcome State Fault Refusal :=
  let p := port.val
  let r := s.portRun die p
  if s.portSt die p = portDraining ∧ (s.portPoolTags die p ≠ [] ∨ s.portCircuitTags die p ≠ []) ∧
      r.since + 2 ^ field (s.dieReg die 0x11A) 8 6 ≤ s.cycle then
    let t := (s.portPoolTags die p).foldl (fun s e => s.poolTimeout e.1 e.2) s
    let t := (t.portCircuitTags die p).foldl (fun s e => s.tagTimesOut die e) t
    .next ((t.markPort die p (· == 1) Status.timeout false).setPort die p portGated)
  else .next s

/-! ## Lanes and telemetry (R144, R145) -/

/-- `LANE_CHECK` (R144): every 2^24 cycles, lanes above 2^14 are remapped out, each of which advances `rgen`; fewer than 6 put the port in
FAILED. It waits while a latch of the port is in progress. -/
def execLaneCheck (die : DieId) (port : Fin 16) (counts : List Nat) (s : State) : Host.Outcome State Fault Refusal :=
  let p := port.val
  let w := s.oport die p
  let lanes := field w 40 8
  let bad := (List.range 8).filter fun i => bit w (40 + i) && decide (2 ^ 14 < counts.getD i 0)
  let latching := match (s.die die).optical.latches.find? fun l => l.result.isNone with | some l => l.port == p | none => false
  if s.portSt die p ≠ portActive ∨ s.cycle < (s.portRun die p).since + 2 ^ 24 ∨ latching = true then .next s
  else
    let lanes' := bad.foldl (fun l i => l - 2 ^ i) lanes
    let w' := setField (setField w 40 8 lanes') 32 8 (field w 32 8 + bad.length)
    let s := (s.setDieReg die (0x120 + p) w').setPortRun die p ⟨0, s.cycle, 1, 0⟩
    .next (if popCount 8 lanes' < 6 then s.setPort die p portFailed else s)

/-- `TSNAP_WRITE` (R145). -/
def execTsnapWrite (die : DieId) (v : Word) (s : State) : Host.Outcome State Fault Refusal :=
  let old := s.dieReg die 0x11C
  let w := setBit (setField old 0 4 (field v 0 4)) 63 (bit v 63 || bit old 63)
  let s := s.setDieReg die 0x11C w
  if !bit v 63 then .next s
  else
    let x := s.die die
    .next (s.setDie die { x with optical := { x.optical with latches := x.optical.latches ++ [⟨field v 0 4, none, none⟩] } })

/-- `LATCH` (R145): the oldest latch requested copies its port's telemetry; `go` falls with the last one that a write started. -/
def execLatch (die : DieId) (lanes : List LaneReading) (s : State) : Host.Outcome State Fault Refusal :=
  let x := s.die die
  match x.optical.latches.find? fun l => l.result.isNone with
  | none => .next s
  | some l =>
    let w := s.oport die l.port
    let rest := x.optical.latches.erase l
    let go := rest.any fun r => r.result.isNone && r.stream.isNone
    let snap : Word := BitVec.ofNat 64 (ofBool go * 2 ^ 63 + field w 32 8 * 2 ^ 8 + l.port)
    let done := if l.stream.isSome then rest ++ [{ l with result := some snap }] else rest
    let s := (s.setDie die { x with optical := { x.optical with latches := done } }).setDieReg die 0x11C snap
    .next ((List.range 8).foldl (fun s i =>
      let r := lanes.getD i ⟨0, 0, 0⟩
      s.setDieReg die (0x138 + i) (BitVec.ofNat 64 (ofBool (!bit w (40 + i)) * 2 ^ 56 + r.rxp.toNat * 2 ^ 40 + r.temp.toNat * 2 ^ 32 + r.cerr.toNat))) s)

/-- `snap` (R254): it waits for its latch, and takes the value of `tsnap` at that moment. -/
def execSnap (sy d b : BitVec 5) (s : State) : Host.Outcome State Fault Refusal :=
  s.issue (.snap sy d b) fun s =>
    let v := s.x b.toNat
    let die := s.focus.core.die
    let x := s.die die
    if v.toNat / 16 ≠ 0 then .fault (.illegal .csrAcc)
    else match x.optical.latches.find? fun l => decide (l.stream = some s.focus) with
    | none => .begun (s.setDie die { x with optical := { x.optical with latches := x.optical.latches ++ [⟨field v 0 4, some s.focus, none⟩] } }) .latch
    | some l =>
      match l.result with
      | none => .block .latch
      | some r => .retire ((s.setDie die { x with optical := { x.optical with latches := x.optical.latches.erase l } }).setX d.toNat r) 0

/-- `OSWACK_WRITE` (R141): 3 is discarded. -/
def execOswackWrite (die : DieId) (v : Word) (s : State) : Host.Outcome State Fault Refusal :=
  if field v 0 2 = 3 then .next s else .next (s.setDieReg die 0x11B (BitVec.ofNat 64 (field v 0 2)))

/-! ## The power governor (R146, R147) -/

/-- The bidders in the order of the floors, and the order of the rest: priority falling, index rising. -/
def floorOrder : List Nat := [2, 3, 4, 5, 6, 7, 8, 9, 0, 1]
def bidOrder (prio : Nat → Nat) : List Nat := [7, 6, 5, 4, 3, 2, 1, 0].flatMap fun p => (List.range 10).filter fun b => prio b == p

/-- One pass of a settlement: each bidder in an order takes what `need` says, as far as tokens are left. -/
def settlePass (need : Nat → Nat → Nat) : List Nat → Nat → Sparse Nat → Nat × Sparse Nat
  | [], a, g => (a, g)
  | b :: t, a, g =>
    let have_ := Sparse.get (fun _ => 0) g b
    let x := min (need b have_) a
    settlePass need t (a - x) (Sparse.set (fun _ => 0) g b (have_ + x))

/-- The laser module of a bidder: its die and number. -/
def bidderModule (b : Nat) : Option (DieId × Nat) := if b < 2 then none else if b < 6 then some (0, b - 2) else some (1, b - 6)

/-- An interval of `gint` cycles of 2.0 GHz has passed since the last settlement (R146), by the oscillator that drives `ltime`; the first one
begins at `ltime` 0 (DESIGN CHOICE, log 79). -/
def State.settleDue (s : State) : Bool := decide (field (s.dieReg 0 0x161) 0 20 ≤ 2 * (s.dieReg 0 0x114 - BitVec.ofNat 64 s.sys.settled).toNat)

/-- `GOVERNOR_SETTLE` (R146, R147), once per interval: floors first, then wants by priority; a laser module below its floor has its ports
drained. -/
def execGovernorSettle (fixedDraw : Nat) (bids : List Bid) (s : State) : Host.Outcome State Fault Refusal :=
  if !s.settleDue then .next s
  else
    let reg := fun b => s.dieReg 0 (0x170 + b)
    let busy := fun (b : Nat) => match bidderModule b with
      | none => true
      | some (d, m) => s.moduleBusy d m
    let floor := fun b => if busy b then min ((bids.getD b ⟨0, 0⟩).floor) 65535 else 0
    let want := fun b => min (field (reg b) 32 16) ((bids.getD b ⟨0, 0⟩).top)
    let a := field (s.dieReg 0 0x160) 0 16 - fixedDraw
    let (a, g) := settlePass (fun b _ => floor b) floorOrder a []
    let (_, g) := settlePass (fun b h => max (want b) (floor b) - h) (bidOrder fun b => field (reg b) 0 3) a g
    let grant := fun b => Sparse.get (fun _ => 0) g b
    let s := (List.range 10).foldl (fun s b => s.setDieReg 0 (0x170 + b) (setField (setField (reg b) 16 16 (floor b)) 48 16 (grant b))) s
    let short := (List.range 10).filter fun b => decide (grant b < floor b)
    let s := if short.isEmpty then s else s.count 0 0x162 short.length
    let s := short.foldl (fun s b => match bidderModule b with
      | none => s
      | some (d, m) => (List.range 4).foldl (fun s i => s.portDrain d (4 * m + i)) s) s
    .next { s with sys := { s.sys with settled := (s.dieReg 0 0x114).toNat } }

end Sys2Proof.Machine
end

