-- ==== Sys2Proof/Machine/Switch.lean ====
section
/-!
DEFINITION. Pre-emption and the gang switch (20_faults.md R406 to R414): the context record, field by field, the save of a gang, its
restore, and the end of a plane load.
-/

namespace Sys2Proof.Machine

/-! ## The core record (R412): each field's place, how it is read from a core, and how a restore writes it back -/

/-- A field of a core record. -/
structure RecField where
  off : Nat
  len : Nat
  get : Core → Nat
  put : Nat → Core → Core

/-- A list cut or filled to a length. -/
def resize {α : Type} (n : Nat) (d : α) (l : List α) : List α := l.take n ++ List.replicate (n - l.length) d

/-- A list with an element replaced. -/
def replaceAt {α : Type} (l : List α) (n : Nat) (v : α) : List α := l.mapIdx fun i x => if i = n then v else x

/-- A block-stack entry as eight bytes: start, end, count. -/
def Block.num (b : Block) : Nat := b.start.toNat + b.stop.toNat * 2 ^ 16 + b.count.toNat * 2 ^ 32
def Block.ofNum (v : Nat) : Block := ⟨BitVec.ofNat 16 v, BitVec.ofNat 16 (v / 2 ^ 16), BitVec.ofNat 32 (v / 2 ^ 32)⟩

/-- An entry of a block stack, counted from the outermost. -/
def stackGet (l : List Block) (n : Nat) : Nat := match l.reverse[n]? with | some b => b.num | none => 0
def stackPut (l : List Block) (n v : Nat) : List Block := (replaceAt l.reverse n (Block.ofNum v)).reverse

/-- A steer register as R217 lays it out. -/
def Steer.num (g : Steer) : Nat := ofBool g.c * 2 ^ 16 + ofBool g.tv * 2 ^ 15 + g.tgt.toNat
def Steer.ofNum (v : Nat) : Steer := ⟨v / 2 ^ 16 % 2 == 1, v / 2 ^ 15 % 2 == 1, BitVec.ofNat 15 v⟩

/-- The state code of R407: a stream with a slab growth that has not ended is 7, the V stream between entries of a queue move 6. -/
def Core.stateCode (k : Core) (j : Cluster) : Nat :=
  let c := k.cluster j
  match c.run with
  | .atYield => 1
  | .atSwap => 2
  | .halted => 3
  | .parked _ => 4
  | .atBar => 5
  | .atGrow _ => 7
  | _ => if c.hold.isSome then 7 else if j = .v ∧ k.regs.cursor ≠ 0 then 6 else 0

/-- The run that a state code names. A core that has not been released is idle until it is. -/
def runOfCode (old : Run) (v : Nat) : Run :=
  match v with
  | 1 => .atYield
  | 2 => .atSwap
  | 3 => .halted
  | 4 => (match old with | .parked q => .parked q | _ => .parked 0)
  | 5 => .atBar
  | 7 => (match old with | .atGrow o => .atGrow o | _ => .idle)
  | _ => .idle

/-- A field of a cluster's block. -/
def clusterField (j : Cluster) (off len : Nat) (get : ClusterState → Nat) (put : Nat → ClusterState → ClusterState) : RecField :=
  { off := 0x400 + 0x200 * j.number + off, len := len, get := fun k => get (k.cluster j), put := fun v k => k.setCluster j (put v (k.cluster j)) }

/-- A CSR in a cluster's block. -/
def csrField (j : Cluster) (off n : Nat) : RecField :=
  clusterField j off 8 (fun c => (c.reg n).toNat) fun v c => c.setReg n (BitVec.ofNat 64 v)

/-- A cluster's block (R412). The saved pc of a stream that a plain `kvgrow` holds is that of the instruction after it (R407); after a `.s`
form the stream has gone on, and its pc is that of the first instruction that has not issued (log 85). -/
def clusterFields (j : Cluster) : List RecField :=
  [{ off := 0x400 + 0x200 * j.number, len := 2,
     get := fun k => ((k.cluster j).pc + if (k.cluster j).hold.isSome then 2 else 0).toNat,
     put := fun v k => k.setCluster j { k.cluster j with pc := BitVec.ofNat 16 v - if (k.cluster j).hold.isSome then 2 else 0 } },
   { off := 0x402 + 0x200 * j.number, len := 1, get := fun k => k.stateCode j,
     put := fun v k => k.setCluster j { k.cluster j with run := runOfCode (k.cluster j).run v } },
   clusterField j 3 1 (fun c => c.stack.length) fun v c => { c with stack := (resize (min v 4) ⟨0, 0, 0⟩ c.stack.reverse).reverse },
   clusterField j 4 4 (fun c => match c.run with | .parked q => q.toNat | _ => 0)
     fun v c => { c with run := match c.run with | .parked _ => .parked (BitVec.ofNat 32 v) | r => r }] ++
  ((List.range 4).map fun n => clusterField j (8 + 8 * n) 8 (fun c => stackGet c.stack n) fun v c => { c with stack := stackPut c.stack n v }) ++
  ((List.range 12).map fun n => clusterField j (0x28 + 4 * n) 4 (fun c => (Sparse.get (fun _ => Steer.reset) c.g n).num)
    fun v c => { c with g := Sparse.set (fun _ => Steer.reset) c.g n (Steer.ofNum v) }) ++
  [clusterField j 0x58 4 (fun c => ((List.range 8).map fun n => (c.status n).toNat * 2 ^ (4 * n)).sum)
    fun v c => (List.range 8).foldl (fun c n => c.setStatus n (BitVec.ofNat 4 (v / 2 ^ (4 * n)))) c,
   csrField j 0x60 0, csrField j 0x68 1, csrField j 0x70 2, csrField j 0x78 3] ++
  ((List.range 8).map fun n => csrField j (0x80 + 8 * n) (8 + n)) ++
  ((List.range 8).map fun n => csrField j (0xC0 + 8 * n) (0x10 + n)) ++
  (if j = .a then [] else (List.range 16).map fun n => clusterField j (0x100 + 8 * n) 8 (fun c => (Sparse.get (fun _ => (0 : Word)) c.x n).toNat)
    fun v c => { c with x := Sparse.set (fun _ => 0) c.x n (BitVec.ofNat 64 v) }) ++
  [clusterField j 0x180 8 (fun c => c.streams.toNat) fun v c => { c with streams := BitVec.ofNat 64 v }]

/-- A field of the registers outside the clusters. -/
def regsField (off len : Nat) (get : CoreRegs → Nat) (put : Nat → CoreRegs → CoreRegs) : RecField :=
  { off := off, len := len, get := fun k => get k.regs, put := fun v k => { k with regs := put v k.regs } }

/-- A field of the storage of a core. -/
def storeField (off len : Nat) (get : CoreStore → Nat) (put : Nat → CoreStore → CoreStore) : RecField :=
  { off := off, len := len, get := fun k => get k.store, put := fun v k => { k with store := put v k.store } }

/-- Capability registers with their tags replaced. -/
def putTags (v : Nat) (l : Sparse Cap) : Sparse Cap :=
  (List.range 16).foldl (fun l n => Sparse.set (fun _ => Cap.empty) l n ⟨(Sparse.get (fun _ => Cap.empty) l n).bits, v / 2 ^ n % 2 == 1⟩) l

/-- A core CSR. -/
def coreCsrField (off n : Nat) : RecField :=
  { off := off, len := 8, get := fun k => (k.reg n).toNat, put := fun v k => k.setReg n (BitVec.ofNat 64 v) }

/-- An entry of the event crossbar. -/
def evField (off sel : Nat) : RecField :=
  { off := off, len := 8, get := fun k => (k.ev sel).toNat, put := fun v k => k.setEv sel (BitVec.ofNat 64 v) }

/-- An empty trap frame. -/
def TrapFrame.empty : TrapFrame := ⟨0, [], 0⟩

/-- A field of the trap frame. -/
def frameField (off len : Nat) (get : TrapFrame → Nat) (put : Nat → TrapFrame → TrapFrame) : RecField :=
  regsField off len (fun r => match r.frame with | some f => get f | none => 0) fun v r => { r with frame := r.frame.map (put v) }

/-- The tokens of R383 in the order of its `arg` (R412). -/
def tokenField (n : Nat) : RecField :=
  let (j, prev) := tokenTarget n
  { off := 0x12 + n, len := 1,
    get := fun k => if prev then (k.cluster j).fromPrev else (k.cluster j).fromNext,
    put := fun v k => k.setCluster j (if prev then { k.cluster j with fromPrev := v } else { k.cluster j with fromNext := v }) }

/-- The words of a queue register. -/
def QEntry.word : QEntry → Word | .filled w => w | .reserved _ => 0

/-- The lines of a state, as a bitmap: those whose state a test admits. -/
def lineBits (k : Core) (f : LineState → Bool) : Nat := ((List.range 512).map fun j => ofBool (f (k.line j)) * 2 ^ j).sum

/-- Every field of fixed place in a core record, apart from the cluster blocks (R412). Fields that decide the length of others come
first. -/
def coreFields : List RecField :=
  [{ off := 0, len := 8, get := fun k => k.ctl.active.addr, put := fun _ k => k },
   { off := 8, len := 8, get := fun k => if k.ctl.shadowFor.isSome || (k.ctl.load.map (·.kind)).isSome then
       (match k.ctl.load with | some l => l.va | none => k.ctl.shadow.addr) else 0, put := fun _ k => k },
   { off := 0x10, len := 1, get := fun k => k.ctl.joinSet.toNat, put := fun v k => { k with ctl := { k.ctl with joinSet := BitVec.ofNat 4 v } } },
   storeField 0x11 1 (fun t => t.fq.length % 64 + ofBool t.fqClosed * 128)
     fun v t => { t with fq := resize (v % 64) 0 t.fq, fqClosed := v / 128 % 2 == 1 }] ++
  (List.range 8).map tokenField ++
  [{ off := 0x20, len := 8, get := fun k => k.ctl.ruleMask.toNat, put := fun v k => { k with ctl := { k.ctl with ruleMask := BitVec.ofNat 64 v } } },
   regsField 0x56 1 (fun r => ofBool r.frame.isSome) fun v r => { r with frame := if v % 2 = 1 then some (r.frame.getD TrapFrame.empty) else none },
   frameField 0x30 2 (fun f => f.pc.toNat) fun v f => { f with pc := BitVec.ofNat 16 v },
   frameField 0x32 1 (fun f => f.stack.length) fun v f => { f with stack := (resize (min v 4) ⟨0, 0, 0⟩ f.stack.reverse).reverse },
   frameField 0x54 2 (fun f => f.code.toNat) fun v f => { f with code := BitVec.ofNat 16 v }] ++
  ((List.range 4).map fun n => frameField (0x34 + 8 * n) 8 (fun f => stackGet f.stack n) fun v f => { f with stack := stackPut f.stack n v }) ++
  ((List.range 16).map fun n =>
    { off := 0x70 + n, len := 1, get := fun k => (k.queue n).length, put := fun v k => k.setQueue n (resize (min v 16) (.filled 0) (k.queue n)) }) ++
  ((List.range 32).map fun n =>
    { off := 0x100 + 8 * n, len := 8, get := fun k => (Sparse.get (fun _ => (0 : Word)) k.ca.x n).toNat,
      put := fun v k => { k with ca := { k.ca with x := Sparse.set (fun _ => 0) k.ca.x n (BitVec.ofNat 64 v) } } }) ++
  ((List.range 16).map fun n => regsField (0x200 + 16 * n) 16 (fun r => (Sparse.get (fun _ => Cap.empty) r.k n).bits.toNat)
    fun v r => { r with k := Sparse.set (fun _ => Cap.empty) r.k n ⟨BitVec.ofNat 128 v, (Sparse.get (fun _ => Cap.empty) r.k n).tag⟩ }) ++
  [regsField 0x300 2 (fun r => ((List.range 16).map fun n => ofBool (Sparse.get (fun _ => Cap.empty) r.k n).tag * 2 ^ n).sum)
    fun v r => { r with k := putTags v r.k },
   { off := 0xC00, len := 8, get := fun k => (k.cm.reg 0x18).toNat, put := fun v k => { k with cm := k.cm.setReg 0x18 (BitVec.ofNat 64 v) } },
   regsField 0xC08 8 (fun r => r.heldWord.toNat) fun v r => { r with heldWord := BitVec.ofNat 64 v },
   regsField 0xC10 1 (fun r => r.heldDest) fun v r => { r with heldDest := v },
   regsField 0xC11 1 (fun r => r.twiddle) fun v r => { r with twiddle := v },
   regsField 0xD40 1 (fun r => r.cursor) fun v r => { r with cursor := v }] ++
  ((List.range 8).map fun n => regsField (0xD00 + 8 * n) 8
    (fun r => if n = 0 then 2 ^ 64 - 1 else (Sparse.get (fun _ => (0 : Word)) r.m n).toNat)
    fun v r => if n = 0 then r else { r with m := Sparse.set (fun _ => 0) r.m n (BitVec.ofNat 64 v) }) ++
  ((List.range 16).map fun n => coreCsrField (0xE00 + 16 * n) (0x50 + n)) ++
  ((List.range 16).map fun n => coreCsrField (0xE08 + 16 * n) (0x60 + n)) ++
  ((List.range 16).map fun n => regsField (0xF00 + 8 * n) 8 (fun r => (Sparse.get (fun _ => (0 : Word)) r.rg n).toNat)
    fun v r => { r with rg := Sparse.set (fun _ => 0) r.rg n (BitVec.ofNat 64 v) }) ++
  [{ off := 0xF80, len := 64, get := fun k => lineBits k fun l => l == .clean || l == .dirty,
     put := fun v k => (List.range 512).foldl (fun k j =>
       k.setLine j (if (k.regionOf j).isNone then .none else if v / 2 ^ j % 2 = 1 then .clean else .absent)) k },
   { off := 0xFC0, len := 64, get := fun k => lineBits k fun l => l == .dirty,
     put := fun v k => (List.range 512).foldl (fun k j => if v / 2 ^ j % 2 = 1 ∧ k.line j = .clean then k.setLine j .dirty else k) k }] ++
  ((List.range 16).flatMap fun n => (List.range 16).map fun i =>
    { off := 0x1000 + 128 * n + 8 * i, len := 8,
      get := fun k => match (k.queue n)[i]? with | some e => e.word.toNat | none => 0,
      put := fun v k => k.setQueue n (replaceAt (k.queue n) i (.filled (BitVec.ofNat 64 v))) }) ++
  ((List.range 32).map fun i => storeField (0x1800 + 8 * i) 8 (fun t => (t.fq.getD i 0).toNat)
    fun v t => { t with fq := replaceAt t.fq i (BitVec.ofNat 64 v) }) ++
  ((List.range 8).map fun n => evField (0x1900 + 8 * n) n) ++
  ((List.range 8).map fun n => evField (0x1940 + 8 * n) (0x10 + n)) ++
  ((List.range 16).map fun n => evField (0x1980 + 8 * n) (0x20 + n)) ++
  ((List.range 16).map fun n => evField (0x1A00 + 8 * n) (0x40 + n)) ++
  ((List.range 8).map fun n =>
    { off := 0x1A80 + 8 * n, len := 8, get := fun k => (Sparse.get (fun _ => (0 : BitVec 40)) k.ex.latch n).toNat,
      put := fun v k => { k with ex := { k.ex with latch := Sparse.set (fun _ => 0) k.ex.latch n (BitVec.ofNat 40 v) } } }) ++
  ((List.range 16).map fun n => { off := 0x1AC0 + n, len := 1, get := fun k => k.pendingOf n, put := fun v k => k.setPending n v }) ++
  ((List.range 32).map fun n => regsField (0x2000 + 256 * n) 256 (fun r => (Sparse.get (fun _ => (0 : BitVec 2048)) r.v n).toNat)
    fun v r => { r with v := Sparse.set (fun _ => 0) r.v n (BitVec.ofNat 2048 v) })

/-- Every field of fixed place. The cluster blocks' states come before what depends on them. -/
def recFields : List RecField := coreFields ++ [Cluster.a, .m, .v, .d].flatMap clusterFields

/-- A saved command (R413). -/
def CopyCmd.bytes32 (m : CopyCmd) (pos : Nat) : List Byte :=
  bytesOf 8 m.id.toNat ++ bytesOf 8 m.is.toNat ++ bytesOf 8 m.ic.toNat ++ bytesOf 4 m.offset ++
    bytesOf 1 (ofBool m.restored + 2 * ofBool m.slot.isSome) ++ bytesOf 1 pos ++ bytesOf 1 (m.slot.getD 0) ++ bytesOf 1 0

/-- A command with what its 32 bytes say written back. -/
def CopyCmd.from32 (m : CopyCmd) (b : List Byte) : CopyCmd :=
  { m with id := BitVec.ofNat 64 (bytesAt b 0 8), is := BitVec.ofNat 64 (bytesAt b 8 8), ic := BitVec.ofNat 64 (bytesAt b 16 8),
           offset := bytesAt b 24 4, restored := bytesAt b 28 1 % 2 == 1, slot := if bytesAt b 28 1 / 2 % 2 = 1 then some (bytesAt b 30 1) else none }

/-- The accumulators that a forced save keeps (R372). -/
def Plane.liveTiles (p : Plane) : List Nat := (List.range 16).filter fun n => p.trailer 18 2 / 2 ^ n % 2 == 1

/-- The scratchpad lines that a forced save keeps, range by range. -/
def Plane.liveLines (p : Plane) : List Nat :=
  (List.range 4).flatMap fun i => match p.live i with | some (a, n) => (List.range n).map (· + a) | none => []

/-- The length of a core's record (R412). -/
def Core.recordLength (k : Core) (forced : Bool) : Nat :=
  0x4000 + if forced then 0x4000 * k.ctl.active.liveTiles.length + 4096 * k.ctl.active.liveLines.length else 0

/-- The bytes of a core's record; `grow` is the marker of R407, `rwr` the rewrite record. -/
def Core.record (k : Core) (forced : Bool) (grow : Nat) (rwr : List Byte) : Memory :=
  let m := recFields.foldl (fun m f => writeNat m f.off f.len (f.get k)) ([] : Memory)
  let m := writeBytes (writeNat m 0x28 8 grow) 0x58 rwr
  let m := writeNat m 0x1B00 8 k.store.copies.length
  let m := k.store.copies.zipIdx.foldl (fun m e => writeBytes m (0x1B20 + 32 * e.2) (e.1.bytes32 e.2)) m
  if forced then
    let p := k.ctl.active
    let m := p.liveTiles.zipIdx.foldl (fun m e => writeBytes m (0x4000 + 0x4000 * e.2) (tileBytes (Sparse.get (fun _ => []) k.regs.z e.1))) m
    p.liveLines.zipIdx.foldl
      (fun m e => writeBytes m (0x4000 + 0x4000 * p.liveTiles.length + 4096 * e.2) (readBytes k.store.spad (4096 * e.1) 4096)) m
  else m

/-- A core with a record's registers and queues written over it (R414, step 1). -/
def Core.fromRecord (k : Core) (m : Memory) : Core :=
  let k := recFields.foldl (fun k f => f.put (readNat m f.off f.len) k) k
  let n := min (readNat m 0x1B00 8) 24
  let old := resize n { id := 0, is := 0, ic := 0, coll := false, acq := false, rel := false, scope := 0, bulk := false, serial := 0,
                        offset := 0, slot := none, restored := false, ringWait := false } k.store.copies
  { k with store := { k.store with copies := old.zipIdx.map fun e => e.1.from32 (readBytes m (0x1B20 + 32 * e.2) 32) } }

/-- The accumulators and the live ranges of a forced record (R414, steps 1 and 2). -/
def Core.fromLive (k : Core) (m : Memory) : Core :=
  let p := k.ctl.active
  let z := p.liveTiles.zipIdx.foldl
    (fun z e => Sparse.set (fun _ => []) z e.1 (tileOf (bufferOf (readBytes m (0x4000 + 0x4000 * e.2) 0x4000)))) k.regs.z
  let spad := p.liveLines.zipIdx.foldl
    (fun x e => writeBytes x (4096 * e.1) (readBytes m (0x4000 + 0x4000 * p.liveTiles.length + 4096 * e.2) 4096)) k.store.spad
  { k with regs := { k.regs with z := z }, store := { k.store with spad := spad } }

/-! ## The context pool (R410) -/

/-- The lowest free run of units of the context pool, as absolute units of 64 KiB. -/
def State.ctxRun (s : State) (n : Nat) : Option Nat :=
  let p := s.dieReg 0 0x165
  (List.range (field p 0 16 + 1 - n)).map (· + field p 16 24) |>.find? fun b =>
    s.sched.gangs.all fun g => g.ctx.2 == 0 || decide (b + n ≤ g.ctx.1) || decide (g.ctx.1 + g.ctx.2 ≤ b)

/-- The units that the largest record a gang could need takes (R410): every core in forced form, on either of its planes. -/
def State.ctxNeed (s : State) (g : Gang) : Nat :=
  let len := g.cores.map fun n =>
    let k := s.core (CoreId.ofIndex n)
    let alt := { k with ctl := { k.ctl with active := k.ctl.shadow } }
    roundUp (max (k.recordLength true) (alt.recordLength true)) 4096
  (0x2000 + len.sum + 65535) / 65536

/-! ## The save (R406 to R409) -/

/-- The slab growths that streams of a core have sent and that have not ended; those of a gang that has been switched out are not among
them. -/
def State.growsOf (s : State) (c : CoreId) : List Op := s.ops.filter fun o => decide (o.owner.core = c) && o.grow.isSome && !s.awayOp o.id

/-- An operation that a save waits for (R407, R408): all but unfinished slab growths, the round of a `kvattn`, and the command processor's.
The fills that an instruction waits for before it issues end first; where one has failed, its instruction takes the status, unless
something else keeps it from issuing. -/
def State.savesAfter (s : State) (o : Op) : Bool :=
  match o.dest, o.grow with
  | .probe, _ => !o.performed || (o.status != Status.ok && (s.stream o.owner).run == .running && (s.stream o.owner).wait == some .pool)
  | .attn _ _, _ => false
  | .node, _ => false
  | .plane, _ => false
  | .walk _ _ who _ _, _ => !who.isCp
  | _, some g => g.ended
  | _, none => true

/-- The operations of a core that a save waits for. -/
def State.saveWaits (s : State) (c : CoreId) : Bool := s.ops.any fun o => decide (o.owner.core = c) && !s.awayOp o.id && s.savesAfter o

/-- A core may be saved now (R406 to R408): at its drain point or by force, with its accesses, lines and pulses done. A command with its
last byte written is saved with an offset of its byte count, or, where the record's four bytes cannot hold that, completes first (R163). -/
def State.canSave (s : State) (g : Gang) (c : CoreId) : Bool :=
  let k := s.core c
  !k.ctl.released || ((k.atDrain || g.forced) && !s.saveWaits c && k.ex.deferred.isEmpty &&
    ((s.inSlots c).all fun x => x.line.isNone && x.status == Status.ok && decide (x.cmd.offset < 2 ^ 32)))

/-- The round of a `kvattn` is discarded, and it will run again from the cursor with the held word (R118). Fills that an instruction of
the core waits for are left to themselves, and requests for a telemetry latch or an invalidation go on without the stream. -/
def State.quiesce (s : State) (c : CoreId) : State :=
  let s := (s.ops.filter fun o => decide (o.owner.core = c) && (match o.dest with | .attn _ _ => true | _ => false)).foldl
    (fun s o => ((((s.unpin o).releaseOp o).undoIssue o)).markRestart c true) s
  let s : State := { s with
    ops := s.ops.filter fun o => !(decide (o.owner.core = c) && decide (o.dest = .probe)),
    invals := s.invals.map fun v => match v.stream with | some i => if i.core = c then { v with stream := none } else v | none => v }
  let x := s.die c.die
  s.setDie c.die { x with optical := { x.optical with latches := x.optical.latches.filter fun l =>
    match l.stream with | some i => decide (i.core ≠ c) | none => true } }

/-- The streams of a core that run on after a `.s` slab growth that has not ended wait for it when they are saved (R407). -/
def Core.atGrows (k : Core) (l : List Op) : Core :=
  [Cluster.a, .m, .v, .d].foldl (fun k j => match l.find? fun o => decide (o.owner.cl = j) with
    | some o => if (k.cluster j).run = .running ∧ (k.cluster j).hold = none then k.setCluster j { k.cluster j with run := .atGrow o.id } else k
    | none => k) k

/-- The core as it is saved (R407, R163): its commands with their offsets, oldest first, and in each form what that form keeps. -/
def State.snapshot (s : State) (c : CoreId) (forced : Bool) : Core :=
  let k := (s.core c).atGrows (s.growsOf c)
  let p := k.ctl.active
  let live := p.liveLines
  let copies := (s.inSlots c).map fun x => { x.cmd with restored := x.cmd.acq }
  let copies := copies.foldl (fun l m => l.takeWhile (fun y => decide (y.serial < m.serial)) ++ [m] ++ l.dropWhile fun y => decide (y.serial < m.serial)) ([] : List CopyCmd)
  let k := { k with store := { k.store with copies := copies ++ k.store.copies } }
  let k := [Cluster.a, .m, .v, .d].foldl (fun k j => k.setCluster j { k.cluster j with join := .none, wait := none }) k
  let lines := (List.range 512).foldl (fun (k : Core) j =>
    if (k.line j) = .none ∨ (forced ∧ live.contains j ∧ (k.line j = .clean ∨ k.line j = .dirty)) then k else k.setLine j .absent) k
  if forced then
    { lines with
      regs := { k.regs with z := k.regs.z.filter fun e => p.liveTiles.contains e.1 },
      store := { lines.store with spad := k.store.spad.filter fun e => live.contains (e.1 / 4096) } }
  else { lines with regs := { k.regs with z := [] }, store := { lines.store with spad := [] } }

/-- The marker of a `kvgrow` not ended (R412). -/
def growMarker (l : List Op) (d : DieId) : Nat :=
  match l with
  | o :: _ => (match o.grow with | some g => 2 ^ 63 + g.pair * 2 ^ 8 + d.val * 2 ^ 4 + o.preg | none => 0)
  | [] => 0

/-- The streams of a core leave it: entries that name them name the gang's place instead (R404, R415). -/
def State.entriesAway (s : State) (c : CoreId) (g place : Nat) : State :=
  let f := fun (e : FaultEntry) => match e.stream with
    | some i => if i.core = c then { e with stream := none, away := some (g, 4 * place + i.cl.number) } else e
    | none => e
  [(0 : DieId), 1].foldl (fun s d =>
    let x := s.die d
    s.setDie d { x with faults := { x.faults with posted := x.faults.posted.map f, held := x.faults.held.map f } }) s

/-- Save one core into the gang's record (R409, steps 4 and 5): its record is written, its commands leave the channel and count in
`ce_saved`, and it is freed. -/
def State.saveCore (s : State) (g : Gang) (base place off n : Nat) (stage : Nat) : State × SavedCore :=
  let c := CoreId.ofIndex n
  let k0 := s.core c
  let form := if !k0.ctl.released then 2 else if k0.atDrain then 0 else 1
  let s := if form = 2 then s else s.quiesce c
  let rwr := if form = 1 then (s.core c).pendingRewrite else []
  let grows := s.growsOf c
  let k := if form = 2 then s.core c else s.snapshot c (form = 1)
  let len := k.recordLength (form = 1)
  let s := s.setDie 0 (s.die0.poke (base + off) (readBytes (k.record (form = 1) (growMarker grows c.die) rwr) 0 len))
  let s := s.entriesAway c g.id place
  let s := (List.range k.store.copies.length).foldl (fun s _ => s.count c.die 0x198) s
  let ch := channelOf c.core.val
  let x := s.die c.die
  let slots := (x.channel ch).slots.filter fun e => match e.2 with | some y => decide (y.core ≠ c.core.val) | none => true
  let s := s.setDie c.die (x.setChannel ch { x.channel ch with slots := slots })
  let kf := s.core c
  let s := s.setCore c { kf with store := { kf.store with copies := [] } }
  (s.freeCore c, { stage := stage, index := n, form := form, offset := off, length := len, core := k,
                   grows := grows.map fun o => (o.id, o.owner.cl.number) })

/-- The fixed part of a gang record (R411). -/
def Gang.fixedPart (g : Gang) (saved : List SavedCore) : Memory :=
  let counts := g.stages.map fun t => t.cores.length
  let m := writeNat [] 0 2 g.asid
  let m := writeNat m 2 1 g.stages.length
  let m := writeNat m 4 2 g.cores.length
  let m := writeNat m 6 2 g.barriers.length
  let m := writeNat m 8 8 g.record
  let m := writeNat m 0x10 2 g.queue
  let m := writeNat m 0x12 1 g.node
  let m := counts.zipIdx.foldl (fun m e => writeNat m (0x14 + 2 * e.2) 2 e.1) m
  let m := writeNat (writeNat m 0x24 2 g.cmBase) 0x26 2 g.cmLen
  let m := (List.range 256).foldl (fun m i => writeNat m (0x100 + 4 * i) 4 (Sparse.get (fun _ => (0 : BitVec 32)) g.flags i).toNat) m
  let m := g.barriers.zipIdx.foldl
    (fun m e => writeBytes m (0x500 + 8 * e.2) (bytesOf 1 e.1.level ++ bytesOf 1 e.1.stage ++ bytesOf 1 e.1.id ++ bytesOf 1 0 ++ bytesOf 2 e.1.need ++ bytesOf 2 e.1.got)) m
  saved.zipIdx.foldl
    (fun m e => writeBytes m (0xD00 + 16 * e.2)
      (bytesOf 1 e.1.stage ++ bytesOf 1 e.1.index ++ bytesOf 1 e.1.form ++ bytesOf 1 0 ++ bytesOf 4 e.1.offset ++ bytesOf 4 e.1.length ++ bytesOf 4 0)) m

/-- `GANG_SWITCH` (R409): once every core of the gang may be saved, its record is written to the context pool and its cores are freed; the
launch is its queue's candidate again. -/
def execGangSwitch (gang : Nat) (s : State) : Host.Outcome State Fault Refusal :=
  match s.gang? gang with
  | none => .next s
  | some g =>
    if g.phase ≠ .running ∨ g.request.isNone ∨ g.ctx.2 = 0 ∨ !g.cores.all fun n => s.canSave g (CoreId.ofIndex n) then .next s
    else
      let base := g.ctx.1 * 65536
      let cores := g.stages.zipIdx.flatMap fun t => t.1.cores.map fun n => (t.2, n)
      let extra := (List.range 256).filter fun i => decide ((s.core (CoreId.ofIndex i)).ctl.gang = some g.id) && !g.cores.contains i
      let s := extra.foldl (fun s i => s.freeCore (CoreId.ofIndex i)) s
      let (s, off, saved) := cores.foldl
        (fun (r : State × Nat × List SavedCore) e =>
          let (s, x) := r.1.saveCore g base r.2.2.length r.2.1 e.2 e.1
          (s, r.2.1 + roundUp x.length 4096, r.2.2 ++ [x]))
        (s, 0x2000, [])
      let s := s.setDie 0 (s.die0.poke base (readBytes (g.fixedPart saved) 0 0x2000))
      let s := if g.forced then s else s.count (queueDie g.queue) 0x1A4
      .next (s.setGang { g with phase := .saved, request := none, forced := false, saved := saved, ctx := (g.ctx.1, (off + 65535) / 65536) })

/-- `PREEMPTION_DEADLINE` (R406): a die of the gang reaches its deadline first, and the gang is saved by force. -/
def execPreemptionDeadline (gang : Nat) (die : DieId) (s : State) : Host.Outcome State Fault Refusal :=
  match s.gang? gang with
  | none => .next s
  | some g =>
    match g.request with
    | none => .next s
    | some t =>
      if g.phase ≠ .running ∨ g.forced ∨ s.cycle < t + g.pdl ∨ !(g.cores.any fun n => decide ((CoreId.ofIndex n).die = die)) ∨
          (g.cores.all fun n => let k := s.core (CoreId.ofIndex n); k.atDrain || !k.ctl.released) then .next s
      else .next (((s.setGang { g with forced := true }).count die 0x1A3).note (.interrupt die "pre-emption fall-back"))

/-! ## The restore (R414) -/

/-- A core that has come to the other die names a Commons of the package by the other space (R174). -/
def otherSpace (a : Nat) : Nat := match spaceOf a with | 1 => a + 2 ^ 30 | 2 => a - 2 ^ 30 | _ => a

/-- The ring registers of a core that has come to the other die, and what it has reserved and read, under their new addresses (log 34). -/
def Core.reRing (k : Core) : Core :=
  { k with
    regs := { k.regs with rg := Sparse.tabulate (fun _ => (0 : Word)) 16 (fun n =>
      let v := Sparse.get (fun _ => (0 : Word)) k.regs.rg n
      BitVec.ofNat 64 (v.toNat / 2 ^ 32 * 2 ^ 32 + otherSpace (v.toNat % 2 ^ 32))) },
    store := { k.store with rings := k.store.rings.foldl (fun l e => Sparse.set (fun _ => ⟨[], 0⟩) l (otherSpace e.1) e.2) [] } }

/-- A restored core: the snapshot for what a record does not hold, the record over it, on a core whose plane is active. -/
def restoredCore (g : Gang) (now : Core) (x : SavedCore) (m : Memory) (moved : Bool) : Core :=
  let csr := (List.range 32).foldl (fun k n => k.setReg (0x50 + n) (x.core.reg (0x50 + n))) (now.launchCsrs g)
  let spad := now.store.spad
  let k := { x.core with
    store := { x.core.store with spad := spad, l1 := now.store.l1, utlb := now.store.utlb, walked := [], old := [] },
    ctl := { now.ctl with joinSet := x.core.ctl.joinSet, ruleMask := x.core.ctl.ruleMask, badRule := x.core.ctl.badRule },
    csr := csr.csr }
  let k := k.freshMatch.fromRecord m
  let k := if x.form = 1 then k.fromLive m else k
  let k := if moved then k.reRing else k
  if (readBytes m 0x5C 16).all (· == 0) then k else k.bypassSwath

/-- A cluster of a core has a flag stream open. -/
def Core.hasOpen (k : Core) (n : Nat) : Bool := [Cluster.a, .m, .v, .d].any fun j => (k.cluster j).streams.getLsbD n

/-- The flag streams that open marks of cores of a die name begin again there, each once, as `fsrst` (R414). -/
def State.reopenStreams (s : State) (d : DieId) (cores : List Nat) : State :=
  (List.range 64).foldl (fun s n =>
    if cores.any fun i => decide ((CoreId.ofIndex i).die = d) && (s.core (CoreId.ofIndex i)).hasOpen n then s.resetSource d n else s) s

/-- Entries that name a place of a gang name its new core. -/
def State.entriesBack (s : State) (c : CoreId) (g place : Nat) : State :=
  let f := fun (e : FaultEntry) => match e.away with
    | some (x, n) => if x = g ∧ n / 4 = place then
        { e with away := none, stream := some ⟨c, match n % 4 with | 0 => .a | 1 => .m | 2 => .v | _ => .d⟩ } else e
    | none => e
  [(0 : DieId), 1].foldl (fun s d =>
    let x := s.die d
    s.setDie d { x with faults := { x.faults with posted := x.faults.posted.map f, held := x.faults.held.map f } }) s

/-- The cluster of a number. -/
def clusterOf (n : Nat) : Cluster := match n with | 0 => .a | 1 => .m | 2 => .v | _ => .d

/-- Bytes of the context pool: where a poisoned line is among them, which no rule has a restore end with, they are free (log 81). -/
def State.contextBytes (s : State) (a n : Nat) : State × List Byte :=
  match s.die0.peek? a n with
  | some bs => (s, bs)
  | none => ({ s with fresh := s.fresh + n }, (List.range n).map fun i => Config.freeByte (s.fresh + i))

/-- Restore one core from the gang's record. -/
def State.restoreCore (s : State) (g : Gang) (base place n : Nat) (x : SavedCore) : State :=
  let c := CoreId.ofIndex n
  if x.form = 2 then (s.setCore c ((s.core c).launched c g x.stage false)).activate c
  else
    let k := s.core c
    let s := (s.setCore c { k with store := { k.store with spad := [], lines := [] } }).activate c
    let (s, bs) := s.contextBytes (base + x.offset) x.length
    let m := bufferOf bs
    let s := s.setCore c (restoredCore g (s.core c) x m (decide ((CoreId.ofIndex x.index).die ≠ c.die)))
    let s := s.entriesBack c g.id place
    { s with ops := s.ops.map fun o => match x.grows.find? fun e => decide (e.1 = o.id) with
        | some e => { o with owner := ⟨c, clusterOf e.2⟩ }
        | none => o }

/-- A barrier of a restored gang: its cores by their new indices, its count from the record. -/
def Barrier.restored (b : Barrier) (f : Nat → Nat) (bs : List Byte) : Barrier :=
  { b with level := bytesAt bs 0 1, stage := bytesAt bs 1 1, id := bytesAt bs 2 1, need := bytesAt bs 4 2, got := bytesAt bs 6 2,
           waiting := b.waiting.map f, members := b.members.map f }

/-- Every plane of a restore has loaded: the saved state is written over the new cores (R414), and they go to the start sequencers. -/
def State.restoreReady (s : State) (g : Gang) : State :=
  let base := g.ctx.1 * 65536
  let (s, bs) := s.contextBytes base 0x2000
  let fixed := bufferOf bs
  let pairs := (g.cores.zip g.saved).zipIdx
  let s := pairs.foldl (fun s e => s.restoreCore g base e.2 e.1.1 e.1.2) s
  let s := (s.reopenStreams 0 g.cores).reopenStreams 1 g.cores
  let newIndex := fun (n : Nat) => match pairs.find? fun e => decide (e.1.2.index = n) with | some e => e.1.1 | none => n
  let flags := Sparse.tabulate (fun _ => (0 : BitVec 32)) 256 fun i => BitVec.ofNat 32 (readNat fixed (0x100 + 4 * i) 4)
  let bars := g.barriers.zipIdx.map fun e => e.1.restored newIndex (readBytes fixed (0x500 + 8 * e.2) 8)
  let g := { g with phase := .running, flags := flags, barriers := bars, saved := [], ctx := (0, 0), request := none, forced := false }
  let s := s.setGang g
  g.startOrder.foldl (fun s e => s.enqueueStart (CoreId.ofIndex e.2) g.id) s

/-- The planes of a gang that a record names, by the place of the core and the offset in its part: a free value where the record's line is
poisoned (log 81). -/
def State.savedPlane (s : State) (g : Gang) (place off : Nat) : Nat :=
  match g.saved[place]? with
  | some x => ((s.die0.peek? (g.ctx.1 * 65536 + x.offset + off) 8).map ofBytes).getD (Config.freeWord (s.fresh + place)).toNat
  | none => 0

/-- `GANG_RESTORE` (R414): a saved launch that has won its draw gets cores in its saved counts, and its planes load. It is admitted now
(R24). -/
def execGangRestore (gang : Nat) (s : State) : Host.Outcome State Fault Refusal :=
  match s.gang? gang, s.sched.won with
  | some g, some (q, n) =>
    if g.phase ≠ .saved ∨ s.node q n ≠ some (.running gang) then .next s
    else
      let s : State := { s with sched := { s.sched with won := none } }
      let order := s.sched.nextGang
      match s.pick g.launch (g.stages.map fun t => t.cores.length) with
      | none => .next s
      | some cores =>
        let s : State := { s with sched := { s.sched with nextGang := order + 1 } }
        let g := { g with phase := .restoring, order := order, stages := (g.stages.zip cores).map fun e => { e.1 with cores := e.2 } }
        let place := fun (i : Nat) => (g.cores.zipIdx.find? fun e => decide (e.1 = i)).map (·.2) |>.getD 0
        .next ({ (s.setGang g).seat g with fresh := s.fresh + g.saved.length }.loadPlanes g fun _ i => s.savedPlane g (place i) 0)
  | _, _ => .next s

/-! ## `PLANE_LOAD_COMPLETE` (R374) -/

/-- Every core of a gang has its planes. -/
def State.planesDone (s : State) (g : Gang) : Bool :=
  g.cores.all fun n => let k := (s.core (CoreId.ofIndex n)).ctl; k.load.isNone && k.active.loaded

/-- A gang whose loads may all be done goes on. -/
def State.planeStep (s : State) (id : Nat) : State :=
  match s.gang? id with
  | none => s
  | some g =>
    if !s.planesDone g then s
    else match g.phase with
    | .loading => s.launchReady g
    | .restoring => s.restoreReady g
    | _ => s

/-- A plane load of a core has ended, with a plane or without. A core that a stage gains is a core of the pipeline from its release on
(R369): where a pre-emption request comes before, it is freed, as it is by the request itself, and takes no part in the save (log 86). -/
def State.loadEnds (s : State) (c : CoreId) (l : PlaneLoad) (p : Option Plane) : State :=
  let s := s.dropLoad c
  match s.gangOf c with
  | none => s
  | some g =>
    match l.kind, p with
    | .active, none => s.endGang g Status.access
    | .active, some p =>
      let s := s.setCtl c fun k => { k with active := p }
      let place := (g.cores.zipIdx.find? fun e => decide (e.1 = c.index)).map (·.2)
      let shadow := match place with | some k => if g.phase = .restoring then s.savedPlane g k 8 else 0 | none => 0
      if shadow ≠ 0 then s.startLoad c shadow .again else s.planeStep g.id
    | .growth _, none => s.freeCore c
    | .growth t, some p =>
      if g.request.isSome then s.freeCore c
      else
      let s := s.setCtl c fun k => { k with active := p }
      ((s.setCore c ((s.core c).launched c g t false)).activate c).enqueueStart c g.id
    | .again, r =>
      let kind := g.savedShadow c.index
      let s := match r with
        | some p => s.setCtl c fun k => { k with shadow := p, shadowFor := kind, swapToken := match kind with | some (.chained _) => true | _ => false }
        | none => s.setCtl c fun k => { k with loadFailed := true }
      s.planeStep g.id
    | .reassign _, none => s.setCtl c fun k => { k with loadFailed := true }
    | .reassign t, some p => s.setCtl c fun k => { k with shadow := p, shadowFor := some (.reassign t) }
    | .chained n, none => (s.setCtl c fun k => { k with loadFailed := true }).chainFails n
    | .chained n, some p => s.setCtl c fun k => { k with shadow := p, shadowFor := some (.chained n), swapToken := true }

/-- `PLANE_LOAD_COMPLETE` (R374): the reads have ended, and the trailer and the crossbar area are checked. -/
def execPlaneLoadComplete (core : CoreId) (s : State) : Host.Outcome State Fault Refusal :=
  match (s.core core).ctl.load with
  | none => .next s
  | some l =>
    if l.failed then .next (s.loadEnds core l none)
    else match l.op.bind s.op? with
    | none => .next (s.tryLoad core)
    | some o =>
      if !o.performed then .next (s.performOp o.id)
      else
        let p : Plane := ⟨o.data, l.va, true⟩
        .next (s.loadEnds core l (if o.status = Status.ok ∧ p.ok then some p else none))

end Sys2Proof.Machine
end

