-- ==== Sys2Proof/Machine/Fault.lean ====
section
/-!
DEFINITION. The fault queue after an entry: held entries, acknowledgement by the host and by `resume`, and restarts (20_faults.md R402 to
R404, 12_isa_control.md R257). Taking a fault is `State.takeFault`.
-/

namespace Sys2Proof.Machine

/-- `HELD_ENTRY_WRITE` (R402): the oldest held entry of a die is written as soon as there is room. -/
def execHeldEntryWrite (die : DieId) (s : State) : Host.Outcome State Fault Refusal :=
  let x := s.die die
  match x.faults.held with
  | [] => .next s
  | e :: rest =>
    if !s.faultRoom die then .next s
    else .next ((s.setDie die { x with faults := { x.faults with held := rest } }).writeEntry die e)

/-- `FACK_WRITE` (R403): the host acknowledges a batch, of any ASID. -/
def execFackWrite (die : DieId) (v : Word) (s : State) : Host.Outcome State Fault Refusal :=
  .next ((s.setDieReg die 0x1A1 (BitVec.ofNat 64 (field v 0 48))).acknowledge die (field v 0 32) (field v 32 16) fun _ => true)

/-- `resume` (R257): a program acknowledges entries of its ASID on its die. -/
def execResume (sy d : BitVec 5) (s : State) : Host.Outcome State Fault Refusal :=
  s.issue (.resume sy d) fun s =>
    let v := s.x d.toNat
    .retire (s.acknowledge s.focus.core.die (field v 0 32) (field v 32 16) fun e => decide (e.asid = s.asid)) 0

/-- The copy-engine command that stopped on an entry of a die continues from its faulting line (R162). -/
def State.continueCommand (s : State) (d : DieId) (seq : BitVec 32) : State :=
  let x := s.die d
  s.setDie d { x with channels := x.channels.map fun e =>
    (e.1, { e.2 with slots := e.2.slots.map fun y => (y.1, y.2.map fun (c : SlotCmd) => if c.stopped = some seq.toNat then { c with stopped := none } else c) }) }

/-- An entry that has done what its acknowledgement does is forgotten. -/
def State.forgetEntry (s : State) (d : DieId) (seq : BitVec 32) : State :=
  let x := s.die d
  s.setDie d { x with faults := { x.faults with posted := x.faults.posted.filter fun e => decide (e.seq ≠ seq) } }

/-- A die has restarted a stream in this cycle. -/
def State.restartedNow (s : State) (d : DieId) : Bool := decide ((s.die d).faults.restarted = s.cycle + 1)

/-- Note that a die restarts a stream in this cycle. -/
def State.noteRestart (s : State) (d : DieId) : State :=
  let x := s.die d
  s.setDie d { x with faults := { x.faults with restarted := s.cycle + 1 } }

/-- Go through a batch: entries that restart nothing, or whose stream's gang is away or leaving, are passed over; the first other one
restarts its stream, at most one in a cycle, or its command. What is left of the batch is given back. -/
def State.restartFirst (d : DieId) : State → List (BitVec 32) → State × List (BitVec 32)
  | s, [] => (s, [])
  | s, q :: t =>
    match (s.die d).faults.posted.find? fun e => decide (e.seq = q) with
    | none => State.restartFirst d s t
    | some e =>
      if e.kind = 12 then ((s.continueCommand d q).forgetEntry d q, t)
      else match e.stream with
      | some i =>
        if s.stopping i.core then State.restartFirst d s t
        else if (s.stream i).run = .parked q then
          (if s.restartedNow d then (s, q :: t) else (((s.restart i e).forgetEntry d q).noteRestart d, t))
        else State.restartFirst d (s.forgetEntry d q) t
      | none => State.restartFirst d (if e.away.isSome then s else s.forgetEntry d q) t

/-- `STREAM_RESTART` (R404): the next stream in the order of the batches, and of the sequence within one, restarts, at most
one in a cycle. -/
def execStreamRestart (die : DieId) (s : State) : Host.Outcome State Fault Refusal :=
  match (s.die die).faults.batches with
  | [] => .next s
  | b :: rest =>
    let (s, left) := State.restartFirst die s b
    let x := s.die die
    .next (s.setDie die { x with faults := { x.faults with batches := if left.isEmpty then rest else left :: rest } })

end Sys2Proof.Machine
end

