-- ==== Sys2Proof/Machine/Crypto.lean ====
section
/-!
DEFINITION. The two algorithms that firmware and attestation rest on (R453, R454): SHA-256 (FIPS 180-4), and ECDSA over P-256 (FIPS 186-5),
with numbers in byte strings most significant byte first (SEC 1).
-/

namespace Sys2Proof.Machine

/-- The number whose bytes, most significant first, are given. -/
def ofBytesBig (l : List Byte) : Nat := ofBytes l.reverse

/-- The n bytes of a number, most significant first. -/
def bytesBig (n v : Nat) : List Byte := (bytesOf n v).reverse

/-! ## SHA-256 -/

/-- The eight working words. -/
structure Sha where
  a : BitVec 32
  b : BitVec 32
  c : BitVec 32
  d : BitVec 32
  e : BitVec 32
  f : BitVec 32
  g : BitVec 32
  h : BitVec 32
  deriving DecidableEq, Repr

/-- The initial hash value. -/
def Sha.init : Sha :=
  ⟨0x6a09e667, 0xbb67ae85, 0x3c6ef372, 0xa54ff53a, 0x510e527f, 0x9b05688c, 0x1f83d9ab, 0x5be0cd19⟩

/-- The round constants. -/
def shaK : List (BitVec 32) :=
  [0x428a2f98, 0x71374491, 0xb5c0fbcf, 0xe9b5dba5, 0x3956c25b, 0x59f111f1, 0x923f82a4, 0xab1c5ed5,
   0xd807aa98, 0x12835b01, 0x243185be, 0x550c7dc3, 0x72be5d74, 0x80deb1fe, 0x9bdc06a7, 0xc19bf174,
   0xe49b69c1, 0xefbe4786, 0x0fc19dc6, 0x240ca1cc, 0x2de92c6f, 0x4a7484aa, 0x5cb0a9dc, 0x76f988da,
   0x983e5152, 0xa831c66d, 0xb00327c8, 0xbf597fc7, 0xc6e00bf3, 0xd5a79147, 0x06ca6351, 0x14292967] ++
  [0x27b70a85, 0x2e1b2138, 0x4d2c6dfc, 0x53380d13, 0x650a7354, 0x766a0abb, 0x81c2c92e, 0x92722c85,
   0xa2bfe8a1, 0xa81a664b, 0xc24b8b70, 0xc76c51a3, 0xd192e819, 0xd6990624, 0xf40e3585, 0x106aa070,
   0x19a4c116, 0x1e376c08, 0x2748774c, 0x34b0bcb5, 0x391c0cb3, 0x4ed8aa4a, 0x5b9cca4f, 0x682e6ff3,
   0x748f82ee, 0x78a5636f, 0x84c87814, 0x8cc70208, 0x90befffa, 0xa4506ceb, 0xbef9a3f7, 0xc67178f2]

/-- One round with a constant and a word of the message schedule. -/
def Sha.round (x : Sha) (k w : BitVec 32) : Sha :=
  let s1 := x.e.rotateRight 6 ^^^ x.e.rotateRight 11 ^^^ x.e.rotateRight 25
  let ch := (x.e &&& x.f) ^^^ (~~~x.e &&& x.g)
  let t1 := x.h + s1 + ch + k + w
  let s0 := x.a.rotateRight 2 ^^^ x.a.rotateRight 13 ^^^ x.a.rotateRight 22
  let maj := (x.a &&& x.b) ^^^ (x.a &&& x.c) ^^^ (x.b &&& x.c)
  ⟨t1 + (s0 + maj), x.a, x.b, x.c, x.d + t1, x.e, x.f, x.g⟩

/-- The next word of the message schedule, from the sixteen before it. -/
def shaNext (w : List (BitVec 32)) : BitVec 32 :=
  let p := w.getD 1 0
  let q := w.getD 14 0
  (q.rotateRight 17 ^^^ q.rotateRight 19 ^^^ (q >>> 10)) + w.getD 9 0 + (p.rotateRight 7 ^^^ p.rotateRight 18 ^^^ (p >>> 3)) + w.getD 0 0

/-- Hash one block of 64 bytes. -/
def Sha.block (x : Sha) (l : List Byte) : Sha :=
  let w := (List.range 16).map fun i => BitVec.ofNat 32 (ofBytesBig ((l.drop (4 * i)).take 4))
  let y := (shaK.foldl (fun (e : Sha × List (BitVec 32)) k => (e.1.round k (e.2.headD 0), e.2.tail ++ [shaNext e.2])) (x, w)).1
  ⟨x.a + y.a, x.b + y.b, x.c + y.c, x.d + y.d, x.e + y.e, x.f + y.f, x.g + y.g, x.h + y.h⟩

/-- Hash a number of blocks. -/
def Sha.blocks : Nat → Sha → List Byte → Sha
  | 0, x, _ => x
  | n + 1, x, l => Sha.blocks n (x.block (l.take 64)) (l.drop 64)

/-- The SHA-256 digest of a byte string. -/
def sha256 (l : List Byte) : List Byte :=
  let zeros := (119 - l.length % 64) % 64
  let p := l ++ 0x80 :: List.replicate zeros 0 ++ bytesBig 8 (8 * l.length)
  let x := Sha.blocks (p.length / 64) Sha.init p
  [x.a, x.b, x.c, x.d, x.e, x.f, x.g, x.h].flatMap fun w => bytesBig 4 w.toNat

/-! ## The curve P-256 -/

/-- The prime of the field. -/
def p256P : Nat := 0xffffffff00000001000000000000000000000000ffffffffffffffffffffffff
/-- The order of the base point. -/
def p256N : Nat := 0xffffffff00000000ffffffffffffffffbce6faada7179e84f3b9cac2fc632551
/-- The constant term of the curve. -/
def p256B : Nat := 0x5ac635d8aa3a93e7b3ebbd55769886bc651d06b0cc53b0f63bce3c3e27d2604b
/-- The base point. -/
def p256G : Nat × Nat :=
  (0x6b17d1f2e12c4247f8bce6e563a440f277037d812deb33a0f4a13945d898c296,
   0x4fe342e2fe1a7f9b8ee7eb4a7c0f9e162bce33576b315ececbb6406837bf51f5)

/-- A power modulo m, of an exponent of n bits. -/
def powMod (m b : Nat) : Nat → Nat → Nat
  | 0, _ => 1 % m
  | n + 1, e => let r := powMod m b n (e / 2); if e % 2 = 1 then r * r % m * b % m else r * r % m

/-- The inverse modulo a prime of 256 bits. -/
def invMod (m v : Nat) : Nat := powMod m (v % m) 256 (m - 2)

/-- A difference modulo m. -/
def subMod (m a b : Nat) : Nat := (a + (m - b % m)) % m

/-- The sum of two points; `none` is the point at infinity. -/
def p256Add (u v : Option (Nat × Nat)) : Option (Nat × Nat) :=
  match u, v with
  | none, v => v
  | u, none => u
  | some (x1, y1), some (x2, y2) =>
    if x1 = x2 ∧ (y1 + y2) % p256P = 0 then none
    else
      let l := if x1 = x2 then subMod p256P (3 * x1 * x1) 3 * invMod p256P (2 * y1) % p256P
        else subMod p256P y2 y1 * invMod p256P (subMod p256P x2 x1) % p256P
      let x := subMod p256P (l * l) (x1 + x2)
      some (x, subMod p256P (l * subMod p256P x1 x) y1)

/-- A multiple of a point, by the n bits of the factor. -/
def p256Mul (q : Option (Nat × Nat)) : Nat → Nat → Option (Nat × Nat)
  | 0, _ => none
  | n + 1, k => let h := p256Mul q n (k / 2); let d := p256Add h h; if k % 2 = 1 then p256Add d q else d

/-- A point is on the curve. -/
def p256On (q : Nat × Nat) : Bool :=
  decide (q.1 < p256P) && decide (q.2 < p256P) && q.2 * q.2 % p256P == (subMod p256P (q.1 * q.1 * q.1) (3 * q.1) + p256B) % p256P

/-- The public key of an uncompressed SEC 1 encoding. -/
def p256Point (l : List Byte) : Option (Nat × Nat) :=
  let q := (ofBytesBig ((l.drop 1).take 32), ofBytesBig (l.drop 33))
  if l.length = 65 ∧ l.headD 0 = 4 ∧ p256On q = true then some q else none

/-- An ECDSA signature (r, then s) of a message verifies with a public key. -/
def ecdsaVerify (q : Nat × Nat) (msg sig : List Byte) : Bool :=
  let r := ofBytesBig (sig.take 32)
  let s := ofBytesBig ((sig.drop 32).take 32)
  let w := invMod p256N s
  let e := ofBytesBig (sha256 msg)
  decide (0 < r ∧ r < p256N ∧ 0 < s ∧ s < p256N) &&
    (match p256Add (p256Mul (some p256G) 256 (e * w % p256N)) (p256Mul (some q) 256 (r * w % p256N)) with
      | some p => p.1 % p256N == r
      | none => false)

/-- The ECDSA signature of a message with a private key and a per-message secret number; none where that number does not serve. -/
def ecdsaSign (d k : Nat) (msg : List Byte) : Option (List Byte) :=
  match p256Mul (some p256G) 256 k with
  | none => none
  | some p =>
    let r := p.1 % p256N
    let s := invMod p256N k * (ofBytesBig (sha256 msg) + r * d) % p256N
    if r = 0 ∨ s = 0 then none else some (bytesBig 32 r ++ bytesBig 32 s)

end Sys2Proof.Machine
end

