-- ==== Sys2Proof/Machine/Sched.lean ====
section
/-!
DEFINITION. Command queues, steps and their nodes, the lottery, pre-emption requests, chained launches and reassignment
(19_scheduling.md, 07_optical.md R141, 18_execution.md R378).
-/

namespace Sys2Proof.Machine

/-! ## Physical addresses of the command processor -/

/-- Bytes at a physical address in the local memory of a die of the package; none where a line of them is poisoned. -/
def State.physPeek (s : State) (pa n : Nat) : Option (List Byte) :=
  match s.ownDie (pa / 2 ^ 40 % 512) with
  | some d => if (s.die d).inLocal (pa % 2 ^ 40) n then (s.die d).peek? (pa % 2 ^ 40) n else none
  | none => none

/-- The parts of an access at a physical address, one per line. -/
def State.physParts (s : State) (d : DieId) (pa n : Nat) : List Part :=
  let die := pa / 2 ^ 40 % 512
  let inc := match s.path d die with | .sibling => s.inc (DieId.other d) | _ => s.peer d die
  (pieces (pa % 2 ^ 40) n).map fun e =>
    { die := die, com := false, addr := e.1, off := e.2.1, len := e.2.2, segs := [], order := 1, inc := inc, va := 0, rep := 0, fs := none, st := .todo }

/-- Write bytes at a physical address for the command processor of a die: at once in the package's local memory, by a write to another
package's. No address of 2^49 or above is one. -/
def State.physPoke (s : State) (d : DieId) (pa : Nat) (bs : List Byte) : State :=
  if 2 ^ 49 ≤ pa then s
  else match s.ownDie (pa / 2 ^ 40 % 512) with
  | some t => if (s.die t).inLocal (pa % 2 ^ 40) bs.length then s.setDie t ((s.die t).poke (pa % 2 ^ 40) bs) else s
  | none =>
    let (s, id) := s.addOp { Op.empty ⟨⟨d, 0⟩, .a⟩ with
      engine := true, plain := false, dest := .apart, size := bs.length, req := .write, data := writeBytes [] 0 bs,
      parts := s.physParts d pa bs.length }
    s.performOp id

/-! ## Queues (R387) -/

/-- The local address of a queue's descriptor on die 0. -/
def State.descAddr (s : State) (q : Nat) : Nat := field (s.dieReg 0 0x163) 5 35 * 32 + 32 * q

/-- Keep a queue, and write the fields of its descriptor that the command processor writes. -/
def State.putQueue (s : State) (q : Nat) (r : QueueRun) : State :=
  let a := s.descAddr q
  let x := ((s.die0.poke (a + 12) (bytesOf 1 r.state)).poke (a + 18) (bytesOf 2 r.tail ++ bytesOf 2 r.miss)).poke (a + 24)
    (bytesOf 4 r.lstep ++ bytesOf 1 r.lstat)
  (s.setDie 0 x).setQueueRun q r

/-- A descriptor is malformed (R387). -/
def descMalformed (b : List Byte) : Bool :=
  decide (bytesAt b 8 1 < 4) || decide (12 < bytesAt b 8 1) || bytesAt b 0 8 / 2 ^ 49 != 0 || bytesAt b 9 1 / 2 != 0 ||
    bytesAt b 13 3 != 0 || bytesAt b 22 2 != 0 || bytesAt b 29 3 != 0

/-- `CQDOOR_WRITE` (R387): the descriptor is read again; a malformed one stops the queue, and so does
one that is poisoned (log 81); a well-formed one resumes it. -/
def execCqdoorWrite (v : Word) (s : State) : Host.Outcome State Fault Refusal :=
  let q := field v 0 12
  let s := s.setDieReg 0 0x164 (BitVec.ofNat 64 q)
  let r := s.queue q
  match (s.die0.peek? (s.descAddr q) 32).filter fun b => !descMalformed b with
  | none =>
    .next (((s.setDie 0 (s.die0.poke (s.descAddr q + 12) (bytesOf 1 2))).setQueueRun q { r with state := 2 }).note
      (.interrupt (queueDie q) "queue faulted"))
  | some b =>
    let r := { r with base := bytesAt b 0 8, lgn := bytesAt b 8 1, en := bytesAt b 9 1 == 1, floor := bytesAt b 10 2, head := bytesAt b 16 2,
                      tail := bytesAt b 18 2, miss := bytesAt b 20 2, lstep := bytesAt b 24 4, lstat := bytesAt b 28 1,
                      state := if r.run.isSome || r.fetch.isSome then 1 else 0 }
    .next (if r.state = bytesAt b 12 1 then s.setQueueRun q r else s.putQueue q r)

/-! ## Steps (R388, R389) -/

/-- The predecessors of a node. -/
def nodePred (b : List Byte) : Nat := bytesAt b 4 4

/-- Bytes a to 63 of a node are 0. -/
def zeroFrom (b : List Byte) (a : Nat) : Bool := bytesAt b a (64 - a) == 0

/-- A node's own bytes are well formed (R389, R390). -/
def nodeOk (recs : List (List Byte)) (i : Nat) (b : List Byte) : Bool :=
  bytesAt b 1 1 / 2 == 0 && bytesAt b 3 1 == 0 && decide (nodePred b < 2 ^ i) &&
  match bytesAt b 0 1 with
  | 1 => bytesAt b 8 8 / 2 ^ 49 == 0 && zeroFrom b 17 && decide (bytesAt b 16 1 ≤ i) &&
      (bytesAt b 16 1 == 0 || bytesAt (recs.getD (bytesAt b 16 1 - 1) []) 0 1 == 1)
  | 2 => decide (bytesAt b 20 1 < 4) && zeroFrom b 21
  | 3 => decide (bytesAt b 20 1 < 2) && zeroFrom b 21
  | 4 => decide (bytesAt b 20 1 < 4) && bytesAt b 21 3 == 0 && bytesAt b 24 4 % 2 ^ (i + 1) == 0 && zeroFrom b 28
  | 5 => bytesAt b 12 4 == 0 && bytesAt b 16 8 / 2 ^ 49 == 0 && zeroFrom b 56
  | 6 => bytesAt b 8 8 == 0 && bytesAt b 16 8 / 2 ^ 49 == 0 && zeroFrom b 24
  | 7 => bytesAt b 8 8 == 0 && zeroFrom b 50
  | _ => false

/-- A step's header is well formed (R388, R389). -/
def headerOk (h : List Byte) : Bool :=
  decide (1 ≤ bytesAt h 6 1) && decide (bytesAt h 6 1 ≤ 32) && bytesAt h 7 1 == 0 && bytesAt h 8 8 / 2 ^ 49 == 0 &&
    decide (bytesAt h 16 2 ≤ 4096) && bytesAt h 18 2 == 0 && bytesAt h 21 3 == 0 && zeroFrom h 28

/-- Cut a list of bytes into pieces of n. -/
def chunks (n : Nat) (l : List Byte) : List (List Byte) := (List.range (l.length / n)).map fun i => (l.drop (n * i)).take n

/-- Copy a schedule's records into a die's prefetch ring (R396). -/
def State.copySchedule (s : State) (d : DieId) (recs : List (List Byte)) : State :=
  recs.foldl
    (fun s r =>
      let ring := s.dieReg d 0x116
      let head := field ring 48 16
      if (head + 2 ^ 16 - field ring 32 16) % 2 ^ 16 = 2 ^ field ring 0 4 then s.count d 0x182
      else
        let x := (s.die d).poke (field ring 4 28 * 4096 + 32 * (head % 2 ^ field ring 0 4)) r
        (s.setDie d x).setDieReg d 0x116 (setField ring 48 16 (head + 1))) s

/-- `pfpos` and the schedule at a step's start (R396). -/
def State.publishSchedule (s : State) (number : Nat) (recs : List (List Byte)) : State :=
  ([(0 : DieId), 1].foldl
    (fun s d => ((s.setDieReg d 0x118 (BitVec.ofNat 64 (number * 2 ^ 16))).cancelPrefetch d).copySchedule d recs) s).settlePool

/-- A step ends with a status (R387, R389): another than OK stops its queue. -/
def State.endStep (s : State) (q : Nat) (r : StepRun) (st : Status) : State :=
  let s := s.physPoke (queueDie q) (r.addr + 20) (bytesOf 1 st.toNat)
  let x := s.queue q
  let bad := decide (st ≠ Status.ok) || x.state == 2
  let s := s.putQueue q { x with fetch := none, run := none, lstep := r.number, lstat := st.toNat, state := if bad then 2 else 0 }
  if st = Status.ok then s else s.note (.interrupt (queueDie q) "step failed")

/-- Write the `nst` bytes of a step's nodes. -/
def State.putNst (s : State) (d : DieId) (addr n : Nat) (v : Nat) : State := s.physPoke d (addr + 64 + 64 * n + 2) (bytesOf 1 v)

/-- A step ends before any node of it has started: every node that its record has is skipped (R389). -/
def State.dropStep (s : State) (q addr : Nat) (h : List Byte) : State :=
  ((List.range (min (bytesAt h 6 1) 32)).foldl (fun s i => s.putNst (queueDie q) addr i 0xFE) s).endStep q
    ⟨addr, bytesAt h 0 4, bytesAt h 4 2, [], []⟩ Status.access

/-- Take a step whose record has been read: header, nodes and schedule image. -/
def State.takeStep (s : State) (q addr : Nat) (h nodes image : List Byte) : State :=
  let nn := bytesAt h 6 1
  let recs := chunks 64 nodes
  if headerOk h && (recs.zipIdx.all fun e => nodeOk recs e.2 e.1) then
    let s := (List.range nn).foldl (fun s i => s.putNst (queueDie q) addr i 0xFF) s
    let s := s.publishSchedule (bytesAt h 0 4) (chunks 32 image)
    s.setQueueRun q { s.queue q with fetch := none, run := some ⟨addr, bytesAt h 0 4, bytesAt h 4 2, recs, List.replicate nn .pending⟩ }
  else s.dropStep q addr h

/-- The command processor's place among the streams: its accesses leave from its die. -/
def cpStream (q : Nat) : StreamId := ⟨⟨queueDie q, 0⟩, .a⟩

/-- Read a piece of a step record. -/
def State.readStep (s : State) (q addr pa n : Nat) (got : List (List Byte)) : State :=
  let (s, id) := s.addOp { Op.empty (cpStream q) with
    engine := true, plain := false, dest := .node, size := n, parts := s.physParts (queueDie q) pa n }
  (s.setQueueRun q { s.queue q with fetch := some ⟨addr, got, id⟩ }).performOp id

/-- What follows the pieces of a step record that have come: another read, or the step (R388, R396). -/
def State.fetchNext (s : State) (q addr : Nat) : List (List Byte) → State
  | [h] => s.readStep q addr (addr + 64) (64 * min (bytesAt h 6 1) 32) [h]
  | [h, nodes] =>
    if headerOk h && bytesAt h 8 8 != 0 then s.readStep q addr (bytesAt h 8 8) (32 * bytesAt h 16 2) [h, nodes]
    else s.takeStep q addr h nodes []
  | [h, nodes, image] => s.takeStep q addr h nodes image
  | _ => s

/-- Go on with the step record that a queue reads; `fuel` bounds its pieces. -/
def State.fetchStep (q : Nat) : Nat → State → State
  | 0, s => s
  | fuel + 1, s =>
    match (s.queue q).fetch.bind fun f => (s.op? f.op).map fun o => (f, o) with
    | none => s
    | some (f, o) =>
      if !o.performed then s.performOp o.id
      else if o.status ≠ Status.ok then
        match f.got with
        | [] => (s.dropOp o.id).endStep q ⟨2 ^ 49, 0, 0, [], []⟩ Status.access
        | h :: _ => (s.dropOp o.id).dropStep q f.addr h
      else State.fetchStep q fuel ((s.dropOp o.id).fetchNext q f.addr (f.got ++ [readBytes o.data 0 o.size]))

/-! ## Nodes (R389, R390) -/

/-- The bytes of a node. -/
def State.nodeBytes (s : State) (q n : Nat) : List Byte := ((s.queue q).run.bind fun r => r.recs[n]?).getD []

/-- The ASID of a queue's step. -/
def State.stepAsid (s : State) (q : Nat) : Nat := match (s.queue q).run with | some r => r.asid | none => 0

/-- A node has completed or been skipped. -/
def NodeState.closed : NodeState → Bool | .done _ => true | .skipped => true | _ => false

/-- A pending node of a kind is ready: every predecessor has completed or been skipped (R389). -/
def State.nodeReady (s : State) (q n kind : Nat) : Bool :=
  bytesAt (s.nodeBytes q n) 0 1 == kind && decide (s.node q n = some .pending) &&
    match (s.queue q).run with
    | some r => r.nodes.zipIdx.all fun e => nodePred (s.nodeBytes q n) / 2 ^ e.2 % 2 == 0 || e.1.closed
    | none => false

/-- A node ends with a status. -/
def State.endNode (s : State) (q n : Nat) (st : Status) : State := s.setNode q n (.ended st)

/-- Send an operation of a node. -/
def State.sendNode (s : State) (q n : Nat) (o : Op) : State :=
  let (s, id) := s.addOp { o with owner := cpStream q, engine := true, plain := false, dest := .node, asid := s.stepAsid q }
  (s.setNode q n (.access (some id))).performOp id

/-- Read bytes at a physical address for a node. -/
def State.readPhys (s : State) (q n pa len : Nat) : State :=
  s.sendNode q n { Op.empty (cpStream q) with size := len, parts := s.physParts (queueDie q) pa len }

/-- Access the word of a flag wait, signal or conditional node (R390): a read is an acquire, an add or write a release. -/
def State.wordNode (s : State) (q n : Nat) (req : Req) (data : Memory) : State :=
  let va := bytesAt (s.nodeBytes q n) 8 8
  let d := queueDie q
  if va % 4 ≠ 0 then s.endNode q n Status.access
  else match s.translateCp d (.node q n (match (s.queue q).run with | some r => r.number | none => 0)) (s.stepAsid q) va req.isWrite with
  | (t, .fault _) => t.endNode q n Status.access
  | (t, .need) => t.setNode q n (.access none)
  | (t, .ok e) =>
    let (die, a) := t.place d e va
    t.sendNode q n { Op.empty (cpStream q) with
      size := 4, req := req, data := data, acq := !req.isWrite, rel := req.isWrite,
      parts := [{ die := die, com := false, addr := a, off := 0, len := 4, segs := [], order := e.order, inc := e.inc, va := va, rep := va,
                  fs := none, st := .todo }] }

/-- Start a node that is ready, or try an access again that waited for a walk; then see whether its access has ended. -/
def State.driveNode (s : State) (q n kind : Nat) (start : State → State) (fin : Op → State → State) : State :=
  let s := match s.node q n with
    | some .pending => if s.nodeReady q n kind then start s else s
    | some (.access none) => if bytesAt (s.nodeBytes q n) 0 1 = kind then start s else s
    | _ => s
  match s.node q n with
  | some (.access (some id)) =>
    if bytesAt (s.nodeBytes q n) 0 1 ≠ kind then s
    else
      let s := s.performOp id
      match s.op? id with
      | some o =>
        if !o.performed then s
        else if o.status ≠ Status.ok then (s.dropOp id).endNode q n o.status
        else fin o (s.dropOp id)
      | none => s
  | _ => s

/-- `LAUNCH_NODE` (R390 to R392): the launch record is read. -/
def execLaunchNode (queue : Nat) (node : Fin 32) (s : State) : Host.Outcome State Fault Refusal :=
  let n := node.val
  let pa := bytesAt (s.nodeBytes queue n) 8 8
  .next (s.driveNode queue n 1
    (fun s => if pa % 256 ≠ 0 then s.endNode queue n Status.access else s.readPhys queue n pa 256)
    fun o s =>
      let r := readBytes o.data 0 256
      if lrMalformed r then s.endNode queue n Status.access else s.setNode queue n (.candidate r))

/-- The value of a node. -/
def State.nodeValue (s : State) (q n : Nat) : Nat := bytesAt (s.nodeBytes q n) 16 4

/-- The test of a flag wait or a conditional on the word that its access read. -/
def State.nodeTest (s : State) (q n : Nat) (o : Op) : Bool :=
  flagTest (bytesAt (s.nodeBytes q n) 20 1) (BitVec.ofNat 32 (readNat o.data 0 4)) (BitVec.ofNat 32 (s.nodeValue q n))

/-- One read of a flag wait (R390): a test that fails leaves it to the next poll. -/
def State.pollNode (s : State) (q n : Nat) : State :=
  s.driveNode q n 2 (fun s => s.wordNode q n .read [])
    fun o s => if s.nodeTest q n o then s.endNode q n Status.ok else s.setNode q n (.access none)

/-- `FLAG_WAIT_NODE` (R390). -/
def execFlagWaitNode (queue : Nat) (node : Fin 32) (s : State) : Host.Outcome State Fault Refusal := .next (s.pollNode queue node.val)

/-- `FLAG_WAIT_POLL` (R390): it reads the word again. -/
def execFlagWaitPoll (queue : Nat) (node : Fin 32) (s : State) : Host.Outcome State Fault Refusal :=
  if s.node queue node.val = some .pending then .next s else .next (s.pollNode queue node.val)

/-- `SIGNAL_NODE` (R390): it adds to the word or writes it. -/
def execSignalNode (queue : Nat) (node : Fin 32) (s : State) : Host.Outcome State Fault Refusal :=
  let n := node.val
  let v := s.nodeValue queue n
  .next (s.driveNode queue n 3
    (fun s => if bytesAt (s.nodeBytes queue n) 20 1 = 0 then s.wordNode queue n (.amo 0 4 v) []
      else s.wordNode queue n .write (writeNat [] 0 4 v))
    fun _ s => s.endNode queue n Status.ok)

/-- Skip nodes of a step that are pending (R389, R397). -/
def State.skipNodes (s : State) (q mask : Nat) : State :=
  (List.range 32).foldl
    (fun s i =>
      if mask / 2 ^ i % 2 = 1 ∧ s.node q i = some .pending then
        match (s.queue q).run with
        | some r => (s.setNode q i .skipped).putNst (queueDie q) r.addr i 0xFE
        | none => s
      else s) s

/-- The conditional nodes that have become ready read their predicate words, once, at that moment (R397). -/
def State.readPredicates (s : State) (q : Nat) : State :=
  (List.range 32).foldl (fun s i => if s.nodeReady q i 4 then s.wordNode q i .read [] else s) s

/-- `STEP_START` (R387 to R389, R396): the next step of a queue is taken from its slot (log 40) and its record is read, from whatever die of
the domain holds it; a malformed one ends with ACCESS, and so does one that is misaligned or cannot be read (log 41).
Conditional nodes without predecessors read their words when it starts (R397). -/
def execStepStart (queue : Nat) (s : State) : Host.Outcome State Fault Refusal :=
  let r := s.queue queue
  let slots := 2 ^ r.lgn
  if r.fetch.isSome then .next ((State.fetchStep queue 4 s).readPredicates queue)
  else if r.run.isSome || !r.en || r.state == 2 || r.head % slots == r.tail % slots then .next s
  else
    let slot := (s.physPeek (r.base + 8 * (r.tail % slots)) 8).map fun b => ofBytes b % 2 ^ 49
    let s := s.putQueue queue { r with tail := (r.tail + 1) % slots, state := 1 }
    match slot with
    | some a => if a % 64 = 0 then .next ((State.fetchStep queue 4 (s.readStep queue a a 64 [])).readPredicates queue) else .next (s.endStep queue ⟨2 ^ 49, 0, 0, [], []⟩ Status.access)
    | none => .next (s.endStep queue ⟨2 ^ 49, 0, 0, [], []⟩ Status.access)

/-- `CONDITIONAL_NODE` (R397): a test that fails skips the nodes that it names. -/
def execConditionalNode (queue : Nat) (node : Fin 32) (s : State) : Host.Outcome State Fault Refusal :=
  let n := node.val
  .next (s.driveNode queue n 4 (fun s => s.wordNode queue n .read [])
    fun o s =>
      let s := if s.nodeTest queue n o then s else (s.skipNodes queue (bytesAt (s.nodeBytes queue n) 24 4)).readPredicates queue
      s.endNode queue n Status.ok)

/-- Write a route image into the inactive bank of both dies (R141). An entry with a reserved direction is not stored, as at `rtw`. -/
def State.installRoutes (s : State) (m : Memory) : State :=
  [(0 : DieId), 1].foldl
    (fun s d => (List.range 384).foldl
      (fun s i =>
        let e := readByte m (384 * d.val + i)
        if routeLegal e.toNat then s.setRoute d (1 - s.bank d) i e else s) s) s

/-- `ROUTE_INSTALL_NODE` (R390): step 4 of R141 alone. -/
def execRouteInstallNode (queue : Nat) (node : Fin 32) (s : State) : Host.Outcome State Fault Refusal :=
  let n := node.val
  .next (s.driveNode queue n 6 (fun s => s.readPhys queue n (bytesAt (s.nodeBytes queue n) 16 8) 768)
    fun o s => (s.installRoutes o.data).endNode queue n Status.ok)

/-! ## Circuit changes (R141) -/

/-- Step 1 at one port. -/
def State.gatePort (s : State) (d : DieId) (p : Nat) : State :=
  let st := s.portSt d p
  if st = portActive ∨ st = portTraining then s.portDrain d p
  else if st = portFailed then (s.portPowerOff d p).portGate d p
  else s.portGate d p

/-- Another circuit change of a die's queues waits for the switch. -/
def State.switchBusy (s : State) (d : DieId) : Bool :=
  s.sched.queues.any fun e => decide (queueDie e.1 = d) && (match e.2.run with
    | some r => r.nodes.any fun n => match n with | .circuit 2 _ _ _ _ => true | _ => false
    | none => false)

/-- One step of a circuit change. Statuses are taken in the order of what produces them: a port that is ABSENT at the start, a drain's time-out
and a module's removal as they happen (`State.markPort`), the switch, ports that fail to train, and the image's read. A port that is ABSENT at
the start takes no part. -/
def State.circuitStep (s : State) (q n : Nat) : State :=
  let b := s.nodeBytes q n
  let d := queueDie q
  let anyIn := fun (ports : List (DieId × Nat)) (st : Nat) => ports.any fun e => s.portSt e.1 e.2 == st
  let allIn := fun (ports : List (DieId × Nat)) (l : List Nat) => ports.all fun e => l.contains (s.portSt e.1 e.2)
  match s.node q n with
  | some .pending =>
    if !s.nodeReady q n 5 then s
    else
      let ports := (nodePorts b).filter fun e => s.portSt e.1 e.2 != portAbsent
      let st := if anyIn (nodePorts b) portAbsent then Status.linkDown else Status.ok
      (ports.foldl (fun s e => s.gatePort e.1 e.2) s).setNode q n (.circuit 1 s.cycle st none ports)
  | some (.circuit 1 _ st none ports) =>
    if !allIn ports [portGated] || s.switchBusy d then s
    else ((s.note (.switchRequest ((b.drop 24).take 32))).setDieReg d 0x11B 0).setNode q n (.circuit 2 s.cycle st none ports)
  | some (.circuit 2 _ st none ports) =>
    let res := field (s.dieReg d 0x11B) 0 2
    if res = 1 then (ports.foldl (fun s e => s.portTrain e.1 e.2) s).setNode q n (.circuit 3 s.cycle st none ports)
    else if res = 2 then s.endNode q n (firstBad st Status.retry)
    else s
  | some (.circuit 3 _ st none ports) =>
    if !allIn ports [portActive, portFailed] then s
    else
      let st := firstBad st (if anyIn ports portFailed then Status.linkDown else Status.ok)
      let t := s.readPhys q n (bytesAt b 16 8) 768
      match t.node q n with
      | some (.access op) => t.setNode q n (.circuit 4 s.cycle st op ports)
      | _ => t
  | some (.circuit 4 _ st (some id) _) =>
    let s := s.performOp id
    match s.op? id with
    | some o =>
      if !o.performed then s
      else if o.status ≠ Status.ok then (s.dropOp id).endNode q n (firstBad st o.status)
      else ((s.dropOp id).installRoutes o.data).endNode q n st
    | none => s
  | _ => s

/-- `CIRCUIT_CHANGE_NODE` (R141). -/
def execCircuitChangeNode (queue : Nat) (node : Fin 32) (s : State) : Host.Outcome State Fault Refusal := .next (s.circuitStep queue node.val)

/-- `SWITCH_REQUEST_TIMEOUT` (R141): no outcome came within 2^`octl.dto` cycles, `octl` of the queue's die (DESIGN CHOICE, log 45). -/
def execSwitchRequestTimeout (queue : Nat) (s : State) : Host.Outcome State Fault Refusal :=
  match (s.queue queue).run with
  | none => .next s
  | some r =>
    .next (r.nodes.zipIdx.foldl
      (fun s e => match e.1 with
        | .circuit 2 since st none _ =>
          if since + 2 ^ field (s.dieReg (queueDie queue) 0x11A) 8 6 ≤ s.cycle ∧ field (s.dieReg (queueDie queue) 0x11B) 0 2 = 0 then
            s.endNode queue e.2 (firstBad st Status.timeout)
          else s
        | _ => s) s)

/-! ## Lease hand-over (R390, R274) -/

/-- `LEASE_HANDOVER_NODE` (R390): `lhand` over the range, issued by the queue's die. -/
def execLeaseHandoverNode (queue : Nat) (node : Fin 32) (s : State) : Host.Outcome State Fault Refusal :=
  let n := node.val
  let b := s.nodeBytes queue n
  match s.node queue n with
  | some .pending =>
    if !s.nodeReady queue n 7 then .next s
    else
      let c : Cap := ⟨BitVec.ofNat 128 (bytesAt b 16 16), true⟩
      let off := bytesAt b 32 8
      let len := bytesAt b 40 8
      (match c.rangeCheck off len 64 with
      | some st => .next (s.endNode queue n st)
      | none =>
        let (s, id) := s.addOp { Op.empty (cpStream queue) with
          engine := true, plain := false, dest := .node, cap := c.bits, asid := s.stepAsid queue,
          tasks := (pagesOf (c.at off) len).map fun j => pageTask (.handover (bytesAt b 48 2)) c.obj j none }
        .next ((s.setNode queue n (.lending id)).tryOp id).shut)
  | some (.lending id) =>
    (match s.op? id with
    | some o => if o.performed then .next ((s.dropOp id).endNode queue n o.status) else .next (s.tryOp id).shut
    | none => .next s)
  | _ => .next s

/-! ## Completion (R389) -/

/-- The nodes that depend on a node, directly or through a chain of predecessors, as a mask. -/
def dependents (recs : List (List Byte)) (n : Nat) : Nat :=
  (recs.zipIdx.foldl (fun m e => if nodePred e.1 &&& (m ||| 2 ^ n) ≠ 0 then m ||| 2 ^ e.2 else m) 0)

/-- The status of a step: that of the lowest-indexed node that completed with another than OK (R389). -/
def stepStatus (l : List NodeState) : Status :=
  (l.findSome? fun n => match n with | .done st => if st = Status.ok then none else some st | _ => none).getD Status.ok

/-- A copy command is still to be done: its core has it, or the record of a gang that is switched out (R163). -/
def State.commandLeft (s : State) (serial : Nat) : Bool :=
  ((List.range 256).any fun i => (s.commands (CoreId.ofIndex i)).any fun m => m.serial == serial) ||
    s.sched.gangs.any fun g => g.saved.any fun x => x.core.store.copies.any fun m => m.serial == serial

/-- A node that has ended, with every access of its pipeline done (R389): its status. -/
def State.nodeOver (s : State) (q n : Nat) : Option Status :=
  match s.node q n with
  | some (.ended st) => some st
  | some (.closing st left) => if left.any fun e => s.commandLeft e.2 then none else some st
  | _ => none

/-- `NODE_COMPLETE` (R389): the node's status is written; a failure skips what depends on it; the step ends with its last node. -/
def execNodeComplete (queue : Nat) (node : Fin 32) (s : State) : Host.Outcome State Fault Refusal :=
  let n := node.val
  match s.nodeOver queue n, (s.queue queue).run with
  | some st, some r =>
    let s := (s.setNode queue n (.done st)).putNst (queueDie queue) r.addr n st.toNat
    let nodes := match (s.queue queue).run with | some r => r.nodes | none => []
    let done := (nodes.zipIdx.map fun e => match e.1 with | .done _ => 2 ^ e.2 | _ => 0).sum
    let s := s.physPoke (queueDie queue) (r.addr + 24) (bytesOf 4 done)
    let s := if bytesAt (s.nodeBytes queue n) 1 1 = 1 then s.note (.interrupt (queueDie queue) "node completed") else s
    let s := if st = Status.ok then s else s.skipNodes queue (dependents r.recs n)
    match (s.queue queue).run with
    | some r => if r.nodes.all (·.closed) then .next (s.endStep queue r (stepStatus r.nodes)) else .next (s.readPredicates queue)
    | none => .next s
  | _, _ => .next s

/-! ## The lottery (R394, R395) -/

/-- The generator's next state. -/
def seedNext (x : Word) : Word :=
  let x := x ^^^ (x >>> 12)
  let x := x ^^^ (x <<< 25)
  x ^^^ (x >>> 27)

/-- Its output. -/
def seedOut (x : Word) : Word := x * 0x2545F4914F6CDD1D

/-- A queue in a draw: its candidate's node, priority and tickets, its floor and its misses. -/
structure Bidder where
  q : Nat
  node : Nat
  prio : Nat
  tick : Nat
  floor : Nat
  miss : Nat
  deriving DecidableEq, Repr

/-- The eligible queues of a die's command processor, in ascending order, each with its candidate. -/
def State.eligible (s : State) (d : DieId) : List Bidder :=
  s.sched.queues.filterMap fun e =>
    if queueDie e.1 ≠ d then none
    else ((s.offers e.1).find? fun o => s.admits o.2).map fun o =>
      ⟨e.1, o.1, lrPrio o.2.launch, lrTickets o.2.launch, e.2.floor, e.2.miss⟩

/-- The queue of most misses among those whose floor is due, the lowest number among equals. -/
def floorWinner (l : List Bidder) : Option Bidder :=
  (l.filter fun b => b.floor != 0 && decide (b.floor ≤ b.miss + 1)).foldl
    (fun r b => match r with | none => some b | some c => if c.miss < b.miss then some b else some c) none

/-- The queue whose interval of tickets holds v. -/
def ticketWinner : List Bidder → Nat → Option Bidder
  | [], _ => none
  | b :: t, v => if v < b.tick then some b else ticketWinner t (v - b.tick)

/-- The winner of a draw. -/
def drawWinner (l : List Bidder) (out : Word) : Option Bidder :=
  match floorWinner l with
  | some b => some b
  | none =>
    let total := (l.map (·.tick)).sum
    if total = 0 then l.head? else ticketWinner l (out.toNat / 2 ^ 32 * total / 2 ^ 32)

/-- `LOTTERY_DRAW` (R394): one draw of a die's command processor. Its winner is admitted before another draw is made. -/
def execLotteryDraw (die : DieId) (s : State) : Host.Outcome State Fault Refusal :=
  let all := s.eligible die
  let lvl := (all.map (·.prio)).foldl max 0
  let l := all.filter fun b => b.prio == lvl
  if s.sched.won.isSome || l.isEmpty then .next s
  else
    let x := seedNext (s.dieReg die 0x11D)
    let s := s.setDieReg die 0x11D x
    match drawWinner l (seedOut x) with
    | none => .next s
    | some w =>
      let s := l.foldl (fun s b =>
        let r := s.queue b.q
        s.putQueue b.q { r with miss := if b.q = w.q then 0 else min (b.miss + 1) 65535 }) s
      .next { s with sched := { s.sched with won := some (w.q, w.node) } }

/-! ## Pre-emption requests (R395, R406, R410) -/

/-- Every core that belongs to a gang. -/
def State.coresOf (s : State) (id : Nat) : List Nat :=
  (List.range 256).filter fun i => decide ((s.core (CoreId.ofIndex i)).ctl.gang = some id)

/-- A core is free, or will be when the requests that have been raised are met. -/
def State.coreComing (s : State) (n : Nat) : Bool :=
  s.coreFree n || match s.gangOf (CoreId.ofIndex n) with | some g => g.request.isSome | none => false

/-- Insert a gang into the order in which requests are raised: lowest priority first, then the most recently admitted. -/
def insertVictim (g : Gang) : List Gang → List Gang
  | [] => [g]
  | x :: t => if g.prio < x.prio ∨ (g.prio = x.prio ∧ x.order < g.order) then g :: x :: t else x :: insertVictim g t

/-- The running pipelines of a priority below a level that can be asked to leave. -/
def State.victims (s : State) (prio : Nat) : List Gang :=
  (s.sched.gangs.filter fun g => decide (g.phase = .running ∧ g.prio < prio) && g.request.isNone && g.chain.isNone && !g.cores.isEmpty &&
    !s.chainedTo g).foldl (fun l g => insertVictim g l) []

/-- Raise a pipeline's request (R406): its record's units are taken, its moves are cancelled, cores that are not released stay so. -/
def State.raiseRequest (s : State) (d : DieId) (g : Gang) : State :=
  let need := s.ctxNeed g
  match s.ctxRun need with
  | none => s.count d 0x1A5
  | some base =>
    let s := s.setGang { g with request := some s.cycle, ctx := (base, need) }
    (s.coresOf g.id).foldl
      (fun s n =>
        let c := CoreId.ofIndex n
        let s := if (s.core c).ctl.drain || (s.core c).ctl.moveTo.isSome then s.cancelMove c else s
        if (s.core c).ctl.released then s
        else if !g.cores.contains n then s.freeCore c
        else
          let x := s.die c.die
          s.setDie c.die { x with start := { x.start with queue := x.start.queue.filter fun e => decide (e.core ≠ c.core.val) } }) s

/-- Raise requests until the freed cores would accept a launch. -/
def State.raiseUntil (d : DieId) (o : Offer) : State → List Gang → State
  | s, [] => s
  | s, g :: t =>
    if (pickWith s.coreComing o.launch o.counts).isSome then s
    else State.raiseUntil d o (match s.gang? g.id with | some g => s.raiseRequest d g | none => s) t

/-- `PREEMPTION_REQUEST` (R395): a queue's candidate lacks only cores, and pipelines of lower priority are asked to leave. -/
def execPreemptionRequest (queue : Nat) (s : State) : Host.Outcome State Fault Refusal :=
  if field (s.dieReg 0 0x165) 0 16 = 0 then .next s
  else match (s.offers queue).find? fun o => (s.pick o.2.launch o.2.counts).isNone && s.windowFree o.2 with
  | none => .next s
  | some (_, o) => .next (State.raiseUntil (queueDie queue) o s (s.victims (lrPrio o.launch)))

/-! ## Chained launches (R395) -/

/-- `CHAINED_LAUNCH` (R395): once the earlier launch runs, the new plane loads into the shadow plane of each of its cores. -/
def execChainedLaunch (queue : Nat) (node : Fin 32) (s : State) : Host.Outcome State Fault Refusal :=
  let n := node.val
  match s.node queue n with
  | some (.candidate r) =>
    if !s.chainPending queue n then .next s
    else
      (match s.node queue (s.chainOf queue n - 1) with
      | some (.running id) =>
        (match s.gang? id with
        | none => .next s
        | some g =>
          if lrStages r ≠ 1 ∨ g.stages.length ≠ 1 ∨ lrAsid r ≠ g.asid ∨ g.cores.length < lrMin r 0 then .next (s.endNode queue n Status.access)
          else if g.phase ≠ .running ∨ g.chain.isSome ∨ g.request.isSome ∨ (s.coresOf id).length ≠ g.cores.length ∨
              !(g.cores.all fun i => (fun (k : CoreCtl) => k.load.isNone && !k.shadow.loaded && !k.drain) (s.core (CoreId.ofIndex i)).ctl) then .next s
          else match s.commonsRun (lrCmLen r) with
          | none => .next s
          | some base =>
            let x := { newGang s.sched.nextGang queue n (s.nodeRecord queue n) r base [[]] with
                       phase := .running, ringDies := (List.range (lrRings r)).map fun _ => ringDieOf g.cores }
            let s := ((s.addGang x).buildRings x).setGang { g with chain := some x.id }
            let s := s.setNode queue n (.running x.id)
            .next (g.cores.foldl (fun s i => s.startLoad (CoreId.ofIndex i) (lrPlane r 0) (.chained x.id)) s))
      | _ => .next s)
  | _ => .next s

/-! ## Reassignment (R378) -/

/-- A ring's descriptor in the window of its pipeline: `filled` and `free` are 0. -/
def State.ringSample (s : State) (g : Gang) (n : Nat) : Bool × Bool :=
  let b := readBytes (s.die (g.ringDie n)).commons (g.cmBase * 65536 + 32 * n) 32
  (bytesAt b 14 1 == 0, bytesAt b 15 1 == 0)

/-- 2^`rsctl.per` cycles have passed since the last evaluation of a pipeline (R378). -/
def State.evaluationDue (s : State) (g : Gang) : Bool :=
  decide (g.evaluated = 0 ∨ g.evaluated + 2 ^ field (s.dieReg (queueDie g.queue) 0x11E) 0 6 ≤ s.cycle + 1)

/-- An evaluation's samples: the sample before and the sample now. -/
def State.sampleRings (s : State) (g : Gang) : Gang :=
  let none' : RingSample := ⟨false, false, false, false⟩
  let l := (List.range (lrRings g.launch)).foldl
    (fun l n =>
      let old := Sparse.get (fun _ => none') l n
      let (e, f) := s.ringSample g n
      Sparse.set (fun _ => none') l n ⟨e, f, old.empty, old.full⟩) g.samples
  { g with samples := l, evaluated := s.cycle + 1 }

/-- Some input ring of a stage shows a condition in its samples. -/
def Gang.inputs (g : Gang) (t : Nat) (f : RingSample → Bool) : Bool :=
  (List.range (lrRings g.launch)).any fun n => lrCs g.launch n == t && f (Sparse.get (fun _ => ⟨false, false, false, false⟩) g.samples n)

/-- A stage is hungry; a stage is behind (R378). -/
def Gang.hungry (g : Gang) (t : Nat) : Bool := g.inputs t fun r => r.empty && r.empty'
def Gang.behind (g : Gang) (t : Nat) : Bool := g.inputs t fun r => r.full && r.full'

/-- The core count of a stage. -/
def Gang.size (g : Gang) (t : Nat) : Nat := match g.stages[t]? with | some x => x.cores.length | none => 0

/-- The core that a stage gives away: of highest package index, counted by no armed barrier, its shadow plane not loaded. -/
def State.donorCore (s : State) (g : Gang) (t : Nat) : Option Nat :=
  ((List.range 256).filter fun i => (match g.stages[t]? with | some x => x.cores.contains i | none => false) && !g.counts i &&
    (fun (k : CoreCtl) => !k.shadow.loaded && k.load.isNone && !k.drain) (s.core (CoreId.ofIndex i)).ctl).getLast?

/-- `REASSIGNMENT_EVALUATION` (R378, R379): once in each period the rings are sampled, and at most one core starts to move. Moves and growth in progress count, so
that no stage falls below its minimum (R385) or rises above its maximum. -/
def execReassignmentEvaluation (gang : Nat) (s : State) : Host.Outcome State Fault Refusal :=
  match s.gang? gang with
  | none => .next s
  | some g =>
    if g.phase ≠ .running ∨ !bit (s.dieReg (queueDie g.queue) 0x11E) 8 ∨ !s.evaluationDue g then .next s
    else
      let g := s.sampleRings g
      let s := s.setGang g
      if g.request.isSome ∨ g.chain.isSome then .next s
      else
        let stages := List.range g.stages.length
        match stages.find? fun t => g.behind t && decide (s.stageCount g t + s.arriving g t < lrMax g.launch t) with
        | none => .next s
        | some target =>
          match (stages.find? fun t => decide (t ≠ target) && g.hungry t && decide (lrMin g.launch t + s.leaving g t < g.size t)).bind fun t => s.donorCore g t with
          | none => .next s
          | some i =>
            let c := CoreId.ofIndex i
            .next ((s.setCtl c fun k => { k with drain := true }).startLoad c (lrPlane g.launch target) (.reassign target))

end Sys2Proof.Machine
end

