-- ==== Sys2Proof/Machine/System.lean ====
section
/-!
DEFINITION. Power-up, die and package reset, firmware, attestation, the security alarm, the management port, and the windows of the host's harts
(24_system.md, 01_package.md R26, 06_torus.md R130).
-/

namespace Sys2Proof.Machine

/-! ## Reset of a die (R130, R26) -/

/-- A core in reset. -/
def Core.cold : Core := { Core.reset with ctl := { Core.reset.ctl with outOfReset := false } }

/-- Take a number of the on-chip random source. -/
def State.draw (s : State) : State × Word := ({ s with fresh := s.fresh + 1 }, Config.random s.fresh)

/-- The ports of a die whose modules are missing are ABSENT (R135). -/
def State.absentPorts (s : State) (d : DieId) : State :=
  (List.range 16).foldl (fun s p => if bit (s.dieReg d (0x130 + p / 4)) 8 then s else s.setPort d p portAbsent) s

/-- The governor's floors of a die's laser modules are 0: none of its ports is TRAINING, ACTIVE or DRAINING (R146). -/
def State.zeroFloors (s : State) (d : DieId) : State :=
  (List.range 4).foldl (fun s m => let b := 0x170 + portBidder d (4 * m); s.setDieReg 0 b (setField (s.dieReg 0 b) 16 16 0)) s

/-- A die's frames are gone: the other die's sequence cache keeps no entry of a record that lay in one (R101). -/
def State.forgetRecords (s : State) (d : DieId) : State :=
  let o := s.die (DieId.other d)
  s.setDie (DieId.other d) { o with seqCache := o.seqCache.filter fun e => decide (pageDie (field e.cap 88 40) 0 ≠ d) }

/-- A die whose registers hold their reset values and whose cores are in reset. What its memory holds, which laser modules are present, whether
the power-up sequence keeps it in reset and, on die 0, the registers of package scope stay; the governor's interval begins again with
`ltime`. -/
def State.clearDie (s : State) (d : DieId) (tinc : BitVec 16) : State :=
  let x := s.die d
  let mods := (List.range 4).map fun m => (0x130 + m, setField (Die.reset.reg d.val (0x130 + m)) 8 1 (field (x.reg d.val (0x130 + m)) 8 1))
  let pkg := x.csr.filter fun e => packageScope e.1
  let csr := Sparse.setAll (dieCsrReset d.val) [] ((0x109, tinc.setWidth 64) :: mods ++ pkg)
  let (s, r) := s.draw
  let s := s.setDie d { Die.reset with
    mem := x.mem, poison := x.poison, window := s.cycle, csr := Sparse.set (dieCsrReset d.val) csr 0x11D (if r = 0 then 1 else r),
    cores := (List.range 128).map fun n => (n, Core.cold), start := { Die.reset.start with since := s.cycle }, inReset := x.inReset }
  let s : State := if d = 0 then { s with sys := { s.sys with settled := 0 } } else s
  (((s.forgetRecords d).zeroFloors d).absentPorts d)

/-- The next incarnation: one more modulo 2^16, skipping 0 (R130). -/
def nextInc (v : BitVec 16) : BitVec 16 := if v + 1 = 0 then 1 else v + 1

/-- Send a probe to a die (R130): a request of the die itself, with a tag and a time-out as any other. -/
def State.sendProbe (s : State) (d : DieId) (n : Nat) : State :=
  let p : Part := { die := n, com := false, addr := 0, off := 0, len := 1, segs := [], order := 1, inc := 0, va := 0, rep := 0, fs := none, st := .todo }
  let (s, id) := s.addOp { Op.empty ⟨⟨d, 0⟩, .a⟩ with engine := true, plain := false, dest := .apart, req := .probe, parts := [p] }
  s.performOp id

/-- A die that leaves reset probes every die that its active route bank marks reachable (R130). -/
def State.probeAll (s : State) (d : DieId) : State :=
  ((List.range 384).filter fun n => decide (n ≠ s.dieNum d) && s.inDomain d n && s.reachable d n).foldl (fun s n => s.sendProbe d n) s

/-- What the package's units still do for a die that resets goes with it: accesses, walks and invalidations of its streams, its command
processor's queues and the pipelines that they started. -/
def State.forgetDie (s : State) (d : DieId) : State :=
  let gone := s.sched.gangs.filter fun g => decide (queueDie g.queue = d)
  let s := gone.foldl (fun s g => s.endGang g Status.ok) s
  { s with
    ops := s.ops.filter fun o => decide (o.owner.core.die ≠ d),
    invals := s.invals.filter fun v => match v.stream with | some i => decide (i.core.die ≠ d) | none => true,
    sched := { s.sched with queues := s.sched.queues.filter fun e => decide (queueDie e.1 ≠ d),
                            won := match s.sched.won with | some w => if queueDie w.1 = d then none else some w | none => none } }

/-- `DIE_RESET` (R130): the registers of a die return to their reset values, its incarnation advances, and it probes its peers. Its cores
leave reset one after another (R26), where the power-up sequence does not keep the die in reset (R457). -/
def execDieReset (die : DieId) (s : State) : Host.Outcome State Fault Refusal :=
  let s := (s.forgetDie die).clearDie die (nextInc (s.inc die))
  .next (if (s.die die).inReset then s else s.probeAll die)

/-! ## Power-up (R457) -/

/-- `secalarm`: the alarm count, the alarm bits and `erased`; `pol` is fused. -/
def State.secalarm (s : State) : Word := s.dieReg 0 0x166

/-- The package as a reset leaves it, before its cores leave reset: both dies reset, the registers of package scope too, apart from what
`keep` says of `secalarm`. -/
def State.clearPackage (s : State) (inc : DieId → BitVec 16) (keep : Word) : State :=
  let s := { s with ops := [], invals := [], sched := State.reset.sched }
  let x := s.die 0
  let s := s.setDie 0 { x with csr := x.csr.filter fun e => !packageScope e.1 }
  let s := (s.clearDie 0 (inc 0)).clearDie 1 (inc 1)
  let s := s.setDieReg 0 0x166 keep
  let s := s.setDie 0 { s.die0 with inReset := true }
  s.setDie 1 { s.die1 with inReset := true }

/-- A write of a flash slot that is under way is abandoned, and its slot fails (R455). -/
def System.abandonFlash (y : System) : System :=
  match y.flashing with
  | none => y
  | some (b, _) => if b then { y with slotB := none, flashing := none } else { y with slotA := none, flashing := none }

/-- The monitor holds a new identity key (R454, R455). -/
def System.drawIdentity (y : System) : System := { y with identity := some y.drawn, drawn := y.drawn + 1 }

/-- `COLD_POWER_UP` (R130, R454, R457): power comes on; the incarnations come from the random source, memory holds nothing, and at the
first cold power-up the identity key is drawn. -/
def execColdPowerUp (s : State) : Host.Outcome State Fault Refusal :=
  let (s, a) := s.draw
  let (s, b) := s.draw
  let y := if s.sys.drawn = 0 then s.sys.abandonFlash.drawIdentity else s.sys.abandonFlash
  let keep : Word := setBit (setField 0 5 2 (field s.secalarm 5 2)) 4 y.identity.isNone
  let s := s.setDie 0 { s.die0 with mem := [], poison := [] }
  let s := s.setDie 1 { s.die1 with mem := [], poison := [] }
  let s := s.clearPackage (fun d => if d = 0 then a.setWidth 16 else b.setWidth 16) keep
  .next { s with sys := { y with power := .row 1, rowSince := 0, running := none, recovery := none, received := [], attest := none,
                                 resetting := false, settled := 0 } }

/-! ## Firmware (R453) -/

/-- Bytes a to a + n - 1 of an image. -/
def imageBytes (f : List Byte) (a n : Nat) : List Byte := (f.drop a).take n

/-- The firmware version of an image. -/
def imageVer (f : List Byte) : Nat := bytesAt f 4 4

/-- The public key that the boot ROM checks an image of a key slot with: the one whose digest the slot's fuses hold; none for a slot that is not
present or is revoked. -/
def System.signingKey (y : System) (k : Nat) : Option (Nat × Nat) :=
  if y.keysRevoked.getLsbD k then none
  else match y.keyDigests.getD k none with
    | none => none
    | some h => (y.romKeys.find? fun e => decide (sha256 e = h)).bind p256Point

/-- An image is accepted (R453): its magic number and reserved bytes, its key slot, its hash and signature, and its version. -/
def System.accepts (y : System) (f : List Byte) : Bool :=
  let len := bytesAt f 8 4
  bytesAt f 0 4 == 0x4B374657 && (imageBytes f 13 51).all (· == 0) && decide (bytesAt f 12 1 < 4) &&
    decide (1 ≤ len ∧ len ≤ 2 ^ 26 ∧ 160 + len ≤ f.length) && decide (sha256 (imageBytes f 160 len) = imageBytes f 64 32) &&
    (match y.signingKey (bytesAt f 12 1) with
      | some q => ecdsaVerify q (imageBytes f 0 96) (imageBytes f 96 64)
      | none => false) &&
    decide (y.rollback.toNat ≤ imageVer f)

/-- The image that the boot ROM runs: slot A, then slot B. -/
def System.boot (y : System) : Option (List Byte) :=
  match y.slotA.filter y.accepts with
  | some f => some f
  | none => y.slotB.filter y.accepts

/-- A write of a flash slot begins (R455): one at a time. -/
def System.flashBegin (y : System) (b : Bool) (image : List Byte) : System :=
  if y.flashing.isSome then y else { y with flashing := some (b, image) }

/-- The write of a flash slot ends: the slot holds the image, which takes effect at the next package reset (R453). -/
def System.flashEnd (y : System) : System :=
  match y.flashing with
  | none => y
  | some (b, f) => if b then { y with slotB := some f, flashing := none } else { y with slotA := some f, flashing := none }

/-! ## The rows of the power-up table (R457) -/

/-- Put the sequence into a stage, which begins now. -/
def State.setPower (s : State) (p : PowerStage) : State :=
  { s with sys := { s.sys with power := p, rowSince := (s.dieReg 0 0x114).toNat } }

/-- The limit of a row of the power-up table, in nanoseconds (R457). -/
def rowLimit : Nat → Nat
  | 1 => 5000000
  | 2 => 10000000
  | 3 => 500000000
  | 4 => 2000000000
  | _ => 10000000

/-- The row of the power-up in progress is outside its limit. -/
def State.rowLate (s : State) : Bool :=
  match s.sys.power with
  | .row n => decide (s.sys.rowSince + rowLimit n < (s.dieReg 0 0x114).toNat)
  | _ => false

/-- The power-up has come to its end, or has stopped: a package reset by an alarm is over (R455, log 80). -/
def State.endReset (s : State) : State := { s with sys := { s.sys with resetting := false } }

/-- A row outside its limit stops the sequence and raises a host interrupt (R457). -/
def State.stopRow (s : State) : State :=
  match s.sys.power with
  | .row n => (s.setPower (.stopped n)).endReset.note (.interrupt 0 "power-up")
  | _ => s

/-- A die whose core rails are stable: its cores leave reset from a cycle on (R26). -/
def Die.leaves (x : Die) (since : Nat) : Die := { x with inReset := false, start := { x.start with since := since } }

/-- Let the dies leave reset: their cores follow from one common start, die 1's 128 cycles after die 0's (R26). -/
def State.leaveReset (s : State) : State :=
  let s := s.setDie 0 (s.die0.leaves s.cycle)
  let s := s.setDie 1 (s.die1.leaves (s.cycle + 128))
  (s.probeAll 0).probeAll 1

/-- Every core of a die has left reset. -/
def Die.allLeft (x : Die) : Bool := (List.range 128).all fun n => (x.core n).ctl.outOfReset

/-- `POWER_UP_STAGE_DONE` (R453, R457): the action of a row of the table is done within its limit, and the next row starts. In row 5 the
core rails of both dies are stable first, and the cores begin to leave reset; the row completes when the last one has. -/
def execPowerUpStageDone (s : State) : Host.Outcome State Fault Refusal :=
  if s.rowLate then .next s.stopRow
  else match s.sys.power with
  | .row 1 => .next (((s.setDieReg 0 0x114 0).setDieReg 1 0x114 0).setPower (.row 2))
  | .row 3 =>
    (match s.sys.boot with
    | some f => .next ({ s with sys := { s.sys with running := some f } }.setPower (.row 4))
    | none => .next (s.setPower .recovery).endReset)
  | .row 5 =>
    if s.die0.inReset then .next s.leaveReset
    else if s.die0.allLeft && s.die1.allLeft then .next (s.setPower (.row 6))
    else .next s
  | .row 6 => .next (((s.absentPorts 0).absentPorts 1).setPower .done).endReset
  | .row n => .next (s.setPower (.row (n + 1)))
  | _ => .next s

/-- `POWER_UP_STAGE_TIMEOUT` (R457): a row outside its limit stops the sequence. -/
def execPowerUpStageTimeout (s : State) : Host.Outcome State Fault Refusal := .next (if s.rowLate then s.stopRow else s)

/-- The start sequencer of a die may bring its core n out of reset (R24, R26): 256 cycles after the core before it, 64 cycles after any other
start, and never in the cycle of another core. -/
def State.mayLeave (s : State) (d : DieId) (n : Nat) : Bool :=
  let q := (s.die d).start
  decide (q.since + 256 * n ≤ s.cycle) && decide (q.left = 0 ∨ q.left + 256 ≤ s.cycle + 1) &&
    decide (q.last = 0 ∨ q.last + 64 ≤ s.cycle + 1) && decide ((s.die (DieId.other d)).start.left ≠ s.cycle + 1)

/-- `CORE_LEAVE_RESET` (R26): the next core of a die, in ascending id, is started. -/
def execCoreLeaveReset (die : DieId) (s : State) : Host.Outcome State Fault Refusal :=
  if (s.die die).inReset then .next s
  else match (List.range 128).find? fun n => !((s.die die).core n).ctl.outOfReset with
  | none => .next s
  | some n =>
    if !s.mayLeave die n then .next s
    else
      let x := s.die die
      .next ((s.setDie die { x with start := { x.start with last := s.cycle + 1, left := s.cycle + 1 } }).setCtl ⟨die, Fin.ofNat 128 n⟩
        fun k => { k with outOfReset := true })

/-- `RECOVERY_IMAGE` (R453): the recovery loader checks one image over the management port, in the same way. -/
def execRecoveryImage (image : List Byte) (s : State) : Host.Outcome State Fault Refusal :=
  if s.sys.power = .recovery then
    let y := { s.sys with recovery := some image }
    .next (if y.accepts image then { s with sys := { y with running := some image } }.setPower (.row 4) else { s with sys := y })
  else .next s

/-- `ROLLBACK_RAISE` (R453): the counter rises to a request's value, never above the running version. -/
def execRollbackRaise (v : BitVec 64) (s : State) : Host.Outcome State Fault Refusal :=
  match s.sys.running with
  | none => .next s
  | some f =>
    if s.sys.rollback.toNat < v.toNat ∧ v.toNat ≤ imageVer f then .next { s with sys := { s.sys with rollback := v } } else .next s

/-! ## Identity and attestation (R454) -/

/-- `ATTESTATION_REQUEST` (R454): the monitor holds one request at a time; with the key erased there is no identity. -/
def execAttestationRequest (nonce : BitVec 256) (s : State) : Host.Outcome State Fault Refusal :=
  if s.sys.identity.isNone then .next (s.note .noIdentity)
  else if s.sys.attest.isSome then .next s
  else .next { s with sys := { s.sys with attest := some nonce } }

/-- The SHA-256 of the fuse array. -/
def State.fuseHash (s : State) : List Byte :=
  let y := s.sys
  sha256 (Config.fuseArray y.keyDigests y.keysRevoked y.rollback (field s.secalarm 5 2) y.mac)

/-- The first 120 bytes of a report. -/
def State.reportBody (s : State) (nonce : BitVec 256) : List Byte :=
  let (ver, fw) := match s.sys.running with | some f => (imageVer f, imageBytes f 64 32) | none => (0, List.replicate 32 0)
  bytesOf 2 1 ++ bytesOf 2 (field (s.dieReg 0 0x107) 0 16) ++ bytesOf 4 ver ++ bytesOf 32 nonce.toNat ++ fw ++
    s.fuseHash ++ bytesOf 2 (s.inc 0).toNat ++ bytesOf 2 (s.inc 1).toNat ++ bytesOf 4 (field s.secalarm 8 8) ++ bytesOf 8 0

/-- A number from 1 to n - 1, where n is the order of P-256's base point, of a number from the random source. -/
def scalarOf (v : Nat) : Nat := v % (p256N - 1) + 1

/-- `ATTESTATION_REPORT_COMPLETE` (R454, R455): the report, signed with the identity key, or none where the key has been erased. A
signature that the random bits do not give is tried again with others. -/
def execAttestationReportComplete (c : BitVec 256) (extra : BitVec 64) (s : State) : Host.Outcome State Fault Refusal :=
  match s.sys.attest, s.sys.identity with
  | none, _ => .next s
  | some _, none => .next ({ s with sys := { s.sys with attest := none } }.note .noIdentity)
  | some nonce, some n =>
    match ecdsaSign (scalarOf (Config.identityKey n)) (scalarOf (c.toNat * 2 ^ 64 + extra.toNat)) (s.reportBody nonce) with
    | some sig => .next ({ s with sys := { s.sys with attest := none } }.note (.report (s.reportBody nonce ++ sig)))
    | none => .next s

/-! ## The security alarm (R455) -/

/-- The bit of an event. -/
def alarmBit : Alarm → Nat | .tamper => 0 | .voltage => 1 | .clock => 2

/-- The package resets (R455): every incarnation advances, what ran is lost, and power-up goes on from the boot ROM, or from the row before it
that has not completed. -/
def State.packageReset (s : State) (keep : Word) : State :=
  let row := match s.sys.power with | .row n => min n 3 | .stopped n => min n 3 | _ => 3
  let t := s.clearPackage (fun d => nextInc (s.inc d)) keep
  { t with sys := { s.sys.abandonFlash with running := none, recovery := none, received := [], attest := none, resetting := true,
                                            settled := 0 } }.setPower (.row row)

/-- `SECURITY_ALARM` (R455): the alarm is recorded; policy 0 interrupts the host, the others reset the package, and 2 and 3 erase the key
first. During that reset only the record changes. -/
def execSecurityAlarm (kind : Alarm) (s : State) : Host.Outcome State Fault Refusal :=
  let v := s.secalarm
  let v := setBit (setField v 8 8 (min (field v 8 8 + 1) 255)) (alarmBit kind) true
  let pol := field v 5 2
  if s.sys.power = .off then .next s
  else if pol = 0 ∨ s.sys.resetting = true then
    let t := s.setDieReg 0 0x166 v
    .next (if pol = 0 then t.note (.interrupt 0 "security alarm") else t)
  else if pol = 1 then .next (s.packageReset (setField v 0 4 0))
  else
    let s := { s with sys := { s.sys with identity := none } }
    .next (s.packageReset (setBit v 4 true))

/-- Duviso reprovisions the package (R455): a new identity key is drawn. -/
def State.reprovision (s : State) : State :=
  { s with sys := s.sys.drawIdentity }.setDieReg 0 0x166 (setBit s.secalarm 4 false)

/-! ## Memory errors (R150) and module temperatures (R143) -/

/-- The ECC of a die's memory corrects an error. -/
def State.errorCorrected (s : State) (d : DieId) : State := s.count d 0x193

/-- The ECC of a die's memory finds an error that it cannot correct: the line is poisoned, and a pool cache frame that holds it goes into
LOST as after a refused write-through. -/
def State.linePoisoned (s : State) (d : DieId) (line : Nat) : State :=
  let x := s.die d
  if x.poisoned line ∨ backedEnd ≤ 128 * line then s
  else
    let s := (s.setDie d { x with poison := x.poison ++ [line] }).count d 0x194
    if 128 * line < x.localSize then s else (s.loseLease d ((128 * line - x.localSize) / 65536) Status.poison).settlePool

/-- A laser module reports its temperature. -/
def State.moduleTemp (s : State) (d : DieId) (m : Fin 4) (t : Byte) : State :=
  s.setDieReg d (0x130 + m.val) (setField (s.dieReg d (0x130 + m.val)) 0 8 t.toNat)

/-! ## The management port (R452) -/

/-- A frame comes in at the management port: the Ethernet controller of die 0 holds it for the host. -/
def State.frameIn (s : State) (f : List Byte) : State := { s with sys := { s.sys with received := s.sys.received ++ [f] } }

/-- The host takes the oldest frame that the controller holds. -/
def State.frameTaken (s : State) : State := { s with sys := { s.sys with received := s.sys.received.tail } }

/-! ## The local-memory window (R451) -/

/-- The pieces of a hart's access, one per line. -/
def hartPieces (addr n : Nat) : List (Nat × Nat) := (pieces addr n).map fun e => (e.1, e.2.2)

/-- A hart reads part of a line: local memory and page frames at the slice, table frames as their records. A poisoned line returns no
data. -/
def State.hartRead (s : State) (d : DieId) (a n : Nat) : State × Option (List Byte) :=
  if ((s.die d).tableByte a).isSome then
    (s, if (s.die d).poisoned (a / 128) then none else some ((List.range n).map fun i => ((s.die d).tableByte (a + i)).getD 0))
  else
    let (x, st, bs) := (s.die d).sliceRead a n
    (s.setDie d x, if st = Status.ok then some bs else none)

/-- A hart writes part of a line: local memory at the slice; a store to a pool cache frame is discarded. -/
def State.hartWrite (s : State) (d : DieId) (a : Nat) (bs : List Byte) : State :=
  if (s.die d).inLocal a bs.length then s.setDie d ((s.die d).sliceWrite a bs).1 else s

/-- The new value of an atomic operation of RV64 on n bytes. -/
def hartNew (op : HartAtomic) (n old x : Nat) : Nat :=
  let x := x % 2 ^ (8 * n)
  match op with
  | .swap => x
  | .add => (old + x) % 2 ^ (8 * n)
  | .and => old &&& x
  | .or => old ||| x
  | .xor => old ^^^ x
  | .min => if signed (8 * n) x ≤ signed (8 * n) old then x else old
  | .max => if signed (8 * n) old ≤ signed (8 * n) x then x else old
  | .minu => min old x
  | .maxu => max old x

/-- A hart's atomic operation within a line: the old bytes, or none where the line is poisoned. -/
def State.hartRmw (s : State) (d : DieId) (a n : Nat) (op : HartAtomic) (x : BitVec 64) : State × Option (List Byte) :=
  if (s.die d).inLocal a n then
    let (y, st, old) := (s.die d).sliceRmw a n fun v => some (hartNew op n v x.toNat)
    (s.setDie d y, if st = Status.ok then some (bytesOf n old) else none)
  else s.hartRead d a n

/-- `HOST_MEMORY_ACCESS` (R451, R49): a hart's load, store or atomic operation at a local address of a die; at 0x60_0000_0000 and above it takes
its access fault, and so does an atomic operation of another size or alignment than RV64 gives. -/
def execHostMemoryAccess (die : DieId) (addr : Nat) (what : HartAccess) (s : State) : Host.Outcome State Fault Refusal :=
  match what with
  | .load n =>
    if backedEnd < addr + n then .next (s.note .accessFault)
    else
      let (s, r) := (hartPieces addr n).foldl
        (fun (r : State × Option (List Byte)) e =>
          match r.1.hartRead die e.1 e.2 with
          | (s, some bs) => (s, r.2.map (· ++ bs))
          | (s, none) => (s, none)) (s, some [])
      .next (s.note (.loaded (r.getD [])))
  | .store bs =>
    if backedEnd < addr + bs.length then .next (s.note .accessFault)
    else .next ((hartPieces addr bs.length).foldl (fun s e => s.hartWrite die e.1 ((bs.drop (e.1 - addr)).take e.2)) s)
  | .atomic op n x =>
    if (n ≠ 4 ∧ n ≠ 8) ∨ addr % n ≠ 0 ∨ backedEnd < addr + n then .next (s.note .accessFault)
    else
      let (s, r) := s.hartRmw die addr n op x
      .next (s.note (.loaded (r.getD [])))

end Sys2Proof.Machine
end

