-- ==== Sys2Proof/Machine/Tlb.lean ====
section
/-!
DEFINITION. Invalidations (R85, R86, R253) and the window of the access counters (R89).
-/

namespace Sys2Proof.Machine

/-- The bytes of a size code of `tinvc` (R86). -/
def invalSize (n : Nat) : Nat := match n with | 0 => 2 ^ 12 | 1 => 2 ^ 16 | 2 => 2 ^ 21 | 3 => 2 ^ 25 | _ => 2 ^ 30

/-- The block of an invalidation of kind 0: its first address. -/
def Invalidation.base (v : Invalidation) : Nat := v.va / invalSize v.size * invalSize v.size

/-- Addresses [a, a + n) overlap the block of an invalidation. -/
def Invalidation.overlaps (v : Invalidation) (a n : Nat) : Bool := decide (a < v.base + invalSize v.size) && decide (v.base < a + n)

/-- A TLB entry matches an invalidation (R85). -/
def Invalidation.hits (v : Invalidation) (e : TlbEntry) : Bool :=
  match v.kind with
  | 0 => (e.global || e.asid == v.asid) && v.overlaps e.va e.size
  | 1 => !e.global && e.asid == v.asid
  | 2 => !e.global
  | _ => true

/-- A walk-cache entry goes with an invalidation (R85): for kind 0 every one on the path to the block, whatever its ASID, since a `g` entry
of the block matches under any. -/
def Invalidation.hitsWalk (v : Invalidation) (w : WalkEntry) : Bool :=
  match v.kind with
  | 0 => v.overlaps (w.tag * 2 ^ (48 - 9 * w.level)) (2 ^ (48 - 9 * w.level))
  | 1 => w.asid == v.asid
  | _ => true

/-- A die lies in the scope of an invalidation. -/
def Invalidation.inScope (v : Invalidation) (d : DieId) : Bool := v.scope != 0 || decide (d = v.die)

/-- An access still to be performed or acknowledged is covered by an invalidation (R85). Whether its translation was global is not held,
so an access of another ASID at a matching address is waited for as well. -/
def Invalidation.covers (v : Invalidation) (o : Op) : Bool :=
  v.inScope o.owner.core.die && (match o.dest with | .walk _ _ _ _ _ => false | .apart => false | _ => true) && o.parts.any fun p => !p.isDone &&
    (match v.kind with
     | 0 => v.overlaps p.va p.len
     | 1 => o.asid == v.asid
     | _ => true)

/-- Remove every matching entry from a die's TLBs and its walk cache. -/
def Die.invalidate (d : Die) (v : Invalidation) : Die :=
  { d with
    tlb := d.tlb.filter fun e => !v.hits e,
    walkCache := d.walkCache.filter fun w => !v.hitsWalk w,
    cores := d.cores.map fun e => (e.1, { e.2 with store := { e.2.store with utlb := e.2.store.utlb.filter fun x => !v.hits x, walked := [] } }) }

/-- A walk in progress that an invalidation meets installs nothing of what it has read, and walks again (R85). The model takes every walk
of the scope so. -/
def Invalidation.restarts (v : Invalidation) (o : Op) : Op :=
  match o.dest with
  | .walk asid va who _ _ => if v.inScope o.owner.core.die then { o with dest := .walk asid va who true [] } else o
  | _ => o

/-- Remove every matching entry in the scope of an invalidation, with what walks in its scope have found. -/
def State.invalidate (s : State) (v : Invalidation) : State :=
  let s := [(0 : DieId), 1].foldl (fun s d => if v.inScope d then s.setDie d ((s.die d).invalidate v) else s) s
  { s with ops := s.ops.map v.restarts,
           sched := { s.sched with walked := s.sched.walked.filter fun e => !v.inScope e.1 } }

/-- Start an invalidation. -/
def State.startInval (s : State) (v : Invalidation) : State :=
  let v := { v with id := s.nextOp }
  ({ s with nextOp := s.nextOp + 1, invals := s.invals ++ [v] }).invalidate v

/-- `tlbi` (R253): it starts an invalidation of the core's ASID, and retires once that has completed. -/
def execTlbi (sy a b : BitVec 5) (s : State) : Host.Outcome State Fault Refusal :=
  s.issue (.tlbi sy a b) fun s =>
    let va := s.x a.toNat
    let w := s.x b.toNat
    match s.invals.find? fun v => decide (v.stream = some s.focus) with
    | some v =>
      if v.finished then .retire { s with invals := s.invals.filter fun x => decide (x.id ≠ v.id) } 0 else .block .invalidation
    | none =>
      if 2 ≤ field w 4 4 ∨ field w 48 2 = 3 ∨ 5 ≤ field w 0 3 ∨ field va 48 16 ≠ 0 then .fault (.illegal .csrAcc)
      else
        .begun (s.startInval { id := 0, die := s.focus.core.die, kind := field w 4 4, scope := field w 48 2, asid := s.asid,
                               va := field va 12 36 * 4096, size := field w 0 3, host := false, stream := some s.focus, irq := false,
                               finished := false }) .invalidation

/-- The fields that `tinvc` keeps (R86). -/
def tinvcMask (v : Word) : Word :=
  BitVec.ofNat 64 (field v 62 2 * 2 ^ 62 + field v 32 18 * 2 ^ 32 + field v 4 4 * 16 + field v 0 3)

/-- A write to `tinvc` (R86). -/
def State.writeTinvc (s : State) (d : DieId) (v : Word) : State :=
  if bit (s.dieReg d 0x103) 63 ∨ field v 48 2 = 3 ∨ 4 ≤ field v 4 4 ∨ 5 ≤ field v 0 3 then s
  else
    let s := s.setDieReg d 0x103 (tinvcMask v)
    if !bit v 63 then s
    else
      s.startInval { id := 0, die := d, kind := field v 4 4, scope := field v 48 2, asid := field v 32 16,
                     va := field (s.dieReg d 0x102) 12 36 * 4096, size := field v 0 3, host := true, stream := none, irq := bit v 62, finished := false }

/-- `TINVC_WRITE` (R86). -/
def execTinvcWrite (die : DieId) (v : Word) (s : State) : Host.Outcome State Fault Refusal := .next (s.writeTinvc die v)

/-- The part that this package has in another package's invalidation: once no covered access is left, no matching entry remains. -/
def State.joinInval (s : State) (o : OtherInval) : State :=
  let v : Invalidation := { id := 0, die := 0, kind := o.kind, scope := 2, asid := o.asid, va := o.va, size := o.size, host := false, stream := none,
                            irq := false, finished := false }
  if s.ops.any v.covers then s else s.invalidate v

/-- `INVALIDATION_COMPLETE` (R85): no matching entry remains in the scope, and every covered access has been performed and
acknowledged. Other packages in a domain's scope answer for themselves, as this one does for theirs (log 1). -/
def execInvalidationComplete (id : Nat) (other : Option OtherInval) (s : State) : Host.Outcome State Fault Refusal :=
  match other with
  | some o => .next (s.joinInval o)
  | none =>
  match s.invals.find? fun v => decide (v.id = id) with
  | none => .next s
  | some v =>
    if v.finished || s.ops.any v.covers then .next s
    else
      let s := s.invalidate v
      match v.stream with
      | some _ => .next { s with invals := s.invals.map fun x => if x.id = id then { x with finished := true } else x }
      | none =>
        let s := { s with invals := s.invals.filter fun x => decide (x.id ≠ id) }
        let s := if v.host then s.setDieReg v.die 0x103 (setBit (s.dieReg v.die 0x103) 63 false) else s
        .next (if v.irq then s.note (.interrupt v.die "invalidation complete") else s)

/-- 2^`migctl.win` cycles have passed since the window of a die's access counters began (R89). -/
def State.windowOver (s : State) (d : DieId) : Bool := decide ((s.die d).window + 2 ^ field (s.dieReg d 0x104) 24 5 ≤ s.cycle)

/-- `ACCESS_COUNTER_WINDOW` (R89): at the end of a window every count is halved and every quiet bit cleared. -/
def execAccessCounterWindow (die : DieId) (s : State) : Host.Outcome State Fault Refusal :=
  let d := s.die die
  if s.windowOver die then
    .next (s.setDie die { d with window := s.cycle, counts := d.counts.map fun a => { a with count := a.count / 2, quiet := false } })
  else .next s

end Sys2Proof.Machine
end

