-- ==== Sys2Proof/Machine/Csr.lean ====
section
/-!
DEFINITION. Control and status registers (R225 to R227, R252, R450): which numbers there are and who may use them, what a read gives, and
what a write does, field by field (R4, R5), for programs and for the host window.
-/

namespace Sys2Proof.Machine

/-! ## Numbers (R225) -/

/-- Scopes of R225. -/
inductive CsrScope where
  | cluster | core | die
  deriving DecidableEq, Repr

/-- The scope of a number that the table lists; those of package scope are found from either die. -/
def csrScope (n : Nat) : Option CsrScope :=
  if n ≤ 3 ∨ (8 ≤ n ∧ n ≤ 0x18) then some .cluster
  else if (0x40 ≤ n ∧ n ≤ 0x43) ∨ (0x50 ≤ n ∧ n ≤ 0x79) then some .core
  else if (0x100 ≤ n ∧ n ≤ 0x133) ∨ (0x138 ≤ n ∧ n ≤ 0x166) ∨ (0x170 ≤ n ∧ n ≤ 0x179) ∨ (0x180 ≤ n ∧ n ≤ 0x19A) ∨ (0x1A0 ≤ n ∧ n ≤ 0x1A5) then some .die
  else none

/-- A number as a cluster finds it: `kvcur` is the M cluster's alone. -/
def csrListed (n : Nat) (cl : Cluster) : Bool := (csrScope n).isSome && (n != 0x18 || cl == .m)

/-- Programs may read it. -/
def csrReadable (n : Nat) : Bool :=
  match csrScope n with
  | some .cluster => true
  | some .core => true
  | some .die => n == 0x107 || n == 0x108 || n == 0x109 || n == 0x10A || n == 0x10B || n == 0x10D || n == 0x111 || n == 0x114 || n == 0x118 ||
      (decide (0x120 ≤ n) && decide (n ≤ 0x15F)) || n == 0x162 || (decide (0x180 ≤ n) && n != 0x1A1)
  | none => false

/-- Programs may write it. -/
def csrWritable (n : Nat) : Bool :=
  match csrScope n with
  | some .cluster => n != 0x18
  | some .core => false
  | some .die => n == 0x10F || n == 0x118
  | none => false

/-! ## Reads -/

/-- `coreid` (R226). -/
def State.coreid (s : State) (c : CoreId) : Word := BitVec.ofNat 64 (s.dieNum c.die * 2 ^ 16 + c.die.val * 2 ^ 8 + c.core.val)

/-- The value of a CSR for a stream's cluster, core and die. -/
def State.csr (s : State) (i : StreamId) (n : Nat) : Word :=
  match csrScope n with
  | some .cluster => (s.stream i).reg n
  | some .core => if n = 0x41 then s.coreid i.core else (s.core i.core).reg n
  | some .die =>
    if 0x130 ≤ n ∧ n ≤ 0x133 then setBit (s.dieReg i.core.die n) 16 (s.rmok i.core.die (n - 0x130)) else s.dieReg i.core.die n
  | none => 0

/-! ## Writes: each gives the new value, or none where the write is discarded -/

/-- Fields (low bit, width) of a register that a write replaces. -/
def copyFields (old v : Word) (fs : List (Nat × Nat)) : Word := fs.foldl (fun w f => setField w f.1 f.2 (field v f.1 f.2)) old

/-- A field lies in a range. -/
def fieldIn (v : Word) (lo n a b : Nat) : Bool := decide (a ≤ field v lo n) && decide (field v lo n ≤ b)

/-- The write of a cluster CSR (R193, R194, R203, R204, R116). -/
def clusterCsrWrite (n : Nat) (old v : Word) : Option Word :=
  if n = 0 then some (setField (copyFields old v [(8, 8)]) 0 8 (field (old &&& ~~~v) 0 8))
  else if n = 1 then some (copyFields 0 v [(0, 2)])
  else if n = 2 then some (if field v 0 32 = 0 then 1 else copyFields 0 v [(0, 32)])
  else if n = 3 then some v
  else if n ≤ 0xF then some v
  else if n ≤ 0x17 then
    (if field v 62 2 = 3 || !fieldIn v 48 6 4 40 then none else some (copyFields 0 v [(62, 2), (48, 6), (0, 32)]))
  else if n = 0x18 then some (copyFields 0 v [(63, 1), (0, 24)])
  else none

/-- The write of a core CSR: the counters are written, the others are RO or written by `rcfg` alone (R72, R153, R169, R180, R226, R227, R346,
R383). -/
def coreCsrWrite (n : Nat) (v : Word) : Option Word := if 0x70 ≤ n then some v else none

/-- A pool port of a die is enabled (R15). -/
def State.poolPortOn (s : State) (d : DieId) : Bool :=
  (List.range 16).any fun p => !bit (s.oport d p) 8 && s.portSt d p != portOff && s.portSt d p != portAbsent

/-- A write to `memsplit` (R15). -/
def State.memsplitWrite (s : State) (d : DieId) (old v : Word) : Option Word :=
  if bit old 31 || !fieldIn v 0 9 64 320 || (bit v 31 && (bit (s.dieReg d 0x101) 0 || s.poolPortOn d)) then none
  else some (copyFields 0 v [(31, 1), (0, 9)])

/-- A write to `xlctl` (R73). -/
def State.xlctlWrite (s : State) (d : DieId) (v : Word) : Option Word :=
  if bit v 0 && (!bit (s.dieReg d 0x100) 31 || !(s.die d).inLocal (field v 20 20 * 2 ^ 20) (2 ^ 20)) then none
  else some (copyFields 0 v [(20, 20), (0, 1)])

/-- A write to `tcoord` (R120): `num` is computed from the other fields. -/
def State.tcoordWrite (s : State) (d : DieId) (old v : Word) : Option Word :=
  let nx := field v 20 3
  let ny := field v 24 3
  let nz := field v 28 3
  let x := field v 0 3
  let y := field v 4 3
  let z := field v 8 3
  if bit old 32 || field (s.dieReg d 0x10B) 8 6 != 0 || nx % 2 == 0 || decide (5 < ny) || decide (nx < x) || decide (ny < y) || decide (nz < z) ||
      x % 2 != d.val then none
  else some (setField (copyFields 0 v [(32, 1), (28, 3), (24, 3), (20, 3), (8, 3), (4, 3), (0, 3)]) 11 9 (x + (nx + 1) * (y + (ny + 1) * z)))

/-- The write of a die or package CSR whose only effect is its new value. A fill target of 0 in `sweep`, which the map leaves out and R65 does
not discard, is stored where `low` is 0 too (log 89). -/
def State.dieCsrWrite (s : State) (d : DieId) (n : Nat) (old v : Word) : Option Word :=
  let keepIf := fun (ok : Bool) (w : Word) => if ok then some w else none
  if 0x120 ≤ n then
    match n with
    | 0x160 => keepIf (decide (field v 0 16 ≤ 48000)) (copyFields 0 v [(0, 16)])
    | 0x161 => keepIf (fieldIn v 0 20 10000 1000000) (copyFields 0 v [(0, 20)])
    | 0x162 => some v
    | 0x163 => some (copyFields 0 v [(5, 35)])
    | 0x165 => some (copyFields 0 v [(16, 24), (0, 16)])
    | 0x166 => some (setField old 0 3 (field (old &&& ~~~v) 0 3))
    | 0x1A0 => some (copyFields old v [(32, 32)])
    | n => if 0x170 ≤ n ∧ n ≤ 0x179 then some (copyFields old v [(32, 16), (0, 3)])
      else if 0x180 ≤ n then some v
      else none
  else
    match n with
    | 0x100 => s.memsplitWrite d old v
    | 0x101 => s.xlctlWrite d v
    | 0x102 => some (copyFields 0 v [(12, 36)])
    | 0x104 => keepIf (fieldIn v 24 5 16 31 && field v 0 16 != 0) (copyFields 0 v [(32, 1), (24, 5), (0, 16)])
    | 0x105 => keepIf (field v 0 5 == 0 || fieldIn v 0 5 4 20) (copyFields 0 v [(12, 28), (0, 5)])
    | 0x107 => keepIf (!bit old 16) (copyFields 0 v [(16, 1), (0, 16)])
    | 0x108 => s.tcoordWrite d old v
    | 0x10E => keepIf (fieldIn v 0 6 12 40) (copyFields 0 v [(0, 6)])
    | 0x110 => keepIf (fieldIn v 0 6 16 40) (copyFields 0 v [(0, 6)])
    | 0x112 => some (copyFields 0 v [(0, 32)])
    | 0x113 => keepIf (field v 20 4 != 0 && fieldIn v 0 20 1000 1000000) (copyFields old v [(20, 4), (0, 20)])
    | 0x115 => keepIf (decide (field v 0 6 ≤ field v 8 6)) (copyFields 0 v [(8, 6), (0, 6)])
    | 0x116 => keepIf (fieldIn v 0 4 4 15) (copyFields old v [(48, 16), (4, 28), (0, 4)])
    | 0x117 => some (copyFields 0 v [(16, 1), (8, 4), (0, 4)])
    | 0x119 => some (copyFields 0 v [(0, 32)])
    | 0x11A => keepIf (fieldIn v 8 6 12 40 && field v 0 4 != 0) (copyFields 0 v [(8, 6), (0, 4)])
    | 0x11D => keepIf (v != 0) v
    | 0x11E => keepIf (fieldIn v 0 6 10 30) (copyFields 0 v [(8, 1), (0, 6)])
    | 0x11F => keepIf (fieldIn v 4 5 6 20 && (!bit old 0 || !bit v 0)) (copyFields 0 v [(12, 28), (4, 5), (0, 2)])
    | _ => none

/-- The state that a step which always goes on leaves. -/
def outcomeState (s : State) (r : Host.Outcome State Fault Refusal) : State := match r with | .next t => t | _ => s

/-- Store a die or package CSR; what waits for it goes on. -/
def State.storeDieCsr (s : State) (d : DieId) (n : Nat) (v : Word) : State :=
  match s.dieCsrWrite d n (s.dieReg d n) v with
  | none => s
  | some w =>
    let s := s.setDieReg d n w
    if n = 0x112 then s.settlePool
    else if n = 0x117 then (s.cancelPrefetch d).settlePool
    else s

/-- Write a die or package CSR. -/
def State.writeDieCsr (s : State) (d : DieId) (n : Nat) (v : Word) : State :=
  if 0x120 ≤ n ∧ n ≤ 0x12F then s.writeOport d (n - 0x120) v
  else match n with
  | 0x103 => s.writeTinvc d v
  | 0x106 => outcomeState s (execKvinvWrite d v s)
  | 0x10B => outcomeState s (execTlinksEnable d v s)
  | 0x10C => outcomeState s (execRtwWrite d v s)
  | 0x10F => outcomeState s (execFsrstWrite d v s)
  | 0x118 => outcomeState s (execPfposWrite d v s)
  | 0x11B => outcomeState s (execOswackWrite d v s)
  | 0x11C => outcomeState s (execTsnapWrite d v s)
  | 0x164 => outcomeState s (execCqdoorWrite v s)
  | 0x1A1 => outcomeState s (execFackWrite d v s)
  | n => s.storeDieCsr d n v

/-- Write a CSR of a stream's cluster, core or die. -/
def State.writeCsr (s : State) (i : StreamId) (n : Nat) (v : Word) : State :=
  match csrScope n with
  | some .cluster =>
    (match clusterCsrWrite n ((s.stream i).reg n) v with
    | some w => s.setStream i ((s.stream i).setReg n w)
    | none => s)
  | some .core => (match coreCsrWrite n v with | some w => s.setCore i.core ((s.core i.core).setReg n w) | none => s)
  | some .die => s.writeDieCsr i.core.die n v
  | none => s

/-! ## The instructions and the host window -/

/-- `csrr` (R252). -/
def execCsrr (sy d : BitVec 5) (c : BitVec 12) (s : State) : Host.Outcome State Fault Refusal :=
  s.issue (.csrr sy d c) fun s =>
    if csrListed c.toNat s.focus.cl && csrReadable c.toNat then .retire (s.setX d.toNat (s.csr s.focus c.toNat)) 0
    else .fault (.illegal .csrAcc)

/-- `csrw` (R252). -/
def execCsrw (sy a : BitVec 5) (c : BitVec 12) (s : State) : Host.Outcome State Fault Refusal :=
  s.issue (.csrw sy a c) fun s =>
    if csrListed c.toNat s.focus.cl && csrWritable c.toNat then .retire (s.writeCsr s.focus c.toNat (s.x a.toNat)) 0
    else .fault (.illegal .csrAcc)

/-- `HOST_WINDOW_WRITE` (R450): an aligned 8-byte store of a hart; a number that R225 does not list takes the hart's access fault. -/
def execHostWindowWrite (die : DieId) (core : Fin 128) (cl : Cluster) (n : BitVec 12) (v : Word) (s : State) : Host.Outcome State Fault Refusal :=
  if csrScope n.toNat = some .core ∨ csrListed n.toNat cl then .next (s.writeCsr ⟨⟨die, core⟩, cl⟩ n.toNat v)
  else .next (s.note .accessFault)

/-- An aligned 8-byte load of a hart from the CSR window (R450). -/
def State.hostWindowRead (s : State) (die : DieId) (core : Fin 128) (cl : Cluster) (n : BitVec 12) : State :=
  s.note (if csrScope n.toNat = some .core ∨ csrListed n.toNat cl then .loaded (bytesOf 8 (s.csr ⟨⟨die, core⟩, cl⟩ n.toNat).toNat)
    else .accessFault)

end Sys2Proof.Machine
end

