-- ==== Sys2Proof/Machine/Int.lean ====
section
/-!
DEFINITION. Integer and address arithmetic (R246 to R250) and its compact forms (R208).
-/

namespace Sys2Proof.Machine

/-- An instruction that writes one integer register with a value of the state and raises nothing (R233). -/
def State.issueX (s : State) (i : Instr) (d : Nat) (f : State → Word) : Host.Outcome State Fault Refusal :=
  s.issue i fun s => .retire (s.setX d (f s)) 0

/-- u(reg) as a number. -/
def State.u (s : State) (n : Nat) : Nat := (s.x n).toNat

/-! ## The results (R246 to R250) -/

/-- `mulh`: bits [127:64] of the two's-complement product. -/
def aluMulh (a b : Word) : Word := BitVec.ofInt 64 (a.toInt * b.toInt / 2 ^ 64)
/-- `mulhu`. -/
def aluMulhu (a b : Word) : Word := BitVec.ofNat 64 (a.toNat * b.toNat / 2 ^ 64)
/-- `div` (R247): truncates towards zero; a divisor of 0 gives all ones. -/
def aluDiv (a b : Word) : Word := if b = 0 then BitVec.allOnes 64 else BitVec.ofInt 64 (a.toInt.tdiv b.toInt)
/-- `divu`. -/
def aluDivu (a b : Word) : Word := if b = 0 then BitVec.allOnes 64 else BitVec.ofNat 64 (a.toNat / b.toNat)
/-- `rem`: a − b × div(a, b); a divisor of 0 gives the dividend. -/
def aluRem (a b : Word) : Word := if b = 0 then a else BitVec.ofInt 64 (a.toInt.tmod b.toInt)
/-- `remu`. -/
def aluRemu (a b : Word) : Word := if b = 0 then a else BitVec.ofNat 64 (a.toNat % b.toNat)
/-- `shl`. -/
def aluShl (a b : Word) : Word := a <<< (b.toNat % 64)
/-- `shr`. -/
def aluShr (a b : Word) : Word := a >>> (b.toNat % 64)
/-- `sar`. -/
def aluSar (a b : Word) : Word := a.sshiftRight (b.toNat % 64)
/-- `min`, signed. -/
def aluMin (a b : Word) : Word := if a.toInt ≤ b.toInt then a else b
/-- `max`, signed. -/
def aluMax (a b : Word) : Word := if a.toInt ≤ b.toInt then b else a
/-- `minu`. -/
def aluMinu (a b : Word) : Word := if a.toNat ≤ b.toNat then a else b
/-- `maxu`. -/
def aluMaxu (a b : Word) : Word := if a.toNat ≤ b.toNat then b else a
/-- `lea` (R248). -/
def aluLea (a b : Word) (h : Nat) : Word := BitVec.ofNat 64 (a.toNat + b.toNat * 2 ^ h)
/-- `clz` (R248). -/
def aluClz (a : Word) : Word := BitVec.ofNat 64 (64 - bitLength 64 a.toNat)
/-- `ctz`. -/
def aluCtz (a : Word) : Word := BitVec.ofNat 64 (lowBit 64 a.toNat)
/-- `popc`. -/
def aluPopc (a : Word) : Word := BitVec.ofNat 64 (popCount 64 a.toNat)
/-- `ffs`. -/
def aluFfs (a : Word) : Word := if a = 0 then 0 else BitVec.ofNat 64 (1 + lowBit 64 a.toNat)
/-- `movh` (R250). -/
def aluMovh (a : Word) (i : BitVec 14) : Word := BitVec.ofNat 64 (a.toNat * 2 ^ 14 + i.toNat)

/-- An instruction of the division forms: the divide-by-zero flag is raised when the divisor is 0 (R247). -/
def State.issueDiv (s : State) (i : Instr) (d a b : Nat) (f : Word → Word → Word) : Host.Outcome State Fault Refusal :=
  s.issue i fun s => .retire (s.setX d (f (s.x a) (s.x b))) (if s.x b = 0 then Classes.divZero else 0)

/-! ## Register forms (R246, R247) -/

/-- `add` (R246). -/
def execAdd (sy : Sync) (d a b : BitVec 5) (s : State) : Host.Outcome State Fault Refusal :=
  s.issueX (.add sy d a b) d.toNat fun s => s.x a.toNat + s.x b.toNat

/-- `sub` (R246). -/
def execSub (sy : Sync) (d a b : BitVec 5) (s : State) : Host.Outcome State Fault Refusal :=
  s.issueX (.sub sy d a b) d.toNat fun s => s.x a.toNat - s.x b.toNat

/-- `mul` (R246). -/
def execMul (sy : Sync) (d a b : BitVec 5) (s : State) : Host.Outcome State Fault Refusal :=
  s.issueX (.mul sy d a b) d.toNat fun s => s.x a.toNat * s.x b.toNat

/-- `mulh` (R246). -/
def execMulh (sy : Sync) (d a b : BitVec 5) (s : State) : Host.Outcome State Fault Refusal :=
  s.issueX (.mulh sy d a b) d.toNat fun s => aluMulh (s.x a.toNat) (s.x b.toNat)

/-- `mulhu` (R246). -/
def execMulhu (sy : Sync) (d a b : BitVec 5) (s : State) : Host.Outcome State Fault Refusal :=
  s.issueX (.mulhu sy d a b) d.toNat fun s => aluMulhu (s.x a.toNat) (s.x b.toNat)

/-- `div` (R247). -/
def execDiv (sy : Sync) (d a b : BitVec 5) (s : State) : Host.Outcome State Fault Refusal :=
  s.issueDiv (.div sy d a b) d.toNat a.toNat b.toNat aluDiv

/-- `divu` (R247). -/
def execDivu (sy : Sync) (d a b : BitVec 5) (s : State) : Host.Outcome State Fault Refusal :=
  s.issueDiv (.divu sy d a b) d.toNat a.toNat b.toNat aluDivu

/-- `rem` (R247). -/
def execRem (sy : Sync) (d a b : BitVec 5) (s : State) : Host.Outcome State Fault Refusal :=
  s.issueDiv (.rem sy d a b) d.toNat a.toNat b.toNat aluRem

/-- `remu` (R247). -/
def execRemu (sy : Sync) (d a b : BitVec 5) (s : State) : Host.Outcome State Fault Refusal :=
  s.issueDiv (.remu sy d a b) d.toNat a.toNat b.toNat aluRemu

/-- `and` (R246). -/
def execAnd (sy : Sync) (d a b : BitVec 5) (s : State) : Host.Outcome State Fault Refusal :=
  s.issueX (.and sy d a b) d.toNat fun s => s.x a.toNat &&& s.x b.toNat

/-- `or` (R246). -/
def execOr (sy : Sync) (d a b : BitVec 5) (s : State) : Host.Outcome State Fault Refusal :=
  s.issueX (.or sy d a b) d.toNat fun s => s.x a.toNat ||| s.x b.toNat

/-- `xor` (R246). -/
def execXor (sy : Sync) (d a b : BitVec 5) (s : State) : Host.Outcome State Fault Refusal :=
  s.issueX (.xor sy d a b) d.toNat fun s => s.x a.toNat ^^^ s.x b.toNat

/-- `shl` (R246). -/
def execShl (sy : Sync) (d a b : BitVec 5) (s : State) : Host.Outcome State Fault Refusal :=
  s.issueX (.shl sy d a b) d.toNat fun s => aluShl (s.x a.toNat) (s.x b.toNat)

/-- `shr` (R246). -/
def execShr (sy : Sync) (d a b : BitVec 5) (s : State) : Host.Outcome State Fault Refusal :=
  s.issueX (.shr sy d a b) d.toNat fun s => aluShr (s.x a.toNat) (s.x b.toNat)

/-- `sar` (R246). -/
def execSar (sy : Sync) (d a b : BitVec 5) (s : State) : Host.Outcome State Fault Refusal :=
  s.issueX (.sar sy d a b) d.toNat fun s => aluSar (s.x a.toNat) (s.x b.toNat)

/-- `min` (R246). -/
def execMin (sy : Sync) (d a b : BitVec 5) (s : State) : Host.Outcome State Fault Refusal :=
  s.issueX (.min sy d a b) d.toNat fun s => aluMin (s.x a.toNat) (s.x b.toNat)

/-- `max` (R246). -/
def execMax (sy : Sync) (d a b : BitVec 5) (s : State) : Host.Outcome State Fault Refusal :=
  s.issueX (.max sy d a b) d.toNat fun s => aluMax (s.x a.toNat) (s.x b.toNat)

/-- `minu` (R246). -/
def execMinu (sy : Sync) (d a b : BitVec 5) (s : State) : Host.Outcome State Fault Refusal :=
  s.issueX (.minu sy d a b) d.toNat fun s => aluMinu (s.x a.toNat) (s.x b.toNat)

/-- `maxu` (R246). -/
def execMaxu (sy : Sync) (d a b : BitVec 5) (s : State) : Host.Outcome State Fault Refusal :=
  s.issueX (.maxu sy d a b) d.toNat fun s => aluMaxu (s.x a.toNat) (s.x b.toNat)

/-! ## `sel`, `lea`, the unary forms, field extension (R248, R249) -/

/-- `sel` (R248): g.c chooses ra or rb. -/
def execSel (sy : Sync) (d a b : BitVec 5) (g : BitVec 4) (s : State) : Host.Outcome State Fault Refusal :=
  s.issueX (.sel sy d a b g) d.toNat fun s => if (s.steer g.toNat).c then s.x a.toNat else s.x b.toNat

/-- `lea` (R248). -/
def execLea (sy : Sync) (d a b : BitVec 5) (h : BitVec 4) (s : State) : Host.Outcome State Fault Refusal :=
  s.issueX (.lea sy d a b h) d.toNat fun s => aluLea (s.x a.toNat) (s.x b.toNat) h.toNat

/-- `clz` (R248). -/
def execClz (sy : Sync) (d a : BitVec 5) (s : State) : Host.Outcome State Fault Refusal :=
  s.issueX (.clz sy d a) d.toNat fun s => aluClz (s.x a.toNat)

/-- `ctz` (R248). -/
def execCtz (sy : Sync) (d a : BitVec 5) (s : State) : Host.Outcome State Fault Refusal :=
  s.issueX (.ctz sy d a) d.toNat fun s => aluCtz (s.x a.toNat)

/-- `popc` (R248). -/
def execPopc (sy : Sync) (d a : BitVec 5) (s : State) : Host.Outcome State Fault Refusal :=
  s.issueX (.popc sy d a) d.toNat fun s => aluPopc (s.x a.toNat)

/-- `ffs` (R248). -/
def execFfs (sy : Sync) (d a : BitVec 5) (s : State) : Host.Outcome State Fault Refusal :=
  s.issueX (.ffs sy d a) d.toNat fun s => aluFfs (s.x a.toNat)

/-- `mov` (R248). -/
def execMov (sy : Sync) (d a : BitVec 5) (s : State) : Host.Outcome State Fault Refusal :=
  s.issueX (.mov sy d a) d.toNat fun s => s.x a.toNat

/-- `sext` (R249). -/
def execSext (sy : Sync) (d a : BitVec 5) (n : BitVec 6) (s : State) : Host.Outcome State Fault Refusal :=
  s.issueX (.sext sy d a n) d.toNat fun s => sext64 n.toNat (s.u a.toNat)

/-- `zext` (R249). -/
def execZext (sy : Sync) (d a : BitVec 5) (n : BitVec 6) (s : State) : Host.Outcome State Fault Refusal :=
  s.issueX (.zext sy d a n) d.toNat fun s => BitVec.ofNat 64 (s.u a.toNat % 2 ^ n.toNat)

/-! ## Immediate forms (R250) -/

/-- `addi` (R250). -/
def execAddi (sy : Sync) (d a : BitVec 5) (i : BitVec 9) (s : State) : Host.Outcome State Fault Refusal :=
  s.issueX (.addi sy d a i) d.toNat fun s => s.x a.toNat + i.signExtend 64

/-- `andi` (R250). -/
def execAndi (sy : Sync) (d a : BitVec 5) (i : BitVec 9) (s : State) : Host.Outcome State Fault Refusal :=
  s.issueX (.andi sy d a i) d.toNat fun s => s.x a.toNat &&& i.signExtend 64

/-- `ori` (R250). -/
def execOri (sy : Sync) (d a : BitVec 5) (i : BitVec 9) (s : State) : Host.Outcome State Fault Refusal :=
  s.issueX (.ori sy d a i) d.toNat fun s => s.x a.toNat ||| i.setWidth 64

/-- `xori` (R250). -/
def execXori (sy : Sync) (d a : BitVec 5) (i : BitVec 9) (s : State) : Host.Outcome State Fault Refusal :=
  s.issueX (.xori sy d a i) d.toNat fun s => s.x a.toNat ^^^ i.setWidth 64

/-- `shli` (R250). -/
def execShli (sy : Sync) (d a : BitVec 5) (h : BitVec 6) (s : State) : Host.Outcome State Fault Refusal :=
  s.issueX (.shli sy d a h) d.toNat fun s => s.x a.toNat <<< h.toNat

/-- `shri` (R250). -/
def execShri (sy : Sync) (d a : BitVec 5) (h : BitVec 6) (s : State) : Host.Outcome State Fault Refusal :=
  s.issueX (.shri sy d a h) d.toNat fun s => s.x a.toNat >>> h.toNat

/-- `sari` (R250). -/
def execSari (sy : Sync) (d a : BitVec 5) (h : BitVec 6) (s : State) : Host.Outcome State Fault Refusal :=
  s.issueX (.sari sy d a h) d.toNat fun s => (s.x a.toNat).sshiftRight h.toNat

/-- `movi` (R250). -/
def execMovi (sy : Sync) (d : BitVec 5) (i : BitVec 14) (s : State) : Host.Outcome State Fault Refusal :=
  s.issueX (.movi sy d i) d.toNat fun _ => i.signExtend 64

/-- `movh` (R250). -/
def execMovh (sy : Sync) (d : BitVec 5) (i : BitVec 14) (s : State) : Host.Outcome State Fault Refusal :=
  s.issueX (.movh sy d i) d.toNat fun s => aluMovh (s.x d.toNat) i

/-! ## Compact forms (R208) -/

/-- Compact `mov` (R208). -/
def execCompactMov (d a : BitVec 5) (s : State) : Host.Outcome State Fault Refusal :=
  s.issueX (.compactMov d a) d.toNat fun s => s.x a.toNat

/-- Compact `add` (R208). -/
def execCompactAdd (d a : BitVec 5) (s : State) : Host.Outcome State Fault Refusal :=
  s.issueX (.compactAdd d a) d.toNat fun s => s.x d.toNat + s.x a.toNat

/-- Compact `sub` (R208). -/
def execCompactSub (d a : BitVec 5) (s : State) : Host.Outcome State Fault Refusal :=
  s.issueX (.compactSub d a) d.toNat fun s => s.x d.toNat - s.x a.toNat

/-- Compact `and` (R208). -/
def execCompactAnd (d a : BitVec 5) (s : State) : Host.Outcome State Fault Refusal :=
  s.issueX (.compactAnd d a) d.toNat fun s => s.x d.toNat &&& s.x a.toNat

/-- Compact `addi` (R208). -/
def execCompactAddi (d i : BitVec 5) (s : State) : Host.Outcome State Fault Refusal :=
  s.issueX (.compactAddi d i) d.toNat fun s => s.x d.toNat + i.signExtend 64

/-- Compact `shli` (R208). -/
def execCompactShli (d i : BitVec 5) (s : State) : Host.Outcome State Fault Refusal :=
  s.issueX (.compactShli d i) d.toNat fun s => s.x d.toNat <<< i.toNat

/-- Compact `shri` (R208). -/
def execCompactShri (d i : BitVec 5) (s : State) : Host.Outcome State Fault Refusal :=
  s.issueX (.compactShri d i) d.toNat fun s => s.x d.toNat >>> i.toNat

/-- Compact `movi` (R208). -/
def execCompactMovi (d i : BitVec 5) (s : State) : Host.Outcome State Fault Refusal :=
  s.issueX (.compactMovi d i) d.toNat fun _ => i.signExtend 64

end Sys2Proof.Machine
end

