-- ==== Sys2Proof/Machine/Queue.lean ====
section
/-!
DEFINITION. Queue registers and the format queue (R176, R178, R275, R276) with their compact forms (R208).
-/

namespace Sys2Proof.Machine

/-- Append a value to a queue; a full queue blocks the writer (R176). -/
def pushBody (q : Nat) (a : Nat) (s : State) : Eff :=
  let l := s.cur.queue q
  if queueDepth q ≤ l.length then .block (.queueWrite q)
  else .retire (s.setCur (s.cur.setQueue q (l ++ [.filled (s.x a)]))) 0

/-- Remove the oldest entry of a queue; an empty queue, or one whose oldest entry is reserved, blocks the reader (R176, R263). -/
def popBody (q : Nat) (d : Nat) (s : State) : Eff :=
  match s.cur.queue q with
  | .filled w :: t => .retire ((s.setCur (s.cur.setQueue q t)).setX d w) 0
  | _ => .block (.queueRead q)

/-- `qpush` (R275). -/
def execQpush (sy : BitVec 5) (q : BitVec 4) (a : BitVec 5) (s : State) : Host.Outcome State Fault Refusal :=
  s.issue (.qpush sy q a) (pushBody q.toNat a.toNat)

/-- `qpop` (R275). -/
def execQpop (sy : BitVec 5) (q : BitVec 4) (a : BitVec 5) (s : State) : Host.Outcome State Fault Refusal :=
  s.issue (.qpop sy q a) (popBody q.toNat a.toNat)

/-- Compact `qpush` (R208). -/
def execCompactQpush (q : BitVec 4) (a : BitVec 5) (s : State) : Host.Outcome State Fault Refusal :=
  s.issue (.compactQpush q a) (pushBody q.toNat a.toNat)

/-- Compact `qpop` (R208). -/
def execCompactQpop (d : BitVec 5) (q : BitVec 4) (s : State) : Host.Outcome State Fault Refusal :=
  s.issue (.compactQpop d q) (popBody q.toNat d.toNat)

/-- `qcnt` (R276): entries filled or reserved. -/
def execQcnt (sy : BitVec 5) (q : BitVec 4) (d : BitVec 5) (s : State) : Host.Outcome State Fault Refusal :=
  s.issue (.qcnt sy q d) fun s => .retire (s.setX d.toNat (BitVec.ofNat 64 (s.cur.queue q.toNat).length)) 0

/-- Append a word to the format queue (R178): closed is an illegal instruction with cause UNDEF, full blocks A. -/
def fqBody (w : State → Word) (s : State) : Eff :=
  let k := s.cur
  if k.store.fqClosed then .fault (.illegal .undef)
  else if 32 ≤ k.store.fq.length then .block .formatQueue
  else .retire (s.setCur { k with store := { k.store with fq := k.store.fq ++ [w s] } }) 0

/-- `fqpush` (R276). -/
def execFqpush (sy a : BitVec 5) (s : State) : Host.Outcome State Fault Refusal :=
  s.issue (.fqpush sy a) (fqBody fun s => s.x a.toNat)

/-- `fqpush.t` (R276): entry reg[7:0] of the plane's format-word table (R371). -/
def execFqpushT (sy a : BitVec 5) (s : State) : Host.Outcome State Fault Refusal :=
  s.issue (.fqpushT sy a) (fqBody fun s =>
    BitVec.ofNat 64 (readNat s.cur.ctl.active.image (0x11000 + 8 * ((s.x a.toNat).toNat % 256)) 8))

/-- Compact `fqpush` (R208). -/
def execCompactFqpush (a : BitVec 5) (s : State) : Host.Outcome State Fault Refusal :=
  s.issue (.compactFqpush a) (fqBody fun s => s.x a.toNat)

/-- `fqclose` (R276). -/
def execFqclose (sy : BitVec 5) (s : State) : Host.Outcome State Fault Refusal :=
  s.issue (.fqclose sy) fun s => let k := s.cur; .retire (s.setCur { k with store := { k.store with fqClosed := true } }) 0

end Sys2Proof.Machine
end

