-- ==== Sys2Proof/Machine/Dispatch.lean ====
section
/-!
DEFINITION. One arm per constructor of Instr: each calls its own meaning; an arm that has none yet is rejected by name.
-/

namespace Sys2Proof.Machine

/-- The meaning of one instruction or step: an instruction is executed by the stream in focus. -/
def exec (i : Instr) (s : State) : Host.Outcome State Fault Refusal :=
  match i with
  | .blk l c => Sys2Proof.Machine.execBlk l c s
  | .blkr l r => Sys2Proof.Machine.execBlkr l r s
  | .prep sy g t => Sys2Proof.Machine.execPrep sy g t s
  | .br sy g => Sys2Proof.Machine.execBr sy g s
  | .brl sy g => Sys2Proof.Machine.execBrl sy g s
  | .ret sy g => Sys2Proof.Machine.execRet sy g s
  | .cmp sy g a b c => Sys2Proof.Machine.execCmp sy g a b c s
  | .cmpi sy g a c imm => Sys2Proof.Machine.execCmpi sy g a c imm s
  | .tstp sy g p v t => Sys2Proof.Machine.execTstp sy g p v t s
  | .tstq sy g p v t => Sys2Proof.Machine.execTstq sy g p v t s
  | .tstm sy g p v t => Sys2Proof.Machine.execTstm sy g p v t s
  | .fork sy m => Sys2Proof.Machine.execFork sy m s
  | .join sy m => Sys2Proof.Machine.execJoin sy m s
  | .nop sy => Sys2Proof.Machine.execNop sy s
  | .yield sy => Sys2Proof.Machine.execYield sy s
  | .halt sy => Sys2Proof.Machine.execHalt sy s
  | .tfence sy => Sys2Proof.Machine.execTfence sy s
  | .trap sy c => Sys2Proof.Machine.execTrap sy c s
  | .swap sy => Sys2Proof.Machine.execSwap sy s
  | .eret sy => Sys2Proof.Machine.execEret sy s
  | .add sy d a b => Sys2Proof.Machine.execAdd sy d a b s
  | .sub sy d a b => Sys2Proof.Machine.execSub sy d a b s
  | .mul sy d a b => Sys2Proof.Machine.execMul sy d a b s
  | .mulh sy d a b => Sys2Proof.Machine.execMulh sy d a b s
  | .mulhu sy d a b => Sys2Proof.Machine.execMulhu sy d a b s
  | .div sy d a b => Sys2Proof.Machine.execDiv sy d a b s
  | .divu sy d a b => Sys2Proof.Machine.execDivu sy d a b s
  | .rem sy d a b => Sys2Proof.Machine.execRem sy d a b s
  | .remu sy d a b => Sys2Proof.Machine.execRemu sy d a b s
  | .and sy d a b => Sys2Proof.Machine.execAnd sy d a b s
  | .or sy d a b => Sys2Proof.Machine.execOr sy d a b s
  | .xor sy d a b => Sys2Proof.Machine.execXor sy d a b s
  | .shl sy d a b => Sys2Proof.Machine.execShl sy d a b s
  | .shr sy d a b => Sys2Proof.Machine.execShr sy d a b s
  | .sar sy d a b => Sys2Proof.Machine.execSar sy d a b s
  | .min sy d a b => Sys2Proof.Machine.execMin sy d a b s
  | .max sy d a b => Sys2Proof.Machine.execMax sy d a b s
  | .minu sy d a b => Sys2Proof.Machine.execMinu sy d a b s
  | .maxu sy d a b => Sys2Proof.Machine.execMaxu sy d a b s
  | .sel sy d a b g => Sys2Proof.Machine.execSel sy d a b g s
  | .lea sy d a b h => Sys2Proof.Machine.execLea sy d a b h s
  | .clz sy d a => Sys2Proof.Machine.execClz sy d a s
  | .ctz sy d a => Sys2Proof.Machine.execCtz sy d a s
  | .popc sy d a => Sys2Proof.Machine.execPopc sy d a s
  | .ffs sy d a => Sys2Proof.Machine.execFfs sy d a s
  | .mov sy d a => Sys2Proof.Machine.execMov sy d a s
  | .sext sy d a n => Sys2Proof.Machine.execSext sy d a n s
  | .zext sy d a n => Sys2Proof.Machine.execZext sy d a n s
  | .addi sy d a imm => Sys2Proof.Machine.execAddi sy d a imm s
  | .andi sy d a imm => Sys2Proof.Machine.execAndi sy d a imm s
  | .ori sy d a imm => Sys2Proof.Machine.execOri sy d a imm s
  | .xori sy d a imm => Sys2Proof.Machine.execXori sy d a imm s
  | .shli sy d a h => Sys2Proof.Machine.execShli sy d a h s
  | .shri sy d a h => Sys2Proof.Machine.execShri sy d a h s
  | .sari sy d a h => Sys2Proof.Machine.execSari sy d a h s
  | .movi sy d imm => Sys2Proof.Machine.execMovi sy d imm s
  | .movh sy d imm => Sys2Proof.Machine.execMovh sy d imm s
  | .compactNop => Sys2Proof.Machine.execCompactNop s
  | .compactMov d a => Sys2Proof.Machine.execCompactMov d a s
  | .compactAdd d a => Sys2Proof.Machine.execCompactAdd d a s
  | .compactSub d a => Sys2Proof.Machine.execCompactSub d a s
  | .compactAnd d a => Sys2Proof.Machine.execCompactAnd d a s
  | .compactAddi d imm => Sys2Proof.Machine.execCompactAddi d imm s
  | .compactShli d imm => Sys2Proof.Machine.execCompactShli d imm s
  | .compactShri d imm => Sys2Proof.Machine.execCompactShri d imm s
  | .compactMovi d imm => Sys2Proof.Machine.execCompactMovi d imm s
  | .compactLd d a => Sys2Proof.Machine.execCompactLd d a s
  | .compactSt d a => Sys2Proof.Machine.execCompactSt d a s
  | .compactQpush q a => Sys2Proof.Machine.execCompactQpush q a s
  | .compactQpop d q => Sys2Proof.Machine.execCompactQpop d q s
  | .compactBr g => Sys2Proof.Machine.execCompactBr g s
  | .compactFqpush a => Sys2Proof.Machine.execCompactFqpush a s
  | .compactYield => Sys2Proof.Machine.execCompactYield s
  | .ld sy d b z o f => Sys2Proof.Machine.execLd sy d b z o f s
  | .ldS sy d b z o p => Sys2Proof.Machine.execLdS sy d b z o p s
  | .st sy d b z o f => Sys2Proof.Machine.execSt sy d b z o f s
  | .stS sy d b z o p => Sys2Proof.Machine.execStS sy d b z o p s
  | .ldq sy q b z o p => Sys2Proof.Machine.execLdq sy q b z o p s
  | .amo sy r c o p => Sys2Proof.Machine.execAmo sy r c o p s
  | .cas sy r n z o p => Sys2Proof.Machine.execCas sy r n z o p s
  | .lds sy d b z o p => Sys2Proof.Machine.execLds sy d b z o p s
  | .sts sy d b z o p => Sys2Proof.Machine.execSts sy d b z o p s
  | .pld sy d k z o p => Sys2Proof.Machine.execPld sy d k z o p s
  | .pst sy d k z o p => Sys2Proof.Machine.execPst sy d k z o p s
  | .pamo sy r k c z o p => Sys2Proof.Machine.execPamo sy r k c z o p s
  | .pcas sy r k n z o p => Sys2Proof.Machine.execPcas sy r k n z o p s
  | .pget sy a k b p => Sys2Proof.Machine.execPget sy a k b p s
  | .kld sy d k a o p => Sys2Proof.Machine.execKld sy d k a o p s
  | .kder sy d k a b => Sys2Proof.Machine.execKder sy d k a b s
  | .kchk sy p k a b => Sys2Proof.Machine.execKchk sy p k a b s
  | .kmov sy d k => Sys2Proof.Machine.execKmov sy d k s
  | .lacq sy k a b p => Sys2Proof.Machine.execLacq sy k a b p s
  | .lrel sy k a b p => Sys2Proof.Machine.execLrel sy k a b p s
  | .lhand sy k a b p => Sys2Proof.Machine.execLhand sy k a b p s
  | .qpush sy q a => Sys2Proof.Machine.execQpush sy q a s
  | .qpushRing sy q a => Sys2Proof.Machine.execQpushRing sy q a s
  | .qpop sy q a => Sys2Proof.Machine.execQpop sy q a s
  | .qpopRing sy q a => Sys2Proof.Machine.execQpopRing sy q a s
  | .qcnt sy q d => Sys2Proof.Machine.execQcnt sy q d s
  | .fqpush sy a => Sys2Proof.Machine.execFqpush sy a s
  | .fqpushT sy a => Sys2Proof.Machine.execFqpushT sy a s
  | .fqclose sy => Sys2Proof.Machine.execFqclose sy s
  | .rmap sy n a p => Sys2Proof.Machine.execRmap sy n a p s
  | .rflush sy n a o p => Sys2Proof.Machine.execRflush sy n a o p s
  | .rinv sy n a => Sys2Proof.Machine.execRinv sy n a s
  | .rcfgRegion sy n a b => Sys2Proof.Machine.execRcfgRegion sy n a b s
  | .rcfgRing sy n a => Sys2Proof.Machine.execRcfgRing sy n a s
  | .fence sy o u => Sys2Proof.Machine.execFence sy o u s
  | .flagw sy f a b p => Sys2Proof.Machine.execFlagw sy f a b p s
  | .flagadd sy f a => Sys2Proof.Machine.execFlagadd sy f a s
  | .flagwait sy f a t => Sys2Proof.Machine.execFlagwait sy f a t s
  | .bar sy t l imm => Sys2Proof.Machine.execBar sy t l imm s
  | .cpy sy d imm c q l o b => Sys2Proof.Machine.execCpy sy d imm c q l o b s
  | .cpyw sy p => Sys2Proof.Machine.execCpyw sy p s
  | .cpyq sy d => Sys2Proof.Machine.execCpyq sy d s
  | .bop sy d r k o f => Sys2Proof.Machine.execBop sy d r k o f s
  | .coll sy d imm c q l o b => Sys2Proof.Machine.execColl sy d imm c q l o b s
  | .vadd sy d a b m e => Sys2Proof.Machine.execVadd sy d a b m e s
  | .vsub sy d a b m e => Sys2Proof.Machine.execVsub sy d a b m e s
  | .vmul sy d a b m e => Sys2Proof.Machine.execVmul sy d a b m e s
  | .vfma sy d a b m e => Sys2Proof.Machine.execVfma sy d a b m e s
  | .vfms sy d a b m e => Sys2Proof.Machine.execVfms sy d a b m e s
  | .vmax sy d a b m e => Sys2Proof.Machine.execVmax sy d a b m e s
  | .vmin sy d a b m e => Sys2Proof.Machine.execVmin sy d a b m e s
  | .vabs sy d a m imm o => Sys2Proof.Machine.execVabs sy d a m imm o s
  | .vneg sy d a m imm o => Sys2Proof.Machine.execVneg sy d a m imm o s
  | .vrcp sy d a m imm o t r => Sys2Proof.Machine.execVrcp sy d a m imm o t r s
  | .vrsq sy d a m imm o t r => Sys2Proof.Machine.execVrsq sy d a m imm o t r s
  | .vexp2 sy d a m imm o => Sys2Proof.Machine.execVexp2 sy d a m imm o s
  | .vlog2 sy d a m imm o => Sys2Proof.Machine.execVlog2 sy d a m imm o s
  | .vcvtFromFp32 sy d a f r t => Sys2Proof.Machine.execVcvtFromFp32 sy d a f r t s
  | .vcvtToFp32 sy d a f => Sys2Proof.Machine.execVcvtToFp32 sy d a f s
  | .vquant sy d a f r t => Sys2Proof.Machine.execVquant sy d a f r t s
  | .vdeq sy d a f => Sys2Proof.Machine.execVdeq sy d a f s
  | .vcmp sy d a b t m => Sys2Proof.Machine.execVcmp sy d a b t m s
  | .vsel sy d a b m => Sys2Proof.Machine.execVsel sy d a b m s
  | .vand sy d a b m => Sys2Proof.Machine.execVand sy d a b m s
  | .vor sy d a b m => Sys2Proof.Machine.execVor sy d a b m s
  | .vxor sy d a b m => Sys2Proof.Machine.execVxor sy d a b m s
  | .vnot sy d a m => Sys2Proof.Machine.execVnot sy d a m s
  | .vshl sy d a b m => Sys2Proof.Machine.execVshl sy d a b m s
  | .vshr sy d a b m => Sys2Proof.Machine.execVshr sy d a b m s
  | .vsar sy d a b m => Sys2Proof.Machine.execVsar sy d a b m s
  | .viadd sy d a b m t => Sys2Proof.Machine.execViadd sy d a b m t s
  | .vimul sy d a b m t => Sys2Proof.Machine.execVimul sy d a b m t s
  | .vred sy d a m f => Sys2Proof.Machine.execVred sy d a m f s
  | .vperm sy d a b m => Sys2Proof.Machine.execVperm sy d a b m s
  | .vbcast sy d a l => Sys2Proof.Machine.execVbcast sy d a l s
  | .vsplat sy d imm => Sys2Proof.Machine.execVsplat sy d imm s
  | .viota sy d x => Sys2Proof.Machine.execViota sy d x s
  | .vmov sy d a => Sys2Proof.Machine.execVmov sy d a s
  | .vmovToQueue sy a q => Sys2Proof.Machine.execVmovToQueue sy a q s
  | .vmovFromQueue sy d q => Sys2Proof.Machine.execVmovFromQueue sy d q s
  | .vmovToInteger sy d a l => Sys2Proof.Machine.execVmovToInteger sy d a l s
  | .vld sy d a m o p => Sys2Proof.Machine.execVld sy d a m o p s
  | .vst sy d a m o p => Sys2Proof.Machine.execVst sy d a m o p s
  | .vgath sy d a b m p => Sys2Proof.Machine.execVgath sy d a b m p s
  | .vscat sy d a b m p => Sys2Proof.Machine.execVscat sy d a b m p s
  | .mand sy d a b => Sys2Proof.Machine.execMand sy d a b s
  | .mor sy d a b => Sys2Proof.Machine.execMor sy d a b s
  | .mnot sy d a => Sys2Proof.Machine.execMnot sy d a s
  | .mpop sy a r => Sys2Proof.Machine.execMpop sy a r s
  | .mffs sy a r => Sys2Proof.Machine.execMffs sy a r s
  | .mma sy d c a b => Sys2Proof.Machine.execMma sy d c a b s
  | .mmas sy d c a b => Sys2Proof.Machine.execMmas sy d c a b s
  | .mfft sy r imm => Sys2Proof.Machine.execMfft sy r imm s
  | .mtw sy a => Sys2Proof.Machine.execMtw sy a s
  | .mzero sy d m => Sys2Proof.Machine.execMzero sy d m s
  | .mtr sy d a => Sys2Proof.Machine.execMtr sy d a s
  | .madd sy d a b => Sys2Proof.Machine.execMadd sy d a b s
  | .mmov sy d a => Sys2Proof.Machine.execMmov sy d a s
  | .msc sy d a imm => Sys2Proof.Machine.execMsc sy d a imm s
  | .mldz sy z a => Sys2Proof.Machine.execMldz sy z a s
  | .mstz sy z a => Sys2Proof.Machine.execMstz sy z a s
  | .mcvt sy z a t => Sys2Proof.Machine.execMcvt sy z a t s
  | .kvattn sy d a b p => Sys2Proof.Machine.execKvattn sy d a b p s
  | .kvapp sy a b c p => Sys2Proof.Machine.execKvapp sy a b c p s
  | .kvgrow sy a b c p => Sys2Proof.Machine.execKvgrow sy a b c p s
  | .kvcmt sy a b c p => Sys2Proof.Machine.execKvcmt sy a b c p s
  | .kvld sy d a w p => Sys2Proof.Machine.execKvld sy d a w p s
  | .csrr sy d c => Sys2Proof.Machine.execCsrr sy d c s
  | .csrw sy a c => Sys2Proof.Machine.execCsrw sy a c s
  | .tlbi sy a b => Sys2Proof.Machine.execTlbi sy a b s
  | .snap sy d b => Sys2Proof.Machine.execSnap sy d b s
  | .evcfg sy a b => Sys2Proof.Machine.execEvcfg sy a b s
  | .rwctl sy a b => Sys2Proof.Machine.execRwctl sy a b s
  | .resume sy a => Sys2Proof.Machine.execResume sy a s
  | .illegalInstruction cause => Sys2Proof.Machine.execIllegalInstruction cause s
  | .memoryAccessComplete op => Sys2Proof.Machine.execMemoryAccessComplete op s
  | .coreRelease die => Sys2Proof.Machine.execCoreRelease die s
  | .sweeperAdvance die ch => Sys2Proof.Machine.execSweeperAdvance die ch s
  | .victimAllocation die ch => Sys2Proof.Machine.execVictimAllocation die ch s
  | .allocationRetry die ch => Sys2Proof.Machine.execAllocationRetry die ch s
  | .prefetchWalk die => Sys2Proof.Machine.execPrefetchWalk die s
  | .pageWalk core va asid => Sys2Proof.Machine.execPageWalk core va asid s
  | .invalidationComplete id other => Sys2Proof.Machine.execInvalidationComplete id other s
  | .kvinvComplete die => Sys2Proof.Machine.execKvinvComplete die s
  | .kvattnRound core => Sys2Proof.Machine.execKvattnRound core s
  | .kvgrowPairInstall op => Sys2Proof.Machine.execKvgrowPairInstall op s
  | .kvgrowPageCopy op => Sys2Proof.Machine.execKvgrowPageCopy op s
  | .packetHop die arrival => Sys2Proof.Machine.execPacketHop die arrival s
  | .ceCommandStart die ch => Sys2Proof.Machine.execCeCommandStart die ch s
  | .ceLineComplete die ch slot => Sys2Proof.Machine.execCeLineComplete die ch slot s
  | .ceCommandComplete die ch slot => Sys2Proof.Machine.execCeCommandComplete die ch slot s
  | .ceRingWaitEnd core => Sys2Proof.Machine.execCeRingWaitEnd core s
  | .muFillComplete core line => Sys2Proof.Machine.execMuFillComplete core line s
  | .muWritebackComplete core line => Sys2Proof.Machine.execMuWritebackComplete core line s
  | .launchAdmission queue => Sys2Proof.Machine.execLaunchAdmission queue s
  | .stageGrowth gang => Sys2Proof.Machine.execStageGrowth gang s
  | .launchComplete gang => Sys2Proof.Machine.execLaunchComplete gang s
  | .planeLoadComplete core => Sys2Proof.Machine.execPlaneLoadComplete core s
  | .drainPoint core => Sys2Proof.Machine.execDrainPoint core s
  | .planeSwap core => Sys2Proof.Machine.execPlaneSwap core s
  | .exDeferredPulse core => Sys2Proof.Machine.execExDeferredPulse core s
  | .exPendingTarget core target => Sys2Proof.Machine.execExPendingTarget core target s
  | .cqdoorWrite v => Sys2Proof.Machine.execCqdoorWrite v s
  | .stepStart queue => Sys2Proof.Machine.execStepStart queue s
  | .launchNode queue node => Sys2Proof.Machine.execLaunchNode queue node s
  | .flagWaitNode queue node => Sys2Proof.Machine.execFlagWaitNode queue node s
  | .signalNode queue node => Sys2Proof.Machine.execSignalNode queue node s
  | .conditionalNode queue node => Sys2Proof.Machine.execConditionalNode queue node s
  | .circuitChangeNode queue node => Sys2Proof.Machine.execCircuitChangeNode queue node s
  | .routeInstallNode queue node => Sys2Proof.Machine.execRouteInstallNode queue node s
  | .leaseHandoverNode queue node => Sys2Proof.Machine.execLeaseHandoverNode queue node s
  | .nodeComplete queue node => Sys2Proof.Machine.execNodeComplete queue node s
  | .lotteryDraw die => Sys2Proof.Machine.execLotteryDraw die s
  | .chainedLaunch queue node => Sys2Proof.Machine.execChainedLaunch queue node s
  | .gangSwitch gang => Sys2Proof.Machine.execGangSwitch gang s
  | .gangRestore gang => Sys2Proof.Machine.execGangRestore gang s
  | .heldEntryWrite die => Sys2Proof.Machine.execHeldEntryWrite die s
  | .fackWrite die v => Sys2Proof.Machine.execFackWrite die v s
  | .streamRestart die => Sys2Proof.Machine.execStreamRestart die s
  | .hostWindowWrite die core cl n v => Sys2Proof.Machine.execHostWindowWrite die core cl n v s
  | .coldPowerUp => Sys2Proof.Machine.execColdPowerUp s
  | .powerUpStageDone => Sys2Proof.Machine.execPowerUpStageDone s
  | .powerUpStageTimeout => Sys2Proof.Machine.execPowerUpStageTimeout s
  | .coreLeaveReset die => Sys2Proof.Machine.execCoreLeaveReset die s
  | .recoveryImage image => Sys2Proof.Machine.execRecoveryImage image s
  | .dieReset die => Sys2Proof.Machine.execDieReset die s
  | .poolRequestTimeout die tag => Sys2Proof.Machine.execPoolRequestTimeout die tag s
  | .leaseFillReply die tag gen ans => Sys2Proof.Machine.execLeaseFillReply die tag gen ans s
  | .promotionReply die tag gen epoch ticks => Sys2Proof.Machine.execPromotionReply die tag gen epoch ticks s
  | .leaseRecall die obj pidx => Sys2Proof.Machine.execLeaseRecall die obj pidx s
  | .leaseExpiry die frame => Sys2Proof.Machine.execLeaseExpiry die frame s
  | .leaseRenewal die frame => Sys2Proof.Machine.execLeaseRenewal die frame s
  | .renewalReply die tag gen ans => Sys2Proof.Machine.execRenewalReply die tag gen ans s
  | .writeThroughReply die tag gen st => Sys2Proof.Machine.execWriteThroughReply die tag gen st s
  | .releaseReply die tag gen st => Sys2Proof.Machine.execReleaseReply die tag gen st s
  | .handoverReply die tag gen st => Sys2Proof.Machine.execHandoverReply die tag gen st s
  | .pfposWrite die v => Sys2Proof.Machine.execPfposWrite die v s
  | .tinvcWrite die v => Sys2Proof.Machine.execTinvcWrite die v s
  | .accessCounterWindow die => Sys2Proof.Machine.execAccessCounterWindow die s
  | .kvinvWrite die v => Sys2Proof.Machine.execKvinvWrite die v s
  | .tlinksEnable die v => Sys2Proof.Machine.execTlinksEnable die v s
  | .linkTrainingResult die link far => Sys2Proof.Machine.execLinkTrainingResult die link far s
  | .linkFailure die link => Sys2Proof.Machine.execLinkFailure die link s
  | .remoteRequestArrival die pkt => Sys2Proof.Machine.execRemoteRequestArrival die pkt s
  | .remoteReply die pkt => Sys2Proof.Machine.execRemoteReply die pkt s
  | .remoteTimeout die tag => Sys2Proof.Machine.execRemoteTimeout die tag s
  | .remoteTagRelease die tag => Sys2Proof.Machine.execRemoteTagRelease die tag s
  | .flagArrival die pkt => Sys2Proof.Machine.execFlagArrival die pkt s
  | .fsrstWrite die v => Sys2Proof.Machine.execFsrstWrite die v s
  | .rtwWrite die v => Sys2Proof.Machine.execRtwWrite die v s
  | .gate die port => Sys2Proof.Machine.execGate die port s
  | .train die port => Sys2Proof.Machine.execTrain die port s
  | .drain die port => Sys2Proof.Machine.execDrain die port s
  | .off die port => Sys2Proof.Machine.execOff die port s
  | .laserModuleRemoved die m => Sys2Proof.Machine.execLaserModuleRemoved die m s
  | .laserModuleInserted die m => Sys2Proof.Machine.execLaserModuleInserted die m s
  | .portTrainingResult die port res => Sys2Proof.Machine.execPortTrainingResult die port res s
  | .portTrainingTimeout die port => Sys2Proof.Machine.execPortTrainingTimeout die port s
  | .portDrainComplete die port => Sys2Proof.Machine.execPortDrainComplete die port s
  | .portDrainTimeout die port => Sys2Proof.Machine.execPortDrainTimeout die port s
  | .laneCheck die port counts => Sys2Proof.Machine.execLaneCheck die port counts s
  | .tsnapWrite die v => Sys2Proof.Machine.execTsnapWrite die v s
  | .latch die lanes => Sys2Proof.Machine.execLatch die lanes s
  | .oswackWrite die v => Sys2Proof.Machine.execOswackWrite die v s
  | .switchRequestTimeout queue => Sys2Proof.Machine.execSwitchRequestTimeout queue s
  | .governorSettle fixedDraw bids => Sys2Proof.Machine.execGovernorSettle fixedDraw bids s
  | .swathReplacement core => Sys2Proof.Machine.execSwathReplacement core s
  | .reassignmentEvaluation gang => Sys2Proof.Machine.execReassignmentEvaluation gang s
  | .flagWaitPoll queue node => Sys2Proof.Machine.execFlagWaitPoll queue node s
  | .preemptionRequest queue => Sys2Proof.Machine.execPreemptionRequest queue s
  | .preemptionDeadline gang die => Sys2Proof.Machine.execPreemptionDeadline gang die s
  | .attestationRequest nonce => Sys2Proof.Machine.execAttestationRequest nonce s
  | .rollbackRaise v => Sys2Proof.Machine.execRollbackRaise v s
  | .securityAlarm kind => Sys2Proof.Machine.execSecurityAlarm kind s
  | .hostMemoryAccess die addr what => Sys2Proof.Machine.execHostMemoryAccess die addr what s
  | .attestationReportComplete c extra => Sys2Proof.Machine.execAttestationReportComplete c extra s

end Sys2Proof.Machine
end

