-- ==== Sys2Proof/Machine/Hart.lean ====
section
/-!
DEFINITION. The accesses of the host's harts by host physical address: the CSR window and the local-memory windows (R450, R451).
-/

namespace Sys2Proof.Machine

/-! ## Host physical addresses (R450, R451) -/

/-- What a host physical address names: a CSR of a die (`wide`: at the die and package scope's place), a local address of a die, a place of the
CSR window where no CSR lies, or nothing of the K7. -/
inductive HartTarget where
  | csr (die : DieId) (core : Fin 128) (cl : Cluster) (n : BitVec 12) (wide : Bool)
  | memory (die : DieId) (addr : Nat)
  | hole
  | outside
  deriving DecidableEq, Repr

/-- The tables of R450 and R451. -/
def hartTarget (a : Nat) : HartTarget :=
  let off := a - 0xF000000000
  let r := off % 0x2000000
  if 0xF000000000 ≤ a ∧ off < 0x4000000 then
    if r < 0x1000000 then
      .csr (Fin.ofNat 2 (off / 0x2000000)) (Fin.ofNat 128 (r / 0x20000)) (clusterOf (r / 0x8000 % 4)) (BitVec.ofNat 12 (r / 8)) false
    else if r < 0x1008000 then .csr (Fin.ofNat 2 (off / 0x2000000)) 0 .a (BitVec.ofNat 12 (r / 8)) true
    else .hole
  else if 0x10000000000 ≤ a ∧ a < 0x30000000000 then .memory (Fin.ofNat 2 (a / 0x10000000000 - 1)) (a % 0x10000000000)
  else .outside

/-- A hart's access at a host physical address (R450, R451): to a CSR an aligned load or store of 8 bytes, and any other takes its access
fault. -/
def State.hartAccess (s : State) (a : Nat) (what : HartAccess) : Host.Outcome State Fault Refusal :=
  match hartTarget a with
  | .outside => .next s
  | .hole => .next (s.note .accessFault)
  | .memory d l => execHostMemoryAccess d l what s
  | .csr d c k n wide =>
    if a % 8 ≠ 0 ∨ (wide != decide (csrScope n.toNat = some .die)) = true then .next (s.note .accessFault)
    else match what with
      | .load 8 => .next (s.hostWindowRead d c k n)
      | .store bs => if bs.length = 8 then execHostWindowWrite d c k n (BitVec.ofNat 64 (ofBytes bs)) s else .next (s.note .accessFault)
      | _ => .next (s.note .accessFault)

end Sys2Proof.Machine
end

