-- ==== Sys2Proof/Machine/Time.lean ====
section
/-!
DEFINITION. The passing of time (log 3), and the load that puts one instruction where the next step fetches it (log 6).
-/

namespace Sys2Proof.Machine

/-- Time passes: core cycles, and nanoseconds of the package oscillator that advance each die's `ltime` (R55). -/
def State.passTime (s : State) (cycles ns : Nat) : State :=
  let s := { s with cycle := s.cycle + cycles }
  let s := s.setDieReg 0 0x114 (s.dieReg 0 0x114 + BitVec.ofNat 64 ns)
  s.setDieReg 1 0x114 (s.dieReg 1 0x114 + BitVec.ofNat 64 ns)

/-- The cluster of a core that runs a word placed for it: the first that implements the instruction. -/
def clusterFor (i : Instr) : Cluster :=
  if clusterOk i .a then .a else if clusterOk i .m then .m else if clusterOk i .v then .v else .d

/-- A plane whose four streams are the whole program image (R373) and whose first container is given. -/
def Plane.holding (c : Nat) : Plane :=
  { image := writeBytes (writeNat [] 0 4 c) 0x17FC0
      ((List.replicate 4 (bytesOf 2 0 ++ bytesOf 2 32768)).flatten ++ bytesOf 1 0 ++ bytesOf 1 1),
    addr := 0, loaded := true }

/-- A state in which core 0 of die 0 runs a container at halfword 0 of one stream: the load that the log names (log 6). A word that is
no block header lies in the body of an outer block that runs once (R212). -/
def State.placeWord (s : State) (c : Nat) : State :=
  let i := match decodeContainer c false with
    | .ok i => i
    | .undef => .nop 0
    | .resv i => i
  let f : StreamId := ⟨⟨0, 0⟩, clusterFor i⟩
  let k := s.core f.core
  let k := { k with ctl := { k.ctl with outOfReset := true, released := true, active := Plane.holding c } }
  let st := if isHeader i then [] else [(⟨0, 0x8000, 1⟩ : Block)]
  let t := { k.cluster f.cl with pc := 0, run := .running, stack := st, busy := [], hold := none, join := .none, issued := false, wait := none }
  { s.setCore f.core (k.setCluster f.cl t) with agenda := [.stream f], focus := f }

end Sys2Proof.Machine
end

