-- ==== Sys2Proof/Machine/Turn.lean ====
section
/-!
DEFINITION. Turns: what a stream does on its turn, what an entry of the agenda does, and what moves next when the agenda is empty
(log 2): a step of the package that would change something, in a fixed order, or else the next instruction of a stream.
-/

namespace Sys2Proof.Machine

/-! ## A stream's turn -/

/-- What the stream in focus does on its turn: the instruction that fetch and decode give, or the illegal-instruction fault of R212 and
R224. A stream that does not run, or that a plain access holds, does nothing; nor does one whose gang is being saved by force (R407), but to
take the status of a fill that its instruction has waited for (R408). -/
def State.nextInstr (s : State) : Option Instr :=
  if s.me.run = .running ∧ s.me.hold = none ∧ s.cur.ctl.released = true ∧ (s.stopping s.focus.core = false ∨ s.probeFailed = true) then
    some (match s.cur.fetch s.focus.cl s.me.pc.toNat with
      | .past => .illegalInstruction .block
      | .word .undef => .illegalInstruction .undef
      | .word (.resv i) => .illegalInstruction (if clusterOk i s.focus.cl then .resv else .cluster)
      | .word (.ok i) => i)
  else none

/-! ### The S-bit join (R209) -/

/-- The state as another cluster of the core in focus sees it. -/
def State.seenBy (s : State) (k : Cluster) : State := { s with focus := ⟨s.focus.core, k⟩ }

/-- A member of a join that samples what the others may change in the same cycle: `tstq` and `qcnt`, whose count excludes the pushes and
pops of their own cycle (R238, R276), and `flagwait` (R281). -/
def isSample : Instr → Bool
  | .tstq _ _ _ _ _ => true
  | .qcnt _ _ _ => true
  | .flagwait _ _ _ _ => true
  | _ => false

/-- The join that an instruction of the stream in focus completes (R209): every partner waits at its own. Its members, with their
instructions; those that sample come before what the others do in the same cycle. -/
def State.joinMembers (s : State) (i : Instr) : Option (List (Cluster × Instr)) :=
  let ks := s.cur.joinPartners s.focus.cl
  if s.joinsNow i && ks.all (fun k => (s.cur.cluster k).join == .waiting && ((s.seenBy k).nextInstr).isSome) then
    let l := (s.focus.cl, i) :: ks.filterMap fun k => ((s.seenBy k).nextInstr).map fun j => (k, j)
    some ((l.filter fun e => isSample e.2) ++ l.filter fun e => !isSample e.2)
  else none

/-- A stream's instruction has issued in its turn: the stream waits for nothing, or its instruction goes on, or it has parked on a fault
that comes after its instruction (ATRAP, HTRAP). -/
def State.hasIssued (s : State) (f : StreamId) : Bool :=
  match (s.stream f).run with
  | .parked q => (s.die f.core.die).faults.trap q
  | _ => (s.stream f).wait.isNone || (s.stream f).issued

/-- One member of a join runs alone, in the view of its cluster. -/
def State.runMember (s : State) (e : Cluster × Instr) : Host.Outcome State Fault Refusal := exec e.2 (s.seenBy e.1)

/-- A member of a join would issue. -/
def State.memberGoes (s : State) (e : Cluster × Instr) : Bool :=
  match s.runMember e with
  | .next t => t.hasIssued ⟨s.focus.core, e.1⟩
  | _ => false

/-- Run the members of a join, one after the other: the state after the last, or the first that what the others did keeps from
issuing. -/
def State.runMembers : List (Cluster × Instr) → State → Except (Cluster × Instr) State
  | [], s => .ok s
  | e :: l, s => match s.runMember e with
    | .next t => if t.hasIssued ⟨s.focus.core, e.1⟩ then State.runMembers l t else .error e
    | _ => .error e

/-- An instruction of the M stream orders its later page reads after the rows that its `kvapp`s have written: a wait for a token, an S-bit
join, a fence, or the reading of a p register, those of that register (R110, R353, R360). -/
def readsNew (i : Instr) (e : OldRow) : Bool :=
  let y := syncBits i
  waitsPrev y || waitsNext y || joins y ||
    (match i with
      | .fence _ _ _ => true
      | .tstp _ _ p _ _ => p.toNat == e.preg && e.preg != 0
      | _ => false)

/-- After a turn in which the M stream has issued an instruction, the rows that it orders are read new. -/
def State.forgetOld (s : State) (i : Instr) (t : State) : State :=
  let k := t.cur
  if s.focus.cl = .m ∧ t.hasIssued s.focus ∧ k.store.old.any (readsNew i) then
    t.setCur { k with store := { k.store with old := k.store.old.filter fun e => !readsNew i e } }
  else t

/-- The same after a join, for its M member. -/
def State.forgetJoined (l : List (Cluster × Instr)) (t : State) : State :=
  l.foldl (fun t e => { ({ t with focus := ⟨t.focus.core, e.1⟩ } : State).forgetOld e.2 { t with focus := ⟨t.focus.core, e.1⟩ } with focus := t.focus }) t

/-- The members of a join all go, each by itself and after the others (R209). Where one cannot go by itself, it takes its own result, a fault
or a wait; where two cannot go together, one waits. The others wait on. -/
def State.runJoin (s : State) (l : List (Cluster × Instr)) : Host.Outcome State Fault Refusal :=
  let all := s.setCur (s.cur.grantJoin (l.map (·.1)))
  let f := fun (e : Cluster × Instr) => (⟨s.focus.core, e.1⟩ : StreamId)
  match l.find? fun e => !all.memberGoes e with
  | none =>
    (match State.runMembers l all with
    | .ok t => .next (State.forgetJoined l { t with focus := s.focus })
    | .error e => .next (s.setStream (f e) { s.stream (f e) with join := .none, wait := some .other }))
  | some e =>
    match (s.setCur (s.cur.grantJoin [e.1])).runMember e with
    | .next t => .next { t.setStream (f e) { t.stream (f e) with join := .none } with focus := s.focus }
    | r => r

/-- The stream in focus issues an instruction: by itself, or with its partners where it completes a join (R209). -/
def State.issueTurn (s : State) (i : Instr) : Host.Outcome State Fault Refusal :=
  match s.joinMembers i with
  | none => (match exec i s with | .next t => .next (s.forgetOld i t) | r => r)
  | some l => s.runJoin l

/-- A stream's turn: the M stream's passes the Swath first (R331). -/
def State.streamTurn (s : State) : Host.Outcome State Fault Refusal :=
  match s.nextInstr with
  | none => .next s
  | some i =>
    if s.focus.cl = .m then
      match s.swathTurn with
      | .used t => .next t
      | .issue t => t.issueTurn i
    else s.issueTurn i

/-- One turn of the agenda. An instruction that has a word is run only by a stream that has fetched it. -/
def State.turn (s : State) : Turn → Host.Outcome State Fault Refusal
  | .event i => if (encode i).isNone then exec i s else .next s
  | .stream f => { s with focus := f }.streamTurn
  | .time cycles ns => .next (s.passTime cycles ns)
  | .hart a what => s.hartAccess a what
  | .corrected d => .next (s.errorCorrected d)
  | .poisoned d line => .next (s.linePoisoned d line)
  | .moduleTemp d m t => .next (s.moduleTemp d m t)
  | .otherSplit num gib => .next (s.otherSplit num.val gib.val)
  | .frameIn f => .next (s.frameIn f)
  | .frameOut f => .next (s.note (.frame f))
  | .frameTaken => .next s.frameTaken
  | .flashBegin b f => .next { s with sys := s.sys.flashBegin b f }
  | .flashEnd => .next { s with sys := s.sys.flashEnd }
  | .revokeKey k => .next { s with sys := { s.sys with keysRevoked := s.sys.keysRevoked ||| 1 <<< k.val } }
  | .reprovision => .next s.reprovision

/-! ## An empty agenda (log 2) -/

/-- The cores that a die has a record of. -/
def State.coresUsed (s : State) : List CoreId :=
  [(0 : DieId), 1].flatMap fun d => (s.die d).cores.map fun e => ⟨d, Fin.ofNat 128 e.1⟩

/-- Steps that the operations in flight may take. -/
def Op.steps (o : Op) : List Instr :=
  let c := o.owner.core
  match o.dest with
  | .line n => [.muFillComplete c (Fin.ofNat 512 n), .muWritebackComplete c (Fin.ofNat 512 n)]
  | .attn _ _ => [.kvattnRound c]
  | .plane => [.planeLoadComplete c]
  | .copy => []
  | .node => []
  | .probe => []
  | .walk asid va _ _ _ => [.memoryAccessComplete o.id, .pageWalk c va asid]
  | _ => if o.grow.isSome then [.kvgrowPairInstall o.id, .kvgrowPageCopy o.id, .memoryAccessComplete o.id] else [.memoryAccessComplete o.id]

/-- Steps of a core's own units. -/
def State.coreSteps (s : State) (c : CoreId) : List Instr :=
  let k := s.core c
  (if k.ex.deferred.isEmpty then [] else [Instr.exDeferredPulse c]) ++ (k.ex.pending.map fun e => .exPendingTarget c (Fin.ofNat 16 e.1)) ++
    (if k.store.copies.isEmpty then [] else [.ceRingWaitEnd c, .ceCommandStart c.die (Fin.ofNat 32 (channelOf c.core.val))]) ++
    (if k.ctl.load.isSome then [.planeLoadComplete c] else []) ++ (if k.ctl.gang.isSome then [.drainPoint c, .planeSwap c] else [])

/-- Steps of a die's units. -/
def State.dieSteps (s : State) (d : DieId) : List Instr :=
  let x := s.die d
  ((x.channels.flatMap fun e => e.2.slots.flatMap fun y =>
      [Instr.ceLineComplete d (Fin.ofNat 32 e.1) (Fin.ofNat 8 y.1), .ceCommandComplete d (Fin.ofNat 32 e.1) (Fin.ofNat 8 y.1)])) ++
    (if x.torus.router.isEmpty then [] else [.packetHop d none]) ++
    (((List.range 48).filter fun ch => s.allocWaits d ch).flatMap fun ch =>
      [.victimAllocation d (Fin.ofNat 48 ch), .allocationRetry d (Fin.ofNat 48 ch), .sweeperAdvance d (Fin.ofNat 48 ch)]) ++
    (if bit (s.dieReg d 0x117) 16 then [.prefetchWalk d] else []) ++ (if bit (s.dieReg d 0x106) 63 then [.kvinvComplete d] else []) ++
    (if x.faults.held.isEmpty then [] else [.heldEntryWrite d]) ++ (if x.faults.batches.isEmpty then [] else [.streamRestart d]) ++
    (if x.start.queue.isEmpty then [] else [.coreRelease d])

/-- Steps of a node of a running step. A poll of a flag wait is not among them: its time is the agenda's. -/
def nodeSteps (q : Nat) (n : Nat) (b : List Byte) (v : NodeState) : List Instr :=
  let i : Fin 32 := Fin.ofNat 32 n
  match v with
  | .ended _ => [.nodeComplete q i]
  | .closing _ _ => [.nodeComplete q i]
  | .candidate _ => [.chainedLaunch q i]
  | .done _ => []
  | .skipped => []
  | .running _ => []
  | v =>
    match bytesAt b 0 1 with
    | 1 => [.launchNode q i]
    | 2 => if v = .access none then [] else [.flagWaitNode q i]
    | 3 => [.signalNode q i]
    | 4 => [.conditionalNode q i]
    | 5 => [.circuitChangeNode q i]
    | 6 => [.routeInstallNode q i]
    | _ => [.leaseHandoverNode q i]

/-- Steps of the command processors. -/
def State.schedSteps (s : State) : List Instr :=
  (s.sched.queues.flatMap fun e => match e.2.run with
    | some r => (r.nodes.zipIdx.flatMap fun x => nodeSteps e.1 x.2 (r.recs.getD x.2 []) x.1)
    | none => [.stepStart e.1]) ++
    (match s.sched.won with
      | some (q, n) => .launchAdmission q :: (match s.node q n with | some (.running g) => [.gangRestore g] | _ => [])
      | none => [.lotteryDraw 0, .lotteryDraw 1]) ++
    s.sched.gangs.flatMap fun g => [.launchComplete g.id, .gangSwitch g.id, .stageGrowth g.id]

/-- An invalidation waits for no other package: it is not of domain scope, or the domain has no other (R85). -/
def State.ownInval (s : State) (v : Invalidation) : Bool := decide (v.scope < 2) || (s.coord v.die).count == 2

/-- The steps of the package that are looked at, in their order. -/
def State.candidates (s : State) : List Instr :=
  s.ops.flatMap Op.steps ++ ((s.invals.filter s.ownInval).map fun v => .invalidationComplete v.id none) ++
    s.coresUsed.flatMap s.coreSteps ++ s.dieSteps 0 ++ s.dieSteps 1 ++ s.schedSteps

/-- A step leads to another state. -/
def State.moves (s : State) (r : Host.Outcome State Fault Refusal) : Bool :=
  match r with
  | .next t => decide (t ≠ s)
  | _ => false

/-- A step of the package that is due. -/
def State.due (s : State) : Option Instr := s.candidates.find? fun i => s.moves (exec i s)

/-- The stream whose turn it is: the one in focus, or the first other one that can do something. -/
def State.nextStream (s : State) : Option StreamId :=
  let all := s.coresUsed.flatMap fun c => [Cluster.a, .m, .v, .d].map fun k => (⟨c, k⟩ : StreamId)
  (s.focus :: all).find? fun f => let t := { s with focus := f }; t.moves t.streamTurn

end Sys2Proof.Machine
end

