-- ==== Sys2Proof/Machine/Step.lean ====
section
/-!
DEFINITION. One step of the package: the agenda's first turn, or, when it is empty, a step of the package that is due, or the next
instruction of a stream (log 2).
-/

namespace Sys2Proof.Machine

/-- One step. -/
def step (s : State) : Host.Outcome State Fault Refusal :=
  match s.agenda with
  | t :: rest => { s with agenda := rest }.turn t
  | [] =>
    match s.due with
    | some i => exec i s
    | none =>
      match s.nextStream with
      | some f => { s with focus := f }.streamTurn
      | none => .next s

/-- The state in which the next step fetches and runs an opcode-table word: a container of one 32-bit word, or one whose first compact
word it is (log 6). -/
def State.withFetchWord (s : State) (nbits w : Nat) : State :=
  s.placeWord (if nbits ≤ 16 then w % 2 ^ 16 else w % 2 ^ 32)

end Sys2Proof.Machine
end

