-- ==== Sys2Proof/Machine/View.lean ====
section
/-!
DEFINITION. What statements about the machine say of a state: when an instruction may issue, what a byte of memory reads as, and the
pieces of the package that a next state keeps.
-/

namespace Sys2Proof.Machine

/-- A body that lets its instruction go on, as it neither waits nor faults exactly. -/
def Eff.goes : Eff → Bool
  | .block _ => false
  | .await _ _ => false
  | .fault _ => false
  | .abort _ _ => false
  | _ => true

/-- An instruction with `s` = 1 finds its partners (R209): it has issued already or has been granted, or every partner waits at its own. -/
def State.joinReady (s : State) (i : Instr) : Bool :=
  !joins (syncBits i) || s.me.issued || s.me.join == .granted || (s.cur.joinPartners s.focus.cl).all fun k => (s.cur.cluster k).join == .waiting

/-- Nothing keeps the stream in focus from issuing an instruction but the instruction's own rules: no illegal cause (R224), no plain
access that holds the stream (R258), no register, token, signal or access to wait for (R177, R216, R354), and its partners (R209). -/
def State.mayIssue (s : State) (i : Instr) : Bool :=
  s.illegalCause i == none && s.me.hold.isNone && s.obstacle i == none && s.joinReady i

/-- The state in which an instruction that may issue runs: its waiting partners granted (R209). -/
def State.atIssue (s : State) (i : Instr) : State :=
  if s.joinsNow i then s.setCur (s.cur.grantJoin (s.cur.joinPartners s.focus.cl)) else s

/-- What a byte of a die's local memory reads as (R172): the byte of the core that holds its word dirty, or else of the memory. -/
def Die.byteAt (d : Die) (a : Nat) : Byte :=
  let line := fun n => (d.core n).l1Line (a / 128)
  match (List.range 128).find? fun n => (line n).dirty.getLsbD (a % 128 / 4) with
  | some n => (line n).data.extractLsb' (8 * (a % 128)) 8
  | none => readByte d.mem a

/-- The pieces of the package, as seen from the stream in focus. -/
inductive Piece where
  /-- The stream's x registers, its steer registers, its p registers. -/
  | x | steer | status
  /-- Whether the stream runs, and what it holds. -/
  | run
  /-- The stream's CSRs, but for `aret` and the window counters, which every retirement may change (R205). -/
  | arith
  /-- The core's k registers, vectors, lane masks, accumulators; the rest of its register state. -/
  | caps | vectors | masks | tiles | rings
  /-- The core's scratchpad, L1, queues and copy queue; its control state; its crossbar; its CSRs. -/
  | store | ctl | crossbar | coreCsr
  /-- The other streams of the package, but for tokens and join marks. -/
  | streams
  /-- The other cores. -/
  | cores
  /-- Every byte of local memory and of the Commons. -/
  | memory
  /-- What each die holds beside its memory, Commons and cores. -/
  | dies
  /-- The operations in flight. -/
  | ops
  /-- Invalidations, command processors, host side, clock, and the focus and agenda of the model. -/
  | system
  deriving DecidableEq, Repr

/-- A stream is as it was, but for tokens and its join mark. -/
def ClusterState.still (c e : ClusterState) : Prop :=
  e.pc = c.pc ∧ e.run = c.run ∧ e.stack = c.stack ∧ e.x = c.x ∧ e.g = c.g ∧ e.p = c.p ∧ e.busy = c.busy ∧ e.hold = c.hold ∧
    e.signals = c.signals ∧ e.csr = c.csr ∧ e.streams = c.streams

/-- A piece of the package is the same in two states. -/
def Piece.same (s t : State) : Piece → Prop
  | .x => ∀ n, t.x n = s.x n
  | .steer => ∀ n, t.steer n = s.steer n
  | .status => t.me.p = s.me.p ∧ t.me.busy = s.me.busy
  | .run => t.me.run = s.me.run ∧ t.me.hold = s.me.hold ∧ t.me.streams = s.me.streams
  | .arith => ∀ n, n ≠ 3 → (n < 8 ∨ 16 ≤ n) → t.me.reg n = s.me.reg n
  | .caps => ∀ n, t.cap n = s.cap n
  | .vectors => ∀ n, t.vec n = s.vec n
  | .masks => ∀ n, t.mask n = s.mask n
  | .tiles => ∀ n, t.tile n = s.tile n
  | .rings => { t.cur.regs with k := [], v := [], m := [], z := [] } = { s.cur.regs with k := [], v := [], m := [], z := [] }
  | .store => t.cur.store = s.cur.store
  | .ctl => t.cur.ctl = s.cur.ctl
  | .crossbar => t.cur.ex = s.cur.ex
  | .coreCsr => t.cur.csr = s.cur.csr
  | .streams => ∀ j, j ≠ s.focus → ClusterState.still (s.stream j) (t.stream j)
  | .cores => ∀ c, c ≠ s.focus.core → (t.core c).regs = (s.core c).regs ∧ (t.core c).store = (s.core c).store ∧
      (t.core c).ctl = (s.core c).ctl ∧ (t.core c).ex = (s.core c).ex ∧ (t.core c).csr = (s.core c).csr
  | .memory => ∀ d a, (t.die d).byteAt a = (s.die d).byteAt a ∧ readByte (t.die d).commons a = readByte (s.die d).commons a
  | .dies => ∀ d, { t.die d with mem := [], commons := [], cores := [] } = { s.die d with mem := [], commons := [], cores := [] }
  | .ops => t.ops = s.ops ∧ t.nextOp = s.nextOp
  | .system => t.invals = s.invals ∧ t.sched = s.sched ∧ t.sys = s.sys ∧ t.cycle = s.cycle ∧ t.fresh = s.fresh ∧
      t.agenda = s.agenda ∧ t.focus = s.focus

/-- A state keeps every piece of an earlier one but those listed. -/
def State.keepsBut (s t : State) (l : List Piece) : Prop := ∀ p, p ∉ l → p.same s t

/-- The stream in focus has gone on to what follows an instruction of a width (R211). -/
def State.passed (s t : State) (width : Nat) : Prop :=
  (t.me.pc, t.me.stack) = endcheck (s.me.pc + BitVec.ofNat 16 width) s.me.stack

end Sys2Proof.Machine
end

