-- ==== Sys2Proof/Safety.lean ====
section
/-!
DEFINITION. What a safe state is: the storage of the package keeps its canonical form.
-/

namespace Sys2Proof.Machine

/-- Every memory of a die is in canonical form. -/
def Die.safe (d : Die) : Bool := Memory.wf d.mem && Memory.wf d.commons

/-- Every memory of the package is in canonical form. -/
def State.safe (s : State) : Bool := s.die0.safe && s.die1.safe

end Sys2Proof.Machine
end

