-- ==== Sys2Proof/Certificates/Slice0/Obligations.lean ====
section
/-!
DEFINITION. The statements for the provers: what the numbered rules of spec/ say the package does.
-/

namespace Sys2Proof.Machine

/-! ## How statements are said -/

/-- Register `d` of the stream in focus is the one x register written, and the stream has passed on. -/
def State.wroteX (s t : State) (d width : Nat) : Prop := (∀ n, n ≠ d → t.x n = s.x n) ∧ s.keepsBut t [.x] ∧ s.passed t width

/-- An instruction that may issue gives the next state in which `d` holds a value of the state before it, and nothing else has changed. -/
def ResultX (i : Instr) (d width : Nat) (v : State → Word) : Prop :=
  ∀ s : State, s.mayIssue i = true → ∃ t, exec i s = .next t ∧ t.x d = v s ∧ s.wroteX t d width

/-- An instruction that may issue gives the next state in which the condition, or all, of one steer register is written. -/
def ResultSteer (i : Instr) (g : Nat) (ok : State → Prop) (v : State → Steer) : Prop :=
  ∀ s : State, s.mayIssue i = true → ok s →
    ∃ t, exec i s = .next t ∧ t.steer g = v s ∧ (∀ n, n ≠ g → t.steer n = s.steer n) ∧ s.keepsBut t [.steer] ∧ s.passed t 2

/-- An instruction that may issue goes on at a given pc and block stack, and changes nothing else but the pieces listed. -/
def Flows (s : State) (i : Instr) (l : List Piece) (pc : BitVec 16) (st : List Block) : Prop :=
  ∃ t, exec i s = .next t ∧ t.me.pc = pc ∧ t.me.stack = st ∧ s.keepsBut t l

/-- The stream in focus has parked in `t` on the die's next sequence number, at its pc, and an entry with what a fault says is posted, or
held where the queue has no room (R399, R401, R402). -/
def State.raised (s t : State) (f : FaultInfo) : Prop :=
  let q := (s.die s.focus.core.die).faults
  let r := (t.die s.focus.core.die).faults
  t.me.run = .parked q.next ∧ t.me.pc = s.me.pc ∧ t.me.stack = s.me.stack ∧ r.next = q.next + 1 ∧
    ∃ e : FaultEntry, e.seq = q.next ∧ e.kind = f.kind ∧ e.cause = f.cause ∧ e.addr = f.addr ∧ e.reg = f.reg ∧ e.aux = f.aux ∧
      e.pc = s.me.pc.toNat ∧ e.core = s.focus.core.index ∧ e.cl = s.focus.cl ∧ e.parks = true ∧
      e.asid = ((s.core s.focus.core).reg 0x40).toNat ∧ e.stream = some s.focus ∧
      (if s.faultRoom s.focus.core.die && q.held.isEmpty then r.posted = q.posted ++ [e] ∧ r.held = q.held
       else r.posted = q.posted ∧ r.held = q.held ++ [e])

/-- An instruction that may issue raises a fault at itself: its stream parks, and no register of it changes. -/
def Raises (s : State) (i : Instr) (f : FaultInfo) : Prop :=
  ∃ t, exec i s = .next t ∧ s.raised t f ∧ (∀ n, t.x n = s.x n) ∧ (∀ n, t.steer n = s.steer n) ∧ (t.core s.focus.core).regs = s.cur.regs

end Sys2Proof.Machine

open Sys2Proof Sys2Proof.Machine

/-! ## Encoding and the step -/

/-- R206 to R208, R223: what the encoder writes for a well-formed instruction, the decoder reads back, every operand included. A compact
word is read in either half of its container. -/
def Obligations.DecodingInvertsEncoding : Prop :=
  ∀ i : Instr, i.wellFormed = true →
    (∀ w, encode i = some (.word w) → w < 2 ^ 32 ∧ decodeContainer w false = .ok i) ∧
    (∀ h, encode i = some (.compact h) → h < 2 ^ 15 ∧ ∀ other, other < 2 ^ 15 →
      decodeContainer (h + 2 ^ 16 * other) false = .ok i ∧ decodeContainer (other + 2 ^ 16 * h) true = .ok i)

/-- R218, R219, R223: a container that the decoder accepts holds a well-formed instruction, and encoding it gives the same word: no two
words stand for one instruction, and no reserved bit is dropped. -/
def Obligations.EncodingInvertsDecoding : Prop :=
  ∀ (c : Nat) (odd : Bool) (i : Instr), c < 2 ^ 32 → decodeContainer c odd = .ok i → i.wellFormed = true ∧
    (if 2 ^ 31 ≤ c then encode i = some (.word c)
     else if odd then encode i = some (.compact (c / 2 ^ 16)) else encode i = some (.compact (c % 2 ^ 16)))

/-- The words that the worked examples of R217, R238, R267, R289, R314 and R324 write out, and the two containers that R208 says are no instruction. -/
def Obligations.WordsOfTheSpec : Prop :=
  decodeContainer 0x80001001 false = .ok (.blk 8 1) ∧ decodeContainer 0x80E84000 false = .ok (.movi 0 1 0#14) ∧
  decodeContainer 0x80E8800A false = .ok (.movi 0 2 10) ∧ decodeContainer 0x80108014 false = .ok (.prep 0 1 0x14) ∧
  decodeContainer 0x80081020 false = .ok (.blkr 8 2) ∧ decodeContainer 0x80B0C601 false = .ok (.addi 0 3 3 1) ∧
  decodeContainer 0x80804230 false = .ok (.add 0 1 1 3) ∧ decodeContainer 0x80288594 false = .ok (.cmpi 0 1 1 3 20) ∧
  decodeContainer 0x80182000 false = .ok (.br 0 1) ∧ decodeContainer 0x80A10604 false = .ok (.mov 0 4 3) ∧
  decodeContainer 0x80420000 false = .ok (.halt 0) ∧ decodeContainer 0x8180C944 false = .ok (.ld 0 3 4 2 4 4) ∧
  decodeContainer 0x8298C224 false = .ok (.vfma 0 3 1 2 2 0) ∧ decodeContainer 0x83811008 false = .ok (.mma 0 2 2 0 1) ∧
  decodeContainer 0x81D9903B false = .ok (.pamo 0 3 2 0 0 7 3) ∧ decodeContainer 0x83BA0861 false = .ok (.kvattn 0 4 2 3 1) ∧
  decodeContainer 0 false = .undef ∧ decodeContainer 0x8000 false = .undef

/-- A turn of a stream runs the instruction that its bytes decode to: step is exec of it, on the agenda's rest, with the stream in focus;
the M stream's words pass the Swath first (R331), and where the Swath lets a word issue it issues as it is. A stream whose gang is being
saved by force runs it only to take the status of a fill that it has waited for (R408). An instruction of the M stream that orders its page
reads after the rows its `kvapp`s have written drops their old data, and changes nothing more (R110, R360; which ones do is log 90). R209: an
instruction that completes a join, as every partner waits at its own, runs in one step with those of its partners, each cluster once, where
each of them would issue; that they run one after the other in that step is the model's (log 17), as the agenda is (log 2). -/
def Obligations.StepRunsTheDecodedInstruction : Prop :=
  (∀ (s : State) (f : StreamId) (rest : List Turn) (i : Instr), s.agenda = .stream f :: rest →
    let u := { s with agenda := rest, focus := f }
    (s.stream f).run = .running → (s.stream f).hold = none → (s.core f.core).ctl.released = true →
    (s.stopping f.core = false ∨ u.probeFailed = true) →
    (s.core f.core).fetch f.cl (s.stream f).pc.toNat = .word (.ok i) →
    let issues := fun (v : State) =>
      (v.joinMembers i = none → step s = match exec i v with | .next t => .next (v.forgetOld i t) | r => r) ∧
      (∀ l, v.joinMembers i = some l →
        let all := v.setCur (v.cur.grantJoin (l.map (·.1)))
        (∀ k, k ∈ l.map (·.1) ↔ k = f.cl ∨ k ∈ v.cur.joinPartners f.cl) ∧ (l.map (·.1)).Nodup ∧
        ((∀ e ∈ l, all.memberGoes e = true) → ∀ t, State.runMembers l all = .ok t →
          step s = .next (State.forgetJoined l { t with focus := f })))
    (f.cl ≠ .m → issues u) ∧ (f.cl = .m → ∀ v, u.swathTurn = .issue v → v.focus = f → issues v)) ∧
  (∀ (v t : State) (i : Instr),
    (v.focus.cl ≠ .m ∨ t.cur.store.old = [] → v.forgetOld i t = t) ∧
    (v.forgetOld i t = t ∨
      ∃ l, v.forgetOld i t = t.setCur { t.cur with store := { t.cur.store with old := l } } ∧ ∀ e ∈ l, e ∈ t.cur.store.old))

/-- R224, R399, R212: a word that the decoder refuses, a pc past the end of the stream's image, and an instruction that one of the tests
CLUSTER, REG and BLOCK refuses, take no effect; the stream parks with an illegal-instruction fault of that cause. -/
def Obligations.IllegalInstructionsPark : Prop :=
  (∀ (i : Instr) (s : State) (c : IllegalCause), (encode i).isSome = true → s.illegalCause i = some c →
      exec i s = .next (s.takeFault s.focus { kind := 8, cause := c.code.toNat })) ∧
  (∀ s : State, s.me.run = .running → s.me.hold = none → s.cur.ctl.released = true → s.stopping s.focus.core = false → s.focus.cl ≠ .m →
      (s.cur.fetch s.focus.cl s.me.pc.toNat = .past → s.streamTurn = .next (s.takeFault s.focus { kind := 8, cause := 5 })) ∧
      (s.cur.fetch s.focus.cl s.me.pc.toNat = .word .undef → s.streamTurn = .next (s.takeFault s.focus { kind := 8, cause := 1 })) ∧
      (∀ i, s.cur.fetch s.focus.cl s.me.pc.toNat = .word (.resv i) →
        s.streamTurn = .next (s.takeFault s.focus { kind := 8, cause := if clusterOk i s.focus.cl then 3 else 2 })) ∧
      (∀ c, exec (.illegalInstruction c) s = .next (s.takeFault s.focus { kind := 8, cause := c.code.toNat })))

/-- R177, R216, R354: an instruction that must wait changes nothing but the mark of what it waits for. R209: with `s` = 1 and partners that
do not all wait at theirs, it waits and takes no token. R177, R207: a `nop` takes the tokens that its bits wait for, and with no access of the
stream outstanding it adds a token to each neighbour that its bits signal; R205: its retirement adds 1 to `aret`. That a stream which a plain
access holds starts nothing, where R258 lets later instructions issue and none of them retire, is the model's choice (log 91). -/
def Obligations.WaitingAndRetirement : Prop :=
  ((∀ (i : Instr) (s : State), (encode i).isSome = true → s.illegalCause i = none →
       (s.me.hold.isSome = true → exec i s = .next s) ∧
       (∀ w, s.me.hold = none → s.obstacle i = some w → exec i s = .next (s.setMe { s.me with wait := some (s.me.mark w) }))) ∧
   (∀ (s : State) (sy : Sync), s.illegalCause (.nop sy) = none → s.me.hold = none → s.obstacle (.nop sy) = none →
       s.joinReady (.nop sy) = false → exec (.nop sy) s = .next (s.setMe { s.me with wait := some .join, join := .waiting }))) ∧
  (∀ (s : State) (sy : Sync), s.mayIssue (.nop sy) = true → s.joinsNow (.nop sy) = false → s.me.issued = false → s.opsOf s.focus = [] →
     ∃ t, exec (.nop sy) s = .next t ∧ t.me.fromPrev = s.me.fromPrev - ofBool (waitsPrev sy) ∧
       t.me.fromNext = s.me.fromNext - ofBool (waitsNext sy) ∧ t.me.reg 3 = s.me.reg 3 + 1 ∧
       (t.cur.cluster s.focus.cl.next).fromPrev = (s.cur.cluster s.focus.cl.next).fromPrev + ofBool (signalsNext sy) ∧
       (t.cur.cluster s.focus.cl.prev).fromNext = (s.cur.cluster s.focus.cl.prev).fromNext + ofBool (signalsPrev sy))


/-! ## Faults (20_faults.md) -/

/-- R399, R401, R402: taking a fault parks the stream on the die's next sequence number and posts its entry, or holds it. -/
def Obligations.TakingAFault : Prop :=
  ∀ (s : State) (f : FaultInfo), f.kind ≠ 14 → s.raised (s.takeFault s.focus f) f

/-- R400, R401: an entry that the queue has room for is written at the head, its 64 bytes in the layout of R401, and the head advances. Its
line of memory is not poisoned: a part of a poisoned line is not changed (R150). -/
def Obligations.EntriesInMemory : Prop :=
  ∀ (s : State) (d : DieId) (e : FaultEntry), e.rwr.length ≤ 20 →
    let q := s.dieReg d 0x11F
    let p := s.dieReg d 0x1A0
    let a := field q 12 28 * 4096 + 64 * (field p 0 32 % 2 ^ field q 4 5)
    let t := s.writeEntry d e
    let part := fun lo n => ofBytes ((e.bytes.drop lo).take n)
    ((s.die d).poisoned (a / 128) = false → readBytes (t.die d).mem a 64 = e.bytes) ∧
      field (t.dieReg d 0x1A0) 0 32 = (field p 0 32 + 1) % 2 ^ 32 ∧ field (t.dieReg d 0x1A0) 32 32 = field p 32 32 ∧
      e.bytes.length = 64 ∧ part 0 4 = e.seq.toNat ∧ part 4 1 = e.kind % 256 ∧ part 5 1 = e.cause % 256 ∧
      part 6 1 = e.cl.number + 4 * ofBool e.parks + 8 * ofBool (!e.rwr.isEmpty) ∧ part 7 1 = e.reg % 256 ∧
      part 8 2 = e.asid % 2 ^ 16 ∧ part 10 1 = e.core % 256 ∧ part 11 1 = 0 ∧ part 12 4 = e.pipe % 2 ^ 32 ∧
      part 16 8 = e.addr % 2 ^ 64 ∧ part 24 2 = e.pc % 2 ^ 15 ∧ part 26 2 = 0 ∧ part 28 4 = e.cur % 2 ^ 32 ∧
      part 32 4 = e.aux % 2 ^ 32 ∧ (e.bytes.drop 36).take 20 = e.rwr ++ List.replicate (20 - e.rwr.length) 0 ∧
      part 56 8 = e.aux2 % 2 ^ 64
/-! ## Control (12_isa_control.md) -/

/-- R235, R237, R238: `prep` and the compares and tests write one steer register; a compare or a test writes its condition alone. -/
def Obligations.SteeringWrites : Prop :=
  ∀ (sy : Sync) (g p v : BitVec 4) (a b : BitVec 5) (c t : BitVec 3) (imm : BitVec 7) (tgt : BitVec 15),
    let cond := fun (x y : Word) => ([x == y, x != y, decide (x.toInt < y.toInt), decide (y.toInt ≤ x.toInt),
      decide (x.toNat < y.toNat), decide (y.toNat ≤ x.toNat)] : List Bool).getD c.toNat false
    let count := fun (s : State) => (s.cur.queue p.toNat).length
    ResultSteer (.prep sy g tgt) g.toNat (fun _ => True) (fun s => { s.steer g.toNat with tv := true, tgt := tgt }) ∧
    ResultSteer (.cmp sy g a b c) g.toNat (fun _ => c.toNat < 6)
      (fun s => { s.steer g.toNat with c := cond (s.x a.toNat) (s.x b.toNat) }) ∧
    ResultSteer (.cmpi sy g a c imm) g.toNat (fun _ => c.toNat < 6)
      (fun s => { s.steer g.toNat with
        c := cond (s.x a.toNat) (if c.toNat < 4 then BitVec.ofInt 64 imm.toInt else BitVec.ofNat 64 imm.toNat) }) ∧
    ResultSteer (.tstp sy g p v t) g.toNat (fun s => t.toNat < 2 ∧ s.copyFault p.toNat = none)
      (fun s => { s.steer g.toNat with
        c := ([s.me.status p.toNat == v, s.me.status p.toNat != v] : List Bool).getD t.toNat false }) ∧
    ResultSteer (.tstq sy g p v t) g.toNat (fun _ => t.toNat < 4)
      (fun s => { s.steer g.toNat with
        c := ([count s == v.toNat, count s != v.toNat, decide (v.toNat ≤ count s), decide (count s < v.toNat)] : List Bool).getD t.toNat
          false }) ∧
    ResultSteer (.tstm sy g p v t) g.toNat (fun _ => t.toNat < 4)
      (fun s => { s.steer g.toNat with
        c := ([(List.range 64).all fun k => !(s.mask p.toNat).getLsbD k, (List.range 64).any fun k => (s.mask p.toNat).getLsbD k,
          (List.range 64).all fun k => (s.mask p.toNat).getLsbD k, (List.range 64).any fun k => !(s.mask p.toNat).getLsbD k] :
            List Bool).getD t.toNat false })

/-- R210, R211, R234: a block header pushes its entry; a count of 0 skips the body; a length that is odd or outside 2 to 1,022, a fifth
level, or a body that leaves the enclosing one is BLOCK at the header. -/
def Obligations.BlockHeaders : Prop :=
  ∀ (s : State) (l : BitVec 10) (i : Instr) (n : BitVec 32),
    ((∃ c : BitVec 9, i = .blk l c ∧ n = BitVec.ofNat 32 c.toNat) ∨
      (∃ r : BitVec 5, i = .blkr l r ∧ n = BitVec.ofNat 32 (s.x r.toNat).toNat)) →
    s.mayIssue i = true →
    let start := s.me.pc + 2
    let stop := start + BitVec.ofNat 16 l.toNat
    let fits := l.toNat % 2 = 0 ∧ 2 ≤ l.toNat ∧ l.toNat ≤ 1022 ∧ s.me.stack.length < 4 ∧ ∀ b ∈ s.me.stack.head?, stop ≤ b.stop
    (fits → n ≠ 0 → Flows s i [] start (⟨start, stop, n⟩ :: s.me.stack)) ∧
    (fits → n = 0 → Flows s i [] (endcheck stop s.me.stack).1 (endcheck stop s.me.stack).2) ∧
    (¬ fits → Raises s i { kind := 8, cause := 5 })

/-- R211, R240: at the end of a body its counter falls and the body runs again, or the entry is popped and the outer body's end is looked
at; elsewhere the stream goes on at the next halfword address. -/
def Obligations.BodiesRepeat : Prop :=
  ∀ (s : State) (sy : Sync) (b : Block) (rest : List Block),
    (∀ i w, ((i = .nop sy ∧ w = 2) ∨ (i = .compactNop ∧ w = 1)) → s.mayIssue i = true → s.me.stack = b :: rest →
      (s.me.pc + w ≠ b.stop → Flows s i [] (s.me.pc + w) (b :: rest)) ∧
      (s.me.pc + w = b.stop → 1 < b.count → Flows s i [] b.start ({ b with count := b.count - 1 } :: rest)) ∧
      (s.me.pc + w = b.stop → b.count = 1 → Flows s i [] (endcheck b.stop rest).1 (endcheck b.stop rest).2))

/-- R213, R236, R208: a branch that is not taken passes on; a taken one goes to the header that its steer register names, and keeps the
block-stack entries whose bodies contain it; with no target prepared, or no header there, it is BLOCK. -/
def Obligations.Branches : Prop :=
  ∀ (s : State) (sy : Sync) (g : BitVec 4),
    let r := s.steer g.toNat
    let inner := s.me.stack.filter fun b => decide (b.start ≤ r.tgt.setWidth 16) && decide (r.tgt.setWidth 16 < b.stop)
    let lands := r.tv = true ∧ s.cur.headerAt s.focus.cl r.tgt.toNat = true
    (∀ i, s.mayIssue i = true →
      ((i = .br sy g ∨ i = .brl sy g) → r.c = false →
        Flows s i [] (endcheck (s.me.pc + 2) s.me.stack).1 (endcheck (s.me.pc + 2) s.me.stack).2) ∧
      (i = .compactBr g → r.c = false →
        Flows s i [] (endcheck (s.me.pc + 1) s.me.stack).1 (endcheck (s.me.pc + 1) s.me.stack).2) ∧
      ((((i = .br sy g ∨ i = .compactBr g) ∧ r.c = true) ∨ i = .ret sy g) → lands → Flows s i [] (r.tgt.setWidth 16) inner) ∧
      (i = .brl sy g → r.c = true → lands → ∃ t, exec i s = .next t ∧ t.me.pc = r.tgt.setWidth 16 ∧ t.me.stack = inner ∧
        t.steer g.toNat = { r with tgt := (s.me.pc + 2).setWidth 15 } ∧ (∀ n, n ≠ g.toNat → t.steer n = s.steer n) ∧
        s.keepsBut t [.steer]) ∧
      ((((i = .br sy g ∨ i = .brl sy g ∨ i = .compactBr g) ∧ r.c = true) ∨ i = .ret sy g) → ¬ lands →
        Raises s i { kind := 8, cause := 5 }))

/-- R239: `fork` and `join` change the join set and nothing else; `join` adds no cluster that has halted.
R240 to R242, R251: with no drain request `yield` passes on as `nop`; with one, its stream stops at it; A stops at `swap`; `halt`
ends its stream, which leaves the join set. The stops and the halt come once the stream's accesses have completed. The halt of A arrives at
the armed barriers that count its core: at one that needs more it is counted, and one that it completes is disarmed and its waiting
members go on. -/
def Obligations.StreamControl : Prop :=
  (∀ (s : State) (sy : Sync) (m : BitVec 4),
     (s.mayIssue (.fork sy m) = true → ∃ t, exec (.fork sy m) s = .next t ∧
       t.cur.ctl = { s.cur.ctl with joinSet := s.cur.ctl.joinSet &&& ~~~m } ∧ s.keepsBut t [.ctl] ∧ s.passed t 2) ∧
     (s.mayIssue (.join sy m) = true → ∃ t, exec (.join sy m) s = .next t ∧
       t.cur.ctl = { s.cur.ctl with joinSet := s.cur.ctl.joinSet ||| (m &&& ~~~s.cur.haltedBits) } ∧ s.keepsBut t [.ctl] ∧ s.passed t 2)) ∧
  (∀ (s : State) (sy : Sync),
     (∀ i w, ((i = .yield sy ∧ w = 2) ∨ (i = .compactYield ∧ w = 1)) → s.mayIssue i = true →
       (s.drainPending s.focus.core = false →
         Flows s i [] (endcheck (s.me.pc + w) s.me.stack).1 (endcheck (s.me.pc + w) s.me.stack).2) ∧
       (s.drainPending s.focus.core = true → s.opsOf s.focus = [] →
         ∃ t, exec i s = .next t ∧ t.me.run = .atYield ∧ t.me.pc = s.me.pc ∧ t.me.stack = s.me.stack ∧ s.keepsBut t [.run])) ∧
     (s.mayIssue (.swap sy) = true → s.opsOf s.focus = [] →
       ∃ t, exec (.swap sy) s = .next t ∧ t.me.run = .atSwap ∧ t.me.pc = s.me.pc ∧ s.keepsBut t [.run]) ∧
     (s.mayIssue (.halt sy) = true → s.opsOf s.focus = [] →
       let n := s.focus.core.index
       let counts := fun (g : Gang) => g.barriers.filter fun b => b.members.contains n && !b.waiting.contains n
       let ends := fun (t : State) => exec (.halt sy) s = .next t ∧ t.me.run = .halted ∧
         t.cur.ctl.joinSet = s.cur.ctl.joinSet &&& ~~~s.focus.cl.joinBit
       ((s.focus.cl = .a → ∀ g, s.gangOf s.focus.core = some g → counts g = []) →
         ∃ t, ends t ∧ t.cur.ctl = { s.cur.ctl with joinSet := s.cur.ctl.joinSet &&& ~~~s.focus.cl.joinBit } ∧ s.keepsBut t [.run, .ctl]) ∧
       (∀ g b, s.focus.cl = .a → s.gangOf s.focus.core = some g → counts g = [b] →
         let bs := g.barriers.map fun x => if x = b then { b with got := b.got + 1 } else x
         (b.got + 1 < b.need → ∃ t, ends t ∧ t.sched = (s.setGang { g with barriers := bs }).sched ∧ s.keepsBut t [.run, .ctl, .system]) ∧
         (b.got + 1 = b.need → b.flip = false → (∀ w ∈ b.waiting, CoreId.ofIndex w ≠ s.focus.core) →
           ∃ t, ends t ∧ t.sched = (s.setGang { g with barriers := bs.filter fun x => decide (x ≠ { b with got := b.got + 1 }) }).sched ∧
             ∀ w ∈ b.waiting, (t.stream (streamA w)).run = .running))))


/-- R243: `tfence` raises an arithmetic trap where `pend` is set or a sticky flag is enabled; the trap clears `pend` and leaves the
sticky flags; otherwise it passes on. -/
def Obligations.ArithmeticTrap : Prop :=
  ∀ (s : State) (sy : Sync), s.mayIssue (.tfence sy) = true →
    let f := s.me.reg 0
    let due := bit f 16 = true ∨ field f 0 8 &&& field f 8 8 ≠ 0
    (¬ due → Flows s (.tfence sy) [] (endcheck (s.me.pc + 2) s.me.stack).1 (endcheck (s.me.pc + 2) s.me.stack).2) ∧
    (due → ∃ t, exec (.tfence sy) s = .next t ∧ s.raised t { kind := 10, cause := 0, aux := field f 0 17 } ∧
      t.me.reg 0 = setBit f 16 false ∧ ∀ n, t.x n = s.x n)

/-- R244, R245: a host trap parks its stream with the code; a local trap of A saves pc and block stack in the trap frame and goes to the
header that g11 names; `eret` restores them and empties the frame. -/
def Obligations.TrapsAndReturns : Prop :=
  ∀ (s : State) (sy : Sync) (c : BitVec 16),
    (s.mayIssue (.trap sy c) = true →
      let host := c.toNat < 0x8000 ∨ s.focus.cl ≠ .a ∨ s.cur.regs.frame.isSome = true
      let lands := (s.steer 11).tv = true ∧ s.cur.headerAt .a (s.steer 11).tgt.toNat = true
      (host → Raises s (.trap sy c) { kind := 11, cause := 0, addr := c.toNat }) ∧
      (¬ host → lands → ∃ t, exec (.trap sy c) s = .next t ∧ t.me.pc = (s.steer 11).tgt.setWidth 16 ∧ t.me.stack = [] ∧
        t.cur.regs = { s.cur.regs with frame := some ⟨s.me.pc + 2, s.me.stack, c⟩ } ∧ s.keepsBut t [.rings]) ∧
      (¬ host → ¬ lands → Raises s (.trap sy c) { kind := 8, cause := 5 })) ∧
    (s.mayIssue (.eret sy) = true →
      (∀ f, s.cur.regs.frame = some f → ∃ t, exec (.eret sy) s = .next t ∧ t.me.pc = (endcheck f.pc f.stack).1 ∧
        t.me.stack = (endcheck f.pc f.stack).2 ∧ t.cur.regs = { s.cur.regs with frame := none } ∧ s.keepsBut t [.rings]) ∧
      (s.cur.regs.frame = none → Raises s (.eret sy) { kind := 8, cause := 5 }))

/-! ## Integer and address arithmetic (12_isa_control.md) -/

/-- R246: the register forms but the divisions: their layout, what each writes, and that the codes outside the table are no instruction. -/
def Obligations.IntegerRegisterForms : Prop :=
  ∀ (sy : Sync) (d a b : BitVec 5),
    let word := fun (major x : Nat) =>
      2 ^ 31 + sy.toNat * 2 ^ 26 + major * 2 ^ 19 + d.toNat * 2 ^ 14 + a.toNat * 2 ^ 9 + b.toNat * 2 ^ 4 + x
    (∀ e ∈ ([(0x10, 0, .add sy d a b, fun x y => BitVec.ofNat 64 (x.toNat + y.toNat)),
        (0x10, 1, .sub sy d a b, fun x y => BitVec.ofInt 64 ((x.toNat : Int) - y.toNat)),
        (0x10, 2, .mul sy d a b, fun x y => BitVec.ofNat 64 (x.toNat * y.toNat)),
        (0x10, 3, .mulh sy d a b, fun x y => (x.signExtend 128 * y.signExtend 128).extractLsb' 64 64),
        (0x10, 4, .mulhu sy d a b, fun x y => BitVec.ofNat 64 (x.toNat * y.toNat / 2 ^ 64)),
        (0x11, 0, .and sy d a b, fun x y => x &&& y),
        (0x11, 1, .or sy d a b, fun x y => x ||| y),
        (0x11, 2, .xor sy d a b, fun x y => x ^^^ y),
        (0x11, 3, .shl sy d a b, fun x y => BitVec.ofNat 64 (x.toNat * 2 ^ (y.toNat % 64))),
        (0x11, 4, .shr sy d a b, fun x y => BitVec.ofNat 64 (x.toNat / 2 ^ (y.toNat % 64))),
        (0x11, 5, .sar sy d a b, fun x y => BitVec.ofInt 64 (x.toInt / 2 ^ (y.toNat % 64))),
        (0x11, 6, .min sy d a b, fun x y => BitVec.ofInt 64 (Min.min x.toInt y.toInt)),
        (0x11, 7, .max sy d a b, fun x y => BitVec.ofInt 64 (Max.max x.toInt y.toInt)),
        (0x11, 8, .minu sy d a b, fun x y => BitVec.ofNat 64 (Min.min x.toNat y.toNat)),
        (0x11, 9, .maxu sy d a b, fun x y => BitVec.ofNat 64 (Max.max x.toNat y.toNat))] :
          List (Nat × Nat × Instr × (Word → Word → Word))),
      decodeContainer (word e.1 e.2.1) false = .ok e.2.2.1 ∧ ResultX e.2.2.1 d.toNat 2 fun s => e.2.2.2 (s.x a.toNat) (s.x b.toNat)) ∧
    (∀ e ∈ ([(5, .div sy d a b), (6, .divu sy d a b), (7, .rem sy d a b), (8, .remu sy d a b)] : List (Nat × Instr)),
      decodeContainer (word 0x10 e.1) false = .ok e.2) ∧
    (∀ x < 16, 8 < x → decodeContainer (word 0x10 x) false = .undef) ∧
    (∀ x < 16, 9 < x → decodeContainer (word 0x11 x) false = .undef)

/-- R249: `sext` and `zext`: their layout, what they write, and that n = 0 is no instruction. -/
def Obligations.FieldExtension : Prop :=
  ∀ (sy : Sync) (d a : BitVec 5) (n : BitVec 6),
    let word := fun (z : Nat) => 2 ^ 31 + sy.toNat * 2 ^ 26 + 0x15 * 2 ^ 19 + d.toNat * 2 ^ 14 + a.toNat * 2 ^ 9 + z * 2 ^ 8 + n.toNat * 2 ^ 2
    (n ≠ 0 → decodeContainer (word 0) false = .ok (.sext sy d a n) ∧ decodeContainer (word 1) false = .ok (.zext sy d a n)) ∧
    (n = 0 → decodeContainer (word 0) false = .undef ∧ decodeContainer (word 1) false = .undef) ∧
    ResultX (.sext sy d a n) d.toNat 2 (fun s => ((s.x a.toNat).setWidth n.toNat).signExtend 64) ∧
    ResultX (.zext sy d a n) d.toNat 2 (fun s => ((s.x a.toNat).setWidth n.toNat).setWidth 64)

/-- R247: the division forms with a divisor other than 0; −2^63 divided by −1 is −2^63 with remainder 0, by the same expressions. -/
def Obligations.DivisionForms : Prop :=
  ∀ (s : State) (sy : Sync) (d a b : BitVec 5),
    (∀ e ∈ ([(.div sy d a b, fun x y => if y = 0 then BitVec.allOnes 64 else BitVec.ofInt 64 (x.toInt.tdiv y.toInt)),
        (.divu sy d a b, fun x y => if y = 0 then BitVec.allOnes 64 else BitVec.ofNat 64 (x.toNat / y.toNat)),
        (.rem sy d a b, fun x y => if y = 0 then x else BitVec.ofInt 64 (x.toInt - y.toInt * x.toInt.tdiv y.toInt)),
        (.remu sy d a b, fun x y => if y = 0 then x else BitVec.ofNat 64 (x.toNat - y.toNat * (x.toNat / y.toNat)))] :
          List (Instr × (Word → Word → Word))),
      s.mayIssue e.1 = true →
        (s.x b.toNat ≠ 0 → ∃ t, exec e.1 s = .next t ∧ t.x d.toNat = e.2 (s.x a.toNat) (s.x b.toNat) ∧ s.wroteX t d.toNat 2) ∧
        (s.x b.toNat = 0 → ∃ t, exec e.1 s = .next t ∧ t.x d.toNat = e.2 (s.x a.toNat) (s.x b.toNat) ∧ bit (t.me.reg 0) 1 = true ∧
          (∀ n, n ≠ d.toNat → t.x n = s.x n) ∧ s.passed t 2))

/-- R248, R250, R208: `sel`, `lea`, the unary forms, the immediate forms, and the compact forms that behave as them; a
compact word is one halfword wide. -/
def Obligations.IntegerUnaryAndImmediateForms : Prop :=
  (∀ (sy : Sync) (d a b : BitVec 5) (g h : BitVec 4),
      ResultX (.sel sy d a b g) d.toNat 2 (fun s => if (s.steer g.toNat).c then s.x a.toNat else s.x b.toNat) ∧
      ResultX (.lea sy d a b h) d.toNat 2 (fun s => BitVec.ofNat 64 ((s.x a.toNat).toNat + (s.x b.toNat).toNat * 2 ^ h.toNat)) ∧
      ResultX (.clz sy d a) d.toNat 2 (fun s => if s.x a.toNat = 0 then 64 else BitVec.ofNat 64 (63 - Nat.log2 (s.x a.toNat).toNat)) ∧
      ResultX (.ctz sy d a) d.toNat 2
        (fun s => BitVec.ofNat 64 (((List.range 64).find? fun k => (s.x a.toNat).getLsbD k).getD 64)) ∧
      ResultX (.popc sy d a) d.toNat 2 (fun s => BitVec.ofNat 64 ((List.range 64).countP fun k => (s.x a.toNat).getLsbD k)) ∧
      ResultX (.ffs sy d a) d.toNat 2
        (fun s => match (List.range 64).find? fun k => (s.x a.toNat).getLsbD k with | some k => BitVec.ofNat 64 (1 + k) | none => 0) ∧
      ResultX (.mov sy d a) d.toNat 2 (fun s => s.x a.toNat)) ∧
  (∀ (sy : Sync) (d a : BitVec 5) (imm : BitVec 9) (h : BitVec 6) (w : BitVec 14) (c : BitVec 5),
      ResultX (.addi sy d a imm) d.toNat 2 (fun s => BitVec.ofInt 64 ((s.x a.toNat).toNat + imm.toInt)) ∧
      ResultX (.andi sy d a imm) d.toNat 2 (fun s => s.x a.toNat &&& BitVec.ofInt 64 imm.toInt) ∧
      ResultX (.ori sy d a imm) d.toNat 2 (fun s => s.x a.toNat ||| BitVec.ofNat 64 imm.toNat) ∧
      ResultX (.xori sy d a imm) d.toNat 2 (fun s => s.x a.toNat ^^^ BitVec.ofNat 64 imm.toNat) ∧
      ResultX (.shli sy d a h) d.toNat 2 (fun s => BitVec.ofNat 64 ((s.x a.toNat).toNat * 2 ^ h.toNat)) ∧
      ResultX (.shri sy d a h) d.toNat 2 (fun s => BitVec.ofNat 64 ((s.x a.toNat).toNat / 2 ^ h.toNat)) ∧
      ResultX (.sari sy d a h) d.toNat 2 (fun s => BitVec.ofInt 64 ((s.x a.toNat).toInt / 2 ^ h.toNat)) ∧
      ResultX (.movi sy d w) d.toNat 2 (fun _ => BitVec.ofInt 64 w.toInt) ∧
      ResultX (.movh sy d w) d.toNat 2 (fun s => BitVec.ofNat 64 ((s.x d.toNat).toNat * 2 ^ 14 + w.toNat)) ∧
      ResultX (.compactMov d a) d.toNat 1 (fun s => s.x a.toNat) ∧
      ResultX (.compactAdd d a) d.toNat 1 (fun s => BitVec.ofNat 64 ((s.x d.toNat).toNat + (s.x a.toNat).toNat)) ∧
      ResultX (.compactSub d a) d.toNat 1 (fun s => BitVec.ofInt 64 (((s.x d.toNat).toNat : Int) - (s.x a.toNat).toNat)) ∧
      ResultX (.compactAnd d a) d.toNat 1 (fun s => s.x d.toNat &&& s.x a.toNat) ∧
      ResultX (.compactAddi d c) d.toNat 1 (fun s => BitVec.ofInt 64 ((s.x d.toNat).toNat + c.toInt)) ∧
      ResultX (.compactShli d c) d.toNat 1 (fun s => BitVec.ofNat 64 ((s.x d.toNat).toNat * 2 ^ c.toNat)) ∧
      ResultX (.compactShri d c) d.toNat 1 (fun s => BitVec.ofNat 64 ((s.x d.toNat).toNat / 2 ^ c.toNat)) ∧
      ResultX (.compactMovi d c) d.toNat 1 (fun _ => BitVec.ofInt 64 c.toInt))


/-! ## Domain memory (13_isa_memory.md) -/

namespace Sys2Proof.Machine

/-- An access of n bytes at a virtual address is one that the core's micro-TLB translates to address `a` of the issuing die's local memory,
which allows it, and the bytes lie within one line (R79, R82, R87). -/
def State.reaches (s : State) (va n a : Nat) (write : Bool) : Prop :=
  let d := s.focus.core.die
  va < 2 ^ 48 ∧ bit (s.dieReg d 0x101) 0 = true ∧ (∀ e ∈ s.cur.store.walked, e.va ≠ va) ∧
    (∃ e, lookupTlb s.cur.store.utlb (s.cur.reg 0x40).toNat va = some e ∧ e.check write true = none ∧ s.place d e va = (s.dieNum d, a)) ∧
    s.inDomain d (s.dieNum d) = true ∧ s.ownDie (s.dieNum d) = some d ∧ va % 128 + n ≤ 128 ∧ a % 128 = va % 128 ∧ a + n ≤ field (s.here.reg 0 0x100) 0 9 * 2 ^ 30 ∧
    a + n ≤ 0x6000000000

/-- No core holds a line in its L1, and it is not poisoned (R150, R172). -/
def Die.unheld (d : Die) (line : Nat) : Prop := d.poisoned line = false ∧ ∀ c, (d.core c).l1Line line = ⟨0, 0, 0⟩

/-- No access and no write-through is outstanding in the package, the stream has no counted stream open (R280), and its core's L1 has a free
line. -/
def State.idleMemory (s : State) : Prop := s.ops = [] ∧ s.pendingWrites = false ∧ s.me.streams = 0 ∧ s.cur.store.l1.length < 4096

/-- The stream in focus has sent operation `o`, which has been performed with OK: the plain form holds the stream at its instruction, the
`.s` form has passed on (R258). -/
def State.sentOp (s t : State) (i : Instr) (plain : Bool) (o : Op) : Prop :=
  t.op? s.nextOp = some o ∧ t.nextOp = s.nextOp + 1 ∧ o.owner = s.focus ∧ o.plain = plain ∧ o.performed = true ∧ o.status = Status.ok ∧
    (if plain then t.me.hold = some s.nextOp ∧ t.me.pc = s.me.pc ∧ t.me.stack = s.me.stack
     else t.me.hold = none ∧ s.passed t (instrWidth i))

/-- An access leaves everything but the pieces listed, the operation that it sends, the L1 and its fill counter. -/
def State.keepsAccess (s t : State) (l : List Piece) : Prop :=
  s.keepsBut t ([.status, .run, .store, .ops, .coreCsr] ++ l) ∧ t.me.p = s.me.p ∧ t.me.run = s.me.run ∧
    { t.cur.store with l1 := [] } = { s.cur.store with l1 := [] } ∧ ∀ n, n ≠ 0x72 → t.cur.reg n = s.cur.reg n

end Sys2Proof.Machine

/-- R262, R208, R258: a load of local memory through the core's L1 sends an operation that holds the bytes for rd, zero-extended; it
changes no byte of memory. Where the L1 holds the words, it gives the L1's. -/
def Obligations.Loads : Prop :=
  ∀ (s : State) (sy d b : BitVec 5) (z : BitVec 2) (o p : BitVec 3) (f : BitVec 4) (a : Nat),
    let asserts := fun (i : Instr) (n off preg : Nat) (plain : Bool) =>
      let va := (s.x b.toNat + BitVec.ofNat 64 (off * n)).toNat
      let line := s.cur.l1Line (a / 128)
      s.mayIssue i = true → s.idleMemory → s.reaches va n a false →
        (s.here.unheld (a / 128) → ∃ t q, exec i s = .next t ∧ s.sentOp t i plain q ∧ q.dest = .x d.toNat ∧ q.size = n ∧ q.preg = preg ∧
          readBytes q.data 0 n = readBytes s.here.mem a n ∧ s.keepsAccess t []) ∧
        (line.valid &&& wordMask (a % 128) n = wordMask (a % 128) n → ∃ t q, exec i s = .next t ∧ s.sentOp t i plain q ∧
          q.dest = .x d.toNat ∧ q.size = n ∧ q.preg = preg ∧
          readBytes q.data 0 n = (List.range n).map (fun k => line.data.extractLsb' (8 * (a % 128 + k)) 8) ∧ s.keepsAccess t [])
    asserts (.ld sy d b z o f) (2 ^ z.toNat) f.toNat 0 true ∧ asserts (.ldS sy d b z o p) (2 ^ z.toNat) 0 p.toNat false ∧
      asserts (.compactLd d b) 8 0 0 true

/-- R262, R208, R172: a store of local memory leaves the low bytes of rd at its address, and every other byte as it was. -/
def Obligations.Stores : Prop :=
  ∀ (s : State) (sy d b : BitVec 5) (z : BitVec 2) (o p : BitVec 3) (f : BitVec 4) (a : Nat),
    let asserts := fun (i : Instr) (n off preg : Nat) (plain : Bool) =>
      s.mayIssue i = true → s.idleMemory → s.reaches (s.x b.toNat + BitVec.ofNat 64 (off * n)).toNat n a true → s.here.unheld (a / 128) →
        ∃ t q, exec i s = .next t ∧ s.sentOp t i plain q ∧ q.dest = .none ∧ q.preg = preg ∧
          (∀ k, k < n → t.here.byteAt (a + k) = (s.x d.toNat).extractLsb' (8 * k) 8) ∧
          (∀ e x, (e = s.focus.core.die → x < a ∨ a + n ≤ x) → (t.die e).byteAt x = (s.die e).byteAt x) ∧
          (∀ e, (t.die e).commons = (s.die e).commons) ∧ s.keepsAccess t [.memory]
    asserts (.st sy d b z o f) (2 ^ z.toNat) f.toNat 0 true ∧ asserts (.stS sy d b z o p) (2 ^ z.toNat) 0 p.toNat false ∧
      asserts (.compactSt d b) 8 0 0 true

/-- R264, R265: an atomic of domain memory replaces the value at its address and holds the old one, zero-extended, for a(2n + 1). -/
def Obligations.AtomicsOfMemory : Prop :=
  ∀ (s : State) (sy n : BitVec 5) (r c : BitVec 4) (z : BitVec 1) (o p : BitVec 3) (a : Nat),
    let x := s.x (2 * r.toNat + 1)
    let above := fun (x old : Nat) => decide ((BitVec.ofNat 64 old).toInt < (BitVec.ofNat 64 x).toInt)
    let result := fun (w old x : Nat) => ([(old + x) % 2 ^ w, (old + x) % 2 ^ w, old &&& x, old &&& x, old ||| x, old ||| x,
      old ^^^ x, old ^^^ x, x, x, if above x old then x else old, if above old x then x else old, Max.max old x, Min.min old x,
      rne32 ((v32 old).add (v32 x)).1, rne32 ((v32 old).max (v32 x))] : List Nat).getD c.toNat 0
    let asserts := fun (i : Instr) (k : Nat) (new : Nat → Nat) =>
      let va := (s.x (2 * r.toNat)).toNat
      s.mayIssue i = true →
        (va % k = 0 → s.idleMemory → s.reaches va k a true → s.here.unheld (a / 128) →
          ∃ t q, exec i s = .next t ∧ s.sentOp t i (decide (p = 0)) q ∧ q.dest = .x (2 * r.toNat + 1) ∧ q.size = k ∧ q.preg = p.toNat ∧
            readNat q.data 0 k = readNat s.here.mem a k ∧ readNat t.here.mem a k = new (readNat s.here.mem a k) % 2 ^ (8 * k) ∧
            (∀ e x, (e = s.focus.core.die → x < a ∨ a + k ≤ x) → (t.die e).byteAt x = (s.die e).byteAt x) ∧
            s.keepsAccess t [.memory]) ∧
        (va % k ≠ 0 → Raises s i { kind := 1, cause := 6, addr := va })
    let k := if c.toNat < 10 then (if c.toNat % 2 = 0 then 4 else 8) else if c.toNat < 14 then 8 else 4
    let m := if z = 0 then 4 else 8
    asserts (.amo sy r c o p) k (fun old => result (8 * k) old (x.toNat % 2 ^ (8 * k))) ∧
      asserts (.cas sy r n z o p) m (fun old => if old = x.toNat % 2 ^ (8 * m) then (s.x n.toNat).toNat % 2 ^ (8 * m) else old)

/-- R263: `ldq` reserves the next entry of its queue at issue and sends its load. -/
def Obligations.QueueLoads : Prop :=
  ∀ (s : State) (sy : Sync) (q : BitVec 4) (b : BitVec 5) (z : BitVec 2) (o p : BitVec 3) (a : Nat),
    let i : Instr := .ldq sy q b z o p
    let n := 2 ^ z.toNat
    s.mayIssue i = true → s.idleMemory →
      ((s.cur.queue q.toNat).length < queueDepth q.toNat → s.reaches (s.x b.toNat).toNat n a false → s.here.unheld (a / 128) →
        ∃ t r, exec i s = .next t ∧ s.sentOp t i (p == 0) r ∧ r.dest = .queue q.toNat ∧ r.size = n ∧ r.preg = p.toNat ∧
          readBytes r.data 0 n = readBytes s.here.mem a n ∧ t.cur.queue q.toNat = s.cur.queue q.toNat ++ [.reserved s.nextOp] ∧
          (∀ k, k ≠ q.toNat → t.cur.queue k = s.cur.queue k) ∧
          s.keepsBut t [.status, .run, .store, .ops, .coreCsr] ∧ t.me.p = s.me.p ∧ t.cur.store.spad = s.cur.store.spad) ∧
      (queueDepth q.toNat ≤ (s.cur.queue q.toNat).length → ∃ t, exec i s = .next t ∧ t = s.blocked (.queueWrite q.toNat))

/-- R78, R79: an address of 2^48 or above, and a die whose translation is off, raise NOMAP at the instruction, which performs nothing.
R261: a fence whose earlier accesses have been performed, and at `.sys` have completed with no write-through outstanding (log 21), passes
on; otherwise it waits. -/
def Obligations.FencesAndUnmappedAccesses : Prop :=
  (∀ (s : State) (sy d b : BitVec 5) (z : BitVec 2) (o p : BitVec 3) (f : BitVec 4),
     let off := fun (va : Nat) => 2 ^ 48 ≤ va ∨ bit (s.dieReg s.focus.core.die 0x101) 0 = false
     let asserts := fun (i : Instr) (va : Nat) => s.mayIssue i = true → off va → Raises s i { kind := 1, cause := 1, addr := va }
     let at4 := (s.x b.toNat + BitVec.ofNat 64 (f.toNat * 2 ^ z.toNat)).toNat
     asserts (.ld sy d b z o f) at4 ∧ asserts (.st sy d b z o f) at4 ∧ asserts (.ldS sy d b z o p) (s.x b.toNat).toNat ∧
       asserts (.stS sy d b z o p) (s.x b.toNat).toNat ∧ asserts (.compactLd d b) (s.x b.toNat).toNat ∧ asserts (.compactSt d b) (s.x b.toNat).toNat) ∧
  (∀ (s : State) (sy : Sync) (o : BitVec 3) (u : BitVec 1), s.mayIssue (.fence sy o u) = true →
     let clear := if o = 7 then s.opsOf s.focus = [] ∧ s.pendingWrites = false else ∀ q ∈ s.opsOf s.focus, q.outstanding = false
     (clear → Flows s (.fence sy o u) [] (endcheck (s.me.pc + 2) s.me.stack).1 (endcheck (s.me.pc + 2) s.me.stack).2) ∧
       (¬ clear → exec (.fence sy o u) s = .next (s.blocked .access)))


/-- R258: an access completes. With OK its destination is written, or it has none, the plain form's stream goes on after the instruction and
the `.s` form writes its status; with another status the plain form raises a remote fault at the instruction and the `.s` form writes the
status; the destination is then left as it was, a queue's reserved entry being given back by the plain form and filled with 0 by the `.s` form
(R263). A store of an accumulator pulses source 10 of its core's crossbar besides (R381). -/
def Obligations.AccessesComplete : Prop :=
  ∀ (s : State) (id : Nat) (o : Op), s.op? id = some o → o.performed = true → o.grow = none → s.awayOp id = false →
    (s.stream o.owner).run ≠ .atGrow id →
    let u := { s with focus := o.owner }
    let width := match s.instrAt o.owner with | some j => instrWidth j | none => 2
    let value := BitVec.ofNat 64 (readNat o.data 0 o.size)
    let asserts := fun (l : List Piece) (written failed : State → Prop) =>
      ∃ t, exec (.memoryAccessComplete id) s = .next t ∧
        let v := { t with focus := o.owner }
        (∀ q ∈ t.ops, q.id ≠ id) ∧ (∀ q ∈ s.ops, q.id ≠ id → q ∈ t.ops) ∧
        (o.status = Status.ok → written v ∧
          (o.plain = true → o.preg = 0 → v.me.hold = none ∧ v.me.run = .running ∧ u.passed v width ∧
            u.keepsBut v ([.status, .run, .ops] ++ l) ∧ v.me.p = u.me.p) ∧
          (o.plain = false → v.me.pc = u.me.pc ∧ (∀ k, v.me.status k = if k = o.preg ∧ k ≠ 0 then Status.ok else u.me.status k) ∧
            u.keepsBut v ([.status, .ops] ++ l))) ∧
        (o.status ≠ Status.ok → failed v ∧
          (o.plain = true → u.raised v { kind := 7, cause := o.status.toNat, addr := o.failAddr }) ∧
          (o.plain = false → (∀ k, v.me.status k = if k = o.preg ∧ k ≠ 0 then o.status else u.me.status k) ∧
            u.keepsBut v ([.status, .ops] ++ l)))
    (∀ n, o.dest = .x n → o.isTileStore = false →
      asserts [.x] (fun v => v.x n = value ∧ ∀ k, k ≠ n → v.x k = u.x k) (fun v => ∀ k, v.x k = u.x k)) ∧
    (o.dest = .none → o.isTileStore = false → asserts [] (fun v => ∀ k, v.x k = u.x k) (fun v => ∀ k, v.x k = u.x k)) ∧
    (∀ q, o.dest = .queue q → o.isTileStore = false →
      let entries := fun (f : QEntry → List QEntry) (v : State) => v.cur.queue q = (u.cur.queue q).flatMap f ∧
        (∀ k, k ≠ q → v.cur.queue k = u.cur.queue k) ∧ v.cur.store.spad = u.cur.store.spad
      asserts [.store] (entries fun e => if e = .reserved id then [.filled value] else [e])
        (entries fun e => if e = .reserved id then (if o.plain then [] else [.filled 0]) else [e])) ∧
    (∀ d m, o.dest = .v d m → o.isTileStore = false →
      asserts [.vectors]
        (fun v => (∀ k < 64, v.lane d k = if m.getLsbD k then readNat o.data (4 * k) 4 else u.lane d k) ∧ ∀ k, k ≠ d → v.vec k = u.vec k)
        (fun v => ∀ k, v.vec k = u.vec k)) ∧
    (∀ d, o.dest = .k d → o.isTileStore = false →
      asserts [.caps]
        (fun v => v.cap d = ⟨BitVec.ofNat 128 (readNat o.data 0 16), readNat o.data 16 1 == 1⟩ ∧ ∀ k, k ≠ d → v.cap k = u.cap k)
        (fun v => ∀ k, v.cap k = u.cap k)) ∧
    (∀ z, o.dest = .tile z → o.isTileStore = false →
      asserts [.tiles]
        (fun v => (∀ r < 64, ∀ k < 64, cell (v.tile z) r k = readNat o.data (4 * (64 * r + k)) 4) ∧ ∀ k, k ≠ z → v.tile k = u.tile k)
        (fun v => ∀ k, v.tile k = u.tile k)) ∧
    (o.dest = .none → o.isTileStore = true → o.status = Status.ok → u.cur.ex.deferred.contains 10 = true →
      ∃ t, exec (.memoryAccessComplete id) s = .next t ∧
        let v := { t with focus := o.owner }
        (∀ q ∈ t.ops, q.id ≠ id) ∧ v.cur.ex.deferred = u.cur.ex.deferred ++ [10] ∧
        (o.plain = true → o.preg = 0 → v.me.hold = none ∧ v.me.run = .running ∧ u.passed v width) ∧ ∀ k, v.x k = u.x k)

/-! ## Untranslated storage and the map unit (13_isa_memory.md, 09_core_memory.md) -/

namespace Sys2Proof.Machine

/-- The lines that an untranslated access touches can be read now, and the stream has no failed fill's status to take (R170). -/
def State.linesReady (s : State) (a n : Nat) : Prop :=
  a / 2 ^ 30 % 4 = 0 → (∀ l st va, s.me.wait ≠ some (.lineFailed l st va)) ∧ ∀ l, a % 2 ^ 26 / 4096 ≤ l → l < (a % 2 ^ 26 + n + 4095) / 4096 → s.cur.line l ≠ .absent ∧ s.cur.line l ≠ .filling

/-- The storage that an untranslated address names (R152). -/
def State.storageOf (s : State) (a : Nat) : Memory :=
  if a / 2 ^ 30 % 4 = 0 then s.cur.store.spad
  else (s.die (if a / 2 ^ 30 % 4 = 2 then DieId.other s.focus.core.die else s.focus.core.die)).commons

end Sys2Proof.Machine

/-- R266, R152, R170: `lds` and `sts` of ready storage read and write the scratchpad or a Commons, little-endian, with status OK; a store
to a CLEAN line leaves it DIRTY.
R154, R168: an untranslated access outside its storage, outside the core's window or misaligned faults with the status of the first
check that it fails, and changes nothing of the stream and its core's registers. -/
def Obligations.UntranslatedAccessesAndFaults : Prop :=
  (∀ (s : State) (sy d b : BitVec 5) (z : BitVec 2) (o p : BitVec 3),
     let a := (s.x b.toNat).toNat % 2 ^ 32
     let n := 2 ^ z.toNat
     let ok := fun (t : State) => ∀ k, t.me.status k = if k = p.toNat then Status.ok else s.me.status k
     s.ops = [] → s.pendingWrites = false → s.linesReady a n →
       (s.mayIssue (.lds sy d b z o p) = true → s.untransCheck s.focus.core a n n false = none →
         ∃ t, exec (.lds sy d b z o p) s = .next t ∧ t.x d.toNat = BitVec.ofNat 64 (readNat (s.storageOf a) (a % 2 ^ 26) n) ∧
           (∀ k, k ≠ d.toNat → t.x k = s.x k) ∧ ok t ∧ s.keepsBut t [.x, .status] ∧ s.passed t 2) ∧
       (s.mayIssue (.sts sy d b z o p) = true → s.untransCheck s.focus.core a n n true = none →
         ∃ t, exec (.sts sy d b z o p) s = .next t ∧
           readBytes (t.storageOf a) (a % 2 ^ 26) n = (List.range n).map (fun k => (s.x d.toNat).extractLsb' (8 * k) 8) ∧
           (∀ x, x < a % 2 ^ 26 ∨ a % 2 ^ 26 + n ≤ x → readByte (t.storageOf a) x = readByte (s.storageOf a) x) ∧
           (a / 2 ^ 30 % 4 = 0 → ∀ l, t.cur.line l =
             if s.cur.line l = .clean ∧ a % 2 ^ 26 / 4096 ≤ l ∧ l < (a % 2 ^ 26 + n + 4095) / 4096 then .dirty else s.cur.line l) ∧
           ok t ∧ s.passed t 2 ∧
           (if a / 2 ^ 30 % 4 = 0 then s.keepsBut t [.status, .store] ∧
             { t.cur.store with spad := [], lines := [] } = { s.cur.store with spad := [], lines := [] }
            else s.keepsBut t [.status, .memory] ∧ (∀ e, (t.die e).mem = (s.die e).mem) ∧
             ∀ e, e ≠ commonsDie s.focus.core.die a → (t.die e).commons = (s.die e).commons))) ∧
  (∀ (s : State) (sy d b : BitVec 5) (z : BitVec 2) (o p : BitVec 3),
     let a := (s.x b.toNat).toNat % 2 ^ 32
     let off := a % 2 ^ 26
     let n := 2 ^ z.toNat
     let w := s.cur.reg 0x42
     let inside := field w 0 10 * 65536 ≤ off ∧ off + n ≤ (field w 0 10 + field w 32 11) * 65536
     ∀ i, (i = .lds sy d b z o p ∨ i = .sts sy d b z o p) → s.mayIssue i = true →
       (a / 2 ^ 30 = 0 → a / 2 ^ 26 % 16 ≠ 0 → Raises s i { kind := 3, cause := 4, addr := a }) ∧
       (a / 2 ^ 30 = 0 → a / 2 ^ 26 % 16 = 0 → 0x200000 < off + n → Raises s i { kind := 3, cause := 9, addr := a }) ∧
       (a / 2 ^ 30 = 0 → a / 2 ^ 26 % 16 = 0 → off + n ≤ 0x200000 → off % n ≠ 0 → Raises s i { kind := 3, cause := 4, addr := a }) ∧
       (a / 2 ^ 30 = 0 → a / 2 ^ 26 % 16 = 0 → off + n ≤ 0x200000 → off % n = 0 → i = .sts sy d b z o p →
         (∃ r, s.cur.regionOf (off / 4096) = some r ∧ s.cur.regionW r = false) → Raises s i { kind := 3, cause := 4, addr := a }) ∧
       (a / 2 ^ 30 = 3 ∨ (0 < a / 2 ^ 30 ∧ a / 2 ^ 26 % 16 ≠ 0) → Raises s i { kind := 4, cause := 4, addr := a }) ∧
       (a / 2 ^ 30 = 1 ∨ a / 2 ^ 30 = 2 → a / 2 ^ 26 % 16 = 0 → ¬ inside → Raises s i { kind := 4, cause := 9, addr := a }) ∧
       (a / 2 ^ 30 = 1 ∨ a / 2 ^ 30 = 2 → a / 2 ^ 26 % 16 = 0 → inside → off % n ≠ 0 → Raises s i { kind := 4, cause := 4, addr := a }))


/-- R277: `rinv` leaves the lines of its run ABSENT; `rmap` starts the fills of the ABSENT lines, `rflush` the write-backs of the DIRTY
ones, and each sends an operation that waits for the lines at work; a run outside its region faults. -/
def Obligations.RegionRuns : Prop :=
  ∀ (s : State) (sy a : BitVec 5) (n : BitVec 4) (o p : BitVec 3),
    let w := s.x a.toNat
    let c := s.focus.core
    let ls := (List.range (field w 16 10)).map fun k => s.cur.regionBase n.toNat + field w 0 10 + k
    let legal := s.cur.regionValid n.toNat = true ∧ 0 < field w 16 10 ∧ field w 0 10 + field w 16 10 ≤ s.cur.regionLen n.toNat
    let asserts := fun (i : Instr) (v : State) (back : Bool) (tasks : List Nat) => (∀ q ∈ v.ops, q.id ≠ v.nextOp) →
      ∃ t q, exec i s = .next t ∧ t.op? v.nextOp = some q ∧ q.owner = s.focus ∧ q.plain = decide (p = 0) ∧ q.preg = p.toNat ∧
        q.tasks = tasks.map (lineTask back) ∧ q.parts = [] ∧ t.cur.store.lines = v.cur.store.lines ∧ t.cur.store.spad = v.cur.store.spad ∧
        (if p = 0 then t.me.hold = some v.nextOp ∧ t.me.pc = s.me.pc else t.me.hold = none ∧ s.passed t 2) ∧
        ∀ k, t.x k = s.x k
    (∀ i, (i = .rinv sy n a ∨ i = .rmap sy n a p ∨ i = .rflush sy n a o p) → s.mayIssue i = true → ¬ legal →
      Raises s i { kind := 3, cause := if s.cur.regionValid n.toNat then 9 else 4, addr := 4096 * (s.cur.regionBase n.toNat + field w 0 10) }) ∧
    (s.mayIssue (.rinv sy n a) = true → legal → (∀ l ∈ ls, s.cur.line l ≠ .filling) →
      ∃ t, exec (.rinv sy n a) s = .next t ∧ (∀ l, t.cur.line l = if l ∈ ls then .absent else s.cur.line l) ∧
        s.keepsBut t [.store] ∧ { t.cur.store with lines := [] } = { s.cur.store with lines := [] } ∧ s.passed t 2) ∧
    (s.mayIssue (.rmap sy n a p) = true → s.joinsNow (.rmap sy n a p) = false → legal → s.acquiring = false →
      ∀ v, (s.take sy).startAll .absent false ls = .ok v → v.focus = s.focus →
        (∀ k, v.x k = s.x k) → v.me = (s.take sy).me → asserts (.rmap sy n a p) v false (ls.filter fun l => decide (v.cur.line l = .filling))) ∧
    (s.mayIssue (.rflush sy n a o p) = true → s.joinsNow (.rflush sy n a o p) = false → legal → s.ops = [] →
      s.pendingWrites = false →
      ∀ v, (s.take sy).startAll .dirty true ls = .ok v → v.focus = s.focus →
        (∀ k, v.x k = s.x k) → v.me = (s.take sy).me → asserts (.rflush sy n a o p) v true (ls.filter fun l => (v.lineOp c l true).isSome))

/-- R278, R169: `rcfg region` that changes nothing passes; one of a region without DIRTY lines replaces the two registers: the old
region's lines are NONE and the new one's ABSENT; a region that does not fit, or overlaps another, faults. -/
def Obligations.RegionConfiguration : Prop :=
  ∀ (s : State) (sy a b : BitVec 5) (n : BitVec 4),
    let i : Instr := .rcfgRegion sy n a b
    let va := s.x a.toNat
    let vb := s.x b.toNat
    let base := field vb 12 9
    let len := field vb 32 10
    let ra := BitVec.ofNat 64 (field va 62 2 * 2 ^ 62 + field va 12 36 * 2 ^ 12)
    let rb := BitVec.ofNat 64 (len * 2 ^ 32 + base * 2 ^ 12)
    let same := s.cur.reg (0x50 + n.toNat) = ra ∧ s.cur.reg (0x60 + n.toNat) = rb
    let overlaps := ∃ m < 16, m ≠ n.toNat ∧ s.cur.regionValid m = true ∧ base < s.cur.regionBase m + s.cur.regionLen m ∧
      s.cur.regionBase m < base + len
    let fits := bit va 63 = false ∨ (0 < len ∧ base + len ≤ 512 ∧ ¬ overlaps)
    let old := fun (l : Nat) => s.cur.regionValid n.toNat = true ∧ s.cur.regionBase n.toNat ≤ l ∧
      l < s.cur.regionBase n.toNat + s.cur.regionLen n.toNat
    let new := fun (l : Nat) => bit va 63 = true ∧ base ≤ l ∧ l < base + len
    s.mayIssue i = true →
      (fits → same → Flows s i [] (endcheck (s.me.pc + 2) s.me.stack).1 (endcheck (s.me.pc + 2) s.me.stack).2) ∧
      (fits → ¬ same → s.ops = [] → (∀ l, old l → s.cur.line l ≠ .dirty) →
        ∃ t, exec i s = .next t ∧ t.cur.reg (0x50 + n.toNat) = ra ∧ t.cur.reg (0x60 + n.toNat) = rb ∧
          (∀ k, k ≠ 0x50 + n.toNat → k ≠ 0x60 + n.toNat → t.cur.reg k = s.cur.reg k) ∧
          (∀ l, new l → t.cur.line l = .absent) ∧ (∀ l, ¬ new l → old l → t.cur.line l = .none) ∧
          (∀ l, ¬ new l → ¬ old l → t.cur.line l = s.cur.line l) ∧
          s.keepsBut t [.store, .coreCsr] ∧ { t.cur.store with lines := [] } = { s.cur.store with lines := [] } ∧ s.passed t 2) ∧
      (bit va 63 = true → len = 0 ∨ 512 < base + len → Raises s i { kind := 3, cause := 9, addr := 4096 * base }) ∧
      (bit va 63 = true → 0 < len → base + len ≤ 512 → overlaps → Raises s i { kind := 3, cause := 4, addr := 4096 * base })

/-- R170, R171: a fill of the map unit that has been performed with OK leaves its line CLEAN with the data and counts; one that failed
leaves it ABSENT. A write-back with OK leaves the line as it is; one that failed leaves a CLEAN line DIRTY. -/
def Obligations.MapUnitCompletes : Prop :=
  ∀ (s : State) (c : CoreId) (l : Fin 512) (o : Op), o.performed = true →
    (s.lineOp c l.val false = some o → ∃ t, exec (.muFillComplete c l) s = .next t ∧
      (o.status = Status.ok → (t.core c).line l.val = .clean ∧ readBytes (t.core c).store.spad (4096 * l.val) 4096 = readBytes o.data 0 4096 ∧
        (∀ x, x < 4096 * l.val ∨ 4096 * l.val + 4096 ≤ x →
          readByte (t.core c).store.spad x = readByte (s.core c).store.spad x) ∧ (t.core c).reg 0x70 = (s.core c).reg 0x70 + 1) ∧
      (o.status ≠ Status.ok → (t.core c).line l.val = .absent ∧ (t.core c).store.spad = (s.core c).store.spad)) ∧
    (s.lineOp c l.val true = some o → ∃ t, exec (.muWritebackComplete c l) s = .next t ∧
      (o.status = Status.ok → (t.core c).line l.val = (s.core c).line l.val ∧ (t.core c).reg 0x71 = (s.core c).reg 0x71 + 1) ∧
      (o.status ≠ Status.ok → (t.core c).line l.val = if (s.core c).line l.val = .clean then .dirty else (s.core c).line l.val) ∧
      (t.core c).store.spad = (s.core c).store.spad)

/-! ## Queues, rings and flags (13_isa_memory.md, 09_core_memory.md) -/

/-- R275, R276, R208, R176, R178: a push appends to its queue and a pop removes the oldest entry; a full queue blocks the writer and an empty
one, or one whose oldest entry is reserved, the reader. The format queue takes a word of A, or one of the plane's table; closed, it is an
illegal instruction, and full it blocks A; `fqclose` closes it. -/
def Obligations.QueueRegisters : Prop :=
  (∀ (s : State) (sy : Sync) (q : BitVec 4) (a d : BitVec 5),
      let l := s.cur.queue q.toNat
      let rest := fun (t : State) => (∀ k, k ≠ q.toNat → t.cur.queue k = s.cur.queue k) ∧
        { t.cur.store with queues := [] } = { s.cur.store with queues := [] }
      (∀ i w, ((i = .qpush sy q a ∧ w = 2) ∨ (i = .compactQpush q a ∧ w = 1)) → s.mayIssue i = true →
        (l.length < queueDepth q.toNat → ∃ t, exec i s = .next t ∧ t.cur.queue q.toNat = l ++ [.filled (s.x a.toNat)] ∧ rest t ∧
          s.keepsBut t [.store] ∧ s.passed t w) ∧
        (queueDepth q.toNat ≤ l.length → exec i s = .next (s.blocked (.queueWrite q.toNat)))) ∧
      (∀ i w, ((i = .qpop sy q d ∧ w = 2) ∨ (i = .compactQpop d q ∧ w = 1)) → s.mayIssue i = true →
        (∀ v m, l = .filled v :: m → ∃ t, exec i s = .next t ∧ t.x d.toNat = v ∧ (∀ n, n ≠ d.toNat → t.x n = s.x n) ∧
          t.cur.queue q.toNat = m ∧ rest t ∧ s.keepsBut t [.x, .store] ∧ s.passed t w) ∧
        ((l = [] ∨ ∃ id m, l = .reserved id :: m) → exec i s = .next (s.blocked (.queueRead q.toNat)))) ∧
      ResultX (.qcnt sy q d) d.toNat 2 (fun s => BitVec.ofNat 64 (s.cur.queue q.toNat).length)) ∧
  (∀ (s : State) (sy : Sync) (a : BitVec 5),
      let rest := fun (t : State) => { t.cur.store with fq := [], fqClosed := false } = { s.cur.store with fq := [], fqClosed := false }
      let table := fun (n : Nat) => BitVec.ofNat 64 (readNat s.cur.ctl.active.image (0x11000 + 8 * (n % 256)) 8)
      (∀ i w v, ((i = .fqpush sy a ∧ w = 2 ∧ v = s.x a.toNat) ∨ (i = .compactFqpush a ∧ w = 1 ∧ v = s.x a.toNat) ∨
          (i = .fqpushT sy a ∧ w = 2 ∧ v = table (s.x a.toNat).toNat)) → s.mayIssue i = true →
        (s.cur.store.fqClosed = true → Raises s i { kind := 8, cause := 1 }) ∧
        (s.cur.store.fqClosed = false → 32 ≤ s.cur.store.fq.length → exec i s = .next (s.blocked .formatQueue)) ∧
        (s.cur.store.fqClosed = false → s.cur.store.fq.length < 32 → ∃ t, exec i s = .next t ∧ t.cur.store.fq = s.cur.store.fq ++ [v] ∧
          t.cur.store.fqClosed = false ∧ rest t ∧ s.keepsBut t [.store] ∧ s.passed t w)) ∧
      (s.mayIssue (.fqclose sy) = true → ∃ t, exec (.fqclose sy) s = .next t ∧ t.cur.store.fqClosed = true ∧
        t.cur.store.fq = s.cur.store.fq ∧ rest t ∧ s.keepsBut t [.store] ∧ s.passed t 2))

namespace Sys2Proof.Machine

/-- An instruction on a ring changes the descriptor where it lies, and what the core has reserved and read; the crossbars of the cores
that name the ring take a pulse (R174, R381). -/
def State.keepsRing (s t : State) (l : List Piece) : Prop :=
  s.keepsBut t ([.store, .memory, .crossbar, .cores] ++ l) ∧ (∀ e, (t.die e).mem = (s.die e).mem) ∧
    (∀ c, (t.core c).regs = (s.core c).regs ∧ (t.core c).ctl = (s.core c).ctl ∧ (t.core c).csr = (s.core c).csr) ∧
    (∀ c, c ≠ s.focus.core → (t.core c).store = (s.core c).store) ∧
    { t.cur.store with spad := [], lines := [], rings := [] } = { s.cur.store with spad := [], lines := [], rings := [] }

/-- The descriptor of a ring lies at its address, as the core names it. -/
def State.holdsRing (s : State) (r : Ring) : Prop := s.untransRead s.focus.core r.addr 32 = r.bytes

/-- A ring register names a ring whose descriptor keeps the sum that R173 gives in every state. -/
def State.namesRing (s : State) (q : Nat) (r : Ring) : Prop :=
  s.ring s.focus.core q = .ok r ∧ Ring.parse r.addr (s.untransRead s.focus.core r.addr 32) = some r ∧ r.sound = true

end Sys2Proof.Machine

/-- R275, R174: the ring form of `qpush` publishes the oldest slot that its cluster reserved (bit 0), reserves the next one and returns its
address (bit 1), or both; with no free slot it waits. The descriptor keeps R173's sum; one that does not is unspecified (R8, log 53). -/
def Obligations.RingProduction : Prop :=
  ∀ (s : State) (sy : Sync) (q : BitVec 4) (a : BitVec 5) (r : Ring),
    let i : Instr := .qpushRing sy q a
    let c := s.focus.core
    let w := (s.x a.toNat).toNat
    let own := (s.cur.ringUse q.toNat).reserved
    let r1 := match s.oldestReserved q.toNat with | some e => r.publish (e % 256) | none => r
    let own1 := match s.oldestReserved q.toNat with | some e => own.erase e | none => own
    let slot := fun (r : Ring) => r.wres % r.slots
    let taken := fun (r : Ring) => { r with free := r.free - 1, wres := (r.wres + 1) % 2 ^ 16 }
    s.mayIssue i = true → s.ops = [] → s.me.issued = false → s.namesRing q.toNat r → r.producer s.cur = true →
      (∀ e ∈ own, e % 256 < r.slots) →
      (w % 4 = 0 → Flows s i [] (endcheck (s.me.pc + 2) s.me.stack).1 (endcheck (s.me.pc + 2) s.me.stack).2) ∧
      (w % 4 = 1 → ∃ t, exec i s = .next t ∧ (s.oldestReserved q.toNat ≠ none → t.holdsRing r1) ∧
        (t.cur.ringUse q.toNat).reserved = own1 ∧ s.keepsRing t [] ∧ s.passed t 2) ∧
      (w % 4 = 2 → 0 < r.free → ∃ t, exec i s = .next t ∧ t.x a.toNat = BitVec.ofNat 64 (r.slotAddr c (slot r)) ∧
        (∀ n, n ≠ a.toNat → t.x n = s.x n) ∧ t.holdsRing (taken r) ∧
        (t.cur.ringUse q.toNat).reserved = own ++ [slot r + 256 * s.focus.cl.number] ∧ s.keepsRing t [.x] ∧ s.passed t 2) ∧
      (w % 4 = 3 → 0 < r.free → r1.sound = true → ∃ t, exec i s = .next t ∧ t.x a.toNat = BitVec.ofNat 64 (r1.slotAddr c (slot r1)) ∧
        (∀ n, n ≠ a.toNat → t.x n = s.x n) ∧ t.holdsRing (taken r1) ∧
        (t.cur.ringUse q.toNat).reserved = own1 ++ [slot r1 + 256 * s.focus.cl.number] ∧ s.keepsRing t [.x] ∧ s.passed t 2) ∧
      (w % 4 = 2 → r.free = 0 → exec i s = .next (s.blocked (.ring q.toNat))) ∧
      (w % 4 = 3 → r.free = 0 → r1.sound = true → ∃ t, exec i s = .next t ∧ t.me.wait = some (.ring q.toNat) ∧ t.me.issued = true ∧
        t.me.pc = s.me.pc ∧ (∀ n, t.x n = s.x n) ∧ t.holdsRing r1 ∧ (t.cur.ringUse q.toNat).reserved = own1)

/-- R275, R174: the ring form of `qpop` pops the slot read longest ago (bit 0), reads the next filled slot's address (bit 1), or both;
with nothing filled it waits, and where it has popped, the pop stands. The descriptor keeps R173's sum; one that does not is unspecified (R8,
log 53). -/
def Obligations.RingConsumption : Prop :=
  ∀ (s : State) (sy : Sync) (q : BitVec 4) (a : BitVec 5) (r : Ring),
    let i : Instr := .qpopRing sy q a
    let c := s.focus.core
    let w := (s.x a.toNat).toNat
    let u := s.cur.ringUse q.toNat
    let k := s.readsOf (ringKey c r.addr)
    let popped := { r with tail := (r.tail + 1) % 2 ^ 16, filled := r.filled - 1, free := r.free + 1 }
    let v := (s.setCur (s.cur.setRingUse q.toNat { u with reads := u.reads - 1 })).popSlot c r
    let waits := fun (t : State) => exec i s = .next t ∧ t.me.wait = some (.ring q.toNat) ∧ t.me.pc = s.me.pc ∧ ∀ n, t.x n = s.x n
    s.mayIssue i = true → s.ops = [] → s.me.issued = false → s.namesRing q.toNat r → r.consumer c s.cur = true → (∀ d, Sparse.wf (fun _ => Core.reset) (s.die d).cores = true) →
      (w % 4 = 0 ∨ (w % 4 = 1 ∧ u.reads = 0) →
        Flows s i [] (endcheck (s.me.pc + 2) s.me.stack).1 (endcheck (s.me.pc + 2) s.me.stack).2) ∧
      (w % 4 = 1 → 0 < u.reads → ∃ t, exec i s = .next t ∧ t.holdsRing popped ∧
        t.cur.ringUse q.toNat = { u with reads := u.reads - 1 } ∧ s.keepsRing t [] ∧ s.passed t 2) ∧
      (w % 4 = 2 ∨ (w % 4 = 3 ∧ u.reads = 0) → k < r.filled → ∃ t, exec i s = .next t ∧
        t.x a.toNat = BitVec.ofNat 64 (r.slotAddr c (r.tail + k)) ∧ (∀ n, n ≠ a.toNat → t.x n = s.x n) ∧
        t.cur.ringUse q.toNat = { u with reads := u.reads + 1 } ∧ s.keepsRing t [.x] ∧ s.passed t 2) ∧
      (w % 4 = 3 → 0 < u.reads → 0 < r.filled →
        (v.readsOf (ringKey c r.addr) < popped.filled → ∃ t, exec i s = .next t ∧
          t.x a.toNat = BitVec.ofNat 64 (r.slotAddr c (popped.tail + v.readsOf (ringKey c r.addr))) ∧ (∀ n, n ≠ a.toNat → t.x n = s.x n) ∧
          t.holdsRing popped ∧ t.cur.ringUse q.toNat = u ∧ s.keepsRing t [.x] ∧ s.passed t 2) ∧
        (popped.filled ≤ v.readsOf (ringKey c r.addr) → ∃ t, waits t ∧ t.me.issued = true ∧ t.holdsRing popped ∧
          t.cur.ringUse q.toNat = { u with reads := u.reads - 1 })) ∧
      (w % 4 = 2 ∨ (w % 4 = 3 ∧ u.reads = 0) → r.filled ≤ k → ∃ t, waits t ∧ t.me.issued = decide (w % 4 = 3) ∧ t.cur.ringUse q.toNat = u)

/-- R175, R278: a ring register whose descriptor fails a check, or that does not name the executing core, raises a ring fault; `rcfg ring`
writes the valid bit and the address, and checks nothing. -/
def Obligations.RingRegisters : Prop :=
  ∀ (s : State) (sy : Sync) (q : BitVec 4) (a : BitVec 5),
    let c := s.focus.core
    let fault := fun (st : Status) => ({ kind := 5, cause := st.toNat, addr := s.cur.ringAddr q.toNat, reg := q.toNat } : FaultInfo)
    (∀ i, (i = .qpushRing sy q a ∨ i = .qpopRing sy q a) → s.mayIssue i = true → ∀ st, s.ring c q.toNat = .error st → Raises s i (fault st)) ∧
    (∀ r, s.ring c q.toNat = .ok r →
      (s.mayIssue (.qpushRing sy q a) = true → r.producer s.cur = false → Raises s (.qpushRing sy q a) (fault Status.access)) ∧
      (s.mayIssue (.qpopRing sy q a) = true → r.consumer c s.cur = false → Raises s (.qpopRing sy q a) (fault Status.access))) ∧
    (∀ n, s.mayIssue (.rcfgRing sy n a) = true → ∃ t, exec (.rcfgRing sy n a) s = .next t ∧
      (∀ k, Sparse.get (fun _ => 0) t.cur.regs.rg k = if k = n.toNat then (let w := s.x a.toNat; BitVec.ofNat 64 (field w 63 1 * 2 ^ 63 + field w 0 32))
        else Sparse.get (fun _ => 0) s.cur.regs.rg k) ∧
      { t.cur.regs with rg := [] } = { s.cur.regs with rg := [] } ∧ s.keepsBut t [.rings] ∧ s.passed t 2)

/-- R281, R353: `flagadd` adds to a flag of the pipeline, and `flagwait`, once the stream's earlier acquires and releases are performed,
passes on when the flag passes its test, and waits otherwise.
R282: a core that is not the last of its group to reach `bar` waits at it; the last one's arrival lets every member go on, and
disarms the barrier. That `bar` passes on where its core is in no pipeline is the model's choice (log 92). -/
def Obligations.FlagsAndBarriers : Prop :=
  (∀ (s : State) (sy : Sync) (f : BitVec 8) (a : BitVec 5) (c : BitVec 3),
     let v := (s.x a.toNat).setWidth 32
     let flag := s.flagOf f.toNat
     let passes := ([flag == v, flag != v, decide (v.toNat ≤ flag.toNat), decide ((flag - v).toNat < 2 ^ 31)] : List Bool).getD c.toNat false
     (s.mayIssue (.flagadd sy f a) = true → s.ops = [] → ∃ t, exec (.flagadd sy f a) s = .next t ∧
       ((s.gangOf s.focus.core).isSome = true → t.flagOf f.toNat = flag + v) ∧ (∀ k, k ≠ f.toNat → t.flagOf k = s.flagOf k) ∧
       s.keepsBut t [.crossbar, .cores, .system] ∧
       (∀ k, (t.core k).regs = (s.core k).regs ∧ (t.core k).store = (s.core k).store ∧ (t.core k).csr = (s.core k).csr) ∧ s.passed t 2) ∧
     (s.mayIssue (.flagwait sy f a c) = true → c.toNat < 4 → (∀ o ∈ s.unperformed s.focus, o.acq = false ∧ o.rel = false) →
       (passes = true → Flows s (.flagwait sy f a c) [] (endcheck (s.me.pc + 2) s.me.stack).1 (endcheck (s.me.pc + 2) s.me.stack).2) ∧
       (passes = false → exec (.flagwait sy f a c) s = .next (s.blocked (.flag f.toNat))))) ∧
  (∀ (s : State) (sy : Sync) (rt : BitVec 1) (l : BitVec 2) (id : BitVec 8),
     let i : Instr := .bar sy rt l id
     let c := s.focus.core
     s.mayIssue i = true → s.opsOf s.focus = [] → s.instrAt s.focus = some i →
       (s.gangOf c = none → Flows s i [] (endcheck (s.me.pc + 2) s.me.stack).1 (endcheck (s.me.pc + 2) s.me.stack).2) ∧
       (∀ g, s.gangOf c = some g →
         let old := (g.barrier? l.toNat s.cur.ctl.stage id.toNat).getD (s.armBarrier g l.toNat s.cur.ctl.stage id.toNat)
         let new := { old with got := old.got + 1, waiting := old.waiting ++ [c.index], flip := rt == 1 }
         old.members.contains c.index = true →
           (new.got < new.need → ∃ t, exec i s = .next t ∧ t.me.run = .atBar ∧ t.me.pc = s.me.pc ∧
             (∃ h, t.gangOf c = some h ∧ new ∈ h.barriers) ∧ s.keepsBut t [.run, .system]) ∧
           (new.need ≤ new.got → (∀ w ∈ old.waiting, CoreId.ofIndex w ≠ c) → ∃ t, exec i s = .next t ∧ t.me.run = .running ∧
             s.passed t 2 ∧ (∃ h, t.gangOf c = some h ∧ new ∉ h.barriers) ∧ (∀ n, t.x n = s.x n) ∧
             ∀ e, field (t.dieReg e 0x10D) 0 1 = if rt = 1 ∧ (g.cores.any fun n => decide ((CoreId.ofIndex n).die = e)) = true
               then 1 - field (s.dieReg e 0x10D) 0 1 else field (s.dieReg e 0x10D) 0 1)))


/-- R279, R280, R132: `flagw` with bit 63 opens a counted stream to the die that holds its address; without it, it sends the flag with the
count of its stream's writes, which at a destination whose counter has reached the count adds to the word there. -/
def Obligations.CountedFlags : Prop :=
  ∀ (s : State) (sy : Sync) (f : BitVec 6) (a b : BitVec 5) (p : BitVec 3) (la : Nat),
    let i : Instr := .flagw sy f a b p
    let va := (s.x a.toNat).toNat
    let w := s.x b.toNat
    let d := s.focus.core.die
    let src := s.source d f.toNat
    let dst := s.dest d (s.dieNum d) f.toNat
    let known := ∀ e, lookupTlb s.cur.store.utlb (s.cur.reg 0x40).toNat va = some e → e.inc = s.inc d
    s.mayIssue i = true →
      (va % 4 ≠ 0 → Raises s i { kind := 1, cause := 6, addr := va }) ∧
      (va % 4 = 0 → s.ops = [] → s.reaches va 4 la true → bit w 63 = true → ∃ t, exec i s = .next t ∧
        t.source d f.toNat =
          { src with dest := s.dieNum d, broken := src.broken || (src.count != 0 && src.dest != s.dieNum d) } ∧ (∀ n, t.me.streams.getLsbD n = (s.me.streams.getLsbD n || n == f.toNat)) ∧
        (∀ k, t.me.status k = if k = p.toNat then Status.ok else s.me.status k) ∧ s.keepsBut t [.run, .status, .dies] ∧
        t.me.run = s.me.run ∧ s.passed t 2) ∧
      (va % 4 = 0 → s.ops = [] → s.reaches va 4 la true → s.here.unheld (la / 128) → known → bit w 63 = false → src.flagOut = false → src.broken = false →
        s.commandsNaming s.focus.core f.toNat = false → s.here.torus.freeTag.isSome = true → dst.gen = src.gen →
        src.count ≤ dst.counter src.phase → ∃ t q, exec i s = .next t ∧ s.sentOp t i (p == 0) q ∧ q.dest = .flag f.toNat ∧
          q.preg = p.toNat ∧ readNat t.here.mem la 4 = (readNat s.here.mem la 4 + w.toNat) % 2 ^ 32 ∧
          (∀ e x, (e = d → x < la ∨ la + 4 ≤ x) → (t.die e).byteAt x = (s.die e).byteAt x) ∧
          t.source d f.toNat = { src with count := 0, phase := !src.phase, flagOut := true } ∧
          (t.dest d (s.dieNum d) f.toNat).counter src.phase = 0 ∧
          ∀ n, t.me.streams.getLsbD n = (s.me.streams.getLsbD n && !(bit w 62 && n == f.toNat)))

/-! ## The copy engine and the banks (13_isa_memory.md, 08_die_memory.md) -/

/-- R283 to R285, R157: `cpy` and `coll` that pass their checks join the core's queue of 16, and their p register waits; `cpyw` waits for
the commands that it names and then raises a plain one's failure; `cpyq` counts the commands. -/
def Obligations.CopyCommands : Prop :=
  ∀ (s : State) (sy : Sync) (d n c : BitVec 4) (q l b : BitVec 1) (o p : BitVec 3),
    let core := s.focus.core
    let store := s.cur.store
    let names := fun (m : CopyCmd) => p == 0 || (m.p == p.toNat && m.serial + 1 == Sparse.get (fun _ => 0) store.copyLast p.toNat)
    let fails := store.copyFaults.find? fun f => p == 0 || f.p == p.toNat
    (∀ i coll, ((i = .cpy sy d n c q l o b ∧ coll = false) ∨ (i = .coll sy d n c q l o b ∧ coll = true)) → s.mayIssue i = true →
      let m : CopyCmd := { id := s.x d.toNat, is := s.x n.toNat, ic := s.x c.toNat, coll := coll, acq := q == 1, rel := l == 1, scope := o,
                           bulk := b == 1, serial := 0, offset := 0, slot := none, restored := false, ringWait := false }
      (∀ f, s.copyCheck core m = some f → Raises s i f) ∧
      (s.copyCheck core m = none → 16 ≤ store.copies.length → exec i s = .next (s.blocked .copyQueue)) ∧
      (s.copyCheck core m = none → store.copies.length < 16 → s.focus.cl = .d → ∃ t, exec i s = .next t ∧
        t.cur.store.copies = store.copies ++ [{ m with serial := s.nextOp }] ∧ t.nextOp = s.nextOp + 1 ∧ t.ops = s.ops ∧
        (m.p ≠ 0 → t.me.busy = s.me.busy ++ [.p m.p]) ∧ t.me.p = s.me.p ∧ s.keepsBut t [.status, .store, .ops] ∧
        { t.cur.store with copies := [], copyLast := [] } = { store with copies := [], copyLast := [] } ∧ s.passed t 2)) ∧
    (s.mayIssue (.cpyw sy p) = true →
      ((∃ m ∈ s.commands core, names m = true) → exec (.cpyw sy p) s = .next (s.blocked .copyWait)) ∧
      ((∀ m ∈ s.commands core, names m = false) → fails = none →
        Flows s (.cpyw sy p) [] (endcheck (s.me.pc + 2) s.me.stack).1 (endcheck (s.me.pc + 2) s.me.stack).2) ∧
      (∀ f, (∀ m ∈ s.commands core, names m = false) → fails = some f →
        Raises s (.cpyw sy p) { kind := 7, cause := f.st.toNat, addr := f.addr })) ∧
    ResultX (.cpyq sy d) d.toNat 2 (fun s => BitVec.ofNat 64 (s.cur.store.copies.length + 256 * (s.inSlots s.focus.core).length))

/-- R286, R155, R156: `bop` in a Commons: one element (a compare and exchange, or an operation; rd takes the old value), every element with
one operand, every element with an operand of its own, and the fold of all; the other bytes of the Commons stay. -/
def Obligations.BankOperations : Prop :=
  ∀ (s : State) (sy d : BitVec 5) (r : BitVec 4) (k : BitVec 2) (o : BitVec 4) (f : BitVec 3),
    let i : Instr := .bop sy d r k o f
    let w := s.x (2 * r.toNat)
    let y := s.x (2 * r.toNat + 1)
    let a := field w 0 32
    let off := field w 0 26
    let size := if f = 2 then 8 else if f = 4 then 2 else 4
    let n := if k = 0 then 1 else field w 32 18
    let e := fun (t : State) (j : Nat) => readNat (t.die (commonsDie s.focus.core.die a)).commons (off + size * j) size
    let operand := y.toNat % 2 ^ (8 * size)
    let combine := fun (u v : Nat) => bankOp f.toNat o.toNat u v % 2 ^ (8 * size)
    let kept := fun (t : State) => ∀ x, x < off ∨ off + n * size ≤ x →
      readByte (t.die (commonsDie s.focus.core.die a)).commons x = readByte (s.die (commonsDie s.focus.core.die a)).commons x
    let frame := fun (t : State) (l : List Piece) => s.keepsBut t ([.memory] ++ l) ∧ (∀ x, (t.die x).mem = (s.die x).mem) ∧
      (∀ x, x ≠ commonsDie s.focus.core.die a → (t.die x).commons = (s.die x).commons) ∧ s.passed t 2
    s.mayIssue i = true →
      (∀ g, s.bopCheck a n size (k != 0) = some g → Raises s i g) ∧
      (s.bopCheck a n size (k != 0) = none → s.ops = [] →
        (k = 0 → ∃ t, exec i s = .next t ∧ t.x d.toNat = BitVec.ofNat 64 (e s 0) ∧ (∀ m, m ≠ d.toNat → t.x m = s.x m) ∧
          e t 0 = (if o = 7 then (if e s 0 = operand then (s.x d.toNat).toNat % 2 ^ (8 * size) else e s 0) else combine (e s 0) operand) ∧
          kept t ∧ frame t [.x]) ∧
        (k = 1 → ∃ t, exec i s = .next t ∧ (∀ j < n, e t j = combine (e s j) operand) ∧ kept t ∧ frame t []) ∧
        (k = 2 → s.spanCheck (field y 0 32) (n * size) size false = none → s.linesReady (field y 0 32) (n * size) →
          ∃ t, exec i s = .next t ∧
            (∀ j < n, e t j = combine (e s j) (readNat (s.storageOf (field y 0 32)) (field y 0 26 + size * j) size)) ∧ kept t ∧ frame t []) ∧
        (k = 3 → ∃ t, exec i s = .next t ∧ t.x d.toNat = BitVec.ofNat 64 (match (List.range n).map fun j => e s j with
          | [] => 0
          | u :: us => us.foldl (fun u v => bankOp f.toNat o.toNat u v) u) ∧ s.wroteX t d.toNat 2))

/-- R157, R162: a channel with a free slot starts the next ready command of its four cores, round-robin; a command that waited on a full ring
starts in its core's turn when a slot of the ring is free, and takes it. R159, R284: a line from a scratchpad to a Commons of the package moves, or combines,
its bytes, and the offset moves on. R161: a command whose lines are written frees its slot and writes OK to its p register, at `.sys` once
no write-through is outstanding (log 21); one that has failed writes its status, and a plain one's failure is kept for the reader. -/
def Obligations.CopyEngineSteps : Prop :=
  (∀ (s : State) (die : DieId) (ch : Fin 32) (slot : Nat),
      ((s.die die).channel ch.val).freeSlot = some slot →
        (∀ j n m rest, s.nextStart die ch.val = some (j, n) → n < 128 → n % 32 = ch.val →
          (∀ e ∈ ((s.die die).channel ch.val).order ch.val, s.startCheck ⟨die, Fin.ofNat 128 e.2⟩ ≠ .ringFull) →
          s.startCheck ⟨die, Fin.ofNat 128 n⟩ = .go none → ((s.die die).core n).store.copies = m :: rest →
          ∃ t, exec (.ceCommandStart die ch) s = .next t ∧ ((t.die die).core n).store.copies = rest ∧
            (∃ x, ((t.die die).channel ch.val).slot slot = some x ∧ x.core = n ∧ x.cmd = m ∧ x.status = Status.ok ∧ x.line = none) ∧
            ((t.die die).channel ch.val).next = (j + 1) % 4 ∧ (∀ e, (t.die e).mem = (s.die e).mem ∧ (t.die e).commons = (s.die e).commons)) ∧
        (∀ c : CoreId, c.die = die → c.core.val % 32 = ch.val → ∀ j m rest r, s.nextStart die ch.val = some (j, c.core.val) → (s.core c).store.copies = m :: rest → m.ringWait = true →
          s.startCheck c = .go (some r) → ∃ t, exec (.ceRingWaitEnd c) s = .next t ∧ (t.core c).store.copies = rest ∧
            (∃ x, ((t.die die).channel ch.val).slot slot = some x ∧ x.core = c.core.val ∧ x.status = Status.ok ∧
              x.cmd = { m with slot := some (r.wres % r.slots) }) ∧
            ((t.die die).channel ch.val).next = (j + 1) % 4 ∧
            t.untransRead c r.addr 32 = { r with free := r.free - 1, wres := (r.wres + 1) % 2 ^ 16 }.bytes)) ∧
  (∀ (s : State) (die : DieId) (ch : Fin 32) (slot : Fin 8) (x : SlotCmd),
      let c := x.owner die
      let m := x.cmd
      let from_ := m.srcBase + m.offset
      let dst := m.dstBase + m.offset
      let n := min (128 - (dst - if m.coll then m.dstBase % bankBytes m.efmt else 0) % 128) (m.bytes - m.offset)
      ((s.die die).channel ch.val).slot slot.val = some x → x.stopped = none → x.status = Status.ok → x.line = none → m.offset < m.bytes →
        s.stopping c = false → m.srcKind = 1 → m.dstKind = 2 → s.ownDie (field m.id 40 9) = some die → s.inDomain die (field m.id 40 9) = true →
        m.fstream = none → (m.coll = true → n % bankBytes m.efmt = 0) → (s.core c).spadCheck (from_ % 2 ^ 32) n (lineAlign n) false = none → (s.core c).inWindow dst n = true →
        (∀ l ∈ linesOf from_ n, (s.core c).line l ≠ .absent ∧ (s.core c).line l ≠ .filling) →
        ∃ t, exec (.ceLineComplete die ch slot) s = .next t ∧
          (let new := readBytes (s.core c).store.spad from_ n
           readBytes (t.die die).commons dst n =
             if m.coll then bankUpdate m.efmt m.op (readBytes (s.die die).commons dst n) (elements m.efmt new (n / bankBytes m.efmt)) else new) ∧
          (∀ a, a < dst ∨ dst + n ≤ a → readByte (t.die die).commons a = readByte (s.die die).commons a) ∧
          (∃ y, ((t.die die).channel ch.val).slot slot.val = some y ∧ y.cmd = { m with offset := m.offset + n } ∧ y.status = Status.ok) ∧
          t.dieReg die 0x196 = s.dieReg die 0x196 + 1 ∧ (∀ e, (t.die e).mem = (s.die e).mem)) ∧
  (∀ (s : State) (die : DieId) (ch : Fin 32) (slot : Fin 8) (x : SlotCmd), x.core < 128 →
      let c := x.owner die
      let m := x.cmd
      ((s.die die).channel ch.val).slot slot.val = some x → x.stopped = none → x.line = none →
        ∃ t, exec (.ceCommandComplete die ch slot) s = .next t ∧
          (x.status = Status.ok → m.bytes ≤ m.offset → (m.rel = true → m.scope = 7 → s.pendingWrites = false) → ((t.die die).channel ch.val).slot slot.val = none ∧
            (m.p ≠ 0 → (t.core c).cd.status m.p = Status.ok) ∧ (t.core c).store.copyFaults = (s.core c).store.copyFaults) ∧
          (x.status ≠ Status.ok → ((t.die die).channel ch.val).slot slot.val = none ∧ (m.p ≠ 0 → (t.core c).cd.status m.p = x.status) ∧
            (t.core c).store.copyFaults = (s.core c).store.copyFaults ++ (if m.statusForm then [] else
              [⟨m.p, x.status, if m.srcKind = 0 then m.srcBase + m.offset else m.dstBase + m.offset⟩])))


/-! ## The vector cluster (14_isa_vector.md) -/

namespace Sys2Proof.Machine

/-- An instruction has retired having raised classes: they are sticky (R203), and where it raised none it changed nothing but the pieces
listed. A class raised may also set `pend` or ask for a host interrupt (R204, R205). -/
def State.raisedClasses (s t : State) (cs : Classes) (l : List Piece) : Prop :=
  s.passed t 2 ∧ field (t.me.reg 0) 0 8 = field (s.me.reg 0) 0 8 ||| cs.toNat ∧ field (t.me.reg 0) 8 8 = field (s.me.reg 0) 8 8 ∧
    (cs = 0 → s.keepsBut t l) ∧ s.keepsBut t (l ++ [.arith, .store, .coreCsr, .cores, .memory, .dies, .system])

/-- The active lanes of one vector register are written, with the classes that they raise (R287); no other register is. -/
def State.wroteLanes (s t : State) (d m : Nat) (l : List Piece) (f : Nat → Nat × Classes) : Prop :=
  (∀ i < 64, t.lane d i = if (s.mask m).getLsbD i then (f i).1 % 2 ^ 32 else s.lane d i) ∧ (∀ n, n ≠ d → t.vec n = s.vec n) ∧
    s.raisedClasses t ((List.range 64).foldl (fun c i => if (s.mask m).getLsbD i then c ||| (f i).2 else c) 0) (.vectors :: l)

/-- An instruction that may issue writes the active lanes of a vector register. -/
def WritesLanes (s : State) (i : Instr) (d m : Nat) (f : Nat → Nat × Classes) : Prop :=
  s.mayIssue i = true → ∃ t, exec i s = .next t ∧ s.wroteLanes t d m [] f

/-- An instruction that may issue and rounds by SR where `mode` is 4 also leaves the generator 64 draws on (R194). -/
def WritesDrawn (s : State) (i : Instr) (mode d m : Nat) (f : (Nat → Nat) → Nat → Nat × Classes) : Prop :=
  let r := drawList 64 ((s.me.reg 2).setWidth 32)
  s.mayIssue i = true → ∃ t, exec i s = .next t ∧ s.wroteLanes t d m [.arith] (f fun k => if mode = 4 then r.1.getD k 0 else 0) ∧
    t.me.reg 2 = if mode = 4 then r.2.setWidth 64 else s.me.reg 2

end Sys2Proof.Machine

/-- R288 to R291: the floating-point forms on FP32 lanes: inputs flushed by e, i or `fzmode`, one rounding by RNE (SR for `vrcp` and
`vrsq` with r), NaN results canonical, and the classes of each active lane raised. -/
def Obligations.VectorFloatForms : Prop :=
  ∀ (s : State) (sy d a b : BitVec 5) (m : BitVec 3) (e o u r : BitVec 1),
    let zi := fun (b : BitVec 1) => b == 1 || bit (s.me.reg 1) 0
    let zo := fun (b : BitVec 1) => b == 1 || bit (s.me.reg 1) 1
    let arg := fun (b : BitVec 1) (n k : Nat) => fp32.input (zi b) (s.lane n k)
    let three := fun (c : Bool) (f : Ext → Ext → Ext → Ext × Bool) (k : Nat) =>
      let x := arg e a.toNat k
      let y := arg e b.toNat k
      let z := if c then arg e d.toNat k else (Ext.zero, 0)
      let v := f x.1 y.1 z.1
      let w := fp32.rnd 0 0 false (zo e) v.1
      let created := v.2 && !(x.1.isNan || y.1.isNan || z.1.isNan)
      (w.1, x.2 ||| y.2 ||| z.2 ||| (w.2 ||| if created then Classes.invalid else 0))
    let two := fun (i o : BitVec 1) (sat : Bool) (mode : Nat) (f : Ext → Ext × Classes) (draw : Nat → Nat) (k : Nat) =>
      let x := arg i a.toNat k
      let w := fp32.rnd mode (draw k) sat (zo o) (f x.1).1
      (w.1, x.2 ||| (f x.1).2 ||| w.2)
    let sr := if r = 1 then 4 else 0
    (∀ p ∈ ([(.vadd sy d a b m e, three false fun x y _ => x.add y), (.vsub sy d a b m e, three false fun x y _ => x.add y.neg),
        (.vmul sy d a b m e, three false fun x y _ => x.mul y), (.vfma sy d a b m e, three true (fmaExact false)),
        (.vfms sy d a b m e, three true (fmaExact true)), (.vmax sy d a b m e, three false fun x y _ => (x.max y, false)),
        (.vmin sy d a b m e, three false fun x y _ => (x.min y, false)), (.vabs sy d a m e o, two e o false 0 (fun x => (x.abs, 0)) fun _ => 0),
        (.vneg sy d a m e o, two e o false 0 (fun x => (x.neg, 0)) fun _ => 0),
        (.vexp2 sy d a m e o, fun k => exp2x (zi e) (zo o) (s.lane a.toNat k)),
        (.vlog2 sy d a m e o, fun k => log2x (zi e) (zo o) (s.lane a.toNat k))] : List (Instr × (Nat → Nat × Classes))),
      WritesLanes s p.1 d.toNat m.toNat p.2) ∧
    WritesDrawn s (.vrcp sy d a m e o u r) sr d.toNat m.toNat (two e o (u == 1) sr recip) ∧
    WritesDrawn s (.vrsq sy d a m e o u r) sr d.toNat m.toNat (two e o (u == 1) sr rsqrt)

/-- R292, R294, R301: the integer, bitwise, selecting and moving forms on 32-bit lanes; `viadd` and `vimul` clamp to INT32 with t, and
raise saturated where they do. -/
def Obligations.VectorLaneForms : Prop :=
  ∀ (s : State) (sy d a b : BitVec 5) (m : BitVec 3) (u : BitVec 1) (h : BitVec 6),
    let x := fun (k : Nat) => s.lane a.toNat k
    let y := fun (k : Nat) => s.lane b.toNat k
    let i := fun (v : Nat) => (BitVec.ofNat 32 v).toInt
    let sat := fun (v : Int) => if u = 1 ∧ v < -(2 ^ 31) then (2 ^ 31, Classes.saturated)
      else if u = 1 ∧ 2 ^ 31 ≤ v then (2 ^ 31 - 1, Classes.saturated) else ((BitVec.ofInt 32 v).toNat, 0)
    (∀ p ∈ ([(.vand sy d a b m, fun k => (x k &&& y k, 0)), (.vor sy d a b m, fun k => (x k ||| y k, 0)),
        (.vxor sy d a b m, fun k => (x k ^^^ y k, 0)), (.vnot sy d a m, fun k => (2 ^ 32 - 1 - x k, 0)),
        (.vshl sy d a b m, fun k => (x k * 2 ^ (y k % 32), 0)), (.vshr sy d a b m, fun k => (x k / 2 ^ (y k % 32), 0)),
        (.vsar sy d a b m, fun k => ((BitVec.ofInt 32 (i (x k) / 2 ^ (y k % 32))).toNat, 0)),
        (.viadd sy d a b m u, fun k => sat (i (x k) + i (y k))), (.vimul sy d a b m u, fun k => sat (i (x k) * i (y k))),
        (.vperm sy d a b m, fun k => (x (y k % 64), 0))] : List (Instr × (Nat → Nat × Classes))),
      WritesLanes s p.1 d.toNat m.toNat p.2) ∧
    (∀ p ∈ ([(.vsel sy d a b m, fun k => (if (s.mask m.toNat).getLsbD k then x k else y k, 0)), (.vbcast sy d a h, fun _ => (x h.toNat, 0)),
        (.vsplat sy d h, fun _ => ((s.x h.toNat).toNat, 0)), (.viota sy d h, fun k => (k + h.toNat, 0)), (.vmov sy d a, fun k => (x k, 0))] :
          List (Instr × (Nat → Nat × Classes))),
      WritesLanes s p.1 d.toNat 0 p.2) ∧
    ResultX (.vmovToInteger sy d a h) d.toNat 2 (fun s => BitVec.ofNat 64 (s.lane a.toNat h.toNat))

/-- R293, R295: `vcmp` writes every bit of md, 0 in an inactive lane; `vred` folds the active lanes by a tree into lane 0.
R302, R307: moves between a vector and a queue pass as many 64-bit entries as the queue allows, and retire with the 32nd; the mask
forms read and write lane masks, m0 reading all ones. -/
def Obligations.VectorReductionQueuesAndMasks : Prop :=
  (∀ (s : State) (sy d a b : BitVec 5) (md m c : BitVec 3) (f : BitVec 2),
     let zi := bit (s.me.reg 1) 0
     let zo := bit (s.me.reg 1) 1
     let on := fun (k : Nat) => (s.mask m.toNat).getLsbD k
     let test := fun (k : Nat) => laneTest c.toNat zi (s.lane a.toNat k) (s.lane b.toNat k)
     let leaf := fun (k : Nat) =>
       if on k then
         let w := s.lane a.toNat k
         if zi && w / 2 ^ 23 % 256 == 0 && w % 2 ^ 23 != 0 then (w / 2 ^ 31 * 2 ^ 31, Classes.flushed) else (w, 0)
       else (([0x80000000, 0xFF800000] : List Nat).getD f.toNat 0x7F800000, 0)
     let root := (Nat.repeat (redLevel f.toNat zo) 6 ((List.range 64).map leaf)).headD (0, 0)
     (s.mayIssue (.vcmp sy md a b c m) = true → md ≠ 0 → ∃ t, exec (.vcmp sy md a b c m) s = .next t ∧
       (∀ k < 64, (t.mask md.toNat).getLsbD k = (on k && (test k).1)) ∧ (∀ n, n ≠ md.toNat → t.mask n = s.mask n) ∧
       s.raisedClasses t ((List.range 64).foldl (fun c k => if on k then c ||| (test k).2 else c) 0) [.masks]) ∧
     (s.mayIssue (.vred sy d a m f) = true → ∃ t, exec (.vred sy d a m f) s = .next t ∧ t.lane d.toNat 0 = root.1 % 2 ^ 32 ∧
       (∀ k, 0 < k → k < 64 → t.lane d.toNat k = s.lane d.toNat k) ∧ (∀ n, n ≠ d.toNat → t.vec n = s.vec n) ∧
       s.raisedClasses t root.2 [.vectors])) ∧
  (∀ (s : State) (sy v : BitVec 5) (q : BitVec 4) (d a b : BitVec 3),
     let j := s.cur.regs.cursor
     let l := s.cur.queue q.toNat
     let pair := fun (k : Nat) => BitVec.ofNat 64 (s.lane v.toNat (2 * k) + 2 ^ 32 * s.lane v.toNat (2 * k + 1))
     let after := fun (t : State) (n : Nat) (w : Wait) => if j + n = 32 then t.cur.regs.cursor = 0 ∧ s.passed t 2
       else t.cur.regs.cursor = j + n ∧ t.me.wait = some w ∧ t.me.pc = s.me.pc
     let queues := fun (t : State) => ∀ k, k ≠ q.toNat → t.cur.queue k = s.cur.queue k
     let n := Min.min (32 - j) (queueDepth q.toNat - l.length)
     let masks := fun (i : Instr) (w : Word) => s.mayIssue i = true → d ≠ 0 → ∃ t, exec i s = .next t ∧ t.mask d.toNat = w ∧
       (∀ k, k ≠ d.toNat → t.mask k = s.mask k) ∧ s.keepsBut t [.masks] ∧ s.passed t 2
     let m := fun (s : State) => if a = 0 then BitVec.allOnes 64 else s.mask a.toNat
     (s.mayIssue (.vmovToQueue sy v q) = true → j < 32 → ∃ t, exec (.vmovToQueue sy v q) s = .next t ∧
       t.cur.queue q.toNat = l ++ (List.range n).map (fun k => .filled (pair (j + k))) ∧ queues t ∧ after t n (.queueWrite q.toNat) ∧
       (∀ k, t.vec k = s.vec k) ∧ s.keepsBut t [.store, .rings]) ∧
     (∀ (ws : List Word) (rest : List QEntry), s.mayIssue (.vmovFromQueue sy v q) = true →
       j < 32 → l = ws.map QEntry.filled ++ rest →
       (ws.length = 32 - j ∨ (ws.length < 32 - j ∧ ∀ w, rest.head? ≠ some (.filled w))) →
       ∃ t, exec (.vmovFromQueue sy v q) s = .next t ∧ t.cur.queue q.toNat = rest ∧ queues t ∧ after t ws.length (.queueRead q.toNat) ∧
         (∀ k, k < 32 → field (t.vec v.toNat) (64 * k) 64 =
           if j ≤ k ∧ k < j + ws.length then (ws.getD (k - j) 0).toNat else field (s.vec v.toNat) (64 * k) 64) ∧
         (∀ k, k ≠ v.toNat → t.vec k = s.vec k) ∧ s.keepsBut t [.store, .rings, .vectors]) ∧
     masks (.mand sy d a b) (s.mask a.toNat &&& s.mask b.toNat) ∧ masks (.mor sy d a b) (s.mask a.toNat ||| s.mask b.toNat) ∧
     masks (.mnot sy d a) (~~~ m s) ∧
     ResultX (.mpop sy a v) v.toNat 2 (fun s => BitVec.ofNat 64 ((List.range 64).countP fun k => (m s).getLsbD k)) ∧
     ResultX (.mffs sy a v) v.toNat 2
       (fun s => match (List.range 64).find? fun k => (m s).getLsbD k with | some k => BitVec.ofNat 64 (1 + k) | none => 0))


/-- R296 to R300, R188: conversions between FP32 lanes and packed elements, block quantisation with its shared scale bytes in lane 63, and
dequantisation; SR draws once for each element. -/
def Obligations.VectorConversions : Prop :=
  ∀ (s : State) (sy d a f : BitVec 5) (r : BitVec 3) (u : BitVec 1),
    let zi := bit (s.me.reg 1) 0
    let zo := bit (s.me.reg 1) 1
    let code := f.toNat
    let g := drawList 64 ((s.me.reg 2).setWidth 32)
    let draws := if r.toNat = 4 then g.1 else List.replicate 64 0
    let arg := fun (k : Nat) => fp32.input zi (s.lane a.toNat k)
    let elem := fun (k : Nat) => toElem code r.toNat (draws.getD k 0) (u == 1) zo (arg k).1
    let rest := fun (t : State) (cs : Classes) => (∀ n, n ≠ d.toNat → t.vec n = s.vec n) ∧
      (t.me.reg 2 = if r.toNat = 4 then g.2.setWidth 64 else s.me.reg 2) ∧ s.raisedClasses t cs [.vectors, .arith]
    let flushed := (List.range 64).foldl (fun c k => c ||| (arg k).2) (0 : Classes)
    let block := fun (from_ n : Nat) =>
      quantBlock code r.toNat zo ((List.range n).map fun k => (arg (from_ + k)).1) ((draws.drop from_).take n)
    (s.mayIssue (.vcvtFromFp32 sy d a f r u) = true → ∃ t, exec (.vcvtFromFp32 sy d a f r u) s = .next t ∧
      (∀ k < 64, packedElem (t.vec d.toNat) (elemBits code) k = (elem k).1 % 2 ^ elemBits code) ∧
      rest t ((List.range 64).foldl (fun c k => c ||| ((arg k).2 ||| (elem k).2)) 0)) ∧
    (s.mayIssue (.vquant sy d a f r u) = true →
      (code = 16 → ∃ t, exec (.vquant sy d a f r u) s = .next t ∧ (∀ k < 64, ∀ e, (block 0 64).2.1[k]? = some e →
          planeElem (t.vec d.toNat).toNat k = e % 256) ∧ field (t.vec d.toNat) 2016 8 = (block 0 64).1 % 256 ∧
        rest t (flushed ||| (block 0 64).2.2)) ∧
      (code ≠ 16 → ∃ t, exec (.vquant sy d a f r u) s = .next t ∧
        t.vec d.toNat = BitVec.ofNat 2048 (packElems (elemBits code) ((block 0 32).2.1 ++ (block 32 32).2.1) +
          ((block 0 32).1 + 256 * (block 32 32).1) * 2 ^ 2016) ∧ rest t (flushed ||| (block 0 32).2.2 ||| (block 32 32).2.2))) ∧
    WritesLanes s (.vcvtToFp32 sy d a f) d.toNat 0 (fun k =>
      let x := fromElem code zi (packedElem (s.vec a.toNat) (elemBits code) k)
      let w := fp32.rnd 0 0 false zo x.1
      (w.1, x.2 ||| w.2)) ∧
    WritesLanes s (.vdeq sy d a f) d.toNat 0 (fun k =>
      let x := if code = 16 then (Ext.ofInt (BitVec.ofNat 8 (planeElem (s.vec a.toNat).toNat k)).toInt 0, 0)
        else fromElem code zi (packedElem (s.vec a.toNat) (elemBits code) k)
      let scale := s.lane a.toNat 63 / (if code ≠ 16 ∧ 32 ≤ k then 256 else 1) % 256
      let w := fp32.rnd 0 0 false zo (if scale = 255 then .nan else x.1.scale ((scale : Int) - 127))
      (w.1, x.2 ||| w.2))


/-- R303 to R305: `vld`, `vst`, `vgath` and `vscat` of untranslated storage read or write the word of every active lane and complete with
OK; a domain access of one active lane sends its operation, and one of a misaligned lane raises ALIGN. -/
def Obligations.VectorMemory : Prop :=
  ∀ (s : State) (sy v : BitVec 5) (a b : BitVec 4) (m o p : BitVec 3),
    let w := s.x a.toNat
    let on := fun (k : Nat) => (s.mask m.toNat).getLsbD k
    let row := fun (k : Nat) => if bit w 63 then field w 0 32 + 4 * k else (w + BitVec.ofNat 64 (4 * k)).toNat
    let spread := fun (k : Nat) =>
      let off := (BitVec.ofNat 32 (s.lane b.toNat k)).signExtend 64
      if bit w 63 then (BitVec.ofNat 64 (field w 0 32) + off).toNat % 2 ^ 32 else (w + off).toNat
    let ok := fun (t : State) => ∀ k, t.me.status k = if k = p.toNat then Status.ok else s.me.status k
    let legal := fun (at_ : Nat → Nat) (seq store : Bool) => bit w 63 = true ∧ field w 32 31 = 0 ∧ s.ops = [] ∧ s.pendingWrites = false ∧
      ∀ k < 64, on k = true → s.laneCheck (field w 0 32) (at_ k) seq store = none ∧ s.linesReady (at_ k) 4
    let word := fun (t : State) (x : Nat) => readNat (t.storageOf x) (x % 2 ^ 26) 4
    let loads := fun (i : Instr) (at_ : Nat → Nat) (seq : Bool) => s.mayIssue i = true →
      (legal at_ seq false → ∃ t, exec i s = .next t ∧ (∀ k < 64, t.lane v.toNat k = if on k then word s (at_ k) else s.lane v.toNat k) ∧
        (∀ n, n ≠ v.toNat → t.vec n = s.vec n) ∧ ok t ∧ s.keepsBut t [.vectors, .status] ∧ s.passed t 2) ∧
      (∀ k la, bit w 63 = false → (∀ j < 64, on j = decide (j = k)) → k < 64 → at_ k % 4 = 0 → s.idleMemory → s.reaches (at_ k) 4 la false →
        s.here.unheld (la / 128) → ∃ t q, exec i s = .next t ∧ s.sentOp t i (decide (p = 0)) q ∧ q.preg = p.toNat ∧
          q.dest = .v v.toNat (BitVec.ofNat 64 (2 ^ k)) ∧ readBytes q.data (4 * k) 4 = readBytes s.here.mem la 4 ∧ s.keepsAccess t []) ∧
      (∀ k, bit w 63 = false → (∀ j < 64, on j = decide (j = k)) → k < 64 → at_ k % 4 ≠ 0 →
        Raises s i { kind := 1, cause := 6, addr := at_ k })
    let stores := fun (i : Instr) (at_ : Nat → Nat) (seq : Bool) => s.mayIssue i = true →
      (legal at_ seq true → ∃ t, exec i s = .next t ∧
        (∀ k < 64, on k = true → (∀ j < 64, k < j → on j = true → at_ j % 2 ^ 26 ≠ at_ k % 2 ^ 26) → word t (at_ k) = s.lane v.toNat k) ∧
        (∀ z x, (∀ k < 64, on k = true → x < at_ k % 2 ^ 26 ∨ at_ k % 2 ^ 26 + 4 ≤ x) →
          readByte (t.storageOf z) x = readByte (s.storageOf z) x) ∧
        ok t ∧ s.keepsBut t [.status, .store, .memory] ∧ (∀ e, (t.die e).mem = (s.die e).mem) ∧
        (∀ e, (∀ k < 64, on k = true → at_ k / 2 ^ 30 % 4 = 0 ∨ e ≠ commonsDie s.focus.core.die (at_ k)) →
          (t.die e).commons = (s.die e).commons) ∧
        { t.cur.store with spad := [], lines := [] } = { s.cur.store with spad := [], lines := [] } ∧ s.passed t 2) ∧
      (∀ k la, bit w 63 = false → (∀ j < 64, on j = decide (j = k)) → k < 64 → at_ k % 4 = 0 → s.idleMemory → s.reaches (at_ k) 4 la true →
        s.here.unheld (la / 128) → ∃ t q, exec i s = .next t ∧ s.sentOp t i (decide (p = 0)) q ∧ q.preg = p.toNat ∧ q.dest = .none ∧
          (∀ j < 4, t.here.byteAt (la + j) = BitVec.ofNat 8 (s.lane v.toNat k / 256 ^ j)) ∧
          (∀ e x, (e = s.focus.core.die → x < la ∨ la + 4 ≤ x) → (t.die e).byteAt x = (s.die e).byteAt x) ∧ s.keepsAccess t [.memory])
    loads (.vld sy v a m o p) row true ∧ stores (.vst sy v a m o p) row true ∧ loads (.vgath sy v a b m p) spread false ∧
      stores (.vscat sy v a b m p) spread false

/-! ## The matrix cluster (15_isa_matrix.md) -/

namespace Sys2Proof.Machine

/-- What a tile command may change beside an accumulator: its flags, the word and the slots that it takes, and what its completion pulse
starts through the crossbar (R310, R381). -/
def matrixSide : List Piece := [.arith, .store, .crossbar, .coreCsr, .cores, .memory, .dies, .system, .ops, .streams]

/-- A tile command retires having written the accumulators listed and no other. -/
def State.wroteTiles (s t : State) (l : List Nat) : Prop :=
  (∀ n, n ∉ l → t.tile n = s.tile n) ∧ s.keepsBut t (.tiles :: matrixSide) ∧ s.passed t 2

/-- An instruction that may issue writes every cell of one accumulator, with the classes that the cells raise, and nothing else. -/
def WritesTile (s : State) (i : Instr) (d : Nat) (f : Nat → Nat → Nat × Classes) : Prop :=
  s.mayIssue i = true → ∃ t, exec i s = .next t ∧ (∀ r c, r < 64 → c < 64 → cell (t.tile d) r c = (f r c).1 % 2 ^ 32) ∧
    (∀ n, n ≠ d → t.tile n = s.tile n) ∧
    s.raisedClasses t ((List.range 4096).foldl (fun k n => k ||| (f (n / 64) (n % 64)).2) 0) [.tiles]

end Sys2Proof.Machine

/-- R316, R317, R319: the tile adjusts, cell by cell; an accumulator loaded from or stored to untranslated storage, or sent to domain memory;
`mtw` sets the twiddle generator. -/
def Obligations.AccumulatorForms : Prop :=
  ∀ (s : State) (sy a5 : BitVec 5) (d a b : BitVec 4) (m : BitVec 3),
    let zi := bit (s.me.reg 1) 0
    let zo := bit (s.me.reg 1) 1
    let at_ := fun (n : BitVec 4) (r c : Nat) => cell (s.tile n.toNat) r c
    let adjust := fun (f : Ext → Ext → Ext × Bool) (u v : Nat) =>
      let x := fp32.input zi u
      let y := fp32.input zi v
      let z := f x.1 y.1
      let w := fp32.rnd 0 0 false zo z.1
      (w.1, x.2 ||| y.2 ||| (w.2 ||| if z.2 && !(x.1.isNan || y.1.isNan) then Classes.invalid else 0))
    let w := s.x a5.toNat
    let base := field w 0 32
    let off := field w 0 26
    let legal := fun (store : Bool) => bit w 63 = true ∧ s.tileCheck w store = none ∧ s.ops = [] ∧ s.linesReady base 16384
    let domain := fun (i : Instr) (write : Bool) (dest : Dest) => bit w 63 = false → s.mayIssue i = true →
      (w.toNat % 128 ≠ 0 → Raises s i { kind := 1, cause := 6, addr := w.toNat }) ∧
      (∀ u ps, w.toNat % 128 = 0 → s.joinsNow i = false →
        (s.take sy).plan s.focus.core (s.asks s.focus) (s.cur.reg 0x40).toNat write true (s.openStream s.focus) (pieces w.toNat 16384) = (u, .ok ps) →
        u.mustWait u.focus 0 false (ps.any fun p => decide (p.order = 0)) ps = false → (∀ q ∈ u.ops, q.id ≠ u.nextOp) → u.focus = s.focus →
        ∃ t q, exec i s = .next t ∧ t.op? u.nextOp = some q ∧ q.owner = s.focus ∧ q.plain = true ∧ q.dest = dest ∧ q.size = 16384 ∧
          q.parts.map (fun p => (p.die, p.addr, p.off, p.len)) = ps.map (fun p => (p.die, p.addr, p.off, p.len)) ∧
          t.me.hold = some u.nextOp)
    WritesTile s (.mzero sy d m) d.toNat
        (fun _ _ => (([0, 0x7F800000, 0xFF800000, 0xFF800000] : List Nat).getD m.toNat 0, 0)) ∧
      WritesTile s (.mtr sy d a) d.toNat (fun r c => (at_ a c r, 0)) ∧
      WritesTile s (.mmov sy d a) d.toNat (fun r c => (at_ a r c, 0)) ∧
      WritesTile s (.madd sy d a b) d.toNat (fun r c => adjust Ext.add (at_ a r c) (at_ b r c)) ∧
      WritesTile s (.msc sy d a b) d.toNat (fun r c => adjust Ext.mul (at_ a r c) ((s.x b.toNat).toNat % 2 ^ 32)) ∧
      (s.mayIssue (.mldz sy d a5) = true → legal false → ∃ t, exec (.mldz sy d a5) s = .next t ∧
        (∀ r c, r < 64 → c < 64 → cell (t.tile d.toNat) r c = readNat (s.storageOf base) (off + 4 * (64 * r + c)) 4) ∧
        (∀ n, n ≠ d.toNat → t.tile n = s.tile n) ∧ s.keepsBut t [.tiles] ∧ s.passed t 2) ∧
      (s.mayIssue (.mstz sy d a5) = true → legal true → ∃ t, exec (.mstz sy d a5) s = .next t ∧
        ((∀ n, s.cur.ev n = 0) → (∀ r c, r < 64 → c < 64 → readNat (t.storageOf base) (off + 4 * (64 * r + c)) 4 = at_ d r c) ∧
          ∀ x, x < off ∨ off + 16384 ≤ x → readByte (t.storageOf base) x = readByte (s.storageOf base) x) ∧
        s.wroteTiles t []) ∧
      domain (.mldz sy d a5) false (.tile d.toNat) ∧ domain (.mstz sy d a5) true .none ∧
      (s.mayIssue (.mtw sy a5) = true → ∃ t, exec (.mtw sy a5) s = .next t ∧
        t.cur.regs = { s.cur.regs with twiddle := if 2 ≤ field w 0 7 ∧ field w 0 7 ≤ 64 then field w 0 7 else 0 } ∧
        s.keepsBut t [.rings] ∧ s.passed t 2)

/-- R310 to R314, R318, R320, R222: a tile command takes the word at the head of the format queue: with none to come it faults, with none
yet it waits, and a word that fails its checks stays there and is illegal; `mma` and `mmas` add the products of their operands to each cell,
`mcvt` stores the converted rows and their scales, and `mfft` transforms each row. -/
def Obligations.TileCommands : Prop :=
  ∀ (s : State) (sy x : BitVec 5) (d c a b : BitVec 4) (h : BitVec 1),
    let me := s.focus.core
    let commands : List (Instr × (Word → Bool)) := [(.mma sy d c a b, fwMul true), (.mmas sy d c a b, fwMul false), (.mcvt sy d x h, fwConvert),
      (.mfft sy a b, fun w => fwTransform s.cur.regs.twiddle w && a.toNat != b.toNat)]
    (∀ e ∈ commands, s.mayIssue e.1 = true →
      (s.cur.store.fq = [] → s.cur.noMoreWords = true → Raises s e.1 { kind := 9, cause := 0 }) ∧
      (s.cur.store.fq = [] → s.cur.noMoreWords = false → exec e.1 s = .next (s.blocked .formatQueue)) ∧
      (∀ w l, s.cur.store.fq = w :: l → e.2 w = false → Raises s e.1 { kind := 8, cause := IllegalCause.fmtWord.code.toNat })) ∧
    (∀ w l, s.cur.store.fq = w :: l →
      let zi := bit w 35 || bit (s.me.reg 1) 0
      let zo := bit w 34 || bit (s.me.reg 1) 1
      let popped := fun (t : State) => t.cur.store.fq = l
      (∀ i dense ra rb, ((i = .mma sy d c a b ∧ dense = true) ∨ (i = .mmas sy d c a b ∧ dense = false)) → s.mayIssue i = true →
        fwMul dense w = true → s.operandRing a.toNat = .ok ra → s.operandRing b.toNat = .ok rb →
        operandCheck w true a.toNat ra = none → operandCheck w false b.toNat rb = none →
        (∀ e, Sparse.wf (fun _ => Core.reset) (s.die e).cores = true) →
        let ka := s.readsOf (ringKey me ra.addr)
        let kb := s.readsOf (ringKey me rb.addr) + ofBool (ringKey me ra.addr == ringKey me rb.addr)
        let slotA := ra.slotAddr me (ra.tail + ka)
        let slotB := rb.slotAddr me (rb.tail + kb)
        ka < ra.filled → kb < rb.filled → (∀ o ∈ s.unperformed s.focus, o.acq = false ∧ o.rel = false) →
        (∀ n ∈ operandLines w true slotA ++ operandLines w false slotB, s.cur.line n ≠ .absent ∧ s.cur.line n ≠ .filling) →
        (∀ n st va, s.me.wait ≠ some (.lineFailed n st va)) →
        let u := s.operand w true slotA
        let v := s.operand w false slotB
        let g := Min.min (groupSize u.code (fwK w)) (groupSize v.code (fwK w))
        let left := fun (r k : Nat) => if fwTa w then u.elem k (u.row k) r else u.elem r (u.row r) k
        let right := fun (k q : Nat) => if fwTb w then v.elem k (v.row k) q else v.elem q (v.row q) k
        let products := fun (r q : Nat) =>
          if dense then (List.range 64).map fun k => (left r k, right k q)
          else (u.sparseRow (fwSpn w) r).1.map fun e => (e.2, right e.1 q)
        ∃ t, exec i s = .next t ∧ popped t ∧ s.wroteTiles t [d.toNat] ∧
          ∀ r q, r < 64 → q < 64 → cell (t.tile d.toNat) r q = (mmaCell w g zo (cell (s.tile c.toNat) r q) (products r q)).1 % 2 ^ 32) ∧
      (s.mayIssue (.mcvt sy d x h) = true → fwConvert w = true → s.ops = [] →
        let addr := (s.x x.toNat).toNat % 2 ^ 32
        let n := denseBytes (fwO w) + scaleBytes (fwO w)
        let draws := if fwRm w = 4 then (drawList 4096 ((s.me.reg 2).setWidth 32)).1 else List.replicate 4096 0
        let row := fun (r : Nat) => convertRow w zo
          ((List.range 64).map fun j => (convertInput (fwAcc w) zi none (if h ≠ 0 then cell (s.tile d.toNat) j r else cell (s.tile d.toNat) r j)).1)
          ((draws.drop (64 * r)).take 64)
        (if spaceOf addr = 0 then s.cur.spadCheck addr n 1 true = none else s.cur.commonsCheck addr n 0 = none) → s.linesReady addr n →
        (∀ k, s.cur.ev k = 0) →
        ∃ t, exec (.mcvt sy d x h) s = .next t ∧ popped t ∧ s.wroteTiles t [] ∧
          (let bytes := (List.range 64).flatMap (fun r => (row r).1) ++ (List.range 64).flatMap fun r => (row r).2.1
           readBytes (t.storageOf addr) (addr % 2 ^ 26) bytes.length = bytes ∧ ∀ y, y < addr % 2 ^ 26 ∨ addr % 2 ^ 26 + bytes.length ≤ y →
             readByte (t.storageOf addr) y = readByte (s.storageOf addr) y) ∧
          t.me.reg 2 = if fwRm w = 4 then (drawList 4096 ((s.me.reg 2).setWidth 32)).2.setWidth 64 else s.me.reg 2) ∧
      (s.mayIssue (.mfft sy a b) = true → fwTransform s.cur.regs.twiddle w = true → a ≠ b →
        let radices := (List.range (field w 61 3)).map fun k => ([2, 3, 4, 5] : List Nat).getD (field w (43 + 3 * k) 3) 8
        let n := radices.foldl (· * ·) 1
        let flush := fun (v : Nat) => if zi && v / 2 ^ 23 % 256 == 0 && v % 2 ^ 23 != 0 then v / 2 ^ 31 * 2 ^ 31 else v
        let row := fun (r : Nat) => (fftRow zo (bit w 40) n (field w 41 2) radices n
          ((List.range n).map fun q => (flush (cell (s.tile a.toNat) r q), flush (cell (s.tile b.toNat) r q)))).1
        ∃ t, exec (.mfft sy a b) s = .next t ∧ popped t ∧ s.wroteTiles t [a.toNat, b.toNat] ∧
          ∀ r q, r < 64 → q < 64 →
            cell (t.tile a.toNat) r q = (if q < n then ((row r).getD q (0, 0)).1 % 2 ^ 32 else cell (s.tile a.toNat) r q) ∧
            cell (t.tile b.toNat) r q = (if q < n then ((row r).getD q (0, 0)).2 % 2 ^ 32 else cell (s.tile b.toNat) r q)))

/-! ## Pool space (13_isa_memory.md, 02_pool.md) -/

namespace Sys2Proof.Machine

/-- The page that holds an object offset lies in frame `f` of its home die under lease `l`, which has not expired; the bytes lie in lines that
no core holds and that are not poisoned (R50, R58, R104). -/
def State.holdsPage (s : State) (obj a n f : Nat) (l : Lease) : Prop :=
  let d := pageDie obj (a / 65536)
  (s.die d).frameOf obj (a / 65536) = some (f, l) ∧ (s.die d).lease f = l ∧ precedes (s.ltime d) l.dline = true ∧ l.st = .valid ∧
    ∀ k, k < n → (s.die d).unheld (((s.die d).frameAddr f + a % 65536 + k) / 128)

/-- The bytes of a page at an object offset. -/
def State.pageBytes (s : State) (obj a n f : Nat) : List Byte :=
  let d := s.die (pageDie obj (a / 65536))
  readBytes d.mem (d.localSize + f * 65536 + a % 65536) n

/-- A pool access marks its frame as accessed and touched by a demand, and changes no other lease (R50). -/
def State.touched (s t : State) (obj a f : Nat) (l : Lease) : Prop :=
  let d := pageDie obj (a / 65536)
  (t.die d).lease f = { l with a := true, pf := false } ∧ ∀ e g, (e = d → g ≠ f) → (t.die e).lease g = (s.die e).lease g

/-- Every pool request that waits can be sent as far as its ports and its pool go: none is about to end (R43, R47). -/
def State.poolOpen (s : State) : Prop := ∀ d, ∀ r ∈ (s.die d).pool.waiting, s.poolClosed d r.obj r.pidx = none

end Sys2Proof.Machine

/-- R267, R268, R271, R272, R37, R34: pool loads of a page that the die holds, into an integer register, the scratchpad or a k register;
capability faults of the first check that fails; and the capability forms. -/
def Obligations.PoolLoadsAndCapabilities : Prop :=
  ∀ (s : State) (sy d : BitVec 5) (k kd a b o : BitVec 4) (z p : BitVec 3) (pd : BitVec 4),
    let c := s.cap k.toNat
    let off := (s.x d.toNat).toNat
    let obj := field c.bits 88 40
    let pos := capStart c.bits + off
    let okP := fun (t : State) => ∀ n, t.me.status n = if n = p.toNat then Status.ok else s.me.status n
    let capFault := fun (at_ : Nat) (st : Status) =>
      ({ kind := 2, cause := st.toNat, addr := if c.tag then capStart c.bits + at_ else 0, reg := k.toNat } : FaultInfo)
    s.ops = [] → (o = 15 → s.pendingWrites = false) →
      (o = 7 → ∀ f l, (s.die (pageDie obj (pos / 65536))).frameOf obj (pos / 65536) = some (f, l) → l.pend = 0) →
      (∀ f l, s.mayIssue (.pld sy d k z o p) = true → z.toNat < 4 → c.poolCheck off (2 ^ z.toNat) 1 true (2 ^ z.toNat) = none →
        s.holdsPage obj pos (2 ^ z.toNat) f l → l.hasType (pos % 65536) (2 ^ z.toNat) true = false →
        ∃ t, exec (.pld sy d k z o p) s = .next t ∧ t.x d.toNat = BitVec.ofNat 64 (ofBytes (s.pageBytes obj pos (2 ^ z.toNat) f)) ∧
          (∀ n, n ≠ d.toNat → t.x n = s.x n) ∧ okP t ∧ s.touched t obj pos f l ∧ s.keepsBut t [.x, .status, .dies] ∧ s.passed t 2) ∧
      (∀ f l, s.mayIssue (.pld sy d k z o p) = true → z = 7 →
        let w := s.x (d.toNat + 1)
        let n := field w 32 9
        s.spadOperandCheck w true = none → c.poolCheck off n 1 true 1 = none → s.linesReady (field w 0 32) n →
        s.holdsPage obj pos n f l → l.hasType (pos % 65536) n true = false →
        ∃ t, exec (.pld sy d k z o p) s = .next t ∧ readBytes t.cur.store.spad (field w 0 26) n = s.pageBytes obj pos n f ∧
          (∀ y, y < field w 0 26 ∨ field w 0 26 + n ≤ y → readByte t.cur.store.spad y = readByte s.cur.store.spad y) ∧ okP t ∧
          s.touched t obj pos f l ∧ s.keepsBut t [.store, .status, .dies] ∧ s.passed t 2) ∧
      (s.mayIssue (.pld sy d k z o p) = true → z.toNat < 4 → c.tag = false ∨ 21 < field c.bits 35 5 →
        Raises s (.pld sy d k z o p) (capFault off Status.access)) ∧
      (s.mayIssue (.pld sy d k z o p) = true → z.toNat < 4 → c.tag = true → field c.bits 35 5 ≤ 21 → field c.bits 80 8 % 2 = 0 →
        Raises s (.pld sy d k z o p) (capFault off Status.rights)) ∧
      (s.mayIssue (.pld sy d k z o p) = true → z.toNat < 4 → c.tag = true → field c.bits 35 5 ≤ 21 → field c.bits 80 8 % 2 = 1 →
        capLen c.bits < off + 2 ^ z.toNat → Raises s (.pld sy d k z o p) (capFault off Status.bounds)) ∧
      (∀ f l, s.mayIssue (.kld sy kd k a o p) = true →
        let pos := capStart c.bits + (s.x a.toNat).toNat
        c.poolCheck (s.x a.toNat).toNat 16 32 true 16 = none → s.holdsPage obj pos 16 f l → l.hasType (pos % 65536) 16 false = false →
        (o = 7 → l.pend = 0) → ∃ t, exec (.kld sy kd k a o p) s = .next t ∧
          t.cap kd.toNat = ⟨BitVec.ofNat 128 (ofBytes (s.pageBytes obj pos 16 f)), true⟩ ∧ (∀ n, n ≠ kd.toNat → t.cap n = s.cap n) ∧
          okP t ∧ s.touched t obj pos f l ∧ s.keepsBut t [.caps, .status, .dies] ∧ s.passed t 2) ∧
      (s.mayIssue (.kder sy kd k a b) = true →
        let at_ := (s.x a.toNat).toNat
        let n := (s.x b.toNat).toNat
        (∀ r, c.derive at_ n = .ok r → r.tag = true ∧ capStart r.bits = capStart c.bits + at_ ∧ capLen r.bits = n ∧
          field r.bits 40 88 = field c.bits 40 88 ∧ ∃ t, exec (.kder sy kd k a b) s = .next t ∧ t.cap kd.toNat = r ∧
            (∀ m, m ≠ kd.toNat → t.cap m = s.cap m) ∧ s.keepsBut t [.caps] ∧ s.passed t 2) ∧
        (∀ st, c.derive at_ n = .error st → Raises s (.kder sy kd k a b) (capFault at_ st))) ∧
      (s.mayIssue (.kchk sy pd k a b) = true →
        let at_ := (s.x a.toNat).toNat
        let need := field (s.x b.toNat) 40 8
        let verdict := if c.tag = false ∨ 21 < field c.bits 35 5 then Status.access else if field c.bits 80 8 &&& need ≠ need then Status.rights
          else if capLen c.bits < at_ + field (s.x b.toNat) 0 36 then Status.bounds else Status.ok
        ∃ t, exec (.kchk sy pd k a b) s = .next t ∧ (∀ n, t.me.status n = if n = pd.toNat ∧ n ≠ 0 then verdict else s.me.status n) ∧
          s.keepsBut t [.status] ∧ s.passed t 2) ∧
      (s.mayIssue (.kmov sy kd k) = true → ∃ t, exec (.kmov sy kd k) s = .next t ∧ t.cap kd.toNat = c ∧
        (∀ m, m ≠ kd.toNat → t.cap m = s.cap m) ∧ s.keepsBut t [.caps] ∧ s.passed t 2)

/-- R267, R269, R38, R39, R41: a pool store or atomic on a page held exclusively writes the frame, and sends an operation with its
write-through; an atomic's operation holds the old value, and a `pcas` that does not match writes its register at once; R270, R273, R274:
`pget` and the lease forms send one task for each page of their range. -/
def Obligations.PoolStoresAndLeases : Prop :=
  ∀ (s : State) (sy d a b : BitVec 5) (k r n e o : BitVec 4) (z p o3 : BitVec 3) (u : BitVec 1) (f : Nat) (l : Lease),
    let c := s.cap k.toNat
    let obj := field c.bits 88 40
    let sent := fun (i : Instr) (pos len : Nat) (dest : Dest) (new : Nat) => l.kind = .x → l.pend < 255 →
      l.hasType (pos % 65536) len true = false → s.holdsPage obj pos len f l →
      s.poolClosed (pageDie obj (pos / 65536)) obj (pos / 65536) = none → s.poolOpen → ∃ t q, exec i s = .next t ∧ t.op? s.nextOp = some q ∧
        q.owner = s.focus ∧ q.plain = decide (p = 0) ∧ q.preg = p.toNat ∧ q.dest = dest ∧ q.tasks.map (·.st) = [.requested 1] ∧
        ofBytes (t.pageBytes obj pos len f) = new % 2 ^ (8 * len) ∧ ofBytes (readBytes q.data 0 len) = ofBytes (s.pageBytes obj pos len f) ∧
        ((t.die (pageDie obj (pos / 65536))).lease f).pend = l.pend + 1 ∧
        (∀ e x, (e = pageDie obj (pos / 65536) → x < (s.die e).frameAddr f + pos % 65536 ∨ (s.die e).frameAddr f + pos % 65536 + len ≤ x) →
          (t.die e).byteAt x = (s.die e).byteAt x) ∧
        (if p = 0 then t.me.hold = some s.nextOp ∧ t.me.pc = s.me.pc else t.me.hold = none ∧ s.passed t 2) ∧
        s.keepsBut t [.status, .run, .memory, .dies, .ops]
    let tasks := fun (i : Instr) (pages : List Nat) (kind : Nat → TaskKind) => ∃ t q, exec i s = .next t ∧ t.op? s.nextOp = some q ∧
      q.owner = s.focus ∧ q.plain = decide (p = 0) ∧ q.preg = p.toNat ∧
      q.tasks.map (fun x => (x.obj, x.pidx, x.kind)) = pages.zipIdx.map (fun x => (obj, x.1, kind x.2)) ∧
      (if p = 0 then t.me.hold = some s.nextOp ∧ t.me.pc = s.me.pc else t.me.hold = none ∧ s.passed t 2) ∧ (∀ m, t.x m = s.x m)
    let lease := fun (i : Instr) (need : Nat) (kind : TaskKind) => s.mayIssue i = true →
      let off := (s.x a.toNat).toNat
      let len := field (s.x b.toNat) 0 36
      (c.rangeCheck off len need = none → tasks i (pagesOf (capStart c.bits + off) len) (fun _ => kind)) ∧
      (∀ st, c.rangeCheck off len need = some st → Raises s i
        { kind := 2, cause := st.toNat, addr := if c.tag then capStart c.bits + off else 0, reg := k.toNat })
    let x := s.x (2 * r.toNat + 1)
    let size := if u = 0 then 4 else 8
    let y := x.toNat % 2 ^ (8 * size)
    let signed := fun (v : Nat) => if u = 0 then (BitVec.ofNat 32 v).toInt else (BitVec.ofNat 64 v).toInt
    let result := fun (old : Nat) => ([old + y, old &&& y, old ||| y, old ^^^ y, y, if signed y ≤ signed old then y else old,
      if signed old ≤ signed y then y else old, Min.min old y, Max.max old y, rne32 ((v32 old).add (v32 y)).1] : List Nat).getD e.toNat 0
    let at_ := (s.x (2 * r.toNat)).toNat
    let old := ofBytes (s.pageBytes obj (capStart c.bits + at_) size f)
    s.ops = [] → (o = 7 ∨ o3 = 7 → l.pend = 0) → (o = 15 ∨ o3 = 7 → s.pendingWrites = false) →
      (s.mayIssue (.pst sy d k z o p) = true → z.toNat < 4 →
        c.poolCheck (s.x d.toNat).toNat (2 ^ z.toNat) 2 true (2 ^ z.toNat) = none →
        sent (.pst sy d k z o p) (capStart c.bits + (s.x d.toNat).toNat) (2 ^ z.toNat) .none (s.x (d.toNat + 1)).toNat) ∧
      (s.mayIssue (.pst sy d k z o p) = true → z = 7 →
        let w := s.x (d.toNat + 1)
        let len := field w 32 9
        s.spadOperandCheck w false = none → c.poolCheck (s.x d.toNat).toNat len 2 true 1 = none → s.linesReady (field w 0 32) len →
        sent (.pst sy d k z o p) (capStart c.bits + (s.x d.toNat).toNat) len .none
          (ofBytes (readBytes s.cur.store.spad (field w 0 26) len))) ∧
      (s.mayIssue (.pamo sy r k e u o3 p) = true → e.toNat < 10 → c.poolCheck at_ size 4 true size = none →
        (s.lacksFeature e.toNat = false → sent (.pamo sy r k e u o3 p) (capStart c.bits + at_) size (.x (2 * r.toNat + 1)) (result old)) ∧
        (s.lacksFeature e.toNat = true → p = 0 → Raises s (.pamo sy r k e u o3 p)
          { kind := 7, cause := 3, addr := capStart c.bits + at_ }) ∧
        (s.lacksFeature e.toNat = true → p ≠ 0 → ∃ t, exec (.pamo sy r k e u o3 p) s = .next t ∧
          (∀ m, t.me.status m = if m = p.toNat then Status.unsupported else s.me.status m) ∧ s.keepsBut t [.status] ∧ s.passed t 2)) ∧
      (s.mayIssue (.pcas sy r k n u o3 p) = true → c.poolCheck at_ size 4 true size = none →
        (old = y → sent (.pcas sy r k n u o3 p) (capStart c.bits + at_) size (.x (2 * r.toNat + 1)) (s.x n.toNat).toNat) ∧
        (old ≠ y → l.kind = .x → l.hasType ((capStart c.bits + at_) % 65536) size true = false →
          s.holdsPage obj (capStart c.bits + at_) size f l →
          ∃ t, exec (.pcas sy r k n u o3 p) s = .next t ∧ t.x (2 * r.toNat + 1) = BitVec.ofNat 64 old ∧
            (∀ m, m ≠ 2 * r.toNat + 1 → t.x m = s.x m) ∧ (∀ m, t.me.status m = if m = p.toNat then Status.ok else s.me.status m) ∧
            s.touched t obj (capStart c.bits + at_) f l ∧ s.keepsBut t [.x, .status, .dies] ∧ s.passed t 2)) ∧
      (s.mayIssue (.pget sy a k b p) = true →
        let off := (s.x a.toNat).toNat
        let w := s.x b.toNat
        let m := field w 32 9
        bit w 63 = false → 0 < m → m ≤ 256 → c.poolCheck off (m * 65536) 8 false 65536 = none →
          tasks (.pget sy a k b p) ((List.range m).map (· + (capStart c.bits + off) / 65536)) (fun _ => .fetch none)) ∧
      (s.mayIssue (.pget sy a k b p) = true →
        let off := (s.x a.toNat).toNat
        let w := s.x b.toNat
        let m := field w 32 9
        bit w 63 = true → 0 < m → m ≤ 32 → spaceOf (field w 0 32) = 0 → s.cur.spadCheck (field w 0 32) (m * 65536) 128 true = none →
          s.linesReady (field w 0 32) (m * 65536) → c.poolCheck off (m * 65536) 8 false 65536 = none →
          tasks (.pget sy a k b p) ((List.range m).map (· + (capStart c.bits + off) / 65536))
            (fun j => .fetch (some (field w 0 26 + 65536 * j)))) ∧
      lease (.lacq sy k a b p) (if bit (s.x b.toNat) 47 then 16 else 1) (.lease (bit (s.x b.toNat) 47)) ∧
      lease (.lrel sy k a b p) 0 .release ∧ lease (.lhand sy k a b p) 64 (.handover (field (s.x b.toNat) 48 16))

/-! ## KV space (15_isa_matrix.md, 05_kv_space.md) -/

/-- R107 to R109, R111, R116, R324 to R327: with the sequence's record at hand, `kvld` reads a length or a row; `kvapp` below the committed
length passes, elsewhere writes its rows, and past it faults with LENGTH; `kvcmt` writes the length, passes, or faults with LENGTH; `kvgrow`
writes a slab entry, or starts a move where its target fits and no growth of the layer is under way, and a rotation above 47 is FORMAT;
`kvattn` takes its word and holds M until its rounds are done. Operands of `kvapp` and `kvcmt` out of range are RANGE. R95: a reserved field
of the KV address is a FORMAT fault of each, which pops no word. The rows that a `kvapp` writes stay readable old (log 90). -/
def Obligations.KvForms : Prop :=
  ∀ (s : State) (sy d a b c : BitVec 5) (w : BitVec 2) (p : BitVec 3) (e : SeqEntry),
    let va := s.x a.toNat
    let asid := (s.cur.reg 0x40).toNat
    let okP := fun (t : State) => ∀ n, t.me.status n = if n = p.toNat then Status.ok else s.me.status n
    let passes := fun (i : Instr) => ∃ t, exec i s = .next t ∧ okP t ∧ s.keepsBut t [.status] ∧ s.passed t 2
    let record := s.here.seqEntry asid (kvSeq va) = some e ∧ e.good = true ∧
      ∀ f l, (s.die (pageDie e.obj 0)).frameOf e.obj 0 = some (f, l) → precedes (s.ltime (pageDie e.obj 0)) l.dline = true
    let sent := fun (i : Instr) (q : Op) (t : State) => exec i s = .next t ∧ t.op? s.nextOp = some q ∧ q.owner = s.focus ∧
      q.plain = decide (p = 0) ∧ q.preg = p.toNat ∧
      (if p = 0 then t.me.hold = some s.nextOp ∧ t.me.pc = s.me.pc else t.me.hold = none ∧ s.passed t 2) ∧ ∀ n, t.x n = s.x n
    let held := fun (off : Nat) (f : Nat) (l : Lease) => s.holdsPage e.obj off 4 f l ∧ l.kind = .x ∧ e.inWindow off 4 = true ∧
      l.hasType off 4 true = false ∧ l.pend < 255 ∧ s.poolClosed (pageDie e.obj 0) e.obj 0 = none
    (field va 60 4 ≠ 0 → ∀ i, (i = .kvld sy d a w p ∨ i = .kvapp sy a b c p ∨ i = .kvcmt sy a b c p ∨ i = .kvgrow sy a b c p) →
        s.mayIssue i = true → Raises s i { kind := 6, cause := 1, addr := va.toNat }) ∧
    (field va 60 4 = 0 →
      (s.mayIssue (.kvapp sy a b c p) = true → 256 ≤ kvPos va ∨ 2 ^ 24 ≤ (s.x b.toNat).toNat →
        Raises s (.kvapp sy a b c p) { kind := 6, cause := 4, addr := va.toNat }) ∧
      (let e0 := (s.x b.toNat).toNat
       let n := (s.x c.toNat).toNat
       s.mayIssue (.kvcmt sy a b c p) = true → 2 ^ 24 ≤ e0 ∨ 2 ^ 24 ≤ n ∨ n ≤ e0 ∨ e0 + 256 < n →
        Raises s (.kvcmt sy a b c p) { kind := 6, cause := 4, addr := va.toNat })) ∧
    (s.ops = [] → record → field va 60 4 = 0 →
      (s.mayIssue (.kvld sy d a w p) = true →
        (w = 0 → e.inWindow 0 4 = true → (∀ f l, (s.die (pageDie e.obj 0)).frameOf e.obj 0 = some (f, l) → l.hasType 0 4 true = false) → ∃ t, exec (.kvld sy d a w p) s = .next t ∧ t.x d.toNat = BitVec.ofNat 64 e.clen ∧ (∀ n, n ≠ d.toNat → t.x n = s.x n) ∧
          okP t ∧ s.keepsBut t [.x, .status] ∧ s.passed t 2) ∧
        (∀ pg koff leaf fwd f l, w ≠ 0 →
          let ua := field (s.x d.toNat) 0 32
          let off := if w = 1 then koff else koff + 32768
          ua / 2 ^ 30 = 0 → s.cur.spadCheck ua e.row 16 true = none → kvPos va ≤ e.clen + 255 →
          s.kvxlate asid e va (kvLayer va) (kvHead va) (kvPos va) = .ok pg koff leaf fwd → off + e.row ≤ 65536 →
          e.inWindow (pg * 65536 + off) e.row = true → s.holdsPage e.obj (pg * 65536 + off) e.row f l → l.hasType off e.row true = false →
          s.linesReady ua e.row → ∃ t, exec (.kvld sy d a w p) s = .next t ∧
            readBytes t.cur.store.spad (ua % 2 ^ 26) e.row = s.pageBytes e.obj (pg * 65536 + off) e.row f ∧
            (∀ x, x < ua % 2 ^ 26 ∨ ua % 2 ^ 26 + e.row ≤ x → readByte t.cur.store.spad x = readByte s.cur.store.spad x) ∧ okP t ∧
            s.keepsBut t [.store, .status, .dies] ∧ s.passed t 2)) ∧
      (s.mayIssue (.kvapp sy a b c p) = true →
        let e0 := (s.x b.toNat).toNat
        let ua := field (s.x c.toNat) 0 32
        let len := 2 * 2 ^ e.lgh * e.row
        kvPos va < 256 → e0 < 2 ^ 24 → ua / 2 ^ 30 = 0 → s.cur.spadCheck ua len 16 false = none →
          (e.clen < e0 → Raises s (.kvapp sy a b c p) { kind := 6, cause := 6, addr := va.toNat }) ∧
          (e0 ≤ e.clen → 2 ^ 24 ≤ e0 + kvPos va → Raises s (.kvapp sy a b c p) { kind := 6, cause := 4, addr := va.toNat }) ∧
          (e0 ≤ e.clen → e0 + kvPos va < e.clen → e0 + kvPos va < 2 ^ 24 → passes (.kvapp sy a b c p)) ∧
          (∀ rows fwd, s.poolOpen → e0 ≤ e.clen → e0 + kvPos va < 2 ^ 24 → e.clen ≤ e0 + kvPos va → s.appRows e va (e0 + kvPos va) (List.range (2 ^ e.lgh)) = .ok (rows, fwd) →
            (∀ r ∈ rows, e.inWindow (r.page * 65536 + r.off) e.row = true ∧ s.poolClosed (pageDie e.obj r.page) e.obj r.page = none ∧
              ∃ f l, s.holdsPage e.obj (r.page * 65536) 65536 f l ∧ l.kind = .x ∧ l.pend ≤ 247 ∧ l.hasType r.off e.row true = false) →
            s.linesReady ua len →
            let u := State.writeRows e (ua % 2 ^ 26) s.nextOp ((s.keepOld (s.oldRows e p.toNat rows)).countFwd fwd) 0 rows
            ∃ t q, sent (.kvapp sy a b c p) q t ∧ q.tasks = u.2 ∧ ∀ k, (t.die k).mem = (u.1.die k).mem)) ∧
      (s.mayIssue (.kvcmt sy a b c p) = true →
        let e0 := (s.x b.toNat).toNat
        let n := (s.x c.toNat).toNat
        s.pendingWrites = false → e0 < n → n ≤ e0 + 256 → n < 2 ^ 24 →
          (∀ f l, s.poolOpen → e.clen = e0 → held 0 f l → ∃ t q, sent (.kvcmt sy a b c p) q t ∧ ofBytes (t.pageBytes e.obj 0 4 f) = n ∧
            q.tasks.map (·.st) = [.requested 1]) ∧
          (e.clen ≠ e0 → n ≤ e.clen → passes (.kvcmt sy a b c p)) ∧
          (e.clen ≠ e0 → e.clen < n → Raises s (.kvcmt sy a b c p) { kind := 6, cause := 6, addr := va.toNat })) ∧
      (s.mayIssue (.kvgrow sy a b c p) = true → kvLayer va ≤ e.nlay →
        let nb := field (s.x b.toNat) 0 20
        let rot := field (s.x c.toNat) 0 6
        let sl := e.slab (kvLayer va)
        e.badSlab sl = false →
          (∀ f l, s.poolOpen → sl.v = false → 1 ≤ nb → nb + 2 ^ e.lgh ≤ 2 ^ 20 → rot ≤ 47 → held (16 + 4 * kvLayer va) f l →
            ∃ t q, sent (.kvgrow sy a b c p) q t ∧
              ofBytes (t.pageBytes e.obj (16 + 4 * kvLayer va) 4 f) = (2 ^ 31 + rot * 2 ^ 25 + e.lgh * 2 ^ 20 + nb) % 2 ^ 32) ∧
          (sl.v = false → nb < 1 ∨ 2 ^ 20 < nb + 2 ^ e.lgh → Raises s (.kvgrow sy a b c p) { kind := 6, cause := 4, addr := va.toNat }) ∧
          (sl.v = false → 1 ≤ nb → nb + 2 ^ e.lgh ≤ 2 ^ 20 → 47 < rot → Raises s (.kvgrow sy a b c p) { kind := 6, cause := 1, addr := va.toNat }) ∧
          (let cap := 2 ^ sl.lc
           let fits := sl.lc < 20 ∧ 1 ≤ nb ∧ nb + 2 * cap ≤ 2 ^ 20 ∧ (sl.base + cap ≤ nb ∨ nb + 2 * cap ≤ sl.base)
           (sl.v = true → ¬ fits → Raises s (.kvgrow sy a b c p) { kind := 6, cause := 4, addr := va.toNat }) ∧
           (sl.v = true → fits → s.growing asid (kvSeq va) (kvLayer va) = true → exec (.kvgrow sy a b c p) s = .next (s.blocked .pool)) ∧
           (sl.v = true → fits → s.growing asid (kvSeq va) (kvLayer va) = false → (e.mayX = true ∨ s.holdsSlab e.obj nb cap = true) →
             e.inWindow (nb * 65536) (cap * 65536) = true → e.inWindow (sl.base * 65536) (cap * 65536) = true →
             ∃ t q, sent (.kvgrow sy a b c p) q t ∧ q.tasks = [] ∧ q.grow = some
               { asid := asid, seq := kvSeq va, layer := kvLayer va, oldBase := sl.base, newBase := nb, lc := sl.lc, rot := sl.rot,
                 heads := 2 ^ e.lgh, tokens := e.tokens, pair := 0, phase := .pair }))) ∧
      (∀ (z : BitVec 4) l x, s.focus.cl = .m → s.mayIssue (.kvattn sy z a b p) = true → s.cur.store.fq = x :: l → fwWhole x = true →
        field (s.x b.toNat) 36 4 ≠ z.toNat → (bit (s.me.reg 0x18) 63 = false) →
        ∃ t, exec (.kvattn sy z a b p) s = .next t ∧ t.me.hold = some s.nextOp ∧ t.me.pc = s.me.pc ∧ t.cur.store.fq = l ∧
          t.cur.regs.heldWord = x ∧ t.cur.regs.heldDest = z.toNat ∧ bit (t.me.reg 0x18) 63 = true ∧ field (t.me.reg 0x18) 0 24 = 0)) ∧
    (∀ (z : BitVec 4) l x, s.focus.cl = .m → s.mayIssue (.kvattn sy z a b p) = true → s.cur.store.fq = x :: l → fwWhole x = true →
      field (s.x b.toNat) 36 4 ≠ z.toNat → field va 60 4 ≠ 0 →
      ∃ t, exec (.kvattn sy z a b p) s = .next t ∧ s.raised t { kind := 6, cause := 1, addr := va.toNat } ∧ t.cur.store.fq = s.cur.store.fq ∧
        (∀ n, t.tile n = s.tile n) ∧ t.me.reg 0x18 = s.me.reg 0x18)

/-! ## CSRs and system instructions (12_isa_control.md) -/

/-- R252, R225: `csrr` gives the value of a CSR that programs may read and `csrw` writes one that they may write; any other number is
CSR_ACC. The cluster's registers take the fields that their maps keep: the sticky flags are cleared by ones, a seed of 0 becomes 1, a
reserved action or a width outside 4 to 40 discards the write, and a counter is written whole. R205: the retirement adds 1 to `aret`, and a
window that ends with it starts its count again. R133, R67: the two die registers that programs write. R143: bit 16 of 0x130 to 0x133 is
the fact `rmok`, which a read gives as it is then (log 78). -/
def Obligations.CsrForms : Prop :=
  ∀ (s : State) (sy d : BitVec 5) (c : BitVec 12),
    let n := c.toNat
    let v := s.x d.toNat
    let old := s.me.reg n
    let kept := fun (lo k : Nat) => field v lo k * 2 ^ lo
    let cluster := fun (w : Word) => ∃ t, exec (.csrw sy d c) s = .next t ∧ t.me.reg n = w ∧
      (∀ k, k ≠ n → k ≠ 3 → (k < 8 ∨ 16 ≤ k) → t.me.reg k = s.me.reg k) ∧ s.keepsBut t [.arith] ∧ s.passed t 2
    (s.mayIssue (.csrr sy d c) = true →
      ((csrListed n s.focus.cl && csrReadable n) = true → ∃ t, exec (.csrr sy d c) s = .next t ∧
        t.x d.toNat = (if n < 0x40 then old else if n = 0x41 then
            BitVec.ofNat 64 (s.dieNum s.focus.core.die * 2 ^ 16 + s.focus.core.die.val * 2 ^ 8 + s.focus.core.core.val)
          else if n < 0x80 then s.cur.reg n
          else if 0x130 ≤ n ∧ n ≤ 0x133 then setBit (s.dieReg s.focus.core.die n) 16 (s.rmok s.focus.core.die (n - 0x130))
          else s.dieReg s.focus.core.die n) ∧ s.wroteX t d.toNat 2) ∧
      ((csrListed n s.focus.cl && csrReadable n) = false → Raises s (.csrr sy d c) { kind := 8, cause := IllegalCause.csrAcc.code.toNat })) ∧
    (s.mayIssue (.csrw sy d c) = true →
      ((csrListed n s.focus.cl && csrWritable n) = false → Raises s (.csrw sy d c) { kind := 8, cause := IllegalCause.csrAcc.code.toNat }) ∧
      (n = 0 → cluster (BitVec.ofNat 64 (field (old &&& ~~~v) 0 8 + kept 8 8 + field old 16 48 * 2 ^ 16))) ∧
      (n = 1 → cluster (BitVec.ofNat 64 (kept 0 2))) ∧
      (n = 2 → cluster (BitVec.ofNat 64 (if field v 0 32 = 0 then 1 else kept 0 32))) ∧
      (n = 3 → cluster (v + 1)) ∧
      (0x10 ≤ n → n ≤ 0x17 → cluster (if field v 62 2 = 3 ∨ field v 48 6 < 4 ∨ 40 < field v 48 6 then old
        else BitVec.ofNat 64 (kept 62 2 + kept 48 6 + kept 0 32))) ∧
      (8 ≤ n → n ≤ 15 → ∃ t, exec (.csrw sy d c) s = .next t ∧ field (t.me.reg n) 32 32 = field v 32 32 ∧
        field (t.me.reg n) 0 32 = (if (s.me.reg 3 + 1).toNat % 2 ^ field (s.me.reg (n + 8)) 48 6 = 0 then 0 else field v 0 32) ∧
        (∀ k, k ≠ n → k ≠ 3 → (k < 8 ∨ 16 ≤ k) → t.me.reg k = s.me.reg k) ∧ s.keepsBut t [.arith] ∧ s.passed t 2) ∧
      (n = 0x10F → ∃ t, exec (.csrw sy d c) s = .next t ∧
        t.source s.focus.core.die (field v 0 6) = { s.source s.focus.core.die (field v 0 6) with
          gen := (s.source s.focus.core.die (field v 0 6)).gen + 1, phase := false, count := 0, broken := false } ∧ s.keepsBut t [.dies] ∧ s.passed t 2) ∧
      (n = 0x118 → s.ops = [] → ∃ t, exec (.csrw sy d c) s = .next t ∧ t.dieReg s.focus.core.die n = BitVec.ofNat 64 (field v 0 48) ∧
        (∀ k, t.x k = s.x k) ∧ s.passed t 2))

/-- R253 to R257, R85, R145, R346, R382, R384, R403: `tlbi` starts its invalidation, waits, and goes on once that has completed; `snap` requests a
latch, waits, and takes its word; `evcfg` writes an entry of the crossbar, where no target fires with it; `rwctl` writes the rule mask; `resume` acknowledges the entries
of its ASID. That `evcfg` refuses a target argument outside R383's range with CSRACC is the model's reading (log 18). -/
def Obligations.SystemForms : Prop :=
  ∀ (s : State) (sy a b d : BitVec 5),
    let va := s.x a.toNat
    let w := s.x b.toNat
    let die := s.focus.core.die
    let illegal : FaultInfo := { kind := 8, cause := IllegalCause.csrAcc.code.toNat }
    let mine := s.invals.find? fun v => decide (v.stream = some s.focus)
    let goodInval := field w 4 4 < 2 ∧ field w 48 2 ≠ 3 ∧ field w 0 3 < 5 ∧ field va 48 16 = 0
    let goodEntry := evLegal va.toNat w = true
    (s.mayIssue (.tlbi sy a b) = true →
      (∀ v, mine = some v → v.finished = true → ∃ t, exec (.tlbi sy a b) s = .next t ∧
        t.invals = s.invals.filter (fun x => decide (x.id ≠ v.id)) ∧ s.keepsBut t [.system] ∧ t.sched = s.sched ∧ t.sys = s.sys ∧ s.passed t 2) ∧
      (∀ v, mine = some v → v.finished = false → exec (.tlbi sy a b) s = .next (s.blocked .invalidation)) ∧
      (mine = none → ¬ goodInval → Raises s (.tlbi sy a b) illegal) ∧
      (mine = none → goodInval → ∃ t v, exec (.tlbi sy a b) s = .next t ∧ t.me.wait = some .invalidation ∧ t.me.pc = s.me.pc ∧
        t.invals = s.invals ++ [v] ∧ v.kind = field w 4 4 ∧ v.scope = field w 48 2 ∧ v.asid = (s.cur.reg 0x40).toNat ∧
        v.va = field va 12 36 * 4096 ∧ v.size = field w 0 3 ∧ v.stream = some s.focus ∧ v.finished = false ∧ v.id = s.nextOp ∧
        (∀ e ∈ (t.die die).tlb, v.hits e = false) ∧ (∀ e ∈ t.cur.store.utlb, v.hits e = false) ∧ ∀ n, t.x n = s.x n)) ∧
    (s.mayIssue (.snap sy d b) = true →
      let l := s.here.optical.latches
      let own := l.find? fun x => decide (x.stream = some s.focus)
      (16 ≤ w.toNat → Raises s (.snap sy d b) illegal) ∧
      (w.toNat < 16 → own = none → ∃ t, exec (.snap sy d b) s = .next t ∧ t.me.wait = some .latch ∧ t.me.pc = s.me.pc ∧
        t.here.optical.latches = l ++ [⟨w.toNat, some s.focus, none⟩] ∧ ∀ n, t.x n = s.x n) ∧
      (∀ x r, w.toNat < 16 → own = some x → x.result = some r → ∃ t, exec (.snap sy d b) s = .next t ∧ t.x d.toNat = r ∧
        t.here.optical.latches = l.erase x ∧ (∀ n, n ≠ d.toNat → t.x n = s.x n) ∧ s.keepsBut t [.x, .dies] ∧ s.passed t 2)) ∧
    (s.mayIssue (.evcfg sy a b) = true →
      (¬ goodEntry → Raises s (.evcfg sy a b) illegal) ∧
      (let term := va.toNat - 0x10
       let silent := (0x10 ≤ va.toNat ∧ va.toNat < 0x18) → Sparse.get (fun _ => (0 : BitVec 40)) s.cur.ex.latch term &&& w.setWidth 40 = 0 ∨
         ∀ n, n < 16 → field (s.cur.ev (0x20 + n)) 48 4 = 0 ∨ field (s.cur.ev (0x20 + n)) 32 3 ≠ term
       goodEntry → va.toNat < 0x50 → silent → ∃ t, exec (.evcfg sy a b) s = .next t ∧
        (∀ n, t.cur.ev n = if n = va.toNat then w else s.cur.ev n) ∧ s.keepsBut t [.crossbar] ∧ s.passed t 2) ∧
      (goodEntry → 0x50 ≤ va.toNat → (∀ n, s.cur.ev n = 0) → 24 + (va.toNat - 0x50) ∉ s.cur.ex.deferred →
        ∃ t, exec (.evcfg sy a b) s = .next t ∧ (∀ n, t.cur.ev n = 0) ∧ s.keepsBut t [.crossbar] ∧ s.passed t 2)) ∧
    (s.mayIssue (.rwctl sy a b) = true →
      (3 ≤ va.toNat → Raises s (.rwctl sy a b) illegal) ∧
      (va.toNat < 3 → ∃ t, exec (.rwctl sy a b) s = .next t ∧ t.cur.ctl = { s.cur.ctl with
        ruleMask := ([w, s.cur.ctl.ruleMask &&& w, s.cur.ctl.ruleMask ||| w] : List Word).getD va.toNat 0 } ∧
        s.keepsBut t [.ctl] ∧ s.passed t 2)) ∧
    (s.mayIssue (.resume sy a) = true →
      let q := s.here.faults
      let hit := fun (e : FaultEntry) => !e.acked && decide (e.asid = (s.cur.reg 0x40).toNat) &&
        decide ((e.seq.toNat + 2 ^ 32 - field va 0 32) % 2 ^ 32 < field va 32 16)
      ∃ t, exec (.resume sy a) s = .next t ∧ t.here.faults.posted = q.posted.map (fun e => if hit e then { e with acked := true } else e) ∧
        t.here.faults.batches = (if (q.posted.filter hit).isEmpty then q.batches else q.batches ++ [(q.posted.filter hit).map (·.seq)]) ∧
        t.here.faults.next = q.next ∧ s.keepsBut t [.dies] ∧ s.passed t 2)

/-! ## Steps of the package: the torus (06_torus.md) -/

namespace Sys2Proof.Machine

/-- What a router makes of a packet (R124, R127): one with a reserved field set is counted; one that is to go on crosses to the other die's
router or leaves over a link of the package; one that meets a link that is down is answered with LINK_DOWN, or lost where it is a reply;
and one for this die is taken. -/
def State.routed (s t : State) (d : DieId) (p : Packet) : Prop :=
  if p.bad = true then t = s.count d 0x190
  else match s.hop d p with
    | .leave n q => t = s.note (.sent d n q.bytes)
    | .cross q =>
      let o := s.die (DieId.other d)
      t = s.setDie (DieId.other d) { o with torus := { o.torus with router := o.torus.router ++ [q] } }
    | .down => t = if p.kind = 8 then s else s.sendReply d p Status.linkDown []
    | .deliver => t = if p.kind = 8 then s.replyArrives d p else s.requestArrives d p

/-- A step leaves a state, once what waited for a tag or for an earlier part has gone on (R128). -/
def PumpsTo (i : Instr) (s u : State) : Prop := exec i s = .next u.pumpAll

end Sys2Proof.Machine

/-- R122 to R125, R127, R128, R130, R132, R133: a router passes a packet on, answers it with LINK_DOWN or drops it; a request that arrives is
performed and answered; a reply ends its request, a late one is counted; a time-out ends a request with TIMEOUT and rests its tag, which a
release frees; a flag is performed, or waits for its counter; and the steps of links, route entries and stream resets. A reply with a
reserved status counts as a packet with a reserved field (log 64). -/
def Obligations.TorusSteps : Prop :=
  ∀ (s : State) (d : DieId) (bs : List Byte) (tag : Nat) (v : Word) (l : Fin 6) (far : Option FarEnd),
    let p := Packet.parse bs
    let x := s.die d
    let o := DieId.other d
    let good := x.inReset = false ∧ p.bad = false
    let fits := p.addr % 128 + p.size < 128 ∧ x.inLocal p.addr (p.size + 1) = true ∧ x.unheld (p.addr / 128)
    (∃ u, s.routed u d p ∧ PumpsTo (.packetHop d (some bs)) s u) ∧
    (∀ w rest, x.torus.router = w :: rest →
      ∃ u, (s.setDie d { x with torus := { x.torus with router := rest } }).routed u d w ∧ PumpsTo (.packetHop d none) s u) ∧
    (x.torus.router = [] → exec (.packetHop d none) s = .next s) ∧
    (x.inReset = true → ∀ i, (i = .remoteRequestArrival d bs ∨ i = .remoteReply d bs) → PumpsTo i s s) ∧
    (x.inReset = false → p.bad = true → ∀ i, (i = .remoteRequestArrival d bs ∨ i = .remoteReply d bs) → PumpsTo i s (s.count d 0x190)) ∧
    (good → p.kind < 3 → p.inc ≠ s.inc d → PumpsTo (.remoteRequestArrival d bs) s (s.sendReply d p Status.targetGone [])) ∧
    (good → p.kind = 0 → p.counted = false → p.inc = s.inc d → fits →
      PumpsTo (.remoteRequestArrival d bs) s (s.sendReply d p Status.ok (readBytes x.mem p.addr (p.size + 1)))) ∧
    (good → p.kind = 1 → p.counted = false → p.inc = s.inc d → p.data.length = p.size + 1 → fits →
      ∃ u : State, PumpsTo (.remoteRequestArrival d bs) s (u.sendReply d p Status.ok []) ∧ readBytes (u.die d).mem p.addr (p.size + 1) = p.data ∧
        (∀ a, a < p.addr ∨ p.addr + p.size + 1 ≤ a → readByte (u.die d).mem a = readByte x.mem a) ∧ u.ops = s.ops) ∧
    (good → p.kind = 4 → PumpsTo (.remoteRequestArrival d bs) s (s.sendReply d p Status.ok [])) ∧
    (good → p.kind = 8 →
      let heard := s.setPeer d p.src p.inc
      ((∀ r, x.torus.tag? p.tag = some r → r.resting = true ∨ x.torus.gen p.tag ≠ p.gen) →
        PumpsTo (.remoteReply d bs) s (heard.count d 0x18E)) ∧
      (∀ r, x.torus.tag? p.tag = some r → r.resting = false → x.torus.gen p.tag = p.gen →
        let st : Status := p.op.setWidth 4
        ∃ u : State, PumpsTo (.remoteReply d bs) s u ∧ (u.die d).torus.tag? p.tag = none ∧
          u.ops = ((if st = Status.ok then s.partData r.op r.part p.data else s).partDone r.op r.part st).ops)) ∧
    (∀ r, x.torus.tag? tag = some r → r.resting = false → s.remoteDue d r.sent = true → ∃ u : State, PumpsTo (.remoteTimeout d tag) s u ∧
      (u.die d).torus.gen tag = x.torus.gen tag + 1 ∧ (u.die d).torus.tag? tag = some { r with resting := true, sent := s.cycle } ∧
      u.ops = (s.partDone r.op r.part Status.timeout).ops) ∧
    (∀ r, x.torus.tag? tag = some r → r.resting = true → s.remoteDue d r.sent = true →
      PumpsTo (.remoteTagRelease d tag) s (s.setDie d { x with torus := x.torus.dropTag tag })) ∧
    (∀ i, (i = .remoteTimeout d tag ∨ i = .remoteTagRelease d tag) →
      (∀ r, x.torus.tag? tag = some r → s.remoteDue d r.sent = false) → exec i s = .next s) ∧
    (good → p.kind = 3 →
      let c := (s.dest d p.src p.fs).counter p.phase
      (p.inc ≠ s.inc d → PumpsTo (.flagArrival d bs) s (s.sendReply d p Status.targetGone [])) ∧
      (p.inc = s.inc d → 8 ≤ (p.fsg - (s.dest d p.src p.fs).gen).toNat → PumpsTo (.flagArrival d bs) s (s.count d 0x18E)) ∧
      (p.inc = s.inc d → p.fsg = (s.dest d p.src p.fs).gen →
        (c < p.fcnt → ∃ u : State, PumpsTo (.flagArrival d bs) s u ∧
          u.dest d p.src p.fs = { s.dest d p.src p.fs with withheld := (s.dest d p.src p.fs).withheld ++ [p] }) ∧
        (p.fcnt ≤ c → p.addr % 4 = 0 → x.inLocal p.addr 4 = true → x.unheld (p.addr / 128) → ∃ u : State,
          PumpsTo (.flagArrival d bs) s (u.sendReply d p Status.ok []) ∧
          ofBytes (readBytes (u.die d).mem p.addr 4) = (ofBytes (readBytes x.mem p.addr 4) + ofBytes (p.data.take 4)) % 2 ^ 32 ∧
          (∀ a, a < p.addr ∨ p.addr + 4 ≤ a → readByte (u.die d).mem a = readByte x.mem a) ∧
          u.dest d p.src p.fs = (s.dest d p.src p.fs).setCounter p.phase 0 ∧ u.ops = s.ops))) ∧
    (∃ t, exec (.fsrstWrite d v) s = .next t ∧ ∀ n, t.source d n = if n = field v 0 6 then
      { s.source d n with gen := (s.source d n).gen + 1, phase := false, count := 0, broken := false } else s.source d n) ∧
    (let n := field v 8 9
     let ok := field v 24 1 ≠ s.bank d ∧ n ≤ 383 ∧ routeLegal (field v 0 8) = true
     (¬ ok → exec (.rtwWrite d v) s = .next s) ∧
     (ok → ∃ t, exec (.rtwWrite d v) s = .next t ∧ (∀ m, m ≤ 383 → t.routeEntry d (field v 24 1) m =
        (if m = n then BitVec.ofNat 8 (field v 0 8) &&& 0xBF else s.routeEntry d (field v 24 1) m) ∧
        t.routeEntry d (s.bank d) m = s.routeEntry d (s.bank d) m))) ∧
    (∃ t, exec (.tlinksEnable d v) s = .next t ∧ field (t.dieReg d 0x10B) 8 6 = field v 8 6 ∧
      ∀ n, n < 6 → t.linkUp d n = (s.linkUp d n && bit v (8 + n))) ∧
    (let n := l.val
     let c := s.coord d
     let k := s.coord o
     let end_ := if n = xLink d then (if bit (s.dieReg o 0x10B) (8 + xLink o) = true then some ⟨k.x, k.y, k.z, k.nx, k.ny, k.nz⟩ else none) else far
     let trains := bit (s.dieReg d 0x10B) (8 + n) = true ∧ s.linkUp d n = false ∧ c.usesLink d n = true
     (trains → end_ = some (c.farOf d n) → ∃ t, exec (.linkTrainingResult d l far) s = .next t ∧ t.linkUp d n = true ∧
       (∀ m, m < 6 → m ≠ n → t.linkUp d m = s.linkUp d m) ∧ (n = xLink d → t.linkUp o (xLink o) = true)) ∧
     (trains → ∀ e, end_ = some e → e ≠ c.farOf d n → exec (.linkTrainingResult d l far) s = .next (s.count d 0x18F)) ∧
     (¬ trains ∨ end_ = none → exec (.linkTrainingResult d l far) s = .next s)) ∧
    (s.linkUp d l.val = true → ∃ t, exec (.linkFailure d l) s = .next t ∧ t.linkUp d l.val = false ∧
      (∀ m, m < 6 → m ≠ l.val → t.linkUp d m = s.linkUp d m) ∧ t.dieReg d 0x191 = s.dieReg d 0x191 + 1) ∧
    (s.linkUp d l.val = false → exec (.linkFailure d l) s = .next s)

/-! ## Steps of the package: the pool and its cache (02_pool.md, 03_pool_cache.md) -/

namespace Sys2Proof.Machine

/-- No operation is in flight, and no pool request of the package waits to be sent. -/
def State.calm (s : State) : Prop := s.ops = [] ∧ ∀ d, (s.die d).pool.waiting = []

/-- A pool tag is free. -/
def State.tagFree (s : State) (d : DieId) (tag : Nat) : Prop := ∀ e ∈ (s.die d).pool.reqs, e.1 ≠ tag

end Sys2Proof.Machine

/-- R41, R45, R50, R54, R57 to R61, R64 to R69: a fill's grant makes its frame VALID with the page's bytes, a refusal frees it, a promotion
records the lease; recalls and expiries free or lose a frame; renewals are sent and extend a lease or lose it; write-throughs end and count
down; releases, hand-overs and time-outs end their requests; and the steps of the sweeper, of allocations and of the prefetch engine. R9:
an answer with a reserved status ends nothing (the model's choice, log 64). A frame's record is cleared as it becomes FREE (log 83). -/
def Obligations.PoolSteps : Prop :=
  ∀ (s : State) (d : DieId) (tag : Nat) (g : BitVec 4) (r : PoolReq) (st : Status) (e : BitVec 64) (n f : Nat) (bs : List (Nat × Byte))
      (cs : List Nat) (ch : Fin 48) (v : Word),
    let answered := s.poolReply d tag g = .inr r ∧ s.expireFor r = s
    let l := (s.die d).lease r.frame
    let k := (s.die d).lease f
    let dline := (r.tsend + s.ldur d n) % 2 ^ 48
    let live := s.ldur d n ≠ 0 ∧ precedes (s.ltime d) dline = true
    let freed := fun (t : State) (f : Nat) => (t.die d).lease f = { Lease.free with fgen := ((s.die d).lease f).fgen + 1 }
    ((∀ q ∈ (s.die d).pool.reqs, q.1 ≠ tag) → ∀ ans, exec (.leaseFillReply d tag g ans) s = .next (s.count d 0x186)) ∧
    (∀ x, s.calm → answered → r.ask = .fill x → s.fillMatches d r = true →
      let held : Lease := { l with epoch := e, kind := if x then .x else .s, dline := dline, ldur := s.ldur d n }
      (live → ∃ t, exec (.leaseFillReply d tag g (.grant e n bs cs)) s = .next t ∧ t.tagFree d tag ∧
        (t.die d).mem = ((s.die d).install r.frame bs).mem ∧
        (t.die d).lease r.frame = { held with st := .valid, types := ((t.die d).lease r.frame).types } ∧
        ∀ i, i < 4096 → Sparse.get (fun _ => false) ((t.die d).lease r.frame).types i = decide (i ∈ cs)) ∧
      (st.toNat < 12 → ∃ t, exec (.leaseFillReply d tag g (.refused st)) s = .next t ∧ t.tagFree d tag ∧ freed t r.frame) ∧
      (12 ≤ st.toNat → exec (.leaseFillReply d tag g (.refused st)) s = .next s) ∧
      (live → ∃ t, exec (.promotionReply d tag g e n) s = .next t ∧ (t.die d).lease r.frame = { held with prom := true } ∧
        (t.die d).pool.reqs = (s.die d).pool.reqs.map fun q => if q.1 = tag then (q.1, { q.2 with sent := s.cycle }) else q)) ∧
    (∀ obj pidx, pageDie obj pidx = d → (s.die d).frameOf obj pidx = some (f, k) → k.st = .valid → k.kind = .s → s.calm →
      (s.die d).pool.reqs = [] → ∃ t, exec (.leaseRecall d obj pidx) s = .next t ∧ freed t f ∧
        t.sys.notes = s.sys.notes ++ [.recallAck d obj pidx]) ∧
    (∀ obj pidx, (s.die d).frameOf obj pidx = none → exec (.leaseRecall d obj pidx) s = .next (s.note (.recallAck d obj pidx))) ∧
    (precedes (s.ltime d) k.dline = false → k.st = .valid → s.calm → (s.die d).pool.reqs = [] →
      ∃ t, exec (.leaseExpiry d f) s = .next t ∧ if k.pend = 0 then freed t f else
        (t.die d).lease f = { k with st := .lost } ∧ t.dieReg d 0x185 = s.dieReg d 0x185 + 1) ∧
    (∀ port, s.renewalDue d f k = true → s.poolPort d k.obj k.pidx = some port → (s.die d).pool.waiting = [] → (s.die d).pool.reqs = [] →
      ∃ t, exec (.leaseRenewal d f) s = .next t ∧ (t.die d).pool.reqs =
        [(0, { poolReq .renew f k 0 none with num := (s.die d).pool.made, sent := s.cycle, tsend := s.ltime d, port := port })]) ∧
    (s.calm → answered → r.ask = .renew → l.st = .valid → l.fgen = r.fgen →
      (live → ∃ t, exec (.renewalReply d tag g (.grant e n bs cs)) s = .next t ∧ t.tagFree d tag ∧
        (t.die d).lease r.frame = { l with dline := dline, ldur := s.ldur d n }) ∧
      (l.pend = 0 → st.toNat < 12 → ∃ t, exec (.renewalReply d tag g (.refused st)) s = .next t ∧ t.tagFree d tag ∧ freed t r.frame)) ∧
    (∀ off b, s.calm → s.poolReply d tag g = .inr r → r.ask = .writeThrough off b → l.st = .valid → l.fgen = r.fgen →
      ∃ t, exec (.writeThroughReply d tag g Status.ok) s = .next t ∧ t.tagFree d tag ∧ (t.die d).lease r.frame = { l with pend := l.pend - 1 }) ∧
    (s.poolReply d tag g = .inr r → st.toNat < 12 →
      (r.ask = .release → exec (.releaseReply d tag g st) s = .next ((s.dropReq d tag).endTask r.op st).settlePool) ∧
      (∀ succ, r.ask = .handover succ → exec (.handoverReply d tag g st) s = .next ((s.dropReq d tag).endTask r.op st).settlePool)) ∧
    (s.calm → (s.die d).pool.reqs = [(tag, r)] → s.poolDue d r = true → r.ask = .release →
      ∃ t, exec (.poolRequestTimeout d tag) s = .next t ∧ (t.die d).pool.reqs = [] ∧
        Sparse.get (fun _ => 0) (t.die d).pool.gens tag = Sparse.get (fun _ => 0) (s.die d).pool.gens tag + 1) ∧
    (s.calm → field (s.dieReg d 0x117) 8 4 = 0 → ∃ t, exec (.pfposWrite d v) s = .next t ∧ (t.dieReg d 0x118).toNat = field v 0 48) ∧
    (let w := (s.die d).sweeper ch.val
     let m := (s.die d).channelFrames ch.val
     let i := w.hand % m * 48 + ch.val
     let c := (s.die d).lease i
     s.sweeps d ch.val = true → m ≠ 0 → (s.die d).pool.started = true → c.st = .valid → c.own = false → c.pin = 0 → c.pend = 0 →
       ∃ t, exec (.sweeperAdvance d ch) s = .next t ∧ ((t.die d).sweeper ch.val).hand = (w.hand + 1) % m ∧
         (t.die d).lease i = { c with a := false } ∧
         ((t.die d).sweeper ch.val).ready = (if c.a = false ∧ i ∉ w.ready then w.ready ++ [i] else w.ready) ∧
         (c.a = false → t.ops = s.ops.map fun o =>
           { o with tasks := o.tasks.map fun k => if s.wantsFrame d ch.val k then { k with passed := k.passed + 1 } else k })) ∧
    (∀ away rest, s.allocWaits d ch.val = true → ((s.die d).sweeper ch.val).ready = away ++ f :: rest → k.isVictim = true →
      (∀ i ∈ away, ((s.die d).lease i).isVictim = false) → (∀ i ∈ away ++ f :: rest, s.expire d i = s) →
      (∀ q ∈ (s.die d).pool.reqs.map (·.2) ++ (s.die d).pool.waiting, q.ask ≠ .upgrade) →
      ∃ u : State, exec (.victimAllocation d ch) s = .next u.settlePool ∧ ((u.die d).sweeper ch.val).ready = rest ∧ freed u f ∧
        u.dieReg d 0x184 = s.dieReg d 0x184 + 1) ∧
    (s.allocWaits d ch.val = true → (∀ i ∈ ((s.die d).sweeper ch.val).ready, ((s.die d).lease i).isVictim = false) →
      ∃ t, exec (.allocationRetry d ch) s = .next t ∧ t.ops = s.ops.map fun o =>
        { o with tasks := o.tasks.map fun k =>
            if s.wantsFrame d ch.val k = true ∧ 2 * (s.die d).channelFrames ch.val ≤ k.passed then { k with st := .done Status.retry } else k }) ∧
    (let ring := s.dieReg d 0x116
     let tail := field ring 32 16
     let found := (s.die d).peek? (field ring 4 28 * 4096 + 32 * (tail % 2 ^ field ring 0 4)) 32
     let rec' : BitVec 256 := BitVec.ofNat 256 (ofBytes (found.getD []))
     let cap : BitVec 128 := rec'.extractLsb' 128 128
     let past := fun (t : State) => field (t.dieReg d 0x116) 32 16 = (tail + 1) % 2 ^ 16
     let begun := (s.die d).pool.pfAt
     let pages := pagesOf (capStart cap) (capLen cap)
     let lead := field rec' 48 8
     let due := found.isSome = true ∧ bit rec' 56 = true ∧ (lead < 16 ∨ lead = 255) ∧ field rec' 57 7 = 0 ∧ field rec' 64 64 = 0 ∧ field cap 35 5 ≤ 21 ∧
       field rec' 0 32 ≤ field (s.dieReg d 0x118) 16 32 + (if lead = 255 then field (s.dieReg d 0x117) 0 4 else lead) ∧
       field (s.dieReg d 0x118) 0 48 ≤ field rec' 0 32 * 2 ^ 16 + field rec' 32 16
     bit (s.dieReg d 0x117) 16 = true → field ring 48 16 ≠ tail →
       (begun = none → bit rec' 56 = false → ∃ t, exec (.prefetchWalk d) s = .next t ∧ past t ∧ t.dieReg d 0x182 = s.dieReg d 0x182 + 1) ∧
       (∀ u m, begun ≠ none ∨ due →
         State.prefetchPages d cap (field rec' 0 32) (field rec' 32 16) s (begun.getD 0) (pages.drop (begun.getD 0)) = (u, m) →
         ∃ t : State, exec (.prefetchWalk d) s = .next (t.cancelPrefetch d).settlePool ∧ (∀ e, (t.die e).pool.frames = (u.die e).pool.frames) ∧
           if pages.length ≤ m then past t ∧ (t.die d).pool.pfAt = none
           else t.dieReg d 0x116 = u.dieReg d 0x116 ∧ (t.die d).pool.pfAt = some m))

/-! ## Steps of the package: translation, KV space, fault queue, event crossbar (04, 05, 20, 13, 16) -/

/-- R77, R82, R85, R86, R89, R101, R111, R112, R116, R403, R404, R402, R331, R381, R383, R450: a page walk that waited for another package goes
on, and what it finds is held and kept for its access; a write to `tinvc` starts
an invalidation, which completes when nothing covered is left; at the end of a window the counters halve; `kvinv` drops entries and completes; the rounds
of `kvattn` and the steps of `kvgrow` go on; held entries are written, acknowledged streams restart, one in a cycle; the host window writes a CSR; waiting
pulses and targets act; the Swath replaces an instruction of M. That a counter window begins where the last one ended is the model's reading
(log 79), and the free pair of the lowest number is its choice (log 74). -/
def Obligations.TranslationKvAndFaultSteps : Prop :=
  ∀ (s : State) (d : DieId) (c : CoreId) (n a : Nat) (v : Word) (target : Fin 16) (cl : Cluster)
      (m : BitVec 12) (k : Fin 128),
    let x := s.die d
    let busy := fun (t : State) (r : Nat) => bit (t.dieReg d r) 63
    (s.ops.filter (fun o => o.walkDone c n a) = [] → exec (.pageWalk c n a) s = .next s) ∧
    (∀ o asid va who again got, s.ops.filter (fun o => o.walkDone c n a) = [o] → o.dest = .walk asid va who again got → who.isCp = false →
      let w : Walker := ⟨c, who, asid, va⟩
      let r := if again then (s.dropOp o.id).walk w
        else (s.dropOp o.id).walkWith w (got ++ [⟨o.walkKey, o.status, readNat o.data 0 o.size⟩])
      (r.2 = .need → exec (.pageWalk c n a) s = .next r.1) ∧
      (∀ e, r.2 = .ok e → ∃ u, exec (.pageWalk c n a) s = .next u ∧ e ∈ (u.core c).store.utlb ∧ e ∈ (u.die c.die).tlb ∧
        (u.core c).store.walked = (r.1.core c).store.walked ++ [⟨who, asid, va, 0, some e⟩]) ∧
      (∀ cause, r.2 = .fault cause → ∃ u, exec (.pageWalk c n a) s = .next u ∧
        (u.core c).store.walked = (r.1.core c).store.walked ++ [⟨who, asid, va, cause, none⟩])) ∧
    (let ok := field v 48 2 ≠ 3 ∧ field v 4 4 < 4 ∧ field v 0 3 < 5
     (busy s 0x103 = true ∨ ¬ ok → exec (.tinvcWrite d v) s = .next s) ∧
     (busy s 0x103 = false → ok → bit v 63 = true → ∃ t i, exec (.tinvcWrite d v) s = .next t ∧ busy t 0x103 = true ∧
       t.invals = s.invals ++ [i] ∧ i.die = d ∧ i.kind = field v 4 4 ∧ i.scope = field v 48 2 ∧ i.asid = field v 32 16 ∧
       i.va = field (s.dieReg d 0x102) 12 36 * 4096 ∧ i.size = field v 0 3 ∧ i.irq = bit v 62 ∧ ∀ e ∈ (t.die d).tlb, i.hits e = false)) ∧
    (∀ i, s.invals.find? (fun y => decide (y.id = n)) = some i → i.finished = false → (∀ o ∈ s.ops, i.covers o = false) →
      ∃ t, exec (.invalidationComplete n none) s = .next t ∧ (∀ y, i.inScope y = true → ∀ e ∈ (t.die y).tlb, i.hits e = false) ∧
        if i.stream = none then t.invals = s.invals.filter (fun y => decide (y.id ≠ n)) ∧
          bit (t.dieReg i.die 0x103) 63 = (!i.host && bit (s.dieReg i.die 0x103) 63) ∧
          t.sys.notes = (if i.irq then s.sys.notes ++ [.interrupt i.die "invalidation complete"] else s.sys.notes)
        else t.invals = s.invals.map fun y => if y.id = n then { y with finished := true } else y) ∧
    (x.window + 2 ^ field (s.dieReg d 0x104) 24 5 ≤ s.cycle → ∃ t, exec (.accessCounterWindow d) s = .next t ∧ (t.die d).window = s.cycle ∧
      (t.die d).counts = x.counts.map fun a => { a with count := a.count / 2, quiet := false }) ∧
    (s.cycle < x.window + 2 ^ field (s.dieReg d 0x104) 24 5 → exec (.accessCounterWindow d) s = .next s) ∧
    (busy s 0x106 = true → exec (.kvinvWrite d v) s = .next s) ∧
    (busy s 0x106 = false → bit v 63 = true → ∃ t, exec (.kvinvWrite d v) s = .next t ∧ busy t 0x106 = true ∧
      (t.die d).seqCache = x.seqCache.filter (fun e => !(bit v 62 || (e.asid == field v 36 16 && e.seq == field v 0 20))) ∧
      (t.die d).kvinvOps = s.swardOps) ∧
    (busy s 0x106 = true → (∀ o ∈ s.ops, o.id ∉ x.kvinvOps) → ∃ t, exec (.kvinvComplete d) s = .next t ∧ busy t 0x106 = false ∧
      (t.die d).kvinvOps = []) ∧
    (∀ o rest zd stage va rb, s.ops = o :: rest → o.owner = ⟨c, .m⟩ → o.dest = .attn zd stage → s.attnArgs c = some (va, rb) →
      (o.performed = false → exec (.kvattnRound c) s = .next (s.tryOp o.id).shut) ∧
      (o.performed = true → o.status ≠ Status.ok → exec (.kvattnRound c) s = .next (s.attnFails o va o.status)) ∧
      (∀ u z, o.performed = true → o.status = Status.ok → s.nextRound c zd va rb (stage == 0 && !o.tasks.isEmpty) = (u, z) →
        (z = .finished ∨ z = .wait ∨ (∃ f, z = .fault f) ∨ (∃ st, z = .failed st) ∨ (∃ cap ts, z = .tasks cap 0 ts none 0) →
          exec (.kvattnRound c) s = .next (u.attnGoes o zd va z)) ∧
        (∀ cap ts e fwd, z = .tasks cap 1 ts (some e) fwd →
          let same := stage ≠ 0 ∧ samePages o.tasks ts = true ∧ o.tasks.any u.pageGone = false
          (¬ same → exec (.kvattnRound c) s = .next (u.attnGoes o zd va (.tasks cap 1 ts none 0))) ∧
          (same → u.roundPoisoned o.tasks = true → exec (.kvattnRound c) s = .next (u.attnFails o va Status.poison)) ∧
          (same → u.roundPoisoned o.tasks = false →
            let w := u.roundDone o zd e va rb fwd
            w.dieReg c.die 0x18D = u.dieReg c.die 0x18D + 1 ∧ w.dieReg c.die 0x18C = u.dieReg c.die 0x18C + BitVec.ofNat 64 fwd ∧
              field (w.kvcur c) 0 24 = (field (u.kvcur c) 0 24 + 48) % 2 ^ 24 ∧
              ∀ y m, w.nextRound c zd va rb false = (y, m) →
                exec (.kvattnRound c) s = .next (y.attnGoes { o with tasks := [] } zd va m))))) ∧
    (∀ o g, s.op? n = some o → o.grow = some g →
      let obj := field o.cap 88 40
      (∀ i, g.phase = .pair → s.pairOf g.asid g.seq g.layer = none →
        (List.range 16).find? (fun j => !bit (s.dieReg 0 (0x140 + j)) 63) = some i →
        exec (.kvgrowPairInstall n) s = .next ((s.setPair i (g.pairRegs 0).1 (g.pairRegs 0).2).setGrow n
          { g with pair := i, phase := .copy 0 } (s.copyTasks g o.cap 0))) ∧
      (o.performed = false → exec (.kvgrowPageCopy n) s = .next (s.tryOp n).shut) ∧
      (∀ j, o.performed = true → o.status = Status.ok → g.phase = .copy j →
        let u := if (j + 1) % g.heads = 0 then s.setPair g.pair (g.pairRegs ((j + 1) / g.heads * g.tokens)).1
          (g.pairRegs ((j + 1) / g.heads * g.tokens)).2 else s
        exec (.kvgrowPageCopy n) s = .next (if j + 1 < 2 ^ g.lc then u.setGrow n { g with phase := .copy (j + 1) } (u.copyTasks g o.cap (j + 1))
          else u.setGrow n { g with phase := .record } [u.leaseTask o.cap 0 none,
            pageTask (.store (16 + 4 * g.layer) (bytesOf 4 (2 ^ 31 + g.rot * 2 ^ 25 + (g.lc + 1) * 2 ^ 20 + g.newBase))) obj 0 none])) ∧
      (∀ j, o.performed = true → o.status ≠ Status.ok → (g.phase = .copy j ∨ g.phase = .record) →
        exec (.kvgrowPageCopy n) s = .next (s.endGrow n g o.status)) ∧
      (o.performed = true → o.status = Status.ok → g.phase = .record →
        exec (.kvgrowPageCopy n) s = .next (s.setGrow n { g with phase := .release 0 } [pageTask .release obj g.oldBase none])) ∧
      (∀ j, o.performed = true → g.phase = .release j → exec (.kvgrowPageCopy n) s = .next (if j + 1 < 2 ^ g.lc then
        s.setGrow n { g with phase := .release (j + 1) } [pageTask .release obj (g.oldBase + j + 1) none] else s.endGrow n g Status.ok))) ∧
    (∀ e rest, x.faults.held = e :: rest → s.faultRoom d = true → ∃ t, exec (.heldEntryWrite d) s = .next t ∧
      (t.die d).faults.held = rest ∧ (t.die d).faults.posted = x.faults.posted ++ [e] ∧
      field (t.dieReg d 0x1A0) 0 32 = (field (s.dieReg d 0x1A0) 0 32 + 1) % 2 ^ 32) ∧
    (let hit := fun (e : FaultEntry) => !e.acked && decide ((e.seq.toNat + 2 ^ 32 - field v 0 32) % 2 ^ 32 < field v 32 16)
     ∃ t, exec (.fackWrite d v) s = .next t ∧ (t.dieReg d 0x1A1).toNat = field v 0 48 ∧
       (t.die d).faults.posted = x.faults.posted.map (fun e => if hit e then { e with acked := true } else e) ∧
       (t.die d).faults.batches = (if (x.faults.posted.filter hit).isEmpty then x.faults.batches
         else x.faults.batches ++ [(x.faults.posted.filter hit).map (·.seq)])) ∧
    (∀ q rest e i, x.faults.batches = [q] :: rest → x.faults.posted.find? (fun e => decide (e.seq = q)) = some e → e.stream = some i →
      (s.stream i).run = .parked q → s.stopping i.core = false → e.rwr.drop 4 = [] → e.kind < 10 → x.faults.restarted ≠ s.cycle + 1 →
      ∃ t, exec (.streamRestart d) s = .next t ∧ (t.die d).faults.restarted = s.cycle + 1 ∧ (t.stream i).run = .running ∧ (t.stream i).pc = (s.stream i).pc ∧
        (t.stream i).wait = none ∧ (t.die d).faults.batches = rest) ∧
    (if csrScope m.toNat = some .core ∨ csrListed m.toNat cl = true then
      exec (.hostWindowWrite d k cl m v) s = .next (s.writeCsr ⟨⟨d, k⟩, cl⟩ m.toNat v)
     else exec (.hostWindowWrite d k cl m v) s = .next (s.note .accessFault)) ∧
    (∀ src rest, (s.core c).ex.deferred = src :: rest → (∀ e, (s.core c).ev e = 0) →
      ∃ t, exec (.exDeferredPulse c) s = .next t ∧ (t.core c).ex.deferred = rest) ∧
    (let e := (s.core c).ev (0x20 + target.val)
     (s.core c).pendingOf target.val ≠ 0 → s.stopping c = false → field e 48 4 = 3 → ∀ g, s.gangOf c = some g →
       ∃ t h, exec (.exPendingTarget c target) s = .next t ∧ (t.core c).pendingOf target.val = (s.core c).pendingOf target.val - 1 ∧
         t.gangOf c = some h ∧ ∀ i, Sparse.get (fun _ => 0) h.flags i =
           Sparse.get (fun _ => 0) g.flags i + (if i = field e 0 16 % 256 then 1 else 0)) ∧
    (let f := { s with focus := ⟨c, .m⟩ }
     f.me.run = .running → f.me.hold = none → f.cur.ctl.released = true → f.stopping c = false →
       ∀ u, (f.swathTurn = .used u ∨ f.swathTurn = .issue u) → exec (.swathReplacement c) s = .next { u with focus := s.focus })

/-! ## Steps of the package: optical ports, telemetry and power (07_optical.md) -/

/-- R135 to R137, R143 to R147, R141: the commands of a port, the removal and insertion of a laser module, the results and time limits of
training, the end of a drain, the lane check, the telemetry latch, `oswack`, the time-out of a switch request, and a settlement of the
governor, once per interval, whose grants never exceed the tokens that it has. That the first interval begins at `ltime` 0 (log 79) and that
`octl` of the queue's die bounds a switch request (log 45) are the model's choices. -/
def Obligations.OpticalSteps : Prop :=
  ∀ (s : State) (d : DieId) (p : Fin 16) (m : Fin 4) (v : Word), s.calm →
    let st := s.portSt d p.val
    let time := (s.dieReg d 0x114).toNat
    let run := s.portRun d p.val
    let late := stepLimit run.step < s.stepTime d p.val ∨ 1000000 < s.attemptTime d p.val
    let enters := fun (i : Instr) (n : Nat) => ∃ t, exec i s = .next t ∧ t.portSt d p.val = n ∧ t.calm ∧
      ∀ q, q < 16 → q ≠ p.val → t.portSt d q = s.portSt d q
    let fails := fun (i : Instr) => ∃ t, exec i s = .next t ∧
      if field (s.dieReg d 0x11A) 0 4 ≤ (s.portRun d p.val).tries + 1 then t.portSt d p.val = 6
      else t.portSt d p.val = 2 ∧ t.portRun d p.val = ⟨(s.portRun d p.val).tries + 1, time, 1, time⟩
    let circuit := bit (s.oport d p.val) 8
    (st = 0 → enters (.gate d p) 1) ∧ (st ≠ 0 → exec (.gate d p) s = .next s) ∧
    (st = 1 → enters (.train d p) 2 ∧ ∃ t, exec (.train d p) s = .next t ∧ t.portRun d p.val = ⟨0, time, 1, time⟩) ∧
    (st ≠ 1 → exec (.train d p) s = .next s) ∧
    (st = 3 → enters (.drain d p) 4) ∧ (st = 2 → enters (.drain d p) 1) ∧ (st ≠ 2 → st ≠ 3 → exec (.drain d p) s = .next s) ∧
    (st = 2 → enters (.off d p) 1) ∧ (st = 1 ∨ st = 6 → enters (.off d p) 0) ∧ (st = 0 ∨ 3 ≤ st ∧ st ≠ 6 → exec (.off d p) s = .next s) ∧
    (bit (s.dieReg d (0x130 + m.val)) 8 = true → ∃ t, exec (.laserModuleRemoved d m) s = .next t ∧
      (∀ i, i < 4 → t.portSt d (4 * m.val + i) = 5) ∧ field (t.dieReg 0 (0x172 + 4 * d.val + m.val)) 48 16 = 0) ∧
    (bit (s.dieReg d (0x130 + m.val)) 8 = false → ∃ t, exec (.laserModuleInserted d m) s = .next t ∧
      (∀ i, i < 4 → t.portSt d (4 * m.val + i) = if s.portSt d (4 * m.val + i) = 5 then 0 else s.portSt d (4 * m.val + i)) ∧
      bit (t.dieReg d (0x130 + m.val)) 8 = true) ∧
    (st = 2 → fails (.portTrainingResult d p .failed)) ∧
    (st = 2 → late → fails (.portTrainingResult d p .stepDone) ∧ fails (.portTrainingTimeout d p)) ∧
    (st = 2 → ¬ late → exec (.portTrainingTimeout d p) s = .next s ∧ ∃ t, exec (.portTrainingResult d p .stepDone) s = .next t ∧
      t.portSt d p.val = 2 ∧ t.portRun d p.val =
        { run with step := if run.step = 3 then 5 else Min.min (run.step + 1) 6, stepSince := time }) ∧
    (∀ counts rev pid inc famo mmx jrnl tick, st = 2 → circuit = false →
      let lanes := trainedLanes counts
      let ready := s.attemptLate d p.val = false ∧ 6 ≤ popCount 8 lanes
      let i : Instr := .portTrainingResult d p (.pool counts rev pid inc famo mmx jrnl tick)
      (¬ ready → fails i) ∧ (ready → rev = 0 → enters i 6) ∧ (ready → rev ≠ 0 → s.otherPool pid = true → fails i) ∧
      (ready → rev ≠ 0 → s.otherPool pid = false → field (s.dieReg d 0x111) 32 32 = inc.toNat →
        enters i 3 ∧ ∃ t, exec i s = .next t ∧ field (t.oport d p.val) 40 8 = lanes ∧
        field (t.dieReg d 0x111) 8 8 = pid.toNat ∧ field (t.dieReg d 0x111) 32 32 = inc.toNat ∧
        field (t.dieReg d 0x113) 32 20 = tick % 2 ^ 20)) ∧
    (∀ counts peer nx ny nz far, st = 2 → circuit = true →
      let lanes := trainedLanes counts
      let ready := s.attemptLate d p.val = false ∧ 6 ≤ popCount 8 lanes ∧ far = false ∧ (s.coord d).nx = nx ∧ (s.coord d).ny = ny ∧
        (s.coord d).nz = nz
      let i : Instr := .portTrainingResult d p (.circuit counts peer nx ny nz far)
      (¬ ready → fails i) ∧
      (ready → enters i 3 ∧ ∃ t, exec i s = .next t ∧ field (t.oport d p.val) 40 8 = lanes ∧ field (t.oport d p.val) 48 9 = peer % 512)) ∧
    (st = 4 → s.portPoolTags d p.val = [] → s.portCircuitTags d p.val = [] → enters (.portDrainComplete d p) 1) ∧
    (let owes := s.portPoolTags d p.val ≠ [] ∨ s.portCircuitTags d p.val ≠ []
     let due := run.since + 2 ^ field (s.dieReg d 0x11A) 8 6 ≤ s.cycle
     (st ≠ 4 ∨ ¬ owes ∨ ¬ due → exec (.portDrainTimeout d p) s = .next s) ∧
     (st = 4 → owes → due → ∃ t, exec (.portDrainTimeout d p) s = .next t ∧ t.portSt d p.val = 1 ∧
       ∀ x tag, s.portPoolTags d p.val = [(x, tag)] → Sparse.get (fun _ => 0) (t.die x).pool.gens tag =
         Sparse.get (fun _ => 0) (s.die x).pool.gens tag + 1)) ∧
    (∀ counts : List Nat,
      let bad := (List.range 8).filter fun i => bit (s.oport d p.val) (40 + i) && decide (2 ^ 14 < counts.getD i 0)
      let latching := match (s.die d).optical.latches.find? fun l => l.result.isNone with | some l => l.port = p.val | none => False
      (st ≠ 3 ∨ s.cycle < run.since + 2 ^ 24 ∨ latching → exec (.laneCheck d p counts) s = .next s) ∧
      (st = 3 → run.since + 2 ^ 24 ≤ s.cycle → ¬ latching → ∃ t, exec (.laneCheck d p counts) s = .next t ∧
        (∀ i, i < 8 → bit (t.oport d p.val) (40 + i) = (bit (s.oport d p.val) (40 + i) && decide (i ∉ bad))) ∧
        field (t.oport d p.val) 32 8 = (field (s.oport d p.val) 32 8 + bad.length) % 256 ∧
        t.portSt d p.val = if popCount 8 (field (t.oport d p.val) 40 8) < 6 then 6 else 3)) ∧
    (bit v 63 = true → ∃ t, exec (.tsnapWrite d v) s = .next t ∧ bit (t.dieReg d 0x11C) 63 = true ∧
      field (t.dieReg d 0x11C) 0 4 = field v 0 4 ∧ (t.die d).optical.latches = (s.die d).optical.latches ++ [⟨field v 0 4, none, none⟩]) ∧
    (∀ lanes : List LaneReading, ∀ l, (s.die d).optical.latches.find? (fun l => l.result.isNone) = some l → l.port < 16 →
      ∃ t, exec (.latch d lanes) s = .next t ∧ field (t.dieReg d 0x11C) 0 4 = l.port ∧
        field (t.dieReg d 0x11C) 8 8 = field (s.oport d l.port) 32 8 ∧
        (l.stream = none → (t.die d).optical.latches = (s.die d).optical.latches.erase l) ∧
        (l.stream ≠ none → (t.die d).optical.latches =
          (s.die d).optical.latches.erase l ++ [{ l with result := some (t.dieReg d 0x11C) }]) ∧
        ∀ i, i < 8 → field (t.dieReg d (0x138 + i)) 0 32 = (lanes.getD i ⟨0, 0, 0⟩).cerr.toNat ∧
          field (t.dieReg d (0x138 + i)) 40 16 = (lanes.getD i ⟨0, 0, 0⟩).rxp.toNat) ∧
    (if field v 0 2 = 3 then exec (.oswackWrite d v) s = .next s
     else ∃ t, exec (.oswackWrite d v) s = .next t ∧ (t.dieReg d 0x11B).toNat = field v 0 2) ∧
    (∀ q r since x ports, (s.queue q).run = some r → r.nodes = [.circuit 2 since x none ports] →
      since + 2 ^ field (s.dieReg (queueDie q) 0x11A) 8 6 ≤ s.cycle → field (s.dieReg (queueDie q) 0x11B) 0 2 = 0 →
      ∃ t, exec (.switchRequestTimeout q) s = .next t ∧ t.node q 0 = some (.ended (firstBad x Status.timeout))) ∧
    (∀ fixedDraw : Nat, ∀ bids : List Bid,
      let grant := fun (t : State) (b : Nat) => field (t.dieReg 0 (0x170 + b)) 48 16
      (s.settleDue = false → exec (.governorSettle fixedDraw bids) s = .next s) ∧
      (s.settleDue = true → ∃ t, exec (.governorSettle fixedDraw bids) s = .next t ∧ t.sys.settled = (s.dieReg 0 0x114).toNat ∧
        ((List.range 10).map (grant t)).sum ≤ field (s.dieReg 0 0x160) 0 16 - fixedDraw ∧
        ∀ b, b < 10 → grant t b ≤ max (min (field (s.dieReg 0 (0x170 + b)) 32 16) (bids.getD b ⟨0, 0⟩).top)
          (min (bids.getD b ⟨0, 0⟩).floor 65535)))

/-! ## Steps of the package: pipelines (18_execution.md, 19_scheduling.md, 20_faults.md) -/

namespace Sys2Proof.Machine

/-- The gang of a core, as its control state names it. -/
def State.memberOf (s : State) (n : Nat) : Option Nat := (s.core (CoreId.ofIndex n)).ctl.gang

end Sys2Proof.Machine

/-- R24, R25, R368 to R370, R374 to R379, R394, R395, R406, R409, R414: the start sequencer releases a core and its four clusters begin; an
admission gives a launch its cores and its window and starts its loads; growth gives a stage a free core; a completed launch gives its cores
back; the ends of plane loads, drain points, swaps and moves, whose evaluations come once per period; draws of the lottery; chained launches; requests, deadlines, saves and
restores. That the first evaluation may come at any time is the model's reading (log 79). -/
def Obligations.PipelineSteps : Prop :=
  ∀ (s : State) (d : DieId) (c : CoreId) (id q n : Nat) (node : Fin 32) (g : Gang) (r : List Byte),
    let x := s.die d
    let k := (s.core c).ctl
    let live := s.gang? id = some g ∧ g.phase = .running
    let quiet := g.request = none ∧ g.chain = none
    (∀ rest asked, x.start.queue = ⟨n, id, asked⟩ :: rest → n < 128 → (x.start.last = 0 ∨ x.start.last + 64 ≤ s.cycle + 1) →
      (∀ cl, (s.stream ⟨⟨d, Fin.ofNat 128 n⟩, cl⟩).run = .idle) →
      ∃ t, exec (.coreRelease d) s = .next t ∧ (t.die d).start = { x.start with queue := rest, last := s.cycle + 1 } ∧ (t.core ⟨d, Fin.ofNat 128 n⟩).ctl.released = true ∧
        ∀ cl, (t.stream ⟨⟨d, Fin.ofNat 128 n⟩, cl⟩).run = .running ∧
          (t.stream ⟨⟨d, Fin.ofNat 128 n⟩, cl⟩).pc = (s.stream ⟨⟨d, Fin.ofNat 128 n⟩, cl⟩).pc) ∧
    (∀ cores base, s.sched.won = some (q, n) → s.node q n = some (.candidate r) → s.pick r (lrMins r) = some cores →
      s.commonsRun (lrCmLen r) = some base →
      let h := newGang s.sched.nextGang q n (s.nodeRecord q n) r base cores
      ∃ u : State, exec (.launchAdmission q) s = .next (u.loadPlanes h fun t _ => lrPlane r t) ∧ u.sched.won = none ∧
        u.sched.gangs = s.sched.gangs ++ [h] ∧ u.node q n = some (.running h.id) ∧
        ∀ i, i < 256 → u.memberOf i = if i ∈ cores.flatten then some h.id else s.memberOf i) ∧
    (∀ t i, live → quiet → s.launchWaits g.prio = false →
      (List.range g.stages.length).find? (fun t => decide (s.stageCount g t + s.arriving g t < lrMax g.launch t)) = some t →
      (List.range 256).find? (fun i => s.coreFree i && lrDies g.launch / 2 ^ (i / 128) % 2 == 1) = some i →
      ∃ u : State, exec (.stageGrowth id) s = .next (u.startLoad (CoreId.ofIndex i) (lrPlane g.launch t) (.growth t)) ∧
        u.memberOf i = some g.id ∧ (u.core (CoreId.ofIndex i)).ctl.stage = t) ∧
    (live → g.chain = none → s.chainedTo g = false → g.cores ≠ [] → (∀ i ∈ g.cores, s.coreDone (CoreId.ofIndex i) = true) →
      ∃ t, exec (.launchComplete id) s = .next t ∧ t.sched.gangs = s.sched.gangs.filter (fun h => decide (h.id ≠ id)) ∧
        ∀ i, i < 256 → t.memberOf i = if s.memberOf i = some id then none else s.memberOf i) ∧
    (∀ l a o h, k.load = some l → l.failed = false → l.op = some a → s.op? a = some o → o.performed = true → s.gangOf c = some h →
      let p : Plane := ⟨o.data, l.va, true⟩
      exec (.planeLoadComplete c) s = .next (s.loadEnds c l (if o.status = Status.ok ∧ p.ok then some p else none)) ∧
      (∀ t, o.status = Status.ok → p.ok = true → l.kind = .reassign t → ∃ u : State, exec (.planeLoadComplete c) s = .next u ∧
        (u.core c).ctl.shadow = p ∧ (u.core c).ctl.shadowFor = some (.reassign t) ∧ (u.core c).ctl.load = none)) ∧
    (∀ h, (s.core c).atDrain = true → s.gangOf c = some h → h.request = none → k.loadFailed = false → k.drain = true → k.load = none →
      h.counts c.index = false → exec (.drainPoint c) s = .next (s.setCtl c fun k => { k with swapToken := true })) ∧
    (∀ h, (s.core c).atDrain = true → s.gangOf c = some h → h.request ≠ none → (k.drain = true ∨ k.moveTo ≠ none) →
      exec (.drainPoint c) s = .next (s.cancelMove c)) ∧
    ((s.core c).atDrain = true → s.gangOf c = none → exec (.drainPoint c) s = .next (s.retireYields c)) ∧
    ((s.core c).atDrain = true → k.shadow.loaded = true → ((s.core c).ca.run = .atSwap ∨ k.swapToken = true) →
      (∀ h, s.gangOf c = some h → h.request = none) → s.engineDone c = true → k.shadowFor = none →
      ∃ t, exec (.planeSwap c) s = .next t ∧ (t.core c).ctl.active = k.shadow ∧
        (t.core c).ctl.shadow = { k.active with loaded := false } ∧ (t.core c).ctl.joinSet = 15 ∧
        ∀ cl, (t.stream ⟨c, cl⟩).pc = 0 ∧ (t.stream ⟨c, cl⟩).run = .running ∧ (t.stream ⟨c, cl⟩).stack = [] ∧
          (∀ j, (t.stream ⟨c, cl⟩).x = (s.stream ⟨c, cl⟩).x ∧ Sparse.get (fun _ => Steer.reset) (t.stream ⟨c, cl⟩).g j = Steer.reset)) ∧
    (live → s.evaluationDue g = false → exec (.reassignmentEvaluation id) s = .next s) ∧
    (live → bit (s.dieReg (queueDie g.queue) 0x11E) 8 = true → s.evaluationDue g = true →
      let h := s.sampleRings g
      let u := s.setGang h
      let able := fun t => h.behind t && decide (u.stageCount h t + u.arriving h t < lrMax h.launch t)
      ((List.range h.stages.length).find? able = none → exec (.reassignmentEvaluation id) s = .next u) ∧
      (∀ t f i, quiet → (List.range h.stages.length).find? able = some t →
        (List.range h.stages.length).find? (fun f => decide (f ≠ t) && h.hungry f && decide (lrMin h.launch f + u.leaving h f < h.size f)) = some f →
        u.donorCore h f = some i → exec (.reassignmentEvaluation id) s =
          .next ((u.setCtl (CoreId.ofIndex i) fun k => { k with drain := true }).startLoad (CoreId.ofIndex i) (lrPlane h.launch t)
            (.reassign t)))) ∧
    (∀ w, s.sched.won = none →
      let all := s.eligible d
      let l := all.filter fun b => b.prio == (all.map (·.prio)).foldl max 0
      let y := seedNext (s.dieReg d 0x11D)
      l ≠ [] → drawWinner l (seedOut y) = some w → ∃ t, exec (.lotteryDraw d) s = .next t ∧ t.dieReg d 0x11D = y ∧
        t.sched.won = some (w.q, w.node) ∧ (t.queue w.q).miss = 0 ∧ ∀ b ∈ l, b.q ≠ w.q → (t.queue b.q).miss ≠ 0) ∧
    (∀ base, s.node q node.val = some (.candidate r) → s.chainPending q node.val = true →
      s.node q (s.chainOf q node.val - 1) = some (.running id) → live → quiet → lrStages r = 1 → g.stages.length = 1 → lrAsid r = g.asid →
      lrMin r 0 ≤ g.cores.length → (s.coresOf id).length = g.cores.length →
      (∀ i ∈ g.cores, (fun (k : CoreCtl) => k.load = none ∧ k.shadow.loaded = false ∧ k.drain = false) (s.core (CoreId.ofIndex i)).ctl) →
      s.commonsRun (lrCmLen r) = some base →
      id ≠ s.sched.nextGang →
      let y := { newGang s.sched.nextGang q node.val (s.nodeRecord q node.val) r base [[]] with
                 phase := .running, ringDies := (List.range (lrRings r)).map fun _ => ringDieOf g.cores }
      ∃ u : State, exec (.chainedLaunch q node) s = .next (g.cores.foldl
          (fun s i => s.startLoad (CoreId.ofIndex i) (lrPlane r 0) (.chained y.id)) u) ∧ u.node q node.val = some (.running y.id) ∧
        u.sched.gangs = (s.sched.gangs.map fun h => if h.id = id then { g with chain := some y.id } else h) ++ [y]) ∧
    (live → g.request ≠ none → g.ctx.2 ≠ 0 → (∀ i ∈ g.cores, s.canSave g (CoreId.ofIndex i) = true) →
      ∃ (t : State) (h : Gang), exec (.gangSwitch id) s = .next t ∧ t.gang? id = some h ∧ h.phase = .saved ∧ h.request = none ∧ h.saved.length = g.cores.length ∧
        ∀ i, i < 256 → t.memberOf i ≠ some id) ∧
    (∀ cores, s.gang? id = some g → g.phase = .saved → s.sched.won = some (q, n) → s.node q n = some (.running id) →
      s.pick g.launch (g.stages.map fun t => t.cores.length) = some cores →
      ∃ (u : State) (h : Gang) (va : Nat → Nat → Nat), exec (.gangRestore id) s = .next (u.loadPlanes h va) ∧ u.sched.won = none ∧ u.gang? id = some h ∧ h.phase = .restoring ∧
        h.stages.map (·.cores) = cores) ∧
    (∀ o, field (s.dieReg 0 0x165) 0 16 ≠ 0 →
      (s.offers q).find? (fun o => (s.pick o.2.launch o.2.counts).isNone && s.windowFree o.2) = some (n, o) →
      exec (.preemptionRequest q) s = .next (State.raiseUntil (queueDie q) o s (s.victims (lrPrio o.launch)))) ∧
    (∀ t0 i, live → g.request = some t0 → g.forced = false → t0 + g.pdl ≤ s.cycle → i ∈ g.cores → (CoreId.ofIndex i).die = d →
      (s.core (CoreId.ofIndex i)).atDrain = false → (s.core (CoreId.ofIndex i)).ctl.released = true →
      ∃ t, exec (.preemptionDeadline id d) s = .next t ∧ t.gang? id = some { g with forced := true } ∧
        t.sys.notes = s.sys.notes ++ [.interrupt d "pre-emption fall-back"])

/-! ## Steps of the package: command queues and nodes (19_scheduling.md) -/

/-- R387 to R391, R397, R141: a doorbell reads the descriptor; a step is taken from its slot, its record is read, and it begins or ends; a launch
node's record is read and checked; flag waits, signals, conditionals and route installs end when their access has, misaligned ones with
ACCESS; a circuit change goes through its stages, with the ports that are not ABSENT at its start; a lease hand-over ends with the status of its
pages; a node that is over completes, and the last one ends its step. Wherever conditional nodes can become ready, those that are read their
words (`readPredicates`). That a descriptor in a poisoned line stops its queue is the model's choice (log 81). -/
def Obligations.QueueAndNodeSteps : Prop :=
  ∀ (s : State) (q : Nat) (node : Fin 32) (v : Word) (id : Nat) (o : Op),
    let n := node.val
    let b := s.nodeBytes q n
    let r := s.queue q
    let d := queueDie q
    (let a := field v 0 12
     let desc := s.die0.peek? (s.descAddr a) 32
     (desc = none ∨ (∃ l, desc = some l ∧ descMalformed l = true) → ∃ t, exec (.cqdoorWrite v) s = .next t ∧ (t.queue a).state = 2 ∧
       t.sys.notes = s.sys.notes ++ [.interrupt (queueDie a) "queue faulted"]) ∧
     (∀ l, desc = some l → descMalformed l = false → ∃ t, exec (.cqdoorWrite v) s = .next t ∧ t.queue a =
       { s.queue a with base := bytesAt l 0 8, lgn := bytesAt l 8 1, en := bytesAt l 9 1 == 1, floor := bytesAt l 10 2,
                        head := bytesAt l 16 2, tail := bytesAt l 18 2, miss := bytesAt l 20 2, lstep := bytesAt l 24 4,
                        lstat := bytesAt l 28 1, state := if (s.queue a).run.isSome ∨ (s.queue a).fetch.isSome then 1 else 0 })) ∧
    (let slots := 2 ^ r.lgn
     let slot := s.physPeek (r.base + 8 * (r.tail % slots)) 8
     let u := s.putQueue q { r with tail := (r.tail + 1) % slots, state := 1 }
     r.fetch = none → r.run = none → r.en = true → r.state ≠ 2 → r.head % slots ≠ r.tail % slots →
       (∀ l, slot = some l → ofBytes l % 2 ^ 49 % 64 = 0 → exec (.stepStart q) s =
         .next ((State.fetchStep q 4 (u.readStep q (ofBytes l % 2 ^ 49) (ofBytes l % 2 ^ 49) 64 [])).readPredicates q)) ∧
       ((slot = none ∨ ∃ l, slot = some l ∧ ofBytes l % 2 ^ 49 % 64 ≠ 0) → ∃ t, exec (.stepStart q) s = .next t ∧
         (t.queue q).run = none ∧ (t.queue q).lstat = Status.access.toNat ∧ (t.queue q).state = 2)) ∧
    (∀ f h nodes, r.fetch = some f → s.op? f.op = some o → o.performed = true → o.status = Status.ok → f.got = [h, nodes] →
      let recs := chunks 64 nodes
      let fits := headerOk h && recs.zipIdx.all fun e => nodeOk recs e.2 e.1
      ∃ t : State, exec (.stepStart q) s = .next (t.readPredicates q) ∧ (t.queue q).fetch = none ∧
        (fits = true → (t.queue q).run = some ⟨f.addr, bytesAt h 0 4, bytesAt h 4 2, recs, List.replicate (bytesAt h 6 1) .pending⟩) ∧
        (fits = false → (t.queue q).run = none ∧ (t.queue q).lstat = Status.access.toNat ∧ (t.queue q).state = 2)) ∧
    (∀ i kind fin, s.node q n = some (.access (some id)) → bytesAt b 0 1 = kind → (s.performOp id).op? id = some o →
      o.performed = true →
      let u := (s.performOp id).dropOp id
      let passes := (s.performOp id).nodeTest q n o
      ((i = .launchNode q node ∧ kind = 1 ∧ fin = (let l := readBytes o.data 0 256
          if lrMalformed l then u.endNode q n Status.access else u.setNode q n (.candidate l))) ∨
        ((i = .flagWaitNode q node ∨ i = .flagWaitPoll q node) ∧ kind = 2 ∧
          fin = (if passes then u.endNode q n Status.ok else u.setNode q n (.access none))) ∨
        (i = .signalNode q node ∧ kind = 3 ∧ fin = u.endNode q n Status.ok) ∨
        (i = .conditionalNode q node ∧ kind = 4 ∧
          fin = (if passes then u else (u.skipNodes q (bytesAt ((s.performOp id).nodeBytes q n) 24 4)).readPredicates q).endNode q n Status.ok) ∨
        (i = .routeInstallNode q node ∧ kind = 6 ∧ fin = (u.installRoutes o.data).endNode q n Status.ok)) →
      exec i s = .next (if o.status = Status.ok then fin else u.endNode q n o.status)) ∧
    (∀ i kind, ((i = .flagWaitNode q node ∧ kind = 2) ∨ (i = .signalNode q node ∧ kind = 3) ∨ (i = .conditionalNode q node ∧ kind = 4)) →
      s.nodeReady q n kind = true → bytesAt b 8 8 % 4 ≠ 0 → exec i s = .next (s.endNode q n Status.access)) ∧
    (s.nodeReady q n 1 = true → bytesAt b 8 8 % 256 ≠ 0 → exec (.launchNode q node) s = .next (s.endNode q n Status.access)) ∧
    (let named := nodePorts b
     let there := named.filter fun e => s.portSt e.1 e.2 != portAbsent
     let allIn := fun (ports : List (DieId × Nat)) (l : List Nat) => ∀ e ∈ ports, s.portSt e.1 e.2 ∈ l
     let ok := if ∃ e ∈ named, s.portSt e.1 e.2 = portAbsent then Status.linkDown else Status.ok
     (s.nodeReady q n 5 = true → exec (.circuitChangeNode q node) s =
       .next ((there.foldl (fun s e => s.gatePort e.1 e.2) s).setNode q n (.circuit 1 s.cycle ok none there))) ∧
     (∀ t st ports, s.node q n = some (.circuit 1 t st none ports) → allIn ports [portGated] → s.switchBusy d = false →
       ∃ u, exec (.circuitChangeNode q node) s = .next u ∧ u.node q n = some (.circuit 2 s.cycle st none ports) ∧
         u.sys.notes = s.sys.notes ++ [.switchRequest ((b.drop 24).take 32)] ∧ u.dieReg d 0x11B = 0) ∧
     (∀ t st ports, s.node q n = some (.circuit 2 t st none ports) → field (s.dieReg d 0x11B) 0 2 = 1 →
       exec (.circuitChangeNode q node) s =
         .next ((ports.foldl (fun s e => s.portTrain e.1 e.2) s).setNode q n (.circuit 3 s.cycle st none ports))) ∧
     (∀ t st ports, s.node q n = some (.circuit 2 t st none ports) → field (s.dieReg d 0x11B) 0 2 = 2 →
       exec (.circuitChangeNode q node) s = .next (s.endNode q n (firstBad st Status.retry))) ∧
     (∀ t st ports, s.node q n = some (.circuit 3 t st none ports) → allIn ports [portActive, portFailed] →
       ∃ u, exec (.circuitChangeNode q node) s = .next u ∧ u.node q n = some (.circuit 4 s.cycle
         (firstBad st (if ∃ e ∈ ports, s.portSt e.1 e.2 = portFailed then Status.linkDown else Status.ok)) (some s.nextOp) ports)) ∧
     (∀ t st ports, s.node q n = some (.circuit 4 t st (some id) ports) → (s.performOp id).op? id = some o → o.performed = true →
       exec (.circuitChangeNode q node) s = .next (if o.status = Status.ok
         then (((s.performOp id).dropOp id).installRoutes o.data).endNode q n st
         else ((s.performOp id).dropOp id).endNode q n (firstBad st o.status)))) ∧
    (∀ st, s.nodeReady q n 7 = true → (⟨BitVec.ofNat 128 (bytesAt b 16 16), true⟩ : Cap).rangeCheck (bytesAt b 32 8) (bytesAt b 40 8) 64 = some st →
      exec (.leaseHandoverNode q node) s = .next (s.endNode q n st)) ∧
    (s.node q n = some (.lending id) → s.op? id = some o → o.performed = true →
      exec (.leaseHandoverNode q node) s = .next ((s.dropOp id).endNode q n o.status)) ∧
    (∀ st y, r.run = some y →
      (∀ x, n = 0 → y.nodes = [x] → s.nodeOver q n = some st → ∃ t, exec (.nodeComplete q node) s = .next t ∧ (t.queue q).run = none ∧
        (t.queue q).lstep = y.number ∧ (t.queue q).lstat = st.toNat ∧ (t.queue q).state = if st = Status.ok ∧ r.state ≠ 2 then 0 else 2) ∧
      (∀ m g, s.nodeOver q n = some st → y.nodes[m]? = some (.running g) → ∃ t : State, exec (.nodeComplete q node) s = .next (t.readPredicates q) ∧
        t.node q n = some (.done st) ∧ t.node q m = some (.running g)) ∧
      (s.nodeOver q n = none → exec (.nodeComplete q node) s = .next s))

/-! ## Steps of the package: power, security and the host (24_system.md, 01_package.md) -/

/-- R26, R130, R450, R451, R453 to R455, R457: power-up, its rows and their limits, the cores' leaving reset, recovery and rollback, a die's reset,
attestation, the security alarm's policies, what a host physical address names, and a hart's accesses to local memory. That a row's limit is counted
from the end of the row before it is the model's reading (log 79); that memory and the Commons hold nothing after a cold power-up, and the
Commons nothing after a die's reset, is its choice (log 5), and so are the random numbers that a key and a signature take (log 80). -/
def Obligations.SystemSteps : Prop :=
  ∀ (s : State) (d : DieId) (image : List Byte) (v extra : BitVec 64) (nonce c : BitVec 256) (kind : Alarm) (n : Nat),
    let y := s.sys
    let power := fun (i : Instr) (p : PowerStage) => ∃ t, exec i s = .next t ∧ t.sys.power = p
    let noted := fun (i : Instr) (x : HostNote) => ∃ t, exec i s = .next t ∧ t.sys.notes = y.notes ++ [x]
    (∃ t, exec .coldPowerUp s = .next t ∧ t.sys.power = .row 1 ∧ t.sys.running = none ∧ t.ops = [] ∧ t.sched = State.reset.sched ∧
      t.inc 0 = (Config.random s.fresh).setWidth 16 ∧ t.inc 1 = (Config.random (s.fresh + 1)).setWidth 16 ∧
      ∀ d, (t.die d).mem = [] ∧ (t.die d).commons = [] ∧ (t.die d).inReset = true ∧
        ∀ k, k < 128 → ((t.die d).core k).ctl.outOfReset = false) ∧
    (let late := y.rowSince + rowLimit n < (s.dieReg 0 0x114).toNat
     y.power = .row n → (late → ∀ i, i = .powerUpStageDone ∨ i = .powerUpStageTimeout →
        noted i (.interrupt 0 "power-up") ∧ power i (.stopped n)) ∧ (¬late → exec .powerUpStageTimeout s = .next s)) ∧
    (s.rowLate = false → (y.power = .row 2 ∨ y.power = .row 4) → power .powerUpStageDone (if y.power = .row 2 then .row 3 else .row 5)) ∧
    (s.rowLate = false → y.power = .row 1 → ∃ t, exec .powerUpStageDone s = .next t ∧ t.sys.power = .row 2 ∧ ∀ d, t.dieReg d 0x114 = 0) ∧
    (∀ f, s.rowLate = false → y.power = .row 3 → y.boot = some f → ∃ t, exec .powerUpStageDone s = .next t ∧ t.sys.power = .row 4 ∧ t.sys.running = some f) ∧
    (s.rowLate = false → y.power = .row 3 → y.boot = none → power .powerUpStageDone .recovery) ∧
    (s.rowLate = false → y.power = .row 5 → s.die0.inReset = true → ∃ u : State,
      exec .powerUpStageDone s = .next ((u.probeAll 0).probeAll 1) ∧ u.sys.power = .row 5 ∧
        ∀ d, (u.die d).inReset = false ∧ (u.die d).start.since = s.cycle + 128 * d.val) ∧
    (s.rowLate = false → y.power = .row 5 → s.die0.inReset = false →
      (s.die0.allLeft = true ∧ s.die1.allLeft = true → power .powerUpStageDone (.row 6)) ∧
      (s.die0.allLeft = false ∨ s.die1.allLeft = false → exec .powerUpStageDone s = .next s)) ∧
    (s.rowLate = false → y.power = .row 6 → power .powerUpStageDone .done) ∧
    ((s.die d).inReset = false → (List.range 128).find? (fun n => !((s.die d).core n).ctl.outOfReset) = some n →
      (let q := (s.die d).start
       let may := q.since + 256 * n ≤ s.cycle ∧ (q.left = 0 ∨ q.left + 256 ≤ s.cycle + 1) ∧
         (q.last = 0 ∨ q.last + 64 ≤ s.cycle + 1) ∧ (s.die (DieId.other d)).start.left ≠ s.cycle + 1
       (¬may → exec (.coreLeaveReset d) s = .next s) ∧
       (may → ∃ t, exec (.coreLeaveReset d) s = .next t ∧ ((t.die d).core n).ctl.outOfReset = true ∧
        (t.die d).start.left = s.cycle + 1 ∧ (t.die d).start.last = s.cycle + 1))) ∧
    (y.power = .recovery → ∃ t, exec (.recoveryImage image) s = .next t ∧ t.sys.recovery = some image ∧
      (y.accepts image = true → t.sys.running = some image ∧ t.sys.power = .row 4) ∧
      (y.accepts image = false → t.sys.running = y.running ∧ t.sys.power = .recovery)) ∧
    (∃ t, exec (.dieReset d) s = .next t ∧ t.inc d = (if s.inc d + 1 = 0 then 1 else s.inc d + 1) ∧
      ((∀ o ∈ s.ops, o.tasks = []) → (t.die d).mem = (s.die d).mem ∧ (t.die d).commons = []) ∧
      (t.die d).start.since = s.cycle ∧ (t.die d).inReset = (s.die d).inReset ∧ ∀ k, k < 128 → ((t.die d).core k).ctl.outOfReset = false) ∧
    (y.identity = none → noted (.attestationRequest nonce) .noIdentity) ∧
    (y.identity ≠ none → y.attest = none → ∃ t, exec (.attestationRequest nonce) s = .next t ∧ t.sys.attest = some nonce) ∧
    (y.attest = some nonce →
      let i : Instr := .attestationReportComplete c extra
      (y.identity = none → noted i .noIdentity) ∧
      (∀ k, y.identity = some k →
        let made := ecdsaSign (scalarOf (Config.identityKey k)) (scalarOf (c.toNat * 2 ^ 64 + extra.toNat)) (s.reportBody nonce)
        (made = none → exec i s = .next s) ∧
        (∀ sig, made = some sig → noted i (.report (s.reportBody nonce ++ sig)) ∧ ∃ t, exec i s = .next t ∧ t.sys.attest = none))) ∧
    (∀ f, y.running = some f →
      (y.rollback.toNat < v.toNat ∧ v.toNat ≤ imageVer f → ∃ t, exec (.rollbackRaise v) s = .next t ∧ t.sys.rollback = v) ∧
      (v.toNat ≤ y.rollback.toNat ∨ imageVer f < v.toNat → exec (.rollbackRaise v) s = .next s)) ∧
    (let w := s.secalarm
     let w' := setBit (setField w 8 8 (min (field w 8 8 + 1) 255)) (alarmBit kind) true
     let row := match y.power with | .row n => min n 3 | .stopped n => min n 3 | _ => 3
     y.power ≠ .off →
     (field w 5 2 = 0 → ∃ t, exec (.securityAlarm kind) s = .next t ∧ t.secalarm = w' ∧
       t.sys.notes = y.notes ++ [.interrupt 0 "security alarm"] ∧ t.sys.power = y.power) ∧
     (field w 5 2 ≠ 0 → y.resetting = false → ∃ t, exec (.securityAlarm kind) s = .next t ∧ t.sys.power = .row row ∧ t.sys.running = none ∧
       t.sys.resetting = true ∧ field t.secalarm 8 8 = min (field w 8 8 + 1) 255 ∧
       (∀ d, t.inc d = (if s.inc d + 1 = 0 then 1 else s.inc d + 1)) ∧ t.sys.identity = (if field w 5 2 = 1 then y.identity else none)) ∧
     (field w 5 2 ≠ 0 → y.resetting = true → ∃ t, exec (.securityAlarm kind) s = .next t ∧ t.secalarm = w' ∧ t.sys = y)) ∧
    (∀ l, l < 2 ^ 40 → hartTarget (2 ^ 40 * (1 + d.val) + l) = .memory d l) ∧
    (∀ (k : Fin 128) (j : Nat) (m : BitVec 12), j < 4 →
      hartTarget (0xF000000000 + 0x2000000 * d.val + 0x20000 * k.val + 0x8000 * j + 8 * m.toNat) = .csr d k (clusterOf j) m false) ∧
    (∀ what, (what = .load n ∨ ∃ bs : List Byte, what = .store bs ∧ bs.length = n) → ∀ a, backedEnd < a + n →
      exec (.hostMemoryAccess d a what) s = .next (s.note .accessFault)) ∧
    (∀ a bs, 0 < n → a % 128 + n ≤ 128 → (s.die d).inLocal a n = true → a + n ≤ backedEnd → (s.die d).unheld (a / 128) →
      (∃ t, exec (.hostMemoryAccess d a (.load n)) s = .next t ∧ t.sys.notes = y.notes ++ [.loaded (readBytes (s.die d).mem a n)] ∧
        (t.die d).mem = (s.die d).mem) ∧
      (bs.length = n → ∃ t, exec (.hostMemoryAccess d a (.store bs)) s = .next t ∧ readBytes (t.die d).mem a n = bs ∧
        ∀ x, x < a ∨ a + n ≤ x → readByte (t.die d).mem x = readByte (s.die d).mem x)) ∧
    (∀ op a x, (n ≠ 4 ∧ n ≠ 8) ∨ a % n ≠ 0 ∨ backedEnd < a + n → exec (.hostMemoryAccess d a (.atomic op n x)) s = .next (s.note .accessFault)) ∧
    (∀ op a x, n = 4 ∨ n = 8 → a % n = 0 → (s.die d).inLocal a n = true → a + n ≤ backedEnd → (s.die d).unheld (a / 128) →
      ∃ t, exec (.hostMemoryAccess d a (.atomic op n x)) s = .next t ∧ t.sys.notes = y.notes ++ [.loaded (readBytes (s.die d).mem a n)] ∧
        readBytes (t.die d).mem a n = bytesOf n (hartNew op n (ofBytes (readBytes (s.die d).mem a n)) x.toNat) ∧
        ∀ z, z < a ∨ a + n ≤ z → readByte (t.die d).mem z = readByte (s.die d).mem z)

/-! ## Reset, and what every step keeps -/

/-- What the spec's field maps give the package's registers at reset: R203, R204, R194, R227 for the core, and the die and package CSRs whose
maps state a value; every steer register reads 0 (R217), no k register has a tag (R29), and the route tables send every destination along
its shortest directions (R123). Two of the values are the model's choices, as the spec gives none: pc 0 (log 7) and port state OFF
(log 9). -/
def Obligations.ResetLeaves : Prop :=
  let s := State.reset
  (∀ i : StreamId, (s.stream i).reg 2 = 1 ∧ (s.stream i).reg 0 = 0 ∧ (s.stream i).pc = 0 ∧
    (∀ n, n < 8 → field ((s.stream i).reg (0x10 + n)) 48 6 = 20) ∧ ∀ n, Sparse.get (fun _ => Steer.reset) (s.stream i).g n = ⟨false, false, 0⟩) ∧
  (∀ c : CoreId, (s.core c).reg 0x43 = 1 ∧ ∀ n, (Sparse.get (fun _ => Cap.empty) (s.core c).regs.k n).tag = false) ∧
  (∀ d n, n < 384 → s.routeEntry d 0 n = 0x80 ∧ s.routeEntry d 1 n = 0x80) ∧
  (∀ d, s.dieReg d 0x100 = 256 ∧ s.dieReg d 0x101 = 0 ∧ s.dieReg d 0x10E = 24 ∧ s.dieReg d 0x110 = 30 ∧ s.dieReg d 0x116 = 4 ∧
    field (s.dieReg d 0x11A) 0 4 = 3 ∧ s.portSt d 0 = 0 ∧ s.portSt d 15 = 0) ∧
  (s.dieReg 0 0x160).toNat = 48000 ∧ (s.dieReg 0 0x161).toNat = 100000

/-- The memories of the package are in canonical form at reset. -/
def Obligations.ResetIsSafe : Prop := State.reset.safe = true

/-- Every step of the package keeps its memories in canonical form, whatever the state: no address listed twice or out of order, and no
listed byte that an unlisted one reads as (the model's form of memory, log 5). -/
def Obligations.StepKeepsMemoryCanonical : Prop := ∀ s t : State, s.safe = true → step s = .next t → t.safe = true
end

