-- ==== Sys2Proof/Laws/Exec.lean ====
section
/-!
SUPPORT. Which meaning each constructor has: the arms of the dispatch, one simp lemma each.
-/

namespace Sys2Proof.Machine

@[simp] theorem exec_blk (l c) (s : State) : exec (.blk l c) s = execBlk l c s := rfl

@[simp] theorem exec_blkr (l r) (s : State) : exec (.blkr l r) s = execBlkr l r s := rfl

@[simp] theorem exec_prep (sy g t) (s : State) : exec (.prep sy g t) s = execPrep sy g t s := rfl

@[simp] theorem exec_br (sy g) (s : State) : exec (.br sy g) s = execBr sy g s := rfl

@[simp] theorem exec_brl (sy g) (s : State) : exec (.brl sy g) s = execBrl sy g s := rfl

@[simp] theorem exec_ret (sy g) (s : State) : exec (.ret sy g) s = execRet sy g s := rfl

@[simp] theorem exec_cmp (sy g a b c) (s : State) : exec (.cmp sy g a b c) s = execCmp sy g a b c s := rfl

@[simp] theorem exec_cmpi (sy g a c imm) (s : State) : exec (.cmpi sy g a c imm) s = execCmpi sy g a c imm s := rfl

@[simp] theorem exec_tstp (sy g p v t) (s : State) : exec (.tstp sy g p v t) s = execTstp sy g p v t s := rfl

@[simp] theorem exec_tstq (sy g p v t) (s : State) : exec (.tstq sy g p v t) s = execTstq sy g p v t s := rfl

@[simp] theorem exec_tstm (sy g p v t) (s : State) : exec (.tstm sy g p v t) s = execTstm sy g p v t s := rfl

@[simp] theorem exec_fork (sy m) (s : State) : exec (.fork sy m) s = execFork sy m s := rfl

@[simp] theorem exec_join (sy m) (s : State) : exec (.join sy m) s = execJoin sy m s := rfl

@[simp] theorem exec_nop (sy) (s : State) : exec (.nop sy) s = execNop sy s := rfl

@[simp] theorem exec_yield (sy) (s : State) : exec (.yield sy) s = execYield sy s := rfl

@[simp] theorem exec_halt (sy) (s : State) : exec (.halt sy) s = execHalt sy s := rfl

@[simp] theorem exec_tfence (sy) (s : State) : exec (.tfence sy) s = execTfence sy s := rfl

@[simp] theorem exec_trap (sy c) (s : State) : exec (.trap sy c) s = execTrap sy c s := rfl

@[simp] theorem exec_swap (sy) (s : State) : exec (.swap sy) s = execSwap sy s := rfl

@[simp] theorem exec_eret (sy) (s : State) : exec (.eret sy) s = execEret sy s := rfl

@[simp] theorem exec_add (sy d a b) (s : State) : exec (.add sy d a b) s = execAdd sy d a b s := rfl

@[simp] theorem exec_sub (sy d a b) (s : State) : exec (.sub sy d a b) s = execSub sy d a b s := rfl

@[simp] theorem exec_mul (sy d a b) (s : State) : exec (.mul sy d a b) s = execMul sy d a b s := rfl

@[simp] theorem exec_mulh (sy d a b) (s : State) : exec (.mulh sy d a b) s = execMulh sy d a b s := rfl

@[simp] theorem exec_mulhu (sy d a b) (s : State) : exec (.mulhu sy d a b) s = execMulhu sy d a b s := rfl

@[simp] theorem exec_div (sy d a b) (s : State) : exec (.div sy d a b) s = execDiv sy d a b s := rfl

@[simp] theorem exec_divu (sy d a b) (s : State) : exec (.divu sy d a b) s = execDivu sy d a b s := rfl

@[simp] theorem exec_rem (sy d a b) (s : State) : exec (.rem sy d a b) s = execRem sy d a b s := rfl

@[simp] theorem exec_remu (sy d a b) (s : State) : exec (.remu sy d a b) s = execRemu sy d a b s := rfl

@[simp] theorem exec_and (sy d a b) (s : State) : exec (.and sy d a b) s = execAnd sy d a b s := rfl

@[simp] theorem exec_or (sy d a b) (s : State) : exec (.or sy d a b) s = execOr sy d a b s := rfl

@[simp] theorem exec_xor (sy d a b) (s : State) : exec (.xor sy d a b) s = execXor sy d a b s := rfl

@[simp] theorem exec_shl (sy d a b) (s : State) : exec (.shl sy d a b) s = execShl sy d a b s := rfl

@[simp] theorem exec_shr (sy d a b) (s : State) : exec (.shr sy d a b) s = execShr sy d a b s := rfl

@[simp] theorem exec_sar (sy d a b) (s : State) : exec (.sar sy d a b) s = execSar sy d a b s := rfl

@[simp] theorem exec_min (sy d a b) (s : State) : exec (.min sy d a b) s = execMin sy d a b s := rfl

@[simp] theorem exec_max (sy d a b) (s : State) : exec (.max sy d a b) s = execMax sy d a b s := rfl

@[simp] theorem exec_minu (sy d a b) (s : State) : exec (.minu sy d a b) s = execMinu sy d a b s := rfl

@[simp] theorem exec_maxu (sy d a b) (s : State) : exec (.maxu sy d a b) s = execMaxu sy d a b s := rfl

@[simp] theorem exec_sel (sy d a b g) (s : State) : exec (.sel sy d a b g) s = execSel sy d a b g s := rfl

@[simp] theorem exec_lea (sy d a b h) (s : State) : exec (.lea sy d a b h) s = execLea sy d a b h s := rfl

@[simp] theorem exec_clz (sy d a) (s : State) : exec (.clz sy d a) s = execClz sy d a s := rfl

@[simp] theorem exec_ctz (sy d a) (s : State) : exec (.ctz sy d a) s = execCtz sy d a s := rfl

@[simp] theorem exec_popc (sy d a) (s : State) : exec (.popc sy d a) s = execPopc sy d a s := rfl

@[simp] theorem exec_ffs (sy d a) (s : State) : exec (.ffs sy d a) s = execFfs sy d a s := rfl

@[simp] theorem exec_mov (sy d a) (s : State) : exec (.mov sy d a) s = execMov sy d a s := rfl

@[simp] theorem exec_sext (sy d a n) (s : State) : exec (.sext sy d a n) s = execSext sy d a n s := rfl

@[simp] theorem exec_zext (sy d a n) (s : State) : exec (.zext sy d a n) s = execZext sy d a n s := rfl

@[simp] theorem exec_addi (sy d a imm) (s : State) : exec (.addi sy d a imm) s = execAddi sy d a imm s := rfl

@[simp] theorem exec_andi (sy d a imm) (s : State) : exec (.andi sy d a imm) s = execAndi sy d a imm s := rfl

@[simp] theorem exec_ori (sy d a imm) (s : State) : exec (.ori sy d a imm) s = execOri sy d a imm s := rfl

@[simp] theorem exec_xori (sy d a imm) (s : State) : exec (.xori sy d a imm) s = execXori sy d a imm s := rfl

@[simp] theorem exec_shli (sy d a h) (s : State) : exec (.shli sy d a h) s = execShli sy d a h s := rfl

@[simp] theorem exec_shri (sy d a h) (s : State) : exec (.shri sy d a h) s = execShri sy d a h s := rfl

@[simp] theorem exec_sari (sy d a h) (s : State) : exec (.sari sy d a h) s = execSari sy d a h s := rfl

@[simp] theorem exec_movi (sy d imm) (s : State) : exec (.movi sy d imm) s = execMovi sy d imm s := rfl

@[simp] theorem exec_movh (sy d imm) (s : State) : exec (.movh sy d imm) s = execMovh sy d imm s := rfl

@[simp] theorem exec_compactNop (s : State) : exec (.compactNop) s = execCompactNop s := rfl

@[simp] theorem exec_compactMov (d a) (s : State) : exec (.compactMov d a) s = execCompactMov d a s := rfl

@[simp] theorem exec_compactAdd (d a) (s : State) : exec (.compactAdd d a) s = execCompactAdd d a s := rfl

@[simp] theorem exec_compactSub (d a) (s : State) : exec (.compactSub d a) s = execCompactSub d a s := rfl

@[simp] theorem exec_compactAnd (d a) (s : State) : exec (.compactAnd d a) s = execCompactAnd d a s := rfl

@[simp] theorem exec_compactAddi (d imm) (s : State) : exec (.compactAddi d imm) s = execCompactAddi d imm s := rfl

@[simp] theorem exec_compactShli (d imm) (s : State) : exec (.compactShli d imm) s = execCompactShli d imm s := rfl

@[simp] theorem exec_compactShri (d imm) (s : State) : exec (.compactShri d imm) s = execCompactShri d imm s := rfl

@[simp] theorem exec_compactMovi (d imm) (s : State) : exec (.compactMovi d imm) s = execCompactMovi d imm s := rfl

@[simp] theorem exec_compactLd (d a) (s : State) : exec (.compactLd d a) s = execCompactLd d a s := rfl

@[simp] theorem exec_compactSt (d a) (s : State) : exec (.compactSt d a) s = execCompactSt d a s := rfl

@[simp] theorem exec_compactQpush (q a) (s : State) : exec (.compactQpush q a) s = execCompactQpush q a s := rfl

@[simp] theorem exec_compactQpop (d q) (s : State) : exec (.compactQpop d q) s = execCompactQpop d q s := rfl

@[simp] theorem exec_compactBr (g) (s : State) : exec (.compactBr g) s = execCompactBr g s := rfl

@[simp] theorem exec_compactFqpush (a) (s : State) : exec (.compactFqpush a) s = execCompactFqpush a s := rfl

@[simp] theorem exec_compactYield (s : State) : exec (.compactYield) s = execCompactYield s := rfl

@[simp] theorem exec_ld (sy d b z o f) (s : State) : exec (.ld sy d b z o f) s = execLd sy d b z o f s := rfl

@[simp] theorem exec_ldS (sy d b z o p) (s : State) : exec (.ldS sy d b z o p) s = execLdS sy d b z o p s := rfl

@[simp] theorem exec_st (sy d b z o f) (s : State) : exec (.st sy d b z o f) s = execSt sy d b z o f s := rfl

@[simp] theorem exec_stS (sy d b z o p) (s : State) : exec (.stS sy d b z o p) s = execStS sy d b z o p s := rfl

@[simp] theorem exec_ldq (sy q b z o p) (s : State) : exec (.ldq sy q b z o p) s = execLdq sy q b z o p s := rfl

@[simp] theorem exec_amo (sy r c o p) (s : State) : exec (.amo sy r c o p) s = execAmo sy r c o p s := rfl

@[simp] theorem exec_cas (sy r n z o p) (s : State) : exec (.cas sy r n z o p) s = execCas sy r n z o p s := rfl

@[simp] theorem exec_lds (sy d b z o p) (s : State) : exec (.lds sy d b z o p) s = execLds sy d b z o p s := rfl

@[simp] theorem exec_sts (sy d b z o p) (s : State) : exec (.sts sy d b z o p) s = execSts sy d b z o p s := rfl

@[simp] theorem exec_pld (sy d k z o p) (s : State) : exec (.pld sy d k z o p) s = execPld sy d k z o p s := rfl

@[simp] theorem exec_pst (sy d k z o p) (s : State) : exec (.pst sy d k z o p) s = execPst sy d k z o p s := rfl

@[simp] theorem exec_pamo (sy r k c z o p) (s : State) : exec (.pamo sy r k c z o p) s = execPamo sy r k c z o p s := rfl

@[simp] theorem exec_pcas (sy r k n z o p) (s : State) : exec (.pcas sy r k n z o p) s = execPcas sy r k n z o p s := rfl

@[simp] theorem exec_pget (sy a k b p) (s : State) : exec (.pget sy a k b p) s = execPget sy a k b p s := rfl

@[simp] theorem exec_kld (sy d k a o p) (s : State) : exec (.kld sy d k a o p) s = execKld sy d k a o p s := rfl

@[simp] theorem exec_kder (sy d k a b) (s : State) : exec (.kder sy d k a b) s = execKder sy d k a b s := rfl

@[simp] theorem exec_kchk (sy p k a b) (s : State) : exec (.kchk sy p k a b) s = execKchk sy p k a b s := rfl

@[simp] theorem exec_kmov (sy d k) (s : State) : exec (.kmov sy d k) s = execKmov sy d k s := rfl

@[simp] theorem exec_lacq (sy k a b p) (s : State) : exec (.lacq sy k a b p) s = execLacq sy k a b p s := rfl

@[simp] theorem exec_lrel (sy k a b p) (s : State) : exec (.lrel sy k a b p) s = execLrel sy k a b p s := rfl

@[simp] theorem exec_lhand (sy k a b p) (s : State) : exec (.lhand sy k a b p) s = execLhand sy k a b p s := rfl

@[simp] theorem exec_qpush (sy q a) (s : State) : exec (.qpush sy q a) s = execQpush sy q a s := rfl

@[simp] theorem exec_qpushRing (sy q a) (s : State) : exec (.qpushRing sy q a) s = execQpushRing sy q a s := rfl

@[simp] theorem exec_qpop (sy q a) (s : State) : exec (.qpop sy q a) s = execQpop sy q a s := rfl

@[simp] theorem exec_qpopRing (sy q a) (s : State) : exec (.qpopRing sy q a) s = execQpopRing sy q a s := rfl

@[simp] theorem exec_qcnt (sy q d) (s : State) : exec (.qcnt sy q d) s = execQcnt sy q d s := rfl

@[simp] theorem exec_fqpush (sy a) (s : State) : exec (.fqpush sy a) s = execFqpush sy a s := rfl

@[simp] theorem exec_fqpushT (sy a) (s : State) : exec (.fqpushT sy a) s = execFqpushT sy a s := rfl

@[simp] theorem exec_fqclose (sy) (s : State) : exec (.fqclose sy) s = execFqclose sy s := rfl

@[simp] theorem exec_rmap (sy n a p) (s : State) : exec (.rmap sy n a p) s = execRmap sy n a p s := rfl

@[simp] theorem exec_rflush (sy n a o p) (s : State) : exec (.rflush sy n a o p) s = execRflush sy n a o p s := rfl

@[simp] theorem exec_rinv (sy n a) (s : State) : exec (.rinv sy n a) s = execRinv sy n a s := rfl

@[simp] theorem exec_rcfgRegion (sy n a b) (s : State) : exec (.rcfgRegion sy n a b) s = execRcfgRegion sy n a b s := rfl

@[simp] theorem exec_rcfgRing (sy n a) (s : State) : exec (.rcfgRing sy n a) s = execRcfgRing sy n a s := rfl

@[simp] theorem exec_fence (sy o u) (s : State) : exec (.fence sy o u) s = execFence sy o u s := rfl

@[simp] theorem exec_flagw (sy f a b p) (s : State) : exec (.flagw sy f a b p) s = execFlagw sy f a b p s := rfl

@[simp] theorem exec_flagadd (sy f a) (s : State) : exec (.flagadd sy f a) s = execFlagadd sy f a s := rfl

@[simp] theorem exec_flagwait (sy f a t) (s : State) : exec (.flagwait sy f a t) s = execFlagwait sy f a t s := rfl

@[simp] theorem exec_bar (sy t l imm) (s : State) : exec (.bar sy t l imm) s = execBar sy t l imm s := rfl

@[simp] theorem exec_cpy (sy d imm c q l o b) (s : State) : exec (.cpy sy d imm c q l o b) s = execCpy sy d imm c q l o b s := rfl

@[simp] theorem exec_cpyw (sy p) (s : State) : exec (.cpyw sy p) s = execCpyw sy p s := rfl

@[simp] theorem exec_cpyq (sy d) (s : State) : exec (.cpyq sy d) s = execCpyq sy d s := rfl

@[simp] theorem exec_bop (sy d r k o f) (s : State) : exec (.bop sy d r k o f) s = execBop sy d r k o f s := rfl

@[simp] theorem exec_coll (sy d imm c q l o b) (s : State) : exec (.coll sy d imm c q l o b) s = execColl sy d imm c q l o b s := rfl

@[simp] theorem exec_vadd (sy d a b m e) (s : State) : exec (.vadd sy d a b m e) s = execVadd sy d a b m e s := rfl

@[simp] theorem exec_vsub (sy d a b m e) (s : State) : exec (.vsub sy d a b m e) s = execVsub sy d a b m e s := rfl

@[simp] theorem exec_vmul (sy d a b m e) (s : State) : exec (.vmul sy d a b m e) s = execVmul sy d a b m e s := rfl

@[simp] theorem exec_vfma (sy d a b m e) (s : State) : exec (.vfma sy d a b m e) s = execVfma sy d a b m e s := rfl

@[simp] theorem exec_vfms (sy d a b m e) (s : State) : exec (.vfms sy d a b m e) s = execVfms sy d a b m e s := rfl

@[simp] theorem exec_vmax (sy d a b m e) (s : State) : exec (.vmax sy d a b m e) s = execVmax sy d a b m e s := rfl

@[simp] theorem exec_vmin (sy d a b m e) (s : State) : exec (.vmin sy d a b m e) s = execVmin sy d a b m e s := rfl

@[simp] theorem exec_vabs (sy d a m imm o) (s : State) : exec (.vabs sy d a m imm o) s = execVabs sy d a m imm o s := rfl

@[simp] theorem exec_vneg (sy d a m imm o) (s : State) : exec (.vneg sy d a m imm o) s = execVneg sy d a m imm o s := rfl

@[simp] theorem exec_vrcp (sy d a m imm o t r) (s : State) : exec (.vrcp sy d a m imm o t r) s = execVrcp sy d a m imm o t r s := rfl

@[simp] theorem exec_vrsq (sy d a m imm o t r) (s : State) : exec (.vrsq sy d a m imm o t r) s = execVrsq sy d a m imm o t r s := rfl

@[simp] theorem exec_vexp2 (sy d a m imm o) (s : State) : exec (.vexp2 sy d a m imm o) s = execVexp2 sy d a m imm o s := rfl

@[simp] theorem exec_vlog2 (sy d a m imm o) (s : State) : exec (.vlog2 sy d a m imm o) s = execVlog2 sy d a m imm o s := rfl

@[simp] theorem exec_vcvtFromFp32 (sy d a f r t) (s : State) : exec (.vcvtFromFp32 sy d a f r t) s = execVcvtFromFp32 sy d a f r t s := rfl

@[simp] theorem exec_vcvtToFp32 (sy d a f) (s : State) : exec (.vcvtToFp32 sy d a f) s = execVcvtToFp32 sy d a f s := rfl

@[simp] theorem exec_vquant (sy d a f r t) (s : State) : exec (.vquant sy d a f r t) s = execVquant sy d a f r t s := rfl

@[simp] theorem exec_vdeq (sy d a f) (s : State) : exec (.vdeq sy d a f) s = execVdeq sy d a f s := rfl

@[simp] theorem exec_vcmp (sy d a b t m) (s : State) : exec (.vcmp sy d a b t m) s = execVcmp sy d a b t m s := rfl

@[simp] theorem exec_vsel (sy d a b m) (s : State) : exec (.vsel sy d a b m) s = execVsel sy d a b m s := rfl

@[simp] theorem exec_vand (sy d a b m) (s : State) : exec (.vand sy d a b m) s = execVand sy d a b m s := rfl

@[simp] theorem exec_vor (sy d a b m) (s : State) : exec (.vor sy d a b m) s = execVor sy d a b m s := rfl

@[simp] theorem exec_vxor (sy d a b m) (s : State) : exec (.vxor sy d a b m) s = execVxor sy d a b m s := rfl

@[simp] theorem exec_vnot (sy d a m) (s : State) : exec (.vnot sy d a m) s = execVnot sy d a m s := rfl

@[simp] theorem exec_vshl (sy d a b m) (s : State) : exec (.vshl sy d a b m) s = execVshl sy d a b m s := rfl

@[simp] theorem exec_vshr (sy d a b m) (s : State) : exec (.vshr sy d a b m) s = execVshr sy d a b m s := rfl

@[simp] theorem exec_vsar (sy d a b m) (s : State) : exec (.vsar sy d a b m) s = execVsar sy d a b m s := rfl

@[simp] theorem exec_viadd (sy d a b m t) (s : State) : exec (.viadd sy d a b m t) s = execViadd sy d a b m t s := rfl

@[simp] theorem exec_vimul (sy d a b m t) (s : State) : exec (.vimul sy d a b m t) s = execVimul sy d a b m t s := rfl

@[simp] theorem exec_vred (sy d a m f) (s : State) : exec (.vred sy d a m f) s = execVred sy d a m f s := rfl

@[simp] theorem exec_vperm (sy d a b m) (s : State) : exec (.vperm sy d a b m) s = execVperm sy d a b m s := rfl

@[simp] theorem exec_vbcast (sy d a l) (s : State) : exec (.vbcast sy d a l) s = execVbcast sy d a l s := rfl

@[simp] theorem exec_vsplat (sy d imm) (s : State) : exec (.vsplat sy d imm) s = execVsplat sy d imm s := rfl

@[simp] theorem exec_viota (sy d x) (s : State) : exec (.viota sy d x) s = execViota sy d x s := rfl

@[simp] theorem exec_vmov (sy d a) (s : State) : exec (.vmov sy d a) s = execVmov sy d a s := rfl

@[simp] theorem exec_vmovToQueue (sy a q) (s : State) : exec (.vmovToQueue sy a q) s = execVmovToQueue sy a q s := rfl

@[simp] theorem exec_vmovFromQueue (sy d q) (s : State) : exec (.vmovFromQueue sy d q) s = execVmovFromQueue sy d q s := rfl

@[simp] theorem exec_vmovToInteger (sy d a l) (s : State) : exec (.vmovToInteger sy d a l) s = execVmovToInteger sy d a l s := rfl

@[simp] theorem exec_vld (sy d a m o p) (s : State) : exec (.vld sy d a m o p) s = execVld sy d a m o p s := rfl

@[simp] theorem exec_vst (sy d a m o p) (s : State) : exec (.vst sy d a m o p) s = execVst sy d a m o p s := rfl

@[simp] theorem exec_vgath (sy d a b m p) (s : State) : exec (.vgath sy d a b m p) s = execVgath sy d a b m p s := rfl

@[simp] theorem exec_vscat (sy d a b m p) (s : State) : exec (.vscat sy d a b m p) s = execVscat sy d a b m p s := rfl

@[simp] theorem exec_mand (sy d a b) (s : State) : exec (.mand sy d a b) s = execMand sy d a b s := rfl

@[simp] theorem exec_mor (sy d a b) (s : State) : exec (.mor sy d a b) s = execMor sy d a b s := rfl

@[simp] theorem exec_mnot (sy d a) (s : State) : exec (.mnot sy d a) s = execMnot sy d a s := rfl

@[simp] theorem exec_mpop (sy a r) (s : State) : exec (.mpop sy a r) s = execMpop sy a r s := rfl

@[simp] theorem exec_mffs (sy a r) (s : State) : exec (.mffs sy a r) s = execMffs sy a r s := rfl

@[simp] theorem exec_mma (sy d c a b) (s : State) : exec (.mma sy d c a b) s = execMma sy d c a b s := rfl

@[simp] theorem exec_mmas (sy d c a b) (s : State) : exec (.mmas sy d c a b) s = execMmas sy d c a b s := rfl

@[simp] theorem exec_mfft (sy r imm) (s : State) : exec (.mfft sy r imm) s = execMfft sy r imm s := rfl

@[simp] theorem exec_mtw (sy a) (s : State) : exec (.mtw sy a) s = execMtw sy a s := rfl

@[simp] theorem exec_mzero (sy d m) (s : State) : exec (.mzero sy d m) s = execMzero sy d m s := rfl

@[simp] theorem exec_mtr (sy d a) (s : State) : exec (.mtr sy d a) s = execMtr sy d a s := rfl

@[simp] theorem exec_madd (sy d a b) (s : State) : exec (.madd sy d a b) s = execMadd sy d a b s := rfl

@[simp] theorem exec_mmov (sy d a) (s : State) : exec (.mmov sy d a) s = execMmov sy d a s := rfl

@[simp] theorem exec_msc (sy d a imm) (s : State) : exec (.msc sy d a imm) s = execMsc sy d a imm s := rfl

@[simp] theorem exec_mldz (sy z a) (s : State) : exec (.mldz sy z a) s = execMldz sy z a s := rfl

@[simp] theorem exec_mstz (sy z a) (s : State) : exec (.mstz sy z a) s = execMstz sy z a s := rfl

@[simp] theorem exec_mcvt (sy z a t) (s : State) : exec (.mcvt sy z a t) s = execMcvt sy z a t s := rfl

@[simp] theorem exec_kvattn (sy d a b p) (s : State) : exec (.kvattn sy d a b p) s = execKvattn sy d a b p s := rfl

@[simp] theorem exec_kvapp (sy a b c p) (s : State) : exec (.kvapp sy a b c p) s = execKvapp sy a b c p s := rfl

@[simp] theorem exec_kvgrow (sy a b c p) (s : State) : exec (.kvgrow sy a b c p) s = execKvgrow sy a b c p s := rfl

@[simp] theorem exec_kvcmt (sy a b c p) (s : State) : exec (.kvcmt sy a b c p) s = execKvcmt sy a b c p s := rfl

@[simp] theorem exec_kvld (sy d a w p) (s : State) : exec (.kvld sy d a w p) s = execKvld sy d a w p s := rfl

@[simp] theorem exec_csrr (sy d c) (s : State) : exec (.csrr sy d c) s = execCsrr sy d c s := rfl

@[simp] theorem exec_csrw (sy a c) (s : State) : exec (.csrw sy a c) s = execCsrw sy a c s := rfl

@[simp] theorem exec_tlbi (sy a b) (s : State) : exec (.tlbi sy a b) s = execTlbi sy a b s := rfl

@[simp] theorem exec_snap (sy d b) (s : State) : exec (.snap sy d b) s = execSnap sy d b s := rfl

@[simp] theorem exec_evcfg (sy a b) (s : State) : exec (.evcfg sy a b) s = execEvcfg sy a b s := rfl

@[simp] theorem exec_rwctl (sy a b) (s : State) : exec (.rwctl sy a b) s = execRwctl sy a b s := rfl

@[simp] theorem exec_resume (sy a) (s : State) : exec (.resume sy a) s = execResume sy a s := rfl

@[simp] theorem exec_illegalInstruction (cause) (s : State) : exec (.illegalInstruction cause) s = execIllegalInstruction cause s := rfl

@[simp] theorem exec_memoryAccessComplete (op) (s : State) : exec (.memoryAccessComplete op) s = execMemoryAccessComplete op s := rfl

@[simp] theorem exec_coreRelease (die) (s : State) : exec (.coreRelease die) s = execCoreRelease die s := rfl

@[simp] theorem exec_sweeperAdvance (die ch) (s : State) : exec (.sweeperAdvance die ch) s = execSweeperAdvance die ch s := rfl

@[simp] theorem exec_victimAllocation (die ch) (s : State) : exec (.victimAllocation die ch) s = execVictimAllocation die ch s := rfl

@[simp] theorem exec_allocationRetry (die ch) (s : State) : exec (.allocationRetry die ch) s = execAllocationRetry die ch s := rfl

@[simp] theorem exec_prefetchWalk (die) (s : State) : exec (.prefetchWalk die) s = execPrefetchWalk die s := rfl

@[simp] theorem exec_pageWalk (core va asid) (s : State) : exec (.pageWalk core va asid) s = execPageWalk core va asid s := rfl

@[simp] theorem exec_invalidationComplete (id other) (s : State) : exec (.invalidationComplete id other) s = execInvalidationComplete id other s := rfl

@[simp] theorem exec_kvinvComplete (die) (s : State) : exec (.kvinvComplete die) s = execKvinvComplete die s := rfl

@[simp] theorem exec_kvattnRound (core) (s : State) : exec (.kvattnRound core) s = execKvattnRound core s := rfl

@[simp] theorem exec_kvgrowPairInstall (op) (s : State) : exec (.kvgrowPairInstall op) s = execKvgrowPairInstall op s := rfl

@[simp] theorem exec_kvgrowPageCopy (op) (s : State) : exec (.kvgrowPageCopy op) s = execKvgrowPageCopy op s := rfl

@[simp] theorem exec_packetHop (die arrival) (s : State) : exec (.packetHop die arrival) s = execPacketHop die arrival s := rfl

@[simp] theorem exec_ceCommandStart (die ch) (s : State) : exec (.ceCommandStart die ch) s = execCeCommandStart die ch s := rfl

@[simp] theorem exec_ceLineComplete (die ch slot) (s : State) : exec (.ceLineComplete die ch slot) s = execCeLineComplete die ch slot s := rfl

@[simp] theorem exec_ceCommandComplete (die ch slot) (s : State) : exec (.ceCommandComplete die ch slot) s = execCeCommandComplete die ch slot s := rfl

@[simp] theorem exec_ceRingWaitEnd (core) (s : State) : exec (.ceRingWaitEnd core) s = execCeRingWaitEnd core s := rfl

@[simp] theorem exec_muFillComplete (core line) (s : State) : exec (.muFillComplete core line) s = execMuFillComplete core line s := rfl

@[simp] theorem exec_muWritebackComplete (core line) (s : State) : exec (.muWritebackComplete core line) s = execMuWritebackComplete core line s := rfl

@[simp] theorem exec_launchAdmission (queue) (s : State) : exec (.launchAdmission queue) s = execLaunchAdmission queue s := rfl

@[simp] theorem exec_stageGrowth (gang) (s : State) : exec (.stageGrowth gang) s = execStageGrowth gang s := rfl

@[simp] theorem exec_launchComplete (gang) (s : State) : exec (.launchComplete gang) s = execLaunchComplete gang s := rfl

@[simp] theorem exec_planeLoadComplete (core) (s : State) : exec (.planeLoadComplete core) s = execPlaneLoadComplete core s := rfl

@[simp] theorem exec_drainPoint (core) (s : State) : exec (.drainPoint core) s = execDrainPoint core s := rfl

@[simp] theorem exec_planeSwap (core) (s : State) : exec (.planeSwap core) s = execPlaneSwap core s := rfl

@[simp] theorem exec_exDeferredPulse (core) (s : State) : exec (.exDeferredPulse core) s = execExDeferredPulse core s := rfl

@[simp] theorem exec_exPendingTarget (core target) (s : State) : exec (.exPendingTarget core target) s = execExPendingTarget core target s := rfl

@[simp] theorem exec_cqdoorWrite (v) (s : State) : exec (.cqdoorWrite v) s = execCqdoorWrite v s := rfl

@[simp] theorem exec_stepStart (queue) (s : State) : exec (.stepStart queue) s = execStepStart queue s := rfl

@[simp] theorem exec_launchNode (queue node) (s : State) : exec (.launchNode queue node) s = execLaunchNode queue node s := rfl

@[simp] theorem exec_flagWaitNode (queue node) (s : State) : exec (.flagWaitNode queue node) s = execFlagWaitNode queue node s := rfl

@[simp] theorem exec_signalNode (queue node) (s : State) : exec (.signalNode queue node) s = execSignalNode queue node s := rfl

@[simp] theorem exec_conditionalNode (queue node) (s : State) : exec (.conditionalNode queue node) s = execConditionalNode queue node s := rfl

@[simp] theorem exec_circuitChangeNode (queue node) (s : State) : exec (.circuitChangeNode queue node) s = execCircuitChangeNode queue node s := rfl

@[simp] theorem exec_routeInstallNode (queue node) (s : State) : exec (.routeInstallNode queue node) s = execRouteInstallNode queue node s := rfl

@[simp] theorem exec_leaseHandoverNode (queue node) (s : State) : exec (.leaseHandoverNode queue node) s = execLeaseHandoverNode queue node s := rfl

@[simp] theorem exec_nodeComplete (queue node) (s : State) : exec (.nodeComplete queue node) s = execNodeComplete queue node s := rfl

@[simp] theorem exec_lotteryDraw (die) (s : State) : exec (.lotteryDraw die) s = execLotteryDraw die s := rfl

@[simp] theorem exec_chainedLaunch (queue node) (s : State) : exec (.chainedLaunch queue node) s = execChainedLaunch queue node s := rfl

@[simp] theorem exec_gangSwitch (gang) (s : State) : exec (.gangSwitch gang) s = execGangSwitch gang s := rfl

@[simp] theorem exec_gangRestore (gang) (s : State) : exec (.gangRestore gang) s = execGangRestore gang s := rfl

@[simp] theorem exec_heldEntryWrite (die) (s : State) : exec (.heldEntryWrite die) s = execHeldEntryWrite die s := rfl

@[simp] theorem exec_fackWrite (die v) (s : State) : exec (.fackWrite die v) s = execFackWrite die v s := rfl

@[simp] theorem exec_streamRestart (die) (s : State) : exec (.streamRestart die) s = execStreamRestart die s := rfl

@[simp] theorem exec_hostWindowWrite (die core cl n v) (s : State) : exec (.hostWindowWrite die core cl n v) s = execHostWindowWrite die core cl n v s := rfl

@[simp] theorem exec_coldPowerUp (s : State) : exec (.coldPowerUp) s = execColdPowerUp s := rfl

@[simp] theorem exec_powerUpStageDone (s : State) : exec (.powerUpStageDone) s = execPowerUpStageDone s := rfl

@[simp] theorem exec_powerUpStageTimeout (s : State) : exec (.powerUpStageTimeout) s = execPowerUpStageTimeout s := rfl

@[simp] theorem exec_coreLeaveReset (die) (s : State) : exec (.coreLeaveReset die) s = execCoreLeaveReset die s := rfl

@[simp] theorem exec_recoveryImage (image) (s : State) : exec (.recoveryImage image) s = execRecoveryImage image s := rfl

@[simp] theorem exec_dieReset (die) (s : State) : exec (.dieReset die) s = execDieReset die s := rfl

@[simp] theorem exec_poolRequestTimeout (die tag) (s : State) : exec (.poolRequestTimeout die tag) s = execPoolRequestTimeout die tag s := rfl

@[simp] theorem exec_leaseFillReply (die tag gen ans) (s : State) : exec (.leaseFillReply die tag gen ans) s = execLeaseFillReply die tag gen ans s := rfl

@[simp] theorem exec_promotionReply (die tag gen epoch ticks) (s : State) : exec (.promotionReply die tag gen epoch ticks) s = execPromotionReply die tag gen epoch ticks s := rfl

@[simp] theorem exec_leaseRecall (die obj pidx) (s : State) : exec (.leaseRecall die obj pidx) s = execLeaseRecall die obj pidx s := rfl

@[simp] theorem exec_leaseExpiry (die frame) (s : State) : exec (.leaseExpiry die frame) s = execLeaseExpiry die frame s := rfl

@[simp] theorem exec_leaseRenewal (die frame) (s : State) : exec (.leaseRenewal die frame) s = execLeaseRenewal die frame s := rfl

@[simp] theorem exec_renewalReply (die tag gen ans) (s : State) : exec (.renewalReply die tag gen ans) s = execRenewalReply die tag gen ans s := rfl

@[simp] theorem exec_writeThroughReply (die tag gen st) (s : State) : exec (.writeThroughReply die tag gen st) s = execWriteThroughReply die tag gen st s := rfl

@[simp] theorem exec_releaseReply (die tag gen st) (s : State) : exec (.releaseReply die tag gen st) s = execReleaseReply die tag gen st s := rfl

@[simp] theorem exec_handoverReply (die tag gen st) (s : State) : exec (.handoverReply die tag gen st) s = execHandoverReply die tag gen st s := rfl

@[simp] theorem exec_pfposWrite (die v) (s : State) : exec (.pfposWrite die v) s = execPfposWrite die v s := rfl

@[simp] theorem exec_tinvcWrite (die v) (s : State) : exec (.tinvcWrite die v) s = execTinvcWrite die v s := rfl

@[simp] theorem exec_accessCounterWindow (die) (s : State) : exec (.accessCounterWindow die) s = execAccessCounterWindow die s := rfl

@[simp] theorem exec_kvinvWrite (die v) (s : State) : exec (.kvinvWrite die v) s = execKvinvWrite die v s := rfl

@[simp] theorem exec_tlinksEnable (die v) (s : State) : exec (.tlinksEnable die v) s = execTlinksEnable die v s := rfl

@[simp] theorem exec_linkTrainingResult (die link far) (s : State) : exec (.linkTrainingResult die link far) s = execLinkTrainingResult die link far s := rfl

@[simp] theorem exec_linkFailure (die link) (s : State) : exec (.linkFailure die link) s = execLinkFailure die link s := rfl

@[simp] theorem exec_remoteRequestArrival (die pkt) (s : State) : exec (.remoteRequestArrival die pkt) s = execRemoteRequestArrival die pkt s := rfl

@[simp] theorem exec_remoteReply (die pkt) (s : State) : exec (.remoteReply die pkt) s = execRemoteReply die pkt s := rfl

@[simp] theorem exec_remoteTimeout (die tag) (s : State) : exec (.remoteTimeout die tag) s = execRemoteTimeout die tag s := rfl

@[simp] theorem exec_remoteTagRelease (die tag) (s : State) : exec (.remoteTagRelease die tag) s = execRemoteTagRelease die tag s := rfl

@[simp] theorem exec_flagArrival (die pkt) (s : State) : exec (.flagArrival die pkt) s = execFlagArrival die pkt s := rfl

@[simp] theorem exec_fsrstWrite (die v) (s : State) : exec (.fsrstWrite die v) s = execFsrstWrite die v s := rfl

@[simp] theorem exec_rtwWrite (die v) (s : State) : exec (.rtwWrite die v) s = execRtwWrite die v s := rfl

@[simp] theorem exec_gate (die port) (s : State) : exec (.gate die port) s = execGate die port s := rfl

@[simp] theorem exec_train (die port) (s : State) : exec (.train die port) s = execTrain die port s := rfl

@[simp] theorem exec_drain (die port) (s : State) : exec (.drain die port) s = execDrain die port s := rfl

@[simp] theorem exec_off (die port) (s : State) : exec (.off die port) s = execOff die port s := rfl

@[simp] theorem exec_laserModuleRemoved (die m) (s : State) : exec (.laserModuleRemoved die m) s = execLaserModuleRemoved die m s := rfl

@[simp] theorem exec_laserModuleInserted (die m) (s : State) : exec (.laserModuleInserted die m) s = execLaserModuleInserted die m s := rfl

@[simp] theorem exec_portTrainingResult (die port res) (s : State) : exec (.portTrainingResult die port res) s = execPortTrainingResult die port res s := rfl

@[simp] theorem exec_portTrainingTimeout (die port) (s : State) : exec (.portTrainingTimeout die port) s = execPortTrainingTimeout die port s := rfl

@[simp] theorem exec_portDrainComplete (die port) (s : State) : exec (.portDrainComplete die port) s = execPortDrainComplete die port s := rfl

@[simp] theorem exec_portDrainTimeout (die port) (s : State) : exec (.portDrainTimeout die port) s = execPortDrainTimeout die port s := rfl

@[simp] theorem exec_laneCheck (die port counts) (s : State) : exec (.laneCheck die port counts) s = execLaneCheck die port counts s := rfl

@[simp] theorem exec_tsnapWrite (die v) (s : State) : exec (.tsnapWrite die v) s = execTsnapWrite die v s := rfl

@[simp] theorem exec_latch (die lanes) (s : State) : exec (.latch die lanes) s = execLatch die lanes s := rfl

@[simp] theorem exec_oswackWrite (die v) (s : State) : exec (.oswackWrite die v) s = execOswackWrite die v s := rfl

@[simp] theorem exec_switchRequestTimeout (queue) (s : State) : exec (.switchRequestTimeout queue) s = execSwitchRequestTimeout queue s := rfl

@[simp] theorem exec_governorSettle (fixedDraw bids) (s : State) : exec (.governorSettle fixedDraw bids) s = execGovernorSettle fixedDraw bids s := rfl

@[simp] theorem exec_swathReplacement (core) (s : State) : exec (.swathReplacement core) s = execSwathReplacement core s := rfl

@[simp] theorem exec_reassignmentEvaluation (gang) (s : State) : exec (.reassignmentEvaluation gang) s = execReassignmentEvaluation gang s := rfl

@[simp] theorem exec_flagWaitPoll (queue node) (s : State) : exec (.flagWaitPoll queue node) s = execFlagWaitPoll queue node s := rfl

@[simp] theorem exec_preemptionRequest (queue) (s : State) : exec (.preemptionRequest queue) s = execPreemptionRequest queue s := rfl

@[simp] theorem exec_preemptionDeadline (gang die) (s : State) : exec (.preemptionDeadline gang die) s = execPreemptionDeadline gang die s := rfl

@[simp] theorem exec_attestationRequest (nonce) (s : State) : exec (.attestationRequest nonce) s = execAttestationRequest nonce s := rfl

@[simp] theorem exec_rollbackRaise (v) (s : State) : exec (.rollbackRaise v) s = execRollbackRaise v s := rfl

@[simp] theorem exec_securityAlarm (kind) (s : State) : exec (.securityAlarm kind) s = execSecurityAlarm kind s := rfl

@[simp] theorem exec_hostMemoryAccess (die addr what) (s : State) : exec (.hostMemoryAccess die addr what) s = execHostMemoryAccess die addr what s := rfl

@[simp] theorem exec_attestationReportComplete (c extra) (s : State) : exec (.attestationReportComplete c extra) s = execAttestationReportComplete c extra s := rfl

end Sys2Proof.Machine
end

