-- ==== Sys2Proof/Laws/Sparse.lean ====
section
/-!
SUPPORT. Keyed storage: a read after a write gives the value written, a write leaves every other key alone (in every list, canonical or
not), and a write keeps the canonical form.
-/

namespace Sys2Proof.Machine

section
variable {α : Type} {d : Nat → α} {m : Sparse α} {k j : Nat} {v : α}

@[simp] theorem Sparse.get_nil : Sparse.get d [] k = d k := rfl

@[simp] theorem Sparse.get_drop_same : Sparse.get d (Sparse.drop m k) k = d k := by
  induction m with
  | nil => rfl
  | cons e t ih =>
    obtain ⟨i, w⟩ := e
    by_cases h : i = k
    · simpa [Sparse.drop, h] using ih
    · simpa [Sparse.drop, h, Sparse.get, Ne.symm h] using ih

theorem Sparse.get_drop_ne (h : j ≠ k) : Sparse.get d (Sparse.drop m k) j = Sparse.get d m j := by
  induction m with
  | nil => rfl
  | cons e t ih =>
    obtain ⟨i, w⟩ := e
    simp only [Sparse.drop, List.filter_cons] at *
    by_cases h' : i = k
    · subst h'; simpa [Sparse.get, h] using ih
    · by_cases h'' : j = i
      · subst h''; simp [h', Sparse.get]
      · simpa [h', Sparse.get, h''] using ih

theorem Sparse.get_put_same (h : ∀ e ∈ m, e.1 ≠ k) : Sparse.get d (Sparse.put m k v) k = v := by
  induction m with
  | nil => simp [Sparse.put, Sparse.get]
  | cons e t ih =>
    obtain ⟨i, w⟩ := e
    have hi : i ≠ k := h (i, w) (by simp)
    have ht : ∀ e ∈ t, e.1 ≠ k := fun e he => h e (by simp [he])
    by_cases hlt : k < i
    · simp [Sparse.put, hlt, Sparse.get]
    · simpa [Sparse.put, hlt, Sparse.get, Ne.symm hi] using ih ht

theorem Sparse.get_put_ne (h : j ≠ k) : Sparse.get d (Sparse.put m k v) j = Sparse.get d m j := by
  induction m with
  | nil => simp [Sparse.put, Sparse.get, h]
  | cons e t ih =>
    obtain ⟨i, w⟩ := e
    by_cases hlt : k < i
    · simp [Sparse.put, hlt, Sparse.get, h]
    · by_cases hi : j = i
      · simp [Sparse.put, hlt, Sparse.get, hi]
      · simpa [Sparse.put, hlt, Sparse.get, hi] using ih

theorem Sparse.drop_keys : ∀ e ∈ Sparse.drop m k, e.1 ≠ k := by
  intro e he
  simpa using (List.mem_filter.1 he).2

theorem Sparse.drop_drop : Sparse.drop (Sparse.drop m k) k = Sparse.drop m k := by
  simp [Sparse.drop, List.filter_filter]

theorem Sparse.drop_put (h : ∀ e ∈ m, e.1 ≠ k) : Sparse.drop (Sparse.put m k v) k = m := by
  induction m with
  | nil => simp [Sparse.put, Sparse.drop]
  | cons e t ih =>
    obtain ⟨i, w⟩ := e
    have hi : i ≠ k := h (i, w) (by simp)
    have ht : ∀ e ∈ t, e.1 ≠ k := fun e he => h e (by simp [he])
    unfold Sparse.put
    split
    · simpa [Sparse.drop, List.filter_eq_self] using h
    · simpa [Sparse.drop, hi] using ih ht

variable [DecidableEq α]

/-- A read after a write to the same key. -/
@[simp] theorem Sparse.get_set_same : Sparse.get d (Sparse.set d m k v) k = v := by
  unfold Sparse.set
  split
  · next h => simp [h]
  · exact Sparse.get_put_same Sparse.drop_keys

/-- A write leaves every other key alone. -/
theorem Sparse.get_set_ne (h : j ≠ k) : Sparse.get d (Sparse.set d m k v) j = Sparse.get d m j := by
  unfold Sparse.set
  split
  · exact Sparse.get_drop_ne h
  · rw [Sparse.get_put_ne h, Sparse.get_drop_ne h]

theorem Sparse.get_set : Sparse.get d (Sparse.set d m k v) j = if j = k then v else Sparse.get d m j := by
  split
  · next h => subst h; simp
  · next h => exact Sparse.get_set_ne h

/-- The later of two writes to one key is the one that counts. -/
@[simp] theorem Sparse.set_set {w : α} : Sparse.set d (Sparse.set d m k v) k w = Sparse.set d m k w := by
  have h : Sparse.drop (Sparse.set d m k v) k = Sparse.drop m k := by
    unfold Sparse.set
    split
    · exact Sparse.drop_drop
    · exact Sparse.drop_put Sparse.drop_keys
  unfold Sparse.set at *
  rw [h]

/-! ## The canonical form -/

theorem Sparse.wfFrom_mono {lo lo' : Nat} (h : lo' ≤ lo) (hm : Sparse.wfFrom d lo m = true) : Sparse.wfFrom d lo' m = true := by
  cases m with
  | nil => rfl
  | cons e t =>
    obtain ⟨i, w⟩ := e
    simp only [Sparse.wfFrom, Bool.and_eq_true, decide_eq_true_eq] at *
    exact ⟨⟨by omega, hm.1.2⟩, hm.2⟩

theorem Sparse.wfFrom_filter {lo : Nat} (p : Nat × α → Bool) (hm : Sparse.wfFrom d lo m = true) :
    Sparse.wfFrom d lo (m.filter p) = true := by
  induction m generalizing lo with
  | nil => rfl
  | cons e t ih =>
    obtain ⟨i, w⟩ := e
    simp only [Sparse.wfFrom, Bool.and_eq_true, decide_eq_true_eq] at hm
    rw [List.filter_cons]
    split
    · simp only [Sparse.wfFrom, Bool.and_eq_true, decide_eq_true_eq]
      exact ⟨hm.1, ih hm.2⟩
    · exact Sparse.wfFrom_mono (by omega) (ih hm.2)

theorem Sparse.wfFrom_put {lo : Nat} (hk : lo ≤ k) (hv : v ≠ d k) (hkey : ∀ e ∈ m, e.1 ≠ k)
    (hm : Sparse.wfFrom d lo m = true) : Sparse.wfFrom d lo (Sparse.put m k v) = true := by
  induction m generalizing lo with
  | nil => simp [Sparse.put, Sparse.wfFrom, hk, hv]
  | cons e t ih =>
    obtain ⟨i, w⟩ := e
    have hi : i ≠ k := hkey (i, w) (by simp)
    simp only [Sparse.wfFrom, Bool.and_eq_true, decide_eq_true_eq] at hm
    unfold Sparse.put
    split
    · next h =>
      simp only [Sparse.wfFrom, Bool.and_eq_true, decide_eq_true_eq]
      exact ⟨⟨hk, hv⟩, ⟨by omega, hm.1.2⟩, hm.2⟩
    · simp only [Sparse.wfFrom, Bool.and_eq_true, decide_eq_true_eq]
      exact ⟨hm.1, ih (by omega) (fun e he => hkey e (by simp [he])) hm.2⟩

/-- A write keeps the canonical form. -/
theorem Sparse.wf_set (hm : Sparse.wf d m = true) : Sparse.wf d (Sparse.set d m k v) = true := by
  unfold Sparse.set
  split
  · exact Sparse.wfFrom_filter _ hm
  · next h => exact Sparse.wfFrom_put (Nat.zero_le _) h Sparse.drop_keys (Sparse.wfFrom_filter _ hm)

theorem Sparse.wf_setAll {l : List (Nat × α)} (hm : Sparse.wf d m = true) : Sparse.wf d (Sparse.setAll d m l) = true := by
  induction l generalizing m with
  | nil => exact hm
  | cons e t ih => exact ih (Sparse.wf_set hm)

theorem Sparse.wf_clear {lo n : Nat} (hm : Sparse.wf d m = true) : Sparse.wf d (Sparse.clear m lo n) = true :=
  Sparse.wfFrom_filter _ hm

@[simp] theorem Sparse.wf_nil : Sparse.wf d [] = true := rfl

end

end Sys2Proof.Machine
end

