-- ==== Sys2Proof/Laws/State.lean ====
section
/-!
SUPPORT. The small lemmas of State: what each update of a die, a core, a stream, a register or a CSR leaves alone, and what a read gives
after a write.  Every one is a simp lemma, so that no later proof unfolds a record update.
-/

namespace Sys2Proof.Machine

theorem DieId.cases (d : DieId) : d = 0 ∨ d = 1 := by
  revert d; decide

/-! ## A die -/

@[simp] theorem State.die_setDie_same (s : State) (d : DieId) (x : Die) : (s.setDie d x).die d = x := by
  unfold State.setDie State.die; split <;> rfl

theorem State.die_setDie (s : State) (d e : DieId) (x : Die) : (s.setDie d x).die e = if e = d then x else s.die e := by
  rcases DieId.cases d with rfl | rfl <;> rcases DieId.cases e with rfl | rfl <;> rfl

theorem State.die_setDie_ne (s : State) {d e : DieId} (x : Die) (h : e ≠ d) : (s.setDie d x).die e = s.die e := by
  rw [State.die_setDie, if_neg h]

@[simp] theorem State.setDie_setDie (s : State) (d : DieId) (x y : Die) : (s.setDie d x).setDie d y = s.setDie d y := by
  unfold State.setDie; split <;> rfl

@[simp] theorem State.setDie_die (s : State) (d : DieId) : s.setDie d (s.die d) = s := by
  unfold State.setDie State.die; split <;> rfl

@[simp] theorem State.ops_setDie (s : State) (d : DieId) (x : Die) : (s.setDie d x).ops = s.ops := by
  unfold State.setDie; split <;> rfl

@[simp] theorem State.nextOp_setDie (s : State) (d : DieId) (x : Die) : (s.setDie d x).nextOp = s.nextOp := by
  unfold State.setDie; split <;> rfl

@[simp] theorem State.invals_setDie (s : State) (d : DieId) (x : Die) : (s.setDie d x).invals = s.invals := by
  unfold State.setDie; split <;> rfl

@[simp] theorem State.sched_setDie (s : State) (d : DieId) (x : Die) : (s.setDie d x).sched = s.sched := by
  unfold State.setDie; split <;> rfl

@[simp] theorem State.sys_setDie (s : State) (d : DieId) (x : Die) : (s.setDie d x).sys = s.sys := by
  unfold State.setDie; split <;> rfl

@[simp] theorem State.cycle_setDie (s : State) (d : DieId) (x : Die) : (s.setDie d x).cycle = s.cycle := by
  unfold State.setDie; split <;> rfl

@[simp] theorem State.fresh_setDie (s : State) (d : DieId) (x : Die) : (s.setDie d x).fresh = s.fresh := by
  unfold State.setDie; split <;> rfl

@[simp] theorem State.agenda_setDie (s : State) (d : DieId) (x : Die) : (s.setDie d x).agenda = s.agenda := by
  unfold State.setDie; split <;> rfl

@[simp] theorem State.focus_setDie (s : State) (d : DieId) (x : Die) : (s.setDie d x).focus = s.focus := by
  unfold State.setDie; split <;> rfl

/-! ## A core -/

@[simp] theorem Die.core_setCore_same (d : Die) (n : Nat) (c : Core) : (d.setCore n c).core n = c := Sparse.get_set_same

theorem Die.core_setCore (d : Die) (n m : Nat) (c : Core) : (d.setCore n c).core m = if m = n then c else d.core m := Sparse.get_set

theorem Die.core_setCore_ne (d : Die) {n m : Nat} (c : Core) (h : m ≠ n) : (d.setCore n c).core m = d.core m := Sparse.get_set_ne h

@[simp] theorem Die.mem_setCore (d : Die) (n : Nat) (c : Core) : (d.setCore n c).mem = d.mem := rfl

@[simp] theorem Die.poison_setCore (d : Die) (n : Nat) (c : Core) : (d.setCore n c).poison = d.poison := rfl

@[simp] theorem Die.commons_setCore (d : Die) (n : Nat) (c : Core) : (d.setCore n c).commons = d.commons := rfl

@[simp] theorem Die.csr_setCore (d : Die) (n : Nat) (c : Core) : (d.setCore n c).csr = d.csr := rfl

@[simp] theorem Die.tlb_setCore (d : Die) (n : Nat) (c : Core) : (d.setCore n c).tlb = d.tlb := rfl

@[simp] theorem Die.walkCache_setCore (d : Die) (n : Nat) (c : Core) : (d.setCore n c).walkCache = d.walkCache := rfl

@[simp] theorem Die.counts_setCore (d : Die) (n : Nat) (c : Core) : (d.setCore n c).counts = d.counts := rfl

@[simp] theorem Die.torus_setCore (d : Die) (n : Nat) (c : Core) : (d.setCore n c).torus = d.torus := rfl

@[simp] theorem Die.pool_setCore (d : Die) (n : Nat) (c : Core) : (d.setCore n c).pool = d.pool := rfl

@[simp] theorem Die.optical_setCore (d : Die) (n : Nat) (c : Core) : (d.setCore n c).optical = d.optical := rfl

@[simp] theorem Die.seqCache_setCore (d : Die) (n : Nat) (c : Core) : (d.setCore n c).seqCache = d.seqCache := rfl

@[simp] theorem Die.kvinvOps_setCore (d : Die) (n : Nat) (c : Core) : (d.setCore n c).kvinvOps = d.kvinvOps := rfl

@[simp] theorem Die.channels_setCore (d : Die) (n : Nat) (c : Core) : (d.setCore n c).channels = d.channels := rfl

@[simp] theorem Die.faults_setCore (d : Die) (n : Nat) (c : Core) : (d.setCore n c).faults = d.faults := rfl

@[simp] theorem Die.start_setCore (d : Die) (n : Nat) (c : Core) : (d.setCore n c).start = d.start := rfl

@[simp] theorem Die.window_setCore (d : Die) (n : Nat) (c : Core) : (d.setCore n c).window = d.window := rfl

@[simp] theorem Die.inReset_setCore (d : Die) (n : Nat) (c : Core) : (d.setCore n c).inReset = d.inReset := rfl

@[simp] theorem State.core_setCore_same (s : State) (c : CoreId) (x : Core) : (s.setCore c x).core c = x := by
  simp [State.setCore, State.core]

theorem State.core_setCore (s : State) (c e : CoreId) (x : Core) : (s.setCore c x).core e = if e = c then x else s.core e := by
  obtain ⟨cd, cn⟩ := c
  obtain ⟨ed, en⟩ := e
  simp only [State.setCore, State.core, State.die_setDie, CoreId.mk.injEq]
  by_cases h : ed = cd
  · subst h
    by_cases h' : en = cn
    · subst h'; simp
    · have : en.val ≠ cn.val := fun q => h' (Fin.ext q)
      simp [h', Die.core_setCore_ne _ _ this]
  · simp [h]

theorem State.core_setCore_ne (s : State) {c e : CoreId} (x : Core) (h : e ≠ c) : (s.setCore c x).core e = s.core e := by
  rw [State.core_setCore, if_neg h]

@[simp] theorem State.ops_setCore (s : State) (c : CoreId) (x : Core) : (s.setCore c x).ops = s.ops := by simp [State.setCore]

@[simp] theorem State.nextOp_setCore (s : State) (c : CoreId) (x : Core) : (s.setCore c x).nextOp = s.nextOp := by simp [State.setCore]

@[simp] theorem State.invals_setCore (s : State) (c : CoreId) (x : Core) : (s.setCore c x).invals = s.invals := by simp [State.setCore]

@[simp] theorem State.sched_setCore (s : State) (c : CoreId) (x : Core) : (s.setCore c x).sched = s.sched := by simp [State.setCore]

@[simp] theorem State.sys_setCore (s : State) (c : CoreId) (x : Core) : (s.setCore c x).sys = s.sys := by simp [State.setCore]

@[simp] theorem State.cycle_setCore (s : State) (c : CoreId) (x : Core) : (s.setCore c x).cycle = s.cycle := by simp [State.setCore]

@[simp] theorem State.fresh_setCore (s : State) (c : CoreId) (x : Core) : (s.setCore c x).fresh = s.fresh := by simp [State.setCore]

@[simp] theorem State.agenda_setCore (s : State) (c : CoreId) (x : Core) : (s.setCore c x).agenda = s.agenda := by simp [State.setCore]

@[simp] theorem State.focus_setCore (s : State) (c : CoreId) (x : Core) : (s.setCore c x).focus = s.focus := by simp [State.setCore]

@[simp] theorem State.die_mem_setCore (s : State) (c : CoreId) (x : Core) (d : DieId) : ((s.setCore c x).die d).mem = (s.die d).mem := by
  simp only [State.setCore, State.die_setDie]; split
  · next h => subst h; rfl
  · rfl

@[simp] theorem State.die_poison_setCore (s : State) (c : CoreId) (x : Core) (d : DieId) : ((s.setCore c x).die d).poison = (s.die d).poison := by
  simp only [State.setCore, State.die_setDie]; split
  · next h => subst h; rfl
  · rfl

@[simp] theorem State.die_commons_setCore (s : State) (c : CoreId) (x : Core) (d : DieId) : ((s.setCore c x).die d).commons = (s.die d).commons := by
  simp only [State.setCore, State.die_setDie]; split
  · next h => subst h; rfl
  · rfl

@[simp] theorem State.die_csr_setCore (s : State) (c : CoreId) (x : Core) (d : DieId) : ((s.setCore c x).die d).csr = (s.die d).csr := by
  simp only [State.setCore, State.die_setDie]; split
  · next h => subst h; rfl
  · rfl

@[simp] theorem State.die_tlb_setCore (s : State) (c : CoreId) (x : Core) (d : DieId) : ((s.setCore c x).die d).tlb = (s.die d).tlb := by
  simp only [State.setCore, State.die_setDie]; split
  · next h => subst h; rfl
  · rfl

@[simp] theorem State.die_walkCache_setCore (s : State) (c : CoreId) (x : Core) (d : DieId) : ((s.setCore c x).die d).walkCache = (s.die d).walkCache := by
  simp only [State.setCore, State.die_setDie]; split
  · next h => subst h; rfl
  · rfl

@[simp] theorem State.die_counts_setCore (s : State) (c : CoreId) (x : Core) (d : DieId) : ((s.setCore c x).die d).counts = (s.die d).counts := by
  simp only [State.setCore, State.die_setDie]; split
  · next h => subst h; rfl
  · rfl

@[simp] theorem State.die_torus_setCore (s : State) (c : CoreId) (x : Core) (d : DieId) : ((s.setCore c x).die d).torus = (s.die d).torus := by
  simp only [State.setCore, State.die_setDie]; split
  · next h => subst h; rfl
  · rfl

@[simp] theorem State.die_pool_setCore (s : State) (c : CoreId) (x : Core) (d : DieId) : ((s.setCore c x).die d).pool = (s.die d).pool := by
  simp only [State.setCore, State.die_setDie]; split
  · next h => subst h; rfl
  · rfl

@[simp] theorem State.die_optical_setCore (s : State) (c : CoreId) (x : Core) (d : DieId) : ((s.setCore c x).die d).optical = (s.die d).optical := by
  simp only [State.setCore, State.die_setDie]; split
  · next h => subst h; rfl
  · rfl

@[simp] theorem State.die_seqCache_setCore (s : State) (c : CoreId) (x : Core) (d : DieId) : ((s.setCore c x).die d).seqCache = (s.die d).seqCache := by
  simp only [State.setCore, State.die_setDie]; split
  · next h => subst h; rfl
  · rfl

@[simp] theorem State.die_kvinvOps_setCore (s : State) (c : CoreId) (x : Core) (d : DieId) : ((s.setCore c x).die d).kvinvOps = (s.die d).kvinvOps := by
  simp only [State.setCore, State.die_setDie]; split
  · next h => subst h; rfl
  · rfl

@[simp] theorem State.die_channels_setCore (s : State) (c : CoreId) (x : Core) (d : DieId) : ((s.setCore c x).die d).channels = (s.die d).channels := by
  simp only [State.setCore, State.die_setDie]; split
  · next h => subst h; rfl
  · rfl

@[simp] theorem State.die_faults_setCore (s : State) (c : CoreId) (x : Core) (d : DieId) : ((s.setCore c x).die d).faults = (s.die d).faults := by
  simp only [State.setCore, State.die_setDie]; split
  · next h => subst h; rfl
  · rfl

@[simp] theorem State.die_start_setCore (s : State) (c : CoreId) (x : Core) (d : DieId) : ((s.setCore c x).die d).start = (s.die d).start := by
  simp only [State.setCore, State.die_setDie]; split
  · next h => subst h; rfl
  · rfl

@[simp] theorem State.die_window_setCore (s : State) (c : CoreId) (x : Core) (d : DieId) : ((s.setCore c x).die d).window = (s.die d).window := by
  simp only [State.setCore, State.die_setDie]; split
  · next h => subst h; rfl
  · rfl

@[simp] theorem State.die_inReset_setCore (s : State) (c : CoreId) (x : Core) (d : DieId) : ((s.setCore c x).die d).inReset = (s.die d).inReset := by
  simp only [State.setCore, State.die_setDie]; split
  · next h => subst h; rfl
  · rfl

/-! ## A stream -/

@[simp] theorem Core.cluster_setCluster_same (c : Core) (k : Cluster) (x : ClusterState) : (c.setCluster k x).cluster k = x := by
  cases k <;> rfl

theorem Core.cluster_setCluster (c : Core) (k j : Cluster) (x : ClusterState) :
    (c.setCluster k x).cluster j = if j = k then x else c.cluster j := by
  cases k <;> cases j <;> rfl

theorem Core.cluster_setCluster_ne (c : Core) {k j : Cluster} (x : ClusterState) (h : j ≠ k) :
    (c.setCluster k x).cluster j = c.cluster j := by
  rw [Core.cluster_setCluster, if_neg h]

@[simp] theorem Core.regs_setCluster (c : Core) (k : Cluster) (x : ClusterState) : (c.setCluster k x).regs = c.regs := by cases k <;> rfl

@[simp] theorem Core.store_setCluster (c : Core) (k : Cluster) (x : ClusterState) : (c.setCluster k x).store = c.store := by cases k <;> rfl

@[simp] theorem Core.ctl_setCluster (c : Core) (k : Cluster) (x : ClusterState) : (c.setCluster k x).ctl = c.ctl := by cases k <;> rfl

@[simp] theorem Core.ex_setCluster (c : Core) (k : Cluster) (x : ClusterState) : (c.setCluster k x).ex = c.ex := by cases k <;> rfl

@[simp] theorem Core.csr_setCluster (c : Core) (k : Cluster) (x : ClusterState) : (c.setCluster k x).csr = c.csr := by cases k <;> rfl

@[simp] theorem Core.setCluster_cluster (c : Core) (k : Cluster) : c.setCluster k (c.cluster k) = c := by cases k <;> rfl

@[simp] theorem State.stream_setStream_same (s : State) (i : StreamId) (x : ClusterState) : (s.setStream i x).stream i = x := by
  simp [State.setStream, State.stream]

theorem State.stream_setStream (s : State) (i j : StreamId) (x : ClusterState) :
    (s.setStream i x).stream j = if j = i then x else s.stream j := by
  obtain ⟨ic, ik⟩ := i
  obtain ⟨jc, jk⟩ := j
  simp only [State.setStream, State.stream, State.core_setCore, StreamId.mk.injEq]
  by_cases h : jc = ic
  · subst h; simp [Core.cluster_setCluster]
  · simp [h]

theorem State.stream_setStream_ne (s : State) {i j : StreamId} (x : ClusterState) (h : j ≠ i) :
    (s.setStream i x).stream j = s.stream j := by
  rw [State.stream_setStream, if_neg h]

@[simp] theorem State.ops_setStream (s : State) (i : StreamId) (x : ClusterState) : (s.setStream i x).ops = s.ops := by simp [State.setStream]

@[simp] theorem State.nextOp_setStream (s : State) (i : StreamId) (x : ClusterState) : (s.setStream i x).nextOp = s.nextOp := by simp [State.setStream]

@[simp] theorem State.invals_setStream (s : State) (i : StreamId) (x : ClusterState) : (s.setStream i x).invals = s.invals := by simp [State.setStream]

@[simp] theorem State.sched_setStream (s : State) (i : StreamId) (x : ClusterState) : (s.setStream i x).sched = s.sched := by simp [State.setStream]

@[simp] theorem State.sys_setStream (s : State) (i : StreamId) (x : ClusterState) : (s.setStream i x).sys = s.sys := by simp [State.setStream]

@[simp] theorem State.cycle_setStream (s : State) (i : StreamId) (x : ClusterState) : (s.setStream i x).cycle = s.cycle := by simp [State.setStream]

@[simp] theorem State.fresh_setStream (s : State) (i : StreamId) (x : ClusterState) : (s.setStream i x).fresh = s.fresh := by simp [State.setStream]

@[simp] theorem State.agenda_setStream (s : State) (i : StreamId) (x : ClusterState) : (s.setStream i x).agenda = s.agenda := by simp [State.setStream]

@[simp] theorem State.focus_setStream (s : State) (i : StreamId) (x : ClusterState) : (s.setStream i x).focus = s.focus := by simp [State.setStream]

@[simp] theorem State.die_mem_setStream (s : State) (i : StreamId) (x : ClusterState) (d : DieId) :
    ((s.setStream i x).die d).mem = (s.die d).mem := by simp [State.setStream]

@[simp] theorem State.die_poison_setStream (s : State) (i : StreamId) (x : ClusterState) (d : DieId) :
    ((s.setStream i x).die d).poison = (s.die d).poison := by simp [State.setStream]

@[simp] theorem State.die_commons_setStream (s : State) (i : StreamId) (x : ClusterState) (d : DieId) :
    ((s.setStream i x).die d).commons = (s.die d).commons := by simp [State.setStream]

@[simp] theorem State.die_csr_setStream (s : State) (i : StreamId) (x : ClusterState) (d : DieId) :
    ((s.setStream i x).die d).csr = (s.die d).csr := by simp [State.setStream]

@[simp] theorem State.die_tlb_setStream (s : State) (i : StreamId) (x : ClusterState) (d : DieId) :
    ((s.setStream i x).die d).tlb = (s.die d).tlb := by simp [State.setStream]

@[simp] theorem State.die_walkCache_setStream (s : State) (i : StreamId) (x : ClusterState) (d : DieId) :
    ((s.setStream i x).die d).walkCache = (s.die d).walkCache := by simp [State.setStream]

@[simp] theorem State.die_counts_setStream (s : State) (i : StreamId) (x : ClusterState) (d : DieId) :
    ((s.setStream i x).die d).counts = (s.die d).counts := by simp [State.setStream]

@[simp] theorem State.die_torus_setStream (s : State) (i : StreamId) (x : ClusterState) (d : DieId) :
    ((s.setStream i x).die d).torus = (s.die d).torus := by simp [State.setStream]

@[simp] theorem State.die_pool_setStream (s : State) (i : StreamId) (x : ClusterState) (d : DieId) :
    ((s.setStream i x).die d).pool = (s.die d).pool := by simp [State.setStream]

@[simp] theorem State.die_optical_setStream (s : State) (i : StreamId) (x : ClusterState) (d : DieId) :
    ((s.setStream i x).die d).optical = (s.die d).optical := by simp [State.setStream]

@[simp] theorem State.die_seqCache_setStream (s : State) (i : StreamId) (x : ClusterState) (d : DieId) :
    ((s.setStream i x).die d).seqCache = (s.die d).seqCache := by simp [State.setStream]

@[simp] theorem State.die_kvinvOps_setStream (s : State) (i : StreamId) (x : ClusterState) (d : DieId) :
    ((s.setStream i x).die d).kvinvOps = (s.die d).kvinvOps := by simp [State.setStream]

@[simp] theorem State.die_channels_setStream (s : State) (i : StreamId) (x : ClusterState) (d : DieId) :
    ((s.setStream i x).die d).channels = (s.die d).channels := by simp [State.setStream]

@[simp] theorem State.die_faults_setStream (s : State) (i : StreamId) (x : ClusterState) (d : DieId) :
    ((s.setStream i x).die d).faults = (s.die d).faults := by simp [State.setStream]

@[simp] theorem State.die_start_setStream (s : State) (i : StreamId) (x : ClusterState) (d : DieId) :
    ((s.setStream i x).die d).start = (s.die d).start := by simp [State.setStream]

@[simp] theorem State.die_window_setStream (s : State) (i : StreamId) (x : ClusterState) (d : DieId) :
    ((s.setStream i x).die d).window = (s.die d).window := by simp [State.setStream]

@[simp] theorem State.die_inReset_setStream (s : State) (i : StreamId) (x : ClusterState) (d : DieId) :
    ((s.setStream i x).die d).inReset = (s.die d).inReset := by simp [State.setStream]

@[simp] theorem State.core_regs_setStream (s : State) (i : StreamId) (x : ClusterState) (c : CoreId) :
    ((s.setStream i x).core c).regs = (s.core c).regs := by
  simp only [State.setStream, State.core_setCore]; split
  · next h => subst h; simp
  · rfl

@[simp] theorem State.core_store_setStream (s : State) (i : StreamId) (x : ClusterState) (c : CoreId) :
    ((s.setStream i x).core c).store = (s.core c).store := by
  simp only [State.setStream, State.core_setCore]; split
  · next h => subst h; simp
  · rfl

@[simp] theorem State.core_ctl_setStream (s : State) (i : StreamId) (x : ClusterState) (c : CoreId) :
    ((s.setStream i x).core c).ctl = (s.core c).ctl := by
  simp only [State.setStream, State.core_setCore]; split
  · next h => subst h; simp
  · rfl

@[simp] theorem State.core_ex_setStream (s : State) (i : StreamId) (x : ClusterState) (c : CoreId) :
    ((s.setStream i x).core c).ex = (s.core c).ex := by
  simp only [State.setStream, State.core_setCore]; split
  · next h => subst h; simp
  · rfl

@[simp] theorem State.core_csr_setStream (s : State) (i : StreamId) (x : ClusterState) (c : CoreId) :
    ((s.setStream i x).core c).csr = (s.core c).csr := by
  simp only [State.setStream, State.core_setCore]; split
  · next h => subst h; simp
  · rfl

/-! ## The executing stream and core -/

@[simp] theorem State.me_setMe (s : State) (x : ClusterState) : (s.setMe x).me = x := by
  simp [State.me, State.setMe]

@[simp] theorem State.setCore_setCore (s : State) (c : CoreId) (x y : Core) : (s.setCore c x).setCore c y = s.setCore c y := by
  simp [State.setCore, Die.setCore]

@[simp] theorem Core.setCluster_setCluster (c : Core) (k : Cluster) (x y : ClusterState) :
    (c.setCluster k x).setCluster k y = c.setCluster k y := by cases k <;> rfl

@[simp] theorem State.setStream_setStream (s : State) (i : StreamId) (x y : ClusterState) :
    (s.setStream i x).setStream i y = s.setStream i y := by
  simp [State.setStream]

@[simp] theorem State.cur_setCur (s : State) (c : Core) : (s.setCur c).cur = c := by
  simp [State.cur, State.setCur]

@[simp] theorem State.me_setCur (s : State) (c : Core) : (s.setCur c).me = c.cluster s.focus.cl := by
  simp [State.me, State.setCur, State.stream]

@[simp] theorem State.cur_regs_setMe (s : State) (x : ClusterState) : (s.setMe x).cur.regs = s.cur.regs := by simp [State.cur, State.setMe]

@[simp] theorem State.cur_store_setMe (s : State) (x : ClusterState) : (s.setMe x).cur.store = s.cur.store := by simp [State.cur, State.setMe]

@[simp] theorem State.cur_ctl_setMe (s : State) (x : ClusterState) : (s.setMe x).cur.ctl = s.cur.ctl := by simp [State.cur, State.setMe]

@[simp] theorem State.cur_ex_setMe (s : State) (x : ClusterState) : (s.setMe x).cur.ex = s.cur.ex := by simp [State.cur, State.setMe]

@[simp] theorem State.cur_csr_setMe (s : State) (x : ClusterState) : (s.setMe x).cur.csr = s.cur.csr := by simp [State.cur, State.setMe]

@[simp] theorem State.ops_setMe (s : State) (x : ClusterState) : (s.setMe x).ops = s.ops := by simp [State.setMe]

@[simp] theorem State.nextOp_setMe (s : State) (x : ClusterState) : (s.setMe x).nextOp = s.nextOp := by simp [State.setMe]

@[simp] theorem State.invals_setMe (s : State) (x : ClusterState) : (s.setMe x).invals = s.invals := by simp [State.setMe]

@[simp] theorem State.sched_setMe (s : State) (x : ClusterState) : (s.setMe x).sched = s.sched := by simp [State.setMe]

@[simp] theorem State.sys_setMe (s : State) (x : ClusterState) : (s.setMe x).sys = s.sys := by simp [State.setMe]

@[simp] theorem State.cycle_setMe (s : State) (x : ClusterState) : (s.setMe x).cycle = s.cycle := by simp [State.setMe]

@[simp] theorem State.fresh_setMe (s : State) (x : ClusterState) : (s.setMe x).fresh = s.fresh := by simp [State.setMe]

@[simp] theorem State.agenda_setMe (s : State) (x : ClusterState) : (s.setMe x).agenda = s.agenda := by simp [State.setMe]

@[simp] theorem State.focus_setMe (s : State) (x : ClusterState) : (s.setMe x).focus = s.focus := by simp [State.setMe]

@[simp] theorem State.die_mem_setMe (s : State) (x : ClusterState) (d : DieId) : ((s.setMe x).die d).mem = (s.die d).mem := by simp [State.setMe]

@[simp] theorem State.die_poison_setMe (s : State) (x : ClusterState) (d : DieId) : ((s.setMe x).die d).poison = (s.die d).poison := by simp [State.setMe]

@[simp] theorem State.die_commons_setMe (s : State) (x : ClusterState) (d : DieId) : ((s.setMe x).die d).commons = (s.die d).commons := by simp [State.setMe]

@[simp] theorem State.die_csr_setMe (s : State) (x : ClusterState) (d : DieId) : ((s.setMe x).die d).csr = (s.die d).csr := by simp [State.setMe]

@[simp] theorem State.die_tlb_setMe (s : State) (x : ClusterState) (d : DieId) : ((s.setMe x).die d).tlb = (s.die d).tlb := by simp [State.setMe]

@[simp] theorem State.die_walkCache_setMe (s : State) (x : ClusterState) (d : DieId) : ((s.setMe x).die d).walkCache = (s.die d).walkCache := by simp [State.setMe]

@[simp] theorem State.die_counts_setMe (s : State) (x : ClusterState) (d : DieId) : ((s.setMe x).die d).counts = (s.die d).counts := by simp [State.setMe]

@[simp] theorem State.die_torus_setMe (s : State) (x : ClusterState) (d : DieId) : ((s.setMe x).die d).torus = (s.die d).torus := by simp [State.setMe]

@[simp] theorem State.die_pool_setMe (s : State) (x : ClusterState) (d : DieId) : ((s.setMe x).die d).pool = (s.die d).pool := by simp [State.setMe]

@[simp] theorem State.die_optical_setMe (s : State) (x : ClusterState) (d : DieId) : ((s.setMe x).die d).optical = (s.die d).optical := by simp [State.setMe]

@[simp] theorem State.die_seqCache_setMe (s : State) (x : ClusterState) (d : DieId) : ((s.setMe x).die d).seqCache = (s.die d).seqCache := by simp [State.setMe]

@[simp] theorem State.die_kvinvOps_setMe (s : State) (x : ClusterState) (d : DieId) : ((s.setMe x).die d).kvinvOps = (s.die d).kvinvOps := by simp [State.setMe]

@[simp] theorem State.die_channels_setMe (s : State) (x : ClusterState) (d : DieId) : ((s.setMe x).die d).channels = (s.die d).channels := by simp [State.setMe]

@[simp] theorem State.die_faults_setMe (s : State) (x : ClusterState) (d : DieId) : ((s.setMe x).die d).faults = (s.die d).faults := by simp [State.setMe]

@[simp] theorem State.die_start_setMe (s : State) (x : ClusterState) (d : DieId) : ((s.setMe x).die d).start = (s.die d).start := by simp [State.setMe]

@[simp] theorem State.die_window_setMe (s : State) (x : ClusterState) (d : DieId) : ((s.setMe x).die d).window = (s.die d).window := by simp [State.setMe]

@[simp] theorem State.die_inReset_setMe (s : State) (x : ClusterState) (d : DieId) : ((s.setMe x).die d).inReset = (s.die d).inReset := by simp [State.setMe]

@[simp] theorem State.ops_setCur (s : State) (x : Core) : (s.setCur x).ops = s.ops := by simp [State.setCur]

@[simp] theorem State.nextOp_setCur (s : State) (x : Core) : (s.setCur x).nextOp = s.nextOp := by simp [State.setCur]

@[simp] theorem State.invals_setCur (s : State) (x : Core) : (s.setCur x).invals = s.invals := by simp [State.setCur]

@[simp] theorem State.sched_setCur (s : State) (x : Core) : (s.setCur x).sched = s.sched := by simp [State.setCur]

@[simp] theorem State.sys_setCur (s : State) (x : Core) : (s.setCur x).sys = s.sys := by simp [State.setCur]

@[simp] theorem State.cycle_setCur (s : State) (x : Core) : (s.setCur x).cycle = s.cycle := by simp [State.setCur]

@[simp] theorem State.fresh_setCur (s : State) (x : Core) : (s.setCur x).fresh = s.fresh := by simp [State.setCur]

@[simp] theorem State.agenda_setCur (s : State) (x : Core) : (s.setCur x).agenda = s.agenda := by simp [State.setCur]

@[simp] theorem State.focus_setCur (s : State) (x : Core) : (s.setCur x).focus = s.focus := by simp [State.setCur]

@[simp] theorem State.die_mem_setCur (s : State) (x : Core) (d : DieId) : ((s.setCur x).die d).mem = (s.die d).mem := by simp [State.setCur]

@[simp] theorem State.die_poison_setCur (s : State) (x : Core) (d : DieId) : ((s.setCur x).die d).poison = (s.die d).poison := by simp [State.setCur]

@[simp] theorem State.die_commons_setCur (s : State) (x : Core) (d : DieId) : ((s.setCur x).die d).commons = (s.die d).commons := by simp [State.setCur]

@[simp] theorem State.die_csr_setCur (s : State) (x : Core) (d : DieId) : ((s.setCur x).die d).csr = (s.die d).csr := by simp [State.setCur]

@[simp] theorem State.die_tlb_setCur (s : State) (x : Core) (d : DieId) : ((s.setCur x).die d).tlb = (s.die d).tlb := by simp [State.setCur]

@[simp] theorem State.die_walkCache_setCur (s : State) (x : Core) (d : DieId) : ((s.setCur x).die d).walkCache = (s.die d).walkCache := by simp [State.setCur]

@[simp] theorem State.die_counts_setCur (s : State) (x : Core) (d : DieId) : ((s.setCur x).die d).counts = (s.die d).counts := by simp [State.setCur]

@[simp] theorem State.die_torus_setCur (s : State) (x : Core) (d : DieId) : ((s.setCur x).die d).torus = (s.die d).torus := by simp [State.setCur]

@[simp] theorem State.die_pool_setCur (s : State) (x : Core) (d : DieId) : ((s.setCur x).die d).pool = (s.die d).pool := by simp [State.setCur]

@[simp] theorem State.die_optical_setCur (s : State) (x : Core) (d : DieId) : ((s.setCur x).die d).optical = (s.die d).optical := by simp [State.setCur]

@[simp] theorem State.die_seqCache_setCur (s : State) (x : Core) (d : DieId) : ((s.setCur x).die d).seqCache = (s.die d).seqCache := by simp [State.setCur]

@[simp] theorem State.die_kvinvOps_setCur (s : State) (x : Core) (d : DieId) : ((s.setCur x).die d).kvinvOps = (s.die d).kvinvOps := by simp [State.setCur]

@[simp] theorem State.die_channels_setCur (s : State) (x : Core) (d : DieId) : ((s.setCur x).die d).channels = (s.die d).channels := by simp [State.setCur]

@[simp] theorem State.die_faults_setCur (s : State) (x : Core) (d : DieId) : ((s.setCur x).die d).faults = (s.die d).faults := by simp [State.setCur]

@[simp] theorem State.die_start_setCur (s : State) (x : Core) (d : DieId) : ((s.setCur x).die d).start = (s.die d).start := by simp [State.setCur]

@[simp] theorem State.die_window_setCur (s : State) (x : Core) (d : DieId) : ((s.setCur x).die d).window = (s.die d).window := by simp [State.setCur]

@[simp] theorem State.die_inReset_setCur (s : State) (x : Core) (d : DieId) : ((s.setCur x).die d).inReset = (s.die d).inReset := by simp [State.setCur]

/-! ## Die CSRs -/

@[simp] theorem State.ops_setDieReg (s : State) (d : DieId) (n : Nat) (v : Word) : (s.setDieReg d n v).ops = s.ops := by
  simp [State.setDieReg]

@[simp] theorem State.nextOp_setDieReg (s : State) (d : DieId) (n : Nat) (v : Word) : (s.setDieReg d n v).nextOp = s.nextOp := by
  simp [State.setDieReg]

@[simp] theorem State.invals_setDieReg (s : State) (d : DieId) (n : Nat) (v : Word) : (s.setDieReg d n v).invals = s.invals := by
  simp [State.setDieReg]

@[simp] theorem State.sched_setDieReg (s : State) (d : DieId) (n : Nat) (v : Word) : (s.setDieReg d n v).sched = s.sched := by
  simp [State.setDieReg]

@[simp] theorem State.sys_setDieReg (s : State) (d : DieId) (n : Nat) (v : Word) : (s.setDieReg d n v).sys = s.sys := by
  simp [State.setDieReg]

@[simp] theorem State.cycle_setDieReg (s : State) (d : DieId) (n : Nat) (v : Word) : (s.setDieReg d n v).cycle = s.cycle := by
  simp [State.setDieReg]

@[simp] theorem State.fresh_setDieReg (s : State) (d : DieId) (n : Nat) (v : Word) : (s.setDieReg d n v).fresh = s.fresh := by
  simp [State.setDieReg]

@[simp] theorem State.agenda_setDieReg (s : State) (d : DieId) (n : Nat) (v : Word) : (s.setDieReg d n v).agenda = s.agenda := by
  simp [State.setDieReg]

@[simp] theorem State.focus_setDieReg (s : State) (d : DieId) (n : Nat) (v : Word) : (s.setDieReg d n v).focus = s.focus := by
  simp [State.setDieReg]

@[simp] theorem State.die_mem_setDieReg (s : State) (d e : DieId) (n : Nat) (v : Word) :
    ((s.setDieReg d n v).die e).mem = (s.die e).mem := by
  simp only [State.setDieReg, State.die_setDie]
  generalize (if packageScope n = true then (0 : DieId) else d) = k
  by_cases h : e = k
  · subst h; rw [if_pos rfl]
  · rw [if_neg h]

@[simp] theorem State.die_poison_setDieReg (s : State) (d e : DieId) (n : Nat) (v : Word) :
    ((s.setDieReg d n v).die e).poison = (s.die e).poison := by
  simp only [State.setDieReg, State.die_setDie]
  generalize (if packageScope n = true then (0 : DieId) else d) = k
  by_cases h : e = k
  · subst h; rw [if_pos rfl]
  · rw [if_neg h]

@[simp] theorem State.die_commons_setDieReg (s : State) (d e : DieId) (n : Nat) (v : Word) :
    ((s.setDieReg d n v).die e).commons = (s.die e).commons := by
  simp only [State.setDieReg, State.die_setDie]
  generalize (if packageScope n = true then (0 : DieId) else d) = k
  by_cases h : e = k
  · subst h; rw [if_pos rfl]
  · rw [if_neg h]

@[simp] theorem State.die_tlb_setDieReg (s : State) (d e : DieId) (n : Nat) (v : Word) :
    ((s.setDieReg d n v).die e).tlb = (s.die e).tlb := by
  simp only [State.setDieReg, State.die_setDie]
  generalize (if packageScope n = true then (0 : DieId) else d) = k
  by_cases h : e = k
  · subst h; rw [if_pos rfl]
  · rw [if_neg h]

@[simp] theorem State.die_walkCache_setDieReg (s : State) (d e : DieId) (n : Nat) (v : Word) :
    ((s.setDieReg d n v).die e).walkCache = (s.die e).walkCache := by
  simp only [State.setDieReg, State.die_setDie]
  generalize (if packageScope n = true then (0 : DieId) else d) = k
  by_cases h : e = k
  · subst h; rw [if_pos rfl]
  · rw [if_neg h]

@[simp] theorem State.die_counts_setDieReg (s : State) (d e : DieId) (n : Nat) (v : Word) :
    ((s.setDieReg d n v).die e).counts = (s.die e).counts := by
  simp only [State.setDieReg, State.die_setDie]
  generalize (if packageScope n = true then (0 : DieId) else d) = k
  by_cases h : e = k
  · subst h; rw [if_pos rfl]
  · rw [if_neg h]

@[simp] theorem State.die_torus_setDieReg (s : State) (d e : DieId) (n : Nat) (v : Word) :
    ((s.setDieReg d n v).die e).torus = (s.die e).torus := by
  simp only [State.setDieReg, State.die_setDie]
  generalize (if packageScope n = true then (0 : DieId) else d) = k
  by_cases h : e = k
  · subst h; rw [if_pos rfl]
  · rw [if_neg h]

@[simp] theorem State.die_pool_setDieReg (s : State) (d e : DieId) (n : Nat) (v : Word) :
    ((s.setDieReg d n v).die e).pool = (s.die e).pool := by
  simp only [State.setDieReg, State.die_setDie]
  generalize (if packageScope n = true then (0 : DieId) else d) = k
  by_cases h : e = k
  · subst h; rw [if_pos rfl]
  · rw [if_neg h]

@[simp] theorem State.die_optical_setDieReg (s : State) (d e : DieId) (n : Nat) (v : Word) :
    ((s.setDieReg d n v).die e).optical = (s.die e).optical := by
  simp only [State.setDieReg, State.die_setDie]
  generalize (if packageScope n = true then (0 : DieId) else d) = k
  by_cases h : e = k
  · subst h; rw [if_pos rfl]
  · rw [if_neg h]

@[simp] theorem State.die_seqCache_setDieReg (s : State) (d e : DieId) (n : Nat) (v : Word) :
    ((s.setDieReg d n v).die e).seqCache = (s.die e).seqCache := by
  simp only [State.setDieReg, State.die_setDie]
  generalize (if packageScope n = true then (0 : DieId) else d) = k
  by_cases h : e = k
  · subst h; rw [if_pos rfl]
  · rw [if_neg h]

@[simp] theorem State.die_kvinvOps_setDieReg (s : State) (d e : DieId) (n : Nat) (v : Word) :
    ((s.setDieReg d n v).die e).kvinvOps = (s.die e).kvinvOps := by
  simp only [State.setDieReg, State.die_setDie]
  generalize (if packageScope n = true then (0 : DieId) else d) = k
  by_cases h : e = k
  · subst h; rw [if_pos rfl]
  · rw [if_neg h]

@[simp] theorem State.die_channels_setDieReg (s : State) (d e : DieId) (n : Nat) (v : Word) :
    ((s.setDieReg d n v).die e).channels = (s.die e).channels := by
  simp only [State.setDieReg, State.die_setDie]
  generalize (if packageScope n = true then (0 : DieId) else d) = k
  by_cases h : e = k
  · subst h; rw [if_pos rfl]
  · rw [if_neg h]

@[simp] theorem State.die_faults_setDieReg (s : State) (d e : DieId) (n : Nat) (v : Word) :
    ((s.setDieReg d n v).die e).faults = (s.die e).faults := by
  simp only [State.setDieReg, State.die_setDie]
  generalize (if packageScope n = true then (0 : DieId) else d) = k
  by_cases h : e = k
  · subst h; rw [if_pos rfl]
  · rw [if_neg h]

@[simp] theorem State.die_start_setDieReg (s : State) (d e : DieId) (n : Nat) (v : Word) :
    ((s.setDieReg d n v).die e).start = (s.die e).start := by
  simp only [State.setDieReg, State.die_setDie]
  generalize (if packageScope n = true then (0 : DieId) else d) = k
  by_cases h : e = k
  · subst h; rw [if_pos rfl]
  · rw [if_neg h]

@[simp] theorem State.die_window_setDieReg (s : State) (d e : DieId) (n : Nat) (v : Word) :
    ((s.setDieReg d n v).die e).window = (s.die e).window := by
  simp only [State.setDieReg, State.die_setDie]
  generalize (if packageScope n = true then (0 : DieId) else d) = k
  by_cases h : e = k
  · subst h; rw [if_pos rfl]
  · rw [if_neg h]

@[simp] theorem State.die_inReset_setDieReg (s : State) (d e : DieId) (n : Nat) (v : Word) :
    ((s.setDieReg d n v).die e).inReset = (s.die e).inReset := by
  simp only [State.setDieReg, State.die_setDie]
  generalize (if packageScope n = true then (0 : DieId) else d) = k
  by_cases h : e = k
  · subst h; rw [if_pos rfl]
  · rw [if_neg h]

@[simp] theorem State.die_cores_setDieReg (s : State) (d e : DieId) (n : Nat) (v : Word) :
    ((s.setDieReg d n v).die e).cores = (s.die e).cores := by
  simp only [State.setDieReg, State.die_setDie]
  generalize (if packageScope n = true then (0 : DieId) else d) = k
  by_cases h : e = k
  · subst h; rw [if_pos rfl]
  · rw [if_neg h]

@[simp] theorem State.core_setDieReg (s : State) (d : DieId) (n : Nat) (v : Word) (c : CoreId) :
    (s.setDieReg d n v).core c = s.core c := by
  simp [State.core, Die.core]

@[simp] theorem State.stream_setDieReg (s : State) (d : DieId) (n : Nat) (v : Word) (j : StreamId) :
    (s.setDieReg d n v).stream j = s.stream j := by
  simp [State.stream]

theorem State.dieReg_setDieReg (s : State) (d e : DieId) (n m : Nat) (v : Word) :
    (s.setDieReg d n v).dieReg e m = if m = n ∧ (packageScope n = true ∨ e = d) then v else s.dieReg e m := by
  have h0 : (s.setDieReg d n v).die0 = (s.setDieReg d n v).die 0 := rfl
  have h1 : s.die0 = s.die 0 := rfl
  unfold State.dieReg
  rw [h0, h1]
  simp only [State.setDieReg, State.die_setDie, Die.reg]
  by_cases hm : m = n
  · subst hm
    by_cases hp : packageScope m = true
    · simp [hp]
    · simp only [hp]
      by_cases he : e = d
      · subst he; simp
      · simp [he]
  · simp only [hm, false_and, if_false]
    have key : ∀ (x : Die) (k : DieId) (j : DieId), Sparse.get (dieCsrReset j.val) (if j = k then { x with csr := Sparse.set (dieCsrReset k.val) x.csr n v } else x).csr m =
        Sparse.get (dieCsrReset j.val) x.csr m := by
      intro x k j
      split
      · next h => subst h; exact Sparse.get_set_ne hm
      · rfl
    generalize (if packageScope n = true then (0 : DieId) else d) = k
    split
    · have := key (s.die 0) k 0
      by_cases h : (0 : DieId) = k
      · subst h; simpa using this
      · simp [h]
    · have := key (s.die e) k e
      by_cases h : e = k
      · subst h; simpa using this
      · simp [h]

theorem State.dieReg_setDieReg_same (s : State) (d : DieId) (n : Nat) (v : Word) : (s.setDieReg d n v).dieReg d n = v := by
  simp [State.dieReg_setDieReg]

end Sys2Proof.Machine
end

