-- ==== Sys2Proof/Laws/Issue.lean ====
section
/-!
SUPPORT. The shared operations of issue and retirement: what each of them leaves alone, what an instruction that may issue becomes
(`issue_goes`), and what a retired instruction has changed.
-/

namespace Sys2Proof.Machine

@[simp] theorem State.ops_take (s : State) (y : Sync) : (s.take y).ops = s.ops := by
  simp [State.take]

@[simp] theorem State.nextOp_take (s : State) (y : Sync) : (s.take y).nextOp = s.nextOp := by
  simp [State.take]

@[simp] theorem State.invals_take (s : State) (y : Sync) : (s.take y).invals = s.invals := by
  simp [State.take]

@[simp] theorem State.sched_take (s : State) (y : Sync) : (s.take y).sched = s.sched := by
  simp [State.take]

@[simp] theorem State.sys_take (s : State) (y : Sync) : (s.take y).sys = s.sys := by
  simp [State.take]

@[simp] theorem State.cycle_take (s : State) (y : Sync) : (s.take y).cycle = s.cycle := by
  simp [State.take]

@[simp] theorem State.fresh_take (s : State) (y : Sync) : (s.take y).fresh = s.fresh := by
  simp [State.take]

@[simp] theorem State.agenda_take (s : State) (y : Sync) : (s.take y).agenda = s.agenda := by
  simp [State.take]

@[simp] theorem State.focus_take (s : State) (y : Sync) : (s.take y).focus = s.focus := by
  simp [State.take]

@[simp] theorem State.die_mem_take (s : State) (y : Sync) (d : DieId) :
    ((s.take y).die d).mem = (s.die d).mem := by
  simp [State.take]

@[simp] theorem State.die_poison_take (s : State) (y : Sync) (d : DieId) :
    ((s.take y).die d).poison = (s.die d).poison := by
  simp [State.take]

@[simp] theorem State.die_commons_take (s : State) (y : Sync) (d : DieId) :
    ((s.take y).die d).commons = (s.die d).commons := by
  simp [State.take]

@[simp] theorem State.die_csr_take (s : State) (y : Sync) (d : DieId) :
    ((s.take y).die d).csr = (s.die d).csr := by
  simp [State.take]

@[simp] theorem State.die_tlb_take (s : State) (y : Sync) (d : DieId) :
    ((s.take y).die d).tlb = (s.die d).tlb := by
  simp [State.take]

@[simp] theorem State.die_walkCache_take (s : State) (y : Sync) (d : DieId) :
    ((s.take y).die d).walkCache = (s.die d).walkCache := by
  simp [State.take]

@[simp] theorem State.die_counts_take (s : State) (y : Sync) (d : DieId) :
    ((s.take y).die d).counts = (s.die d).counts := by
  simp [State.take]

@[simp] theorem State.die_torus_take (s : State) (y : Sync) (d : DieId) :
    ((s.take y).die d).torus = (s.die d).torus := by
  simp [State.take]

@[simp] theorem State.die_pool_take (s : State) (y : Sync) (d : DieId) :
    ((s.take y).die d).pool = (s.die d).pool := by
  simp [State.take]

@[simp] theorem State.die_optical_take (s : State) (y : Sync) (d : DieId) :
    ((s.take y).die d).optical = (s.die d).optical := by
  simp [State.take]

@[simp] theorem State.die_seqCache_take (s : State) (y : Sync) (d : DieId) :
    ((s.take y).die d).seqCache = (s.die d).seqCache := by
  simp [State.take]

@[simp] theorem State.die_kvinvOps_take (s : State) (y : Sync) (d : DieId) :
    ((s.take y).die d).kvinvOps = (s.die d).kvinvOps := by
  simp [State.take]

@[simp] theorem State.die_channels_take (s : State) (y : Sync) (d : DieId) :
    ((s.take y).die d).channels = (s.die d).channels := by
  simp [State.take]

@[simp] theorem State.die_faults_take (s : State) (y : Sync) (d : DieId) :
    ((s.take y).die d).faults = (s.die d).faults := by
  simp [State.take]

@[simp] theorem State.die_start_take (s : State) (y : Sync) (d : DieId) :
    ((s.take y).die d).start = (s.die d).start := by
  simp [State.take]

@[simp] theorem State.die_window_take (s : State) (y : Sync) (d : DieId) :
    ((s.take y).die d).window = (s.die d).window := by
  simp [State.take]

@[simp] theorem State.die_inReset_take (s : State) (y : Sync) (d : DieId) :
    ((s.take y).die d).inReset = (s.die d).inReset := by
  simp [State.take]

@[simp] theorem State.core_regs_take (s : State) (y : Sync) (c : CoreId) :
    ((s.take y).core c).regs = (s.core c).regs := by
  simp [State.setMe, State.take]

@[simp] theorem State.core_store_take (s : State) (y : Sync) (c : CoreId) :
    ((s.take y).core c).store = (s.core c).store := by
  simp [State.setMe, State.take]

@[simp] theorem State.core_ctl_take (s : State) (y : Sync) (c : CoreId) :
    ((s.take y).core c).ctl = (s.core c).ctl := by
  simp [State.setMe, State.take]

@[simp] theorem State.core_ex_take (s : State) (y : Sync) (c : CoreId) :
    ((s.take y).core c).ex = (s.core c).ex := by
  simp [State.setMe, State.take]

@[simp] theorem State.core_csr_take (s : State) (y : Sync) (c : CoreId) :
    ((s.take y).core c).csr = (s.core c).csr := by
  simp [State.setMe, State.take]

@[simp] theorem State.pc_take (s : State) (y : Sync) (j : StreamId) :
    ((s.take y).stream j).pc = (s.stream j).pc := by
  simp only [State.take, State.setMe, State.me, State.stream_setStream]; split
  · next h => subst h; rfl
  · rfl

@[simp] theorem State.run_take (s : State) (y : Sync) (j : StreamId) :
    ((s.take y).stream j).run = (s.stream j).run := by
  simp only [State.take, State.setMe, State.me, State.stream_setStream]; split
  · next h => subst h; rfl
  · rfl

@[simp] theorem State.stack_take (s : State) (y : Sync) (j : StreamId) :
    ((s.take y).stream j).stack = (s.stream j).stack := by
  simp only [State.take, State.setMe, State.me, State.stream_setStream]; split
  · next h => subst h; rfl
  · rfl

@[simp] theorem State.x_take (s : State) (y : Sync) (j : StreamId) :
    ((s.take y).stream j).x = (s.stream j).x := by
  simp only [State.take, State.setMe, State.me, State.stream_setStream]; split
  · next h => subst h; rfl
  · rfl

@[simp] theorem State.g_take (s : State) (y : Sync) (j : StreamId) :
    ((s.take y).stream j).g = (s.stream j).g := by
  simp only [State.take, State.setMe, State.me, State.stream_setStream]; split
  · next h => subst h; rfl
  · rfl

@[simp] theorem State.p_take (s : State) (y : Sync) (j : StreamId) :
    ((s.take y).stream j).p = (s.stream j).p := by
  simp only [State.take, State.setMe, State.me, State.stream_setStream]; split
  · next h => subst h; rfl
  · rfl

@[simp] theorem State.busy_take (s : State) (y : Sync) (j : StreamId) :
    ((s.take y).stream j).busy = (s.stream j).busy := by
  simp only [State.take, State.setMe, State.me, State.stream_setStream]; split
  · next h => subst h; rfl
  · rfl

@[simp] theorem State.hold_take (s : State) (y : Sync) (j : StreamId) :
    ((s.take y).stream j).hold = (s.stream j).hold := by
  simp only [State.take, State.setMe, State.me, State.stream_setStream]; split
  · next h => subst h; rfl
  · rfl

@[simp] theorem State.wait_take (s : State) (y : Sync) (j : StreamId) :
    ((s.take y).stream j).wait = (s.stream j).wait := by
  simp only [State.take, State.setMe, State.me, State.stream_setStream]; split
  · next h => subst h; rfl
  · rfl

@[simp] theorem State.signals_take (s : State) (y : Sync) (j : StreamId) :
    ((s.take y).stream j).signals = (s.stream j).signals := by
  simp only [State.take, State.setMe, State.me, State.stream_setStream]; split
  · next h => subst h; rfl
  · rfl

@[simp] theorem State.csr_take (s : State) (y : Sync) (j : StreamId) :
    ((s.take y).stream j).csr = (s.stream j).csr := by
  simp only [State.take, State.setMe, State.me, State.stream_setStream]; split
  · next h => subst h; rfl
  · rfl

@[simp] theorem State.streams_take (s : State) (y : Sync) (j : StreamId) :
    ((s.take y).stream j).streams = (s.stream j).streams := by
  simp only [State.take, State.setMe, State.me, State.stream_setStream]; split
  · next h => subst h; rfl
  · rfl

@[simp] theorem State.ops_awake (s : State) : (s.awake).ops = s.ops := by
  simp [State.awake]

@[simp] theorem State.nextOp_awake (s : State) : (s.awake).nextOp = s.nextOp := by
  simp [State.awake]

@[simp] theorem State.invals_awake (s : State) : (s.awake).invals = s.invals := by
  simp [State.awake]

@[simp] theorem State.sched_awake (s : State) : (s.awake).sched = s.sched := by
  simp [State.awake]

@[simp] theorem State.sys_awake (s : State) : (s.awake).sys = s.sys := by
  simp [State.awake]

@[simp] theorem State.cycle_awake (s : State) : (s.awake).cycle = s.cycle := by
  simp [State.awake]

@[simp] theorem State.fresh_awake (s : State) : (s.awake).fresh = s.fresh := by
  simp [State.awake]

@[simp] theorem State.agenda_awake (s : State) : (s.awake).agenda = s.agenda := by
  simp [State.awake]

@[simp] theorem State.focus_awake (s : State) : (s.awake).focus = s.focus := by
  simp [State.awake]

@[simp] theorem State.die_mem_awake (s : State) (d : DieId) :
    ((s.awake).die d).mem = (s.die d).mem := by
  simp [State.awake]

@[simp] theorem State.die_poison_awake (s : State) (d : DieId) :
    ((s.awake).die d).poison = (s.die d).poison := by
  simp [State.awake]

@[simp] theorem State.die_commons_awake (s : State) (d : DieId) :
    ((s.awake).die d).commons = (s.die d).commons := by
  simp [State.awake]

@[simp] theorem State.die_csr_awake (s : State) (d : DieId) :
    ((s.awake).die d).csr = (s.die d).csr := by
  simp [State.awake]

@[simp] theorem State.die_tlb_awake (s : State) (d : DieId) :
    ((s.awake).die d).tlb = (s.die d).tlb := by
  simp [State.awake]

@[simp] theorem State.die_walkCache_awake (s : State) (d : DieId) :
    ((s.awake).die d).walkCache = (s.die d).walkCache := by
  simp [State.awake]

@[simp] theorem State.die_counts_awake (s : State) (d : DieId) :
    ((s.awake).die d).counts = (s.die d).counts := by
  simp [State.awake]

@[simp] theorem State.die_torus_awake (s : State) (d : DieId) :
    ((s.awake).die d).torus = (s.die d).torus := by
  simp [State.awake]

@[simp] theorem State.die_pool_awake (s : State) (d : DieId) :
    ((s.awake).die d).pool = (s.die d).pool := by
  simp [State.awake]

@[simp] theorem State.die_optical_awake (s : State) (d : DieId) :
    ((s.awake).die d).optical = (s.die d).optical := by
  simp [State.awake]

@[simp] theorem State.die_seqCache_awake (s : State) (d : DieId) :
    ((s.awake).die d).seqCache = (s.die d).seqCache := by
  simp [State.awake]

@[simp] theorem State.die_kvinvOps_awake (s : State) (d : DieId) :
    ((s.awake).die d).kvinvOps = (s.die d).kvinvOps := by
  simp [State.awake]

@[simp] theorem State.die_channels_awake (s : State) (d : DieId) :
    ((s.awake).die d).channels = (s.die d).channels := by
  simp [State.awake]

@[simp] theorem State.die_faults_awake (s : State) (d : DieId) :
    ((s.awake).die d).faults = (s.die d).faults := by
  simp [State.awake]

@[simp] theorem State.die_start_awake (s : State) (d : DieId) :
    ((s.awake).die d).start = (s.die d).start := by
  simp [State.awake]

@[simp] theorem State.die_window_awake (s : State) (d : DieId) :
    ((s.awake).die d).window = (s.die d).window := by
  simp [State.awake]

@[simp] theorem State.die_inReset_awake (s : State) (d : DieId) :
    ((s.awake).die d).inReset = (s.die d).inReset := by
  simp [State.awake]

@[simp] theorem State.core_regs_awake (s : State) (c : CoreId) :
    ((s.awake).core c).regs = (s.core c).regs := by
  simp [State.setMe, State.awake]

@[simp] theorem State.core_store_awake (s : State) (c : CoreId) :
    ((s.awake).core c).store = (s.core c).store := by
  simp [State.setMe, State.awake]

@[simp] theorem State.core_ctl_awake (s : State) (c : CoreId) :
    ((s.awake).core c).ctl = (s.core c).ctl := by
  simp [State.setMe, State.awake]

@[simp] theorem State.core_ex_awake (s : State) (c : CoreId) :
    ((s.awake).core c).ex = (s.core c).ex := by
  simp [State.setMe, State.awake]

@[simp] theorem State.core_csr_awake (s : State) (c : CoreId) :
    ((s.awake).core c).csr = (s.core c).csr := by
  simp [State.setMe, State.awake]

@[simp] theorem State.pc_awake (s : State) (j : StreamId) :
    ((s.awake).stream j).pc = (s.stream j).pc := by
  simp only [State.awake, State.setMe, State.me, State.stream_setStream]; split
  · next h => subst h; rfl
  · rfl

@[simp] theorem State.run_awake (s : State) (j : StreamId) :
    ((s.awake).stream j).run = (s.stream j).run := by
  simp only [State.awake, State.setMe, State.me, State.stream_setStream]; split
  · next h => subst h; rfl
  · rfl

@[simp] theorem State.stack_awake (s : State) (j : StreamId) :
    ((s.awake).stream j).stack = (s.stream j).stack := by
  simp only [State.awake, State.setMe, State.me, State.stream_setStream]; split
  · next h => subst h; rfl
  · rfl

@[simp] theorem State.x_awake (s : State) (j : StreamId) :
    ((s.awake).stream j).x = (s.stream j).x := by
  simp only [State.awake, State.setMe, State.me, State.stream_setStream]; split
  · next h => subst h; rfl
  · rfl

@[simp] theorem State.g_awake (s : State) (j : StreamId) :
    ((s.awake).stream j).g = (s.stream j).g := by
  simp only [State.awake, State.setMe, State.me, State.stream_setStream]; split
  · next h => subst h; rfl
  · rfl

@[simp] theorem State.p_awake (s : State) (j : StreamId) :
    ((s.awake).stream j).p = (s.stream j).p := by
  simp only [State.awake, State.setMe, State.me, State.stream_setStream]; split
  · next h => subst h; rfl
  · rfl

@[simp] theorem State.busy_awake (s : State) (j : StreamId) :
    ((s.awake).stream j).busy = (s.stream j).busy := by
  simp only [State.awake, State.setMe, State.me, State.stream_setStream]; split
  · next h => subst h; rfl
  · rfl

@[simp] theorem State.hold_awake (s : State) (j : StreamId) :
    ((s.awake).stream j).hold = (s.stream j).hold := by
  simp only [State.awake, State.setMe, State.me, State.stream_setStream]; split
  · next h => subst h; rfl
  · rfl

@[simp] theorem State.join_awake (s : State) (j : StreamId) :
    ((s.awake).stream j).join = (s.stream j).join := by
  simp only [State.awake, State.setMe, State.me, State.stream_setStream]; split
  · next h => subst h; rfl
  · rfl

@[simp] theorem State.fromPrev_awake (s : State) (j : StreamId) :
    ((s.awake).stream j).fromPrev = (s.stream j).fromPrev := by
  simp only [State.awake, State.setMe, State.me, State.stream_setStream]; split
  · next h => subst h; rfl
  · rfl

@[simp] theorem State.fromNext_awake (s : State) (j : StreamId) :
    ((s.awake).stream j).fromNext = (s.stream j).fromNext := by
  simp only [State.awake, State.setMe, State.me, State.stream_setStream]; split
  · next h => subst h; rfl
  · rfl

@[simp] theorem State.signals_awake (s : State) (j : StreamId) :
    ((s.awake).stream j).signals = (s.stream j).signals := by
  simp only [State.awake, State.setMe, State.me, State.stream_setStream]; split
  · next h => subst h; rfl
  · rfl

@[simp] theorem State.csr_awake (s : State) (j : StreamId) :
    ((s.awake).stream j).csr = (s.stream j).csr := by
  simp only [State.awake, State.setMe, State.me, State.stream_setStream]; split
  · next h => subst h; rfl
  · rfl

@[simp] theorem State.streams_awake (s : State) (j : StreamId) :
    ((s.awake).stream j).streams = (s.stream j).streams := by
  simp only [State.awake, State.setMe, State.me, State.stream_setStream]; split
  · next h => subst h; rfl
  · rfl

@[simp] theorem State.ops_blocked (s : State) (w : Wait) : (s.blocked w).ops = s.ops := by
  simp [State.blocked]

@[simp] theorem State.nextOp_blocked (s : State) (w : Wait) : (s.blocked w).nextOp = s.nextOp := by
  simp [State.blocked]

@[simp] theorem State.invals_blocked (s : State) (w : Wait) : (s.blocked w).invals = s.invals := by
  simp [State.blocked]

@[simp] theorem State.sched_blocked (s : State) (w : Wait) : (s.blocked w).sched = s.sched := by
  simp [State.blocked]

@[simp] theorem State.sys_blocked (s : State) (w : Wait) : (s.blocked w).sys = s.sys := by
  simp [State.blocked]

@[simp] theorem State.cycle_blocked (s : State) (w : Wait) : (s.blocked w).cycle = s.cycle := by
  simp [State.blocked]

@[simp] theorem State.fresh_blocked (s : State) (w : Wait) : (s.blocked w).fresh = s.fresh := by
  simp [State.blocked]

@[simp] theorem State.agenda_blocked (s : State) (w : Wait) : (s.blocked w).agenda = s.agenda := by
  simp [State.blocked]

@[simp] theorem State.focus_blocked (s : State) (w : Wait) : (s.blocked w).focus = s.focus := by
  simp [State.blocked]

@[simp] theorem State.die_mem_blocked (s : State) (w : Wait) (d : DieId) :
    ((s.blocked w).die d).mem = (s.die d).mem := by
  simp [State.blocked]

@[simp] theorem State.die_poison_blocked (s : State) (w : Wait) (d : DieId) :
    ((s.blocked w).die d).poison = (s.die d).poison := by
  simp [State.blocked]

@[simp] theorem State.die_commons_blocked (s : State) (w : Wait) (d : DieId) :
    ((s.blocked w).die d).commons = (s.die d).commons := by
  simp [State.blocked]

@[simp] theorem State.die_csr_blocked (s : State) (w : Wait) (d : DieId) :
    ((s.blocked w).die d).csr = (s.die d).csr := by
  simp [State.blocked]

@[simp] theorem State.die_tlb_blocked (s : State) (w : Wait) (d : DieId) :
    ((s.blocked w).die d).tlb = (s.die d).tlb := by
  simp [State.blocked]

@[simp] theorem State.die_walkCache_blocked (s : State) (w : Wait) (d : DieId) :
    ((s.blocked w).die d).walkCache = (s.die d).walkCache := by
  simp [State.blocked]

@[simp] theorem State.die_counts_blocked (s : State) (w : Wait) (d : DieId) :
    ((s.blocked w).die d).counts = (s.die d).counts := by
  simp [State.blocked]

@[simp] theorem State.die_torus_blocked (s : State) (w : Wait) (d : DieId) :
    ((s.blocked w).die d).torus = (s.die d).torus := by
  simp [State.blocked]

@[simp] theorem State.die_pool_blocked (s : State) (w : Wait) (d : DieId) :
    ((s.blocked w).die d).pool = (s.die d).pool := by
  simp [State.blocked]

@[simp] theorem State.die_optical_blocked (s : State) (w : Wait) (d : DieId) :
    ((s.blocked w).die d).optical = (s.die d).optical := by
  simp [State.blocked]

@[simp] theorem State.die_seqCache_blocked (s : State) (w : Wait) (d : DieId) :
    ((s.blocked w).die d).seqCache = (s.die d).seqCache := by
  simp [State.blocked]

@[simp] theorem State.die_kvinvOps_blocked (s : State) (w : Wait) (d : DieId) :
    ((s.blocked w).die d).kvinvOps = (s.die d).kvinvOps := by
  simp [State.blocked]

@[simp] theorem State.die_channels_blocked (s : State) (w : Wait) (d : DieId) :
    ((s.blocked w).die d).channels = (s.die d).channels := by
  simp [State.blocked]

@[simp] theorem State.die_faults_blocked (s : State) (w : Wait) (d : DieId) :
    ((s.blocked w).die d).faults = (s.die d).faults := by
  simp [State.blocked]

@[simp] theorem State.die_start_blocked (s : State) (w : Wait) (d : DieId) :
    ((s.blocked w).die d).start = (s.die d).start := by
  simp [State.blocked]

@[simp] theorem State.die_window_blocked (s : State) (w : Wait) (d : DieId) :
    ((s.blocked w).die d).window = (s.die d).window := by
  simp [State.blocked]

@[simp] theorem State.die_inReset_blocked (s : State) (w : Wait) (d : DieId) :
    ((s.blocked w).die d).inReset = (s.die d).inReset := by
  simp [State.blocked]

@[simp] theorem State.core_regs_blocked (s : State) (w : Wait) (c : CoreId) :
    ((s.blocked w).core c).regs = (s.core c).regs := by
  simp [State.setMe, State.blocked]

@[simp] theorem State.core_store_blocked (s : State) (w : Wait) (c : CoreId) :
    ((s.blocked w).core c).store = (s.core c).store := by
  simp [State.setMe, State.blocked]

@[simp] theorem State.core_ctl_blocked (s : State) (w : Wait) (c : CoreId) :
    ((s.blocked w).core c).ctl = (s.core c).ctl := by
  simp [State.setMe, State.blocked]

@[simp] theorem State.core_ex_blocked (s : State) (w : Wait) (c : CoreId) :
    ((s.blocked w).core c).ex = (s.core c).ex := by
  simp [State.setMe, State.blocked]

@[simp] theorem State.core_csr_blocked (s : State) (w : Wait) (c : CoreId) :
    ((s.blocked w).core c).csr = (s.core c).csr := by
  simp [State.setMe, State.blocked]

@[simp] theorem State.pc_blocked (s : State) (w : Wait) (j : StreamId) :
    ((s.blocked w).stream j).pc = (s.stream j).pc := by
  simp only [State.blocked, State.setMe, State.me, State.stream_setStream]; split
  · next h => subst h; rfl
  · rfl

@[simp] theorem State.run_blocked (s : State) (w : Wait) (j : StreamId) :
    ((s.blocked w).stream j).run = (s.stream j).run := by
  simp only [State.blocked, State.setMe, State.me, State.stream_setStream]; split
  · next h => subst h; rfl
  · rfl

@[simp] theorem State.stack_blocked (s : State) (w : Wait) (j : StreamId) :
    ((s.blocked w).stream j).stack = (s.stream j).stack := by
  simp only [State.blocked, State.setMe, State.me, State.stream_setStream]; split
  · next h => subst h; rfl
  · rfl

@[simp] theorem State.x_blocked (s : State) (w : Wait) (j : StreamId) :
    ((s.blocked w).stream j).x = (s.stream j).x := by
  simp only [State.blocked, State.setMe, State.me, State.stream_setStream]; split
  · next h => subst h; rfl
  · rfl

@[simp] theorem State.g_blocked (s : State) (w : Wait) (j : StreamId) :
    ((s.blocked w).stream j).g = (s.stream j).g := by
  simp only [State.blocked, State.setMe, State.me, State.stream_setStream]; split
  · next h => subst h; rfl
  · rfl

@[simp] theorem State.p_blocked (s : State) (w : Wait) (j : StreamId) :
    ((s.blocked w).stream j).p = (s.stream j).p := by
  simp only [State.blocked, State.setMe, State.me, State.stream_setStream]; split
  · next h => subst h; rfl
  · rfl

@[simp] theorem State.busy_blocked (s : State) (w : Wait) (j : StreamId) :
    ((s.blocked w).stream j).busy = (s.stream j).busy := by
  simp only [State.blocked, State.setMe, State.me, State.stream_setStream]; split
  · next h => subst h; rfl
  · rfl

@[simp] theorem State.hold_blocked (s : State) (w : Wait) (j : StreamId) :
    ((s.blocked w).stream j).hold = (s.stream j).hold := by
  simp only [State.blocked, State.setMe, State.me, State.stream_setStream]; split
  · next h => subst h; rfl
  · rfl

@[simp] theorem State.join_blocked (s : State) (w : Wait) (j : StreamId) :
    ((s.blocked w).stream j).join = (s.stream j).join := by
  simp only [State.blocked, State.setMe, State.me, State.stream_setStream]; split
  · next h => subst h; rfl
  · rfl

@[simp] theorem State.fromPrev_blocked (s : State) (w : Wait) (j : StreamId) :
    ((s.blocked w).stream j).fromPrev = (s.stream j).fromPrev := by
  simp only [State.blocked, State.setMe, State.me, State.stream_setStream]; split
  · next h => subst h; rfl
  · rfl

@[simp] theorem State.fromNext_blocked (s : State) (w : Wait) (j : StreamId) :
    ((s.blocked w).stream j).fromNext = (s.stream j).fromNext := by
  simp only [State.blocked, State.setMe, State.me, State.stream_setStream]; split
  · next h => subst h; rfl
  · rfl

@[simp] theorem State.signals_blocked (s : State) (w : Wait) (j : StreamId) :
    ((s.blocked w).stream j).signals = (s.stream j).signals := by
  simp only [State.blocked, State.setMe, State.me, State.stream_setStream]; split
  · next h => subst h; rfl
  · rfl

@[simp] theorem State.csr_blocked (s : State) (w : Wait) (j : StreamId) :
    ((s.blocked w).stream j).csr = (s.stream j).csr := by
  simp only [State.blocked, State.setMe, State.me, State.stream_setStream]; split
  · next h => subst h; rfl
  · rfl

@[simp] theorem State.streams_blocked (s : State) (w : Wait) (j : StreamId) :
    ((s.blocked w).stream j).streams = (s.stream j).streams := by
  simp only [State.blocked, State.setMe, State.me, State.stream_setStream]; split
  · next h => subst h; rfl
  · rfl

@[simp] theorem State.ops_setPc (s : State) (i : StreamId) (q : BitVec 16) (st : List Block) : (s.setPc i q st).ops = s.ops := by
  simp [State.setPc]

@[simp] theorem State.nextOp_setPc (s : State) (i : StreamId) (q : BitVec 16) (st : List Block) : (s.setPc i q st).nextOp = s.nextOp := by
  simp [State.setPc]

@[simp] theorem State.invals_setPc (s : State) (i : StreamId) (q : BitVec 16) (st : List Block) : (s.setPc i q st).invals = s.invals := by
  simp [State.setPc]

@[simp] theorem State.sched_setPc (s : State) (i : StreamId) (q : BitVec 16) (st : List Block) : (s.setPc i q st).sched = s.sched := by
  simp [State.setPc]

@[simp] theorem State.sys_setPc (s : State) (i : StreamId) (q : BitVec 16) (st : List Block) : (s.setPc i q st).sys = s.sys := by
  simp [State.setPc]

@[simp] theorem State.cycle_setPc (s : State) (i : StreamId) (q : BitVec 16) (st : List Block) : (s.setPc i q st).cycle = s.cycle := by
  simp [State.setPc]

@[simp] theorem State.fresh_setPc (s : State) (i : StreamId) (q : BitVec 16) (st : List Block) : (s.setPc i q st).fresh = s.fresh := by
  simp [State.setPc]

@[simp] theorem State.agenda_setPc (s : State) (i : StreamId) (q : BitVec 16) (st : List Block) : (s.setPc i q st).agenda = s.agenda := by
  simp [State.setPc]

@[simp] theorem State.focus_setPc (s : State) (i : StreamId) (q : BitVec 16) (st : List Block) : (s.setPc i q st).focus = s.focus := by
  simp [State.setPc]

@[simp] theorem State.die_mem_setPc (s : State) (i : StreamId) (q : BitVec 16) (st : List Block) (d : DieId) :
    ((s.setPc i q st).die d).mem = (s.die d).mem := by
  simp [State.setPc]

@[simp] theorem State.die_poison_setPc (s : State) (i : StreamId) (q : BitVec 16) (st : List Block) (d : DieId) :
    ((s.setPc i q st).die d).poison = (s.die d).poison := by
  simp [State.setPc]

@[simp] theorem State.die_commons_setPc (s : State) (i : StreamId) (q : BitVec 16) (st : List Block) (d : DieId) :
    ((s.setPc i q st).die d).commons = (s.die d).commons := by
  simp [State.setPc]

@[simp] theorem State.die_csr_setPc (s : State) (i : StreamId) (q : BitVec 16) (st : List Block) (d : DieId) :
    ((s.setPc i q st).die d).csr = (s.die d).csr := by
  simp [State.setPc]

@[simp] theorem State.die_tlb_setPc (s : State) (i : StreamId) (q : BitVec 16) (st : List Block) (d : DieId) :
    ((s.setPc i q st).die d).tlb = (s.die d).tlb := by
  simp [State.setPc]

@[simp] theorem State.die_walkCache_setPc (s : State) (i : StreamId) (q : BitVec 16) (st : List Block) (d : DieId) :
    ((s.setPc i q st).die d).walkCache = (s.die d).walkCache := by
  simp [State.setPc]

@[simp] theorem State.die_counts_setPc (s : State) (i : StreamId) (q : BitVec 16) (st : List Block) (d : DieId) :
    ((s.setPc i q st).die d).counts = (s.die d).counts := by
  simp [State.setPc]

@[simp] theorem State.die_torus_setPc (s : State) (i : StreamId) (q : BitVec 16) (st : List Block) (d : DieId) :
    ((s.setPc i q st).die d).torus = (s.die d).torus := by
  simp [State.setPc]

@[simp] theorem State.die_pool_setPc (s : State) (i : StreamId) (q : BitVec 16) (st : List Block) (d : DieId) :
    ((s.setPc i q st).die d).pool = (s.die d).pool := by
  simp [State.setPc]

@[simp] theorem State.die_optical_setPc (s : State) (i : StreamId) (q : BitVec 16) (st : List Block) (d : DieId) :
    ((s.setPc i q st).die d).optical = (s.die d).optical := by
  simp [State.setPc]

@[simp] theorem State.die_seqCache_setPc (s : State) (i : StreamId) (q : BitVec 16) (st : List Block) (d : DieId) :
    ((s.setPc i q st).die d).seqCache = (s.die d).seqCache := by
  simp [State.setPc]

@[simp] theorem State.die_kvinvOps_setPc (s : State) (i : StreamId) (q : BitVec 16) (st : List Block) (d : DieId) :
    ((s.setPc i q st).die d).kvinvOps = (s.die d).kvinvOps := by
  simp [State.setPc]

@[simp] theorem State.die_channels_setPc (s : State) (i : StreamId) (q : BitVec 16) (st : List Block) (d : DieId) :
    ((s.setPc i q st).die d).channels = (s.die d).channels := by
  simp [State.setPc]

@[simp] theorem State.die_faults_setPc (s : State) (i : StreamId) (q : BitVec 16) (st : List Block) (d : DieId) :
    ((s.setPc i q st).die d).faults = (s.die d).faults := by
  simp [State.setPc]

@[simp] theorem State.die_start_setPc (s : State) (i : StreamId) (q : BitVec 16) (st : List Block) (d : DieId) :
    ((s.setPc i q st).die d).start = (s.die d).start := by
  simp [State.setPc]

@[simp] theorem State.die_window_setPc (s : State) (i : StreamId) (q : BitVec 16) (st : List Block) (d : DieId) :
    ((s.setPc i q st).die d).window = (s.die d).window := by
  simp [State.setPc]

@[simp] theorem State.die_inReset_setPc (s : State) (i : StreamId) (q : BitVec 16) (st : List Block) (d : DieId) :
    ((s.setPc i q st).die d).inReset = (s.die d).inReset := by
  simp [State.setPc]

@[simp] theorem State.core_regs_setPc (s : State) (i : StreamId) (q : BitVec 16) (st : List Block) (c : CoreId) :
    ((s.setPc i q st).core c).regs = (s.core c).regs := by
  simp [State.setPc]

@[simp] theorem State.core_store_setPc (s : State) (i : StreamId) (q : BitVec 16) (st : List Block) (c : CoreId) :
    ((s.setPc i q st).core c).store = (s.core c).store := by
  simp [State.setPc]

@[simp] theorem State.core_ctl_setPc (s : State) (i : StreamId) (q : BitVec 16) (st : List Block) (c : CoreId) :
    ((s.setPc i q st).core c).ctl = (s.core c).ctl := by
  simp [State.setPc]

@[simp] theorem State.core_ex_setPc (s : State) (i : StreamId) (q : BitVec 16) (st : List Block) (c : CoreId) :
    ((s.setPc i q st).core c).ex = (s.core c).ex := by
  simp [State.setPc]

@[simp] theorem State.core_csr_setPc (s : State) (i : StreamId) (q : BitVec 16) (st : List Block) (c : CoreId) :
    ((s.setPc i q st).core c).csr = (s.core c).csr := by
  simp [State.setPc]

@[simp] theorem State.run_setPc (s : State) (i : StreamId) (q : BitVec 16) (st : List Block) (j : StreamId) :
    ((s.setPc i q st).stream j).run = (s.stream j).run := by
  simp only [State.setPc, State.stream_setStream]; split
  · next h => subst h; rfl
  · rfl

@[simp] theorem State.x_setPc (s : State) (i : StreamId) (q : BitVec 16) (st : List Block) (j : StreamId) :
    ((s.setPc i q st).stream j).x = (s.stream j).x := by
  simp only [State.setPc, State.stream_setStream]; split
  · next h => subst h; rfl
  · rfl

@[simp] theorem State.g_setPc (s : State) (i : StreamId) (q : BitVec 16) (st : List Block) (j : StreamId) :
    ((s.setPc i q st).stream j).g = (s.stream j).g := by
  simp only [State.setPc, State.stream_setStream]; split
  · next h => subst h; rfl
  · rfl

@[simp] theorem State.p_setPc (s : State) (i : StreamId) (q : BitVec 16) (st : List Block) (j : StreamId) :
    ((s.setPc i q st).stream j).p = (s.stream j).p := by
  simp only [State.setPc, State.stream_setStream]; split
  · next h => subst h; rfl
  · rfl

@[simp] theorem State.busy_setPc (s : State) (i : StreamId) (q : BitVec 16) (st : List Block) (j : StreamId) :
    ((s.setPc i q st).stream j).busy = (s.stream j).busy := by
  simp only [State.setPc, State.stream_setStream]; split
  · next h => subst h; rfl
  · rfl

@[simp] theorem State.hold_setPc (s : State) (i : StreamId) (q : BitVec 16) (st : List Block) (j : StreamId) :
    ((s.setPc i q st).stream j).hold = (s.stream j).hold := by
  simp only [State.setPc, State.stream_setStream]; split
  · next h => subst h; rfl
  · rfl

@[simp] theorem State.join_setPc (s : State) (i : StreamId) (q : BitVec 16) (st : List Block) (j : StreamId) :
    ((s.setPc i q st).stream j).join = (s.stream j).join := by
  simp only [State.setPc, State.stream_setStream]; split
  · next h => subst h; rfl
  · rfl

@[simp] theorem State.wait_setPc (s : State) (i : StreamId) (q : BitVec 16) (st : List Block) (j : StreamId) :
    ((s.setPc i q st).stream j).wait = (s.stream j).wait := by
  simp only [State.setPc, State.stream_setStream]; split
  · next h => subst h; rfl
  · rfl

@[simp] theorem State.fromPrev_setPc (s : State) (i : StreamId) (q : BitVec 16) (st : List Block) (j : StreamId) :
    ((s.setPc i q st).stream j).fromPrev = (s.stream j).fromPrev := by
  simp only [State.setPc, State.stream_setStream]; split
  · next h => subst h; rfl
  · rfl

@[simp] theorem State.fromNext_setPc (s : State) (i : StreamId) (q : BitVec 16) (st : List Block) (j : StreamId) :
    ((s.setPc i q st).stream j).fromNext = (s.stream j).fromNext := by
  simp only [State.setPc, State.stream_setStream]; split
  · next h => subst h; rfl
  · rfl

@[simp] theorem State.signals_setPc (s : State) (i : StreamId) (q : BitVec 16) (st : List Block) (j : StreamId) :
    ((s.setPc i q st).stream j).signals = (s.stream j).signals := by
  simp only [State.setPc, State.stream_setStream]; split
  · next h => subst h; rfl
  · rfl

@[simp] theorem State.csr_setPc (s : State) (i : StreamId) (q : BitVec 16) (st : List Block) (j : StreamId) :
    ((s.setPc i q st).stream j).csr = (s.stream j).csr := by
  simp only [State.setPc, State.stream_setStream]; split
  · next h => subst h; rfl
  · rfl

@[simp] theorem State.streams_setPc (s : State) (i : StreamId) (q : BitVec 16) (st : List Block) (j : StreamId) :
    ((s.setPc i q st).stream j).streams = (s.stream j).streams := by
  simp only [State.setPc, State.stream_setStream]; split
  · next h => subst h; rfl
  · rfl

@[simp] theorem State.pc_setPc_same (s : State) (i : StreamId) (q : BitVec 16) (st : List Block) : ((s.setPc i q st).stream i).pc = q := by
  simp [State.setPc]

@[simp] theorem State.stack_setPc_same (s : State) (i : StreamId) (q : BitVec 16) (st : List Block) :
    ((s.setPc i q st).stream i).stack = st := by
  simp [State.setPc]

theorem State.pc_setPc_ne (s : State) {i j : StreamId} (q : BitVec 16) (st : List Block) (h : j ≠ i) :
    ((s.setPc i q st).stream j).pc = (s.stream j).pc := by
  simp [State.setPc, State.stream_setStream, h]

theorem State.stack_setPc_ne (s : State) {i j : StreamId} (q : BitVec 16) (st : List Block) (h : j ≠ i) :
    ((s.setPc i q st).stream j).stack = (s.stream j).stack := by
  simp [State.setPc, State.stream_setStream, h]

/-! ## Arithmetic counters -/

@[simp] theorem ClusterState.pc_setReg (c : ClusterState) (n : Nat) (v : Word) : (c.setReg n v).pc = c.pc := rfl

@[simp] theorem ClusterState.run_setReg (c : ClusterState) (n : Nat) (v : Word) : (c.setReg n v).run = c.run := rfl

@[simp] theorem ClusterState.stack_setReg (c : ClusterState) (n : Nat) (v : Word) : (c.setReg n v).stack = c.stack := rfl

@[simp] theorem ClusterState.x_setReg (c : ClusterState) (n : Nat) (v : Word) : (c.setReg n v).x = c.x := rfl

@[simp] theorem ClusterState.g_setReg (c : ClusterState) (n : Nat) (v : Word) : (c.setReg n v).g = c.g := rfl

@[simp] theorem ClusterState.p_setReg (c : ClusterState) (n : Nat) (v : Word) : (c.setReg n v).p = c.p := rfl

@[simp] theorem ClusterState.busy_setReg (c : ClusterState) (n : Nat) (v : Word) : (c.setReg n v).busy = c.busy := rfl

@[simp] theorem ClusterState.hold_setReg (c : ClusterState) (n : Nat) (v : Word) : (c.setReg n v).hold = c.hold := rfl

@[simp] theorem ClusterState.join_setReg (c : ClusterState) (n : Nat) (v : Word) : (c.setReg n v).join = c.join := rfl

@[simp] theorem ClusterState.wait_setReg (c : ClusterState) (n : Nat) (v : Word) : (c.setReg n v).wait = c.wait := rfl

@[simp] theorem ClusterState.fromPrev_setReg (c : ClusterState) (n : Nat) (v : Word) : (c.setReg n v).fromPrev = c.fromPrev := rfl

@[simp] theorem ClusterState.fromNext_setReg (c : ClusterState) (n : Nat) (v : Word) : (c.setReg n v).fromNext = c.fromNext := rfl

@[simp] theorem ClusterState.signals_setReg (c : ClusterState) (n : Nat) (v : Word) : (c.setReg n v).signals = c.signals := rfl

@[simp] theorem ClusterState.streams_setReg (c : ClusterState) (n : Nat) (v : Word) : (c.setReg n v).streams = c.streams := rfl

@[simp] theorem ClusterState.reg_setReg_same (c : ClusterState) (n : Nat) (v : Word) : (c.setReg n v).reg n = v := Sparse.get_set_same

theorem ClusterState.reg_setReg (c : ClusterState) (n m : Nat) (v : Word) : (c.setReg n v).reg m = if m = n then v else c.reg m :=
  Sparse.get_set

theorem ClusterState.reg_setReg_ne (c : ClusterState) {n m : Nat} (v : Word) (h : m ≠ n) : (c.setReg n v).reg m = c.reg m := by
  rw [ClusterState.reg_setReg, if_neg h]

theorem foldl_keeps {α β γ : Type} (g : β → γ) (f : β → α → β) (h : ∀ b a, g (f b a) = g b) (l : List α) (b : β) :
    g (l.foldl f b) = g b := by
  induction l generalizing b with
  | nil => rfl
  | cons a t ih => rw [List.foldl_cons, ih, h]

@[simp] theorem ClusterState.pc_advanceRet (c : ClusterState) : c.advanceRet.pc = c.pc := by
  unfold ClusterState.advanceRet
  exact (foldl_keeps (fun c : ClusterState => c.pc) _ (by intro b a; dsimp only; split <;> rfl) _ _).trans rfl

@[simp] theorem ClusterState.run_advanceRet (c : ClusterState) : c.advanceRet.run = c.run := by
  unfold ClusterState.advanceRet
  exact (foldl_keeps (fun c : ClusterState => c.run) _ (by intro b a; dsimp only; split <;> rfl) _ _).trans rfl

@[simp] theorem ClusterState.stack_advanceRet (c : ClusterState) : c.advanceRet.stack = c.stack := by
  unfold ClusterState.advanceRet
  exact (foldl_keeps (fun c : ClusterState => c.stack) _ (by intro b a; dsimp only; split <;> rfl) _ _).trans rfl

@[simp] theorem ClusterState.x_advanceRet (c : ClusterState) : c.advanceRet.x = c.x := by
  unfold ClusterState.advanceRet
  exact (foldl_keeps (fun c : ClusterState => c.x) _ (by intro b a; dsimp only; split <;> rfl) _ _).trans rfl

@[simp] theorem ClusterState.g_advanceRet (c : ClusterState) : c.advanceRet.g = c.g := by
  unfold ClusterState.advanceRet
  exact (foldl_keeps (fun c : ClusterState => c.g) _ (by intro b a; dsimp only; split <;> rfl) _ _).trans rfl

@[simp] theorem ClusterState.p_advanceRet (c : ClusterState) : c.advanceRet.p = c.p := by
  unfold ClusterState.advanceRet
  exact (foldl_keeps (fun c : ClusterState => c.p) _ (by intro b a; dsimp only; split <;> rfl) _ _).trans rfl

@[simp] theorem ClusterState.busy_advanceRet (c : ClusterState) : c.advanceRet.busy = c.busy := by
  unfold ClusterState.advanceRet
  exact (foldl_keeps (fun c : ClusterState => c.busy) _ (by intro b a; dsimp only; split <;> rfl) _ _).trans rfl

@[simp] theorem ClusterState.hold_advanceRet (c : ClusterState) : c.advanceRet.hold = c.hold := by
  unfold ClusterState.advanceRet
  exact (foldl_keeps (fun c : ClusterState => c.hold) _ (by intro b a; dsimp only; split <;> rfl) _ _).trans rfl

@[simp] theorem ClusterState.join_advanceRet (c : ClusterState) : c.advanceRet.join = c.join := by
  unfold ClusterState.advanceRet
  exact (foldl_keeps (fun c : ClusterState => c.join) _ (by intro b a; dsimp only; split <;> rfl) _ _).trans rfl

@[simp] theorem ClusterState.wait_advanceRet (c : ClusterState) : c.advanceRet.wait = c.wait := by
  unfold ClusterState.advanceRet
  exact (foldl_keeps (fun c : ClusterState => c.wait) _ (by intro b a; dsimp only; split <;> rfl) _ _).trans rfl

@[simp] theorem ClusterState.fromPrev_advanceRet (c : ClusterState) : c.advanceRet.fromPrev = c.fromPrev := by
  unfold ClusterState.advanceRet
  exact (foldl_keeps (fun c : ClusterState => c.fromPrev) _ (by intro b a; dsimp only; split <;> rfl) _ _).trans rfl

@[simp] theorem ClusterState.fromNext_advanceRet (c : ClusterState) : c.advanceRet.fromNext = c.fromNext := by
  unfold ClusterState.advanceRet
  exact (foldl_keeps (fun c : ClusterState => c.fromNext) _ (by intro b a; dsimp only; split <;> rfl) _ _).trans rfl

@[simp] theorem ClusterState.signals_advanceRet (c : ClusterState) : c.advanceRet.signals = c.signals := by
  unfold ClusterState.advanceRet
  exact (foldl_keeps (fun c : ClusterState => c.signals) _ (by intro b a; dsimp only; split <;> rfl) _ _).trans rfl

@[simp] theorem ClusterState.streams_advanceRet (c : ClusterState) : c.advanceRet.streams = c.streams := by
  unfold ClusterState.advanceRet
  exact (foldl_keeps (fun c : ClusterState => c.streams) _ (by intro b a; dsimp only; split <;> rfl) _ _).trans rfl

/-- Retirement of an instruction changes only `aret` and the window counters among a stream's CSRs (R205). -/
theorem ClusterState.reg_advanceRet (c : ClusterState) {n : Nat} (h : n ≠ 3) (h' : n < 8 ∨ 16 ≤ n) : c.advanceRet.reg n = c.reg n := by
  unfold ClusterState.advanceRet
  have key : ∀ (l : List Nat) (q : Word) (b : ClusterState), (∀ k ∈ l, k < 8) →
      (l.foldl (fun c k => if q.toNat % 2 ^ field (c.reg (16 + k)) 48 6 = 0 then c.setReg (8 + k) (setField (c.reg (8 + k)) 0 32 0) else c)
        b).reg n = b.reg n := by
    intro l q
    induction l with
    | nil => intro b _; rfl
    | cons k t ih =>
      intro b hl
      have hk : k < 8 := hl k (by simp)
      rw [List.foldl_cons, ih _ (fun j hj => hl j (by simp [hj]))]
      split
      · exact ClusterState.reg_setReg_ne _ _ (by omega)
      · rfl
  exact (key _ _ _ (by intro k hk; simpa using hk)).trans (ClusterState.reg_setReg_ne _ _ h)

@[simp] theorem ClusterState.raise_zero (c : ClusterState) : c.raise 0#8 = c := by simp [ClusterState.raise]

@[simp] theorem ClusterState.countClasses_zero (c : ClusterState) : c.countClasses 0#8 = (c, []) := by
  simp [ClusterState.countClasses]

theorem State.retireFlags_zero (s : State) (i : StreamId) : s.retireFlags i 0#8 = s.setStream i (s.stream i).advanceRet := by
  simp [State.retireFlags, State.postClasses]

/-! ## Retirement without flags -/

@[simp] theorem State.ops_retireFlags_zero (s : State) (i : StreamId) : (s.retireFlags i 0#8).ops = s.ops := by
  simp [State.retireFlags_zero]

@[simp] theorem State.nextOp_retireFlags_zero (s : State) (i : StreamId) : (s.retireFlags i 0#8).nextOp = s.nextOp := by
  simp [State.retireFlags_zero]

@[simp] theorem State.invals_retireFlags_zero (s : State) (i : StreamId) : (s.retireFlags i 0#8).invals = s.invals := by
  simp [State.retireFlags_zero]

@[simp] theorem State.sched_retireFlags_zero (s : State) (i : StreamId) : (s.retireFlags i 0#8).sched = s.sched := by
  simp [State.retireFlags_zero]

@[simp] theorem State.sys_retireFlags_zero (s : State) (i : StreamId) : (s.retireFlags i 0#8).sys = s.sys := by
  simp [State.retireFlags_zero]

@[simp] theorem State.cycle_retireFlags_zero (s : State) (i : StreamId) : (s.retireFlags i 0#8).cycle = s.cycle := by
  simp [State.retireFlags_zero]

@[simp] theorem State.fresh_retireFlags_zero (s : State) (i : StreamId) : (s.retireFlags i 0#8).fresh = s.fresh := by
  simp [State.retireFlags_zero]

@[simp] theorem State.agenda_retireFlags_zero (s : State) (i : StreamId) : (s.retireFlags i 0#8).agenda = s.agenda := by
  simp [State.retireFlags_zero]

@[simp] theorem State.focus_retireFlags_zero (s : State) (i : StreamId) : (s.retireFlags i 0#8).focus = s.focus := by
  simp [State.retireFlags_zero]

@[simp] theorem State.die_mem_retireFlags_zero (s : State) (i : StreamId) (d : DieId) :
    ((s.retireFlags i 0#8).die d).mem = (s.die d).mem := by
  simp [State.retireFlags_zero]

@[simp] theorem State.die_poison_retireFlags_zero (s : State) (i : StreamId) (d : DieId) :
    ((s.retireFlags i 0#8).die d).poison = (s.die d).poison := by
  simp [State.retireFlags_zero]

@[simp] theorem State.die_commons_retireFlags_zero (s : State) (i : StreamId) (d : DieId) :
    ((s.retireFlags i 0#8).die d).commons = (s.die d).commons := by
  simp [State.retireFlags_zero]

@[simp] theorem State.die_csr_retireFlags_zero (s : State) (i : StreamId) (d : DieId) :
    ((s.retireFlags i 0#8).die d).csr = (s.die d).csr := by
  simp [State.retireFlags_zero]

@[simp] theorem State.die_tlb_retireFlags_zero (s : State) (i : StreamId) (d : DieId) :
    ((s.retireFlags i 0#8).die d).tlb = (s.die d).tlb := by
  simp [State.retireFlags_zero]

@[simp] theorem State.die_walkCache_retireFlags_zero (s : State) (i : StreamId) (d : DieId) :
    ((s.retireFlags i 0#8).die d).walkCache = (s.die d).walkCache := by
  simp [State.retireFlags_zero]

@[simp] theorem State.die_counts_retireFlags_zero (s : State) (i : StreamId) (d : DieId) :
    ((s.retireFlags i 0#8).die d).counts = (s.die d).counts := by
  simp [State.retireFlags_zero]

@[simp] theorem State.die_torus_retireFlags_zero (s : State) (i : StreamId) (d : DieId) :
    ((s.retireFlags i 0#8).die d).torus = (s.die d).torus := by
  simp [State.retireFlags_zero]

@[simp] theorem State.die_pool_retireFlags_zero (s : State) (i : StreamId) (d : DieId) :
    ((s.retireFlags i 0#8).die d).pool = (s.die d).pool := by
  simp [State.retireFlags_zero]

@[simp] theorem State.die_optical_retireFlags_zero (s : State) (i : StreamId) (d : DieId) :
    ((s.retireFlags i 0#8).die d).optical = (s.die d).optical := by
  simp [State.retireFlags_zero]

@[simp] theorem State.die_seqCache_retireFlags_zero (s : State) (i : StreamId) (d : DieId) :
    ((s.retireFlags i 0#8).die d).seqCache = (s.die d).seqCache := by
  simp [State.retireFlags_zero]

@[simp] theorem State.die_kvinvOps_retireFlags_zero (s : State) (i : StreamId) (d : DieId) :
    ((s.retireFlags i 0#8).die d).kvinvOps = (s.die d).kvinvOps := by
  simp [State.retireFlags_zero]

@[simp] theorem State.die_channels_retireFlags_zero (s : State) (i : StreamId) (d : DieId) :
    ((s.retireFlags i 0#8).die d).channels = (s.die d).channels := by
  simp [State.retireFlags_zero]

@[simp] theorem State.die_faults_retireFlags_zero (s : State) (i : StreamId) (d : DieId) :
    ((s.retireFlags i 0#8).die d).faults = (s.die d).faults := by
  simp [State.retireFlags_zero]

@[simp] theorem State.die_start_retireFlags_zero (s : State) (i : StreamId) (d : DieId) :
    ((s.retireFlags i 0#8).die d).start = (s.die d).start := by
  simp [State.retireFlags_zero]

@[simp] theorem State.die_window_retireFlags_zero (s : State) (i : StreamId) (d : DieId) :
    ((s.retireFlags i 0#8).die d).window = (s.die d).window := by
  simp [State.retireFlags_zero]

@[simp] theorem State.die_inReset_retireFlags_zero (s : State) (i : StreamId) (d : DieId) :
    ((s.retireFlags i 0#8).die d).inReset = (s.die d).inReset := by
  simp [State.retireFlags_zero]

@[simp] theorem State.core_regs_retireFlags_zero (s : State) (i : StreamId) (c : CoreId) :
    ((s.retireFlags i 0#8).core c).regs = (s.core c).regs := by
  simp [State.retireFlags_zero]

@[simp] theorem State.core_store_retireFlags_zero (s : State) (i : StreamId) (c : CoreId) :
    ((s.retireFlags i 0#8).core c).store = (s.core c).store := by
  simp [State.retireFlags_zero]

@[simp] theorem State.core_ctl_retireFlags_zero (s : State) (i : StreamId) (c : CoreId) :
    ((s.retireFlags i 0#8).core c).ctl = (s.core c).ctl := by
  simp [State.retireFlags_zero]

@[simp] theorem State.core_ex_retireFlags_zero (s : State) (i : StreamId) (c : CoreId) :
    ((s.retireFlags i 0#8).core c).ex = (s.core c).ex := by
  simp [State.retireFlags_zero]

@[simp] theorem State.core_csr_retireFlags_zero (s : State) (i : StreamId) (c : CoreId) :
    ((s.retireFlags i 0#8).core c).csr = (s.core c).csr := by
  simp [State.retireFlags_zero]

@[simp] theorem State.pc_retireFlags_zero (s : State) (i : StreamId) (j : StreamId) :
    ((s.retireFlags i 0#8).stream j).pc = (s.stream j).pc := by
  simp only [State.retireFlags_zero, State.stream_setStream]; split
  · next h => subst h; simp
  · rfl

@[simp] theorem State.run_retireFlags_zero (s : State) (i : StreamId) (j : StreamId) :
    ((s.retireFlags i 0#8).stream j).run = (s.stream j).run := by
  simp only [State.retireFlags_zero, State.stream_setStream]; split
  · next h => subst h; simp
  · rfl

@[simp] theorem State.stack_retireFlags_zero (s : State) (i : StreamId) (j : StreamId) :
    ((s.retireFlags i 0#8).stream j).stack = (s.stream j).stack := by
  simp only [State.retireFlags_zero, State.stream_setStream]; split
  · next h => subst h; simp
  · rfl

@[simp] theorem State.x_retireFlags_zero (s : State) (i : StreamId) (j : StreamId) :
    ((s.retireFlags i 0#8).stream j).x = (s.stream j).x := by
  simp only [State.retireFlags_zero, State.stream_setStream]; split
  · next h => subst h; simp
  · rfl

@[simp] theorem State.g_retireFlags_zero (s : State) (i : StreamId) (j : StreamId) :
    ((s.retireFlags i 0#8).stream j).g = (s.stream j).g := by
  simp only [State.retireFlags_zero, State.stream_setStream]; split
  · next h => subst h; simp
  · rfl

@[simp] theorem State.p_retireFlags_zero (s : State) (i : StreamId) (j : StreamId) :
    ((s.retireFlags i 0#8).stream j).p = (s.stream j).p := by
  simp only [State.retireFlags_zero, State.stream_setStream]; split
  · next h => subst h; simp
  · rfl

@[simp] theorem State.busy_retireFlags_zero (s : State) (i : StreamId) (j : StreamId) :
    ((s.retireFlags i 0#8).stream j).busy = (s.stream j).busy := by
  simp only [State.retireFlags_zero, State.stream_setStream]; split
  · next h => subst h; simp
  · rfl

@[simp] theorem State.hold_retireFlags_zero (s : State) (i : StreamId) (j : StreamId) :
    ((s.retireFlags i 0#8).stream j).hold = (s.stream j).hold := by
  simp only [State.retireFlags_zero, State.stream_setStream]; split
  · next h => subst h; simp
  · rfl

@[simp] theorem State.join_retireFlags_zero (s : State) (i : StreamId) (j : StreamId) :
    ((s.retireFlags i 0#8).stream j).join = (s.stream j).join := by
  simp only [State.retireFlags_zero, State.stream_setStream]; split
  · next h => subst h; simp
  · rfl

@[simp] theorem State.wait_retireFlags_zero (s : State) (i : StreamId) (j : StreamId) :
    ((s.retireFlags i 0#8).stream j).wait = (s.stream j).wait := by
  simp only [State.retireFlags_zero, State.stream_setStream]; split
  · next h => subst h; simp
  · rfl

@[simp] theorem State.fromPrev_retireFlags_zero (s : State) (i : StreamId) (j : StreamId) :
    ((s.retireFlags i 0#8).stream j).fromPrev = (s.stream j).fromPrev := by
  simp only [State.retireFlags_zero, State.stream_setStream]; split
  · next h => subst h; simp
  · rfl

@[simp] theorem State.fromNext_retireFlags_zero (s : State) (i : StreamId) (j : StreamId) :
    ((s.retireFlags i 0#8).stream j).fromNext = (s.stream j).fromNext := by
  simp only [State.retireFlags_zero, State.stream_setStream]; split
  · next h => subst h; simp
  · rfl

@[simp] theorem State.signals_retireFlags_zero (s : State) (i : StreamId) (j : StreamId) :
    ((s.retireFlags i 0#8).stream j).signals = (s.stream j).signals := by
  simp only [State.retireFlags_zero, State.stream_setStream]; split
  · next h => subst h; simp
  · rfl

@[simp] theorem State.streams_retireFlags_zero (s : State) (i : StreamId) (j : StreamId) :
    ((s.retireFlags i 0#8).stream j).streams = (s.stream j).streams := by
  simp only [State.retireFlags_zero, State.stream_setStream]; split
  · next h => subst h; simp
  · rfl

@[simp] theorem State.ops_retire_zero (s : State) (i : StreamId) (n : Nat) : (s.retire i n 0#8).ops = s.ops := by
  simp [State.retire]

@[simp] theorem State.nextOp_retire_zero (s : State) (i : StreamId) (n : Nat) : (s.retire i n 0#8).nextOp = s.nextOp := by
  simp [State.retire]

@[simp] theorem State.invals_retire_zero (s : State) (i : StreamId) (n : Nat) : (s.retire i n 0#8).invals = s.invals := by
  simp [State.retire]

@[simp] theorem State.sched_retire_zero (s : State) (i : StreamId) (n : Nat) : (s.retire i n 0#8).sched = s.sched := by
  simp [State.retire]

@[simp] theorem State.sys_retire_zero (s : State) (i : StreamId) (n : Nat) : (s.retire i n 0#8).sys = s.sys := by
  simp [State.retire]

@[simp] theorem State.cycle_retire_zero (s : State) (i : StreamId) (n : Nat) : (s.retire i n 0#8).cycle = s.cycle := by
  simp [State.retire]

@[simp] theorem State.fresh_retire_zero (s : State) (i : StreamId) (n : Nat) : (s.retire i n 0#8).fresh = s.fresh := by
  simp [State.retire]

@[simp] theorem State.agenda_retire_zero (s : State) (i : StreamId) (n : Nat) : (s.retire i n 0#8).agenda = s.agenda := by
  simp [State.retire]

@[simp] theorem State.focus_retire_zero (s : State) (i : StreamId) (n : Nat) : (s.retire i n 0#8).focus = s.focus := by
  simp [State.retire]

@[simp] theorem State.die_mem_retire_zero (s : State) (i : StreamId) (n : Nat) (d : DieId) :
    ((s.retire i n 0#8).die d).mem = (s.die d).mem := by
  simp [State.retire]

@[simp] theorem State.die_poison_retire_zero (s : State) (i : StreamId) (n : Nat) (d : DieId) :
    ((s.retire i n 0#8).die d).poison = (s.die d).poison := by
  simp [State.retire]

@[simp] theorem State.die_commons_retire_zero (s : State) (i : StreamId) (n : Nat) (d : DieId) :
    ((s.retire i n 0#8).die d).commons = (s.die d).commons := by
  simp [State.retire]

@[simp] theorem State.die_csr_retire_zero (s : State) (i : StreamId) (n : Nat) (d : DieId) :
    ((s.retire i n 0#8).die d).csr = (s.die d).csr := by
  simp [State.retire]

@[simp] theorem State.die_tlb_retire_zero (s : State) (i : StreamId) (n : Nat) (d : DieId) :
    ((s.retire i n 0#8).die d).tlb = (s.die d).tlb := by
  simp [State.retire]

@[simp] theorem State.die_walkCache_retire_zero (s : State) (i : StreamId) (n : Nat) (d : DieId) :
    ((s.retire i n 0#8).die d).walkCache = (s.die d).walkCache := by
  simp [State.retire]

@[simp] theorem State.die_counts_retire_zero (s : State) (i : StreamId) (n : Nat) (d : DieId) :
    ((s.retire i n 0#8).die d).counts = (s.die d).counts := by
  simp [State.retire]

@[simp] theorem State.die_torus_retire_zero (s : State) (i : StreamId) (n : Nat) (d : DieId) :
    ((s.retire i n 0#8).die d).torus = (s.die d).torus := by
  simp [State.retire]

@[simp] theorem State.die_pool_retire_zero (s : State) (i : StreamId) (n : Nat) (d : DieId) :
    ((s.retire i n 0#8).die d).pool = (s.die d).pool := by
  simp [State.retire]

@[simp] theorem State.die_optical_retire_zero (s : State) (i : StreamId) (n : Nat) (d : DieId) :
    ((s.retire i n 0#8).die d).optical = (s.die d).optical := by
  simp [State.retire]

@[simp] theorem State.die_seqCache_retire_zero (s : State) (i : StreamId) (n : Nat) (d : DieId) :
    ((s.retire i n 0#8).die d).seqCache = (s.die d).seqCache := by
  simp [State.retire]

@[simp] theorem State.die_kvinvOps_retire_zero (s : State) (i : StreamId) (n : Nat) (d : DieId) :
    ((s.retire i n 0#8).die d).kvinvOps = (s.die d).kvinvOps := by
  simp [State.retire]

@[simp] theorem State.die_channels_retire_zero (s : State) (i : StreamId) (n : Nat) (d : DieId) :
    ((s.retire i n 0#8).die d).channels = (s.die d).channels := by
  simp [State.retire]

@[simp] theorem State.die_faults_retire_zero (s : State) (i : StreamId) (n : Nat) (d : DieId) :
    ((s.retire i n 0#8).die d).faults = (s.die d).faults := by
  simp [State.retire]

@[simp] theorem State.die_start_retire_zero (s : State) (i : StreamId) (n : Nat) (d : DieId) :
    ((s.retire i n 0#8).die d).start = (s.die d).start := by
  simp [State.retire]

@[simp] theorem State.die_window_retire_zero (s : State) (i : StreamId) (n : Nat) (d : DieId) :
    ((s.retire i n 0#8).die d).window = (s.die d).window := by
  simp [State.retire]

@[simp] theorem State.die_inReset_retire_zero (s : State) (i : StreamId) (n : Nat) (d : DieId) :
    ((s.retire i n 0#8).die d).inReset = (s.die d).inReset := by
  simp [State.retire]

@[simp] theorem State.core_regs_retire_zero (s : State) (i : StreamId) (n : Nat) (c : CoreId) :
    ((s.retire i n 0#8).core c).regs = (s.core c).regs := by
  simp [State.retire]

@[simp] theorem State.core_store_retire_zero (s : State) (i : StreamId) (n : Nat) (c : CoreId) :
    ((s.retire i n 0#8).core c).store = (s.core c).store := by
  simp [State.retire]

@[simp] theorem State.core_ctl_retire_zero (s : State) (i : StreamId) (n : Nat) (c : CoreId) :
    ((s.retire i n 0#8).core c).ctl = (s.core c).ctl := by
  simp [State.retire]

@[simp] theorem State.core_ex_retire_zero (s : State) (i : StreamId) (n : Nat) (c : CoreId) :
    ((s.retire i n 0#8).core c).ex = (s.core c).ex := by
  simp [State.retire]

@[simp] theorem State.core_csr_retire_zero (s : State) (i : StreamId) (n : Nat) (c : CoreId) :
    ((s.retire i n 0#8).core c).csr = (s.core c).csr := by
  simp [State.retire]

@[simp] theorem State.run_retire_zero (s : State) (i : StreamId) (n : Nat) (j : StreamId) :
    ((s.retire i n 0#8).stream j).run = (s.stream j).run := by
  simp [State.retire]

@[simp] theorem State.x_retire_zero (s : State) (i : StreamId) (n : Nat) (j : StreamId) :
    ((s.retire i n 0#8).stream j).x = (s.stream j).x := by
  simp [State.retire]

@[simp] theorem State.g_retire_zero (s : State) (i : StreamId) (n : Nat) (j : StreamId) :
    ((s.retire i n 0#8).stream j).g = (s.stream j).g := by
  simp [State.retire]

@[simp] theorem State.p_retire_zero (s : State) (i : StreamId) (n : Nat) (j : StreamId) :
    ((s.retire i n 0#8).stream j).p = (s.stream j).p := by
  simp [State.retire]

@[simp] theorem State.busy_retire_zero (s : State) (i : StreamId) (n : Nat) (j : StreamId) :
    ((s.retire i n 0#8).stream j).busy = (s.stream j).busy := by
  simp [State.retire]

@[simp] theorem State.hold_retire_zero (s : State) (i : StreamId) (n : Nat) (j : StreamId) :
    ((s.retire i n 0#8).stream j).hold = (s.stream j).hold := by
  simp [State.retire]

@[simp] theorem State.join_retire_zero (s : State) (i : StreamId) (n : Nat) (j : StreamId) :
    ((s.retire i n 0#8).stream j).join = (s.stream j).join := by
  simp [State.retire]

@[simp] theorem State.wait_retire_zero (s : State) (i : StreamId) (n : Nat) (j : StreamId) :
    ((s.retire i n 0#8).stream j).wait = (s.stream j).wait := by
  simp [State.retire]

@[simp] theorem State.fromPrev_retire_zero (s : State) (i : StreamId) (n : Nat) (j : StreamId) :
    ((s.retire i n 0#8).stream j).fromPrev = (s.stream j).fromPrev := by
  simp [State.retire]

@[simp] theorem State.fromNext_retire_zero (s : State) (i : StreamId) (n : Nat) (j : StreamId) :
    ((s.retire i n 0#8).stream j).fromNext = (s.stream j).fromNext := by
  simp [State.retire]

@[simp] theorem State.signals_retire_zero (s : State) (i : StreamId) (n : Nat) (j : StreamId) :
    ((s.retire i n 0#8).stream j).signals = (s.stream j).signals := by
  simp [State.retire]

@[simp] theorem State.streams_retire_zero (s : State) (i : StreamId) (n : Nat) (j : StreamId) :
    ((s.retire i n 0#8).stream j).streams = (s.stream j).streams := by
  simp [State.retire]

/-- A retired instruction moves the pc to the next halfword address, and `endcheck` runs (R211). -/
@[simp] theorem State.pc_retire_zero (s : State) (i : StreamId) (n : Nat) :
    ((s.retire i n 0#8).stream i).pc = (endcheck ((s.stream i).pc + BitVec.ofNat 16 n) (s.stream i).stack).1 := by
  simp [State.retire]

@[simp] theorem State.stack_retire_zero (s : State) (i : StreamId) (n : Nat) :
    ((s.retire i n 0#8).stream i).stack = (endcheck ((s.stream i).pc + BitVec.ofNat 16 n) (s.stream i).stack).2 := by
  simp [State.retire]

theorem State.reg_retire_zero (s : State) (i : StreamId) (n : Nat) {m : Nat} (h : m ≠ 3) (h' : m < 8 ∨ 16 ≤ m) (j : StreamId) :
    ((s.retire i n 0#8).stream j).reg m = (s.stream j).reg m := by
  have e : ∀ (s t : ClusterState), s.csr = t.csr → s.reg m = t.reg m := by intro s t q; simp [ClusterState.reg, q]
  unfold State.retire
  rw [e _ _ (State.csr_setPc _ _ _ _ _), State.retireFlags_zero, State.stream_setStream]
  split
  · next q => subst q; exact ClusterState.reg_advanceRet _ h h'
  · rfl

/-! ## Signals -/

@[simp] theorem Core.pc_deliver (c : Core) (k j : Cluster) (a b : Bool) : ((c.deliver k a b).cluster j).pc = (c.cluster j).pc := by
  cases a <;> cases b <;> cases k <;> cases j <;> rfl

@[simp] theorem Core.run_deliver (c : Core) (k j : Cluster) (a b : Bool) : ((c.deliver k a b).cluster j).run = (c.cluster j).run := by
  cases a <;> cases b <;> cases k <;> cases j <;> rfl

@[simp] theorem Core.stack_deliver (c : Core) (k j : Cluster) (a b : Bool) : ((c.deliver k a b).cluster j).stack = (c.cluster j).stack := by
  cases a <;> cases b <;> cases k <;> cases j <;> rfl

@[simp] theorem Core.x_deliver (c : Core) (k j : Cluster) (a b : Bool) : ((c.deliver k a b).cluster j).x = (c.cluster j).x := by
  cases a <;> cases b <;> cases k <;> cases j <;> rfl

@[simp] theorem Core.g_deliver (c : Core) (k j : Cluster) (a b : Bool) : ((c.deliver k a b).cluster j).g = (c.cluster j).g := by
  cases a <;> cases b <;> cases k <;> cases j <;> rfl

@[simp] theorem Core.p_deliver (c : Core) (k j : Cluster) (a b : Bool) : ((c.deliver k a b).cluster j).p = (c.cluster j).p := by
  cases a <;> cases b <;> cases k <;> cases j <;> rfl

@[simp] theorem Core.busy_deliver (c : Core) (k j : Cluster) (a b : Bool) : ((c.deliver k a b).cluster j).busy = (c.cluster j).busy := by
  cases a <;> cases b <;> cases k <;> cases j <;> rfl

@[simp] theorem Core.hold_deliver (c : Core) (k j : Cluster) (a b : Bool) : ((c.deliver k a b).cluster j).hold = (c.cluster j).hold := by
  cases a <;> cases b <;> cases k <;> cases j <;> rfl

@[simp] theorem Core.join_deliver (c : Core) (k j : Cluster) (a b : Bool) : ((c.deliver k a b).cluster j).join = (c.cluster j).join := by
  cases a <;> cases b <;> cases k <;> cases j <;> rfl

@[simp] theorem Core.wait_deliver (c : Core) (k j : Cluster) (a b : Bool) : ((c.deliver k a b).cluster j).wait = (c.cluster j).wait := by
  cases a <;> cases b <;> cases k <;> cases j <;> rfl

@[simp] theorem Core.signals_deliver (c : Core) (k j : Cluster) (a b : Bool) : ((c.deliver k a b).cluster j).signals = (c.cluster j).signals := by
  cases a <;> cases b <;> cases k <;> cases j <;> rfl

@[simp] theorem Core.csr_deliver (c : Core) (k j : Cluster) (a b : Bool) : ((c.deliver k a b).cluster j).csr = (c.cluster j).csr := by
  cases a <;> cases b <;> cases k <;> cases j <;> rfl

@[simp] theorem Core.streams_deliver (c : Core) (k j : Cluster) (a b : Bool) : ((c.deliver k a b).cluster j).streams = (c.cluster j).streams := by
  cases a <;> cases b <;> cases k <;> cases j <;> rfl

@[simp] theorem Core.regs_deliver_core (c : Core) (k : Cluster) (a b : Bool) : (c.deliver k a b).regs = c.regs := by
  cases a <;> cases b <;> cases k <;> rfl

@[simp] theorem Core.store_deliver_core (c : Core) (k : Cluster) (a b : Bool) : (c.deliver k a b).store = c.store := by
  cases a <;> cases b <;> cases k <;> rfl

@[simp] theorem Core.ctl_deliver_core (c : Core) (k : Cluster) (a b : Bool) : (c.deliver k a b).ctl = c.ctl := by
  cases a <;> cases b <;> cases k <;> rfl

@[simp] theorem Core.ex_deliver_core (c : Core) (k : Cluster) (a b : Bool) : (c.deliver k a b).ex = c.ex := by
  cases a <;> cases b <;> cases k <;> rfl

@[simp] theorem Core.csr_deliver_core (c : Core) (k : Cluster) (a b : Bool) : (c.deliver k a b).csr = c.csr := by
  cases a <;> cases b <;> cases k <;> rfl

@[simp] theorem State.ops_signal (s : State) (i : StreamId) (a b : Bool) (l : List Nat) : (s.signal i a b l).ops = s.ops := by
  unfold State.signal; dsimp only; split
  · split
    · simp
    · simp
  · rfl

@[simp] theorem State.nextOp_signal (s : State) (i : StreamId) (a b : Bool) (l : List Nat) : (s.signal i a b l).nextOp = s.nextOp := by
  unfold State.signal; dsimp only; split
  · split
    · simp
    · simp
  · rfl

@[simp] theorem State.invals_signal (s : State) (i : StreamId) (a b : Bool) (l : List Nat) : (s.signal i a b l).invals = s.invals := by
  unfold State.signal; dsimp only; split
  · split
    · simp
    · simp
  · rfl

@[simp] theorem State.sched_signal (s : State) (i : StreamId) (a b : Bool) (l : List Nat) : (s.signal i a b l).sched = s.sched := by
  unfold State.signal; dsimp only; split
  · split
    · simp
    · simp
  · rfl

@[simp] theorem State.sys_signal (s : State) (i : StreamId) (a b : Bool) (l : List Nat) : (s.signal i a b l).sys = s.sys := by
  unfold State.signal; dsimp only; split
  · split
    · simp
    · simp
  · rfl

@[simp] theorem State.cycle_signal (s : State) (i : StreamId) (a b : Bool) (l : List Nat) : (s.signal i a b l).cycle = s.cycle := by
  unfold State.signal; dsimp only; split
  · split
    · simp
    · simp
  · rfl

@[simp] theorem State.fresh_signal (s : State) (i : StreamId) (a b : Bool) (l : List Nat) : (s.signal i a b l).fresh = s.fresh := by
  unfold State.signal; dsimp only; split
  · split
    · simp
    · simp
  · rfl

@[simp] theorem State.agenda_signal (s : State) (i : StreamId) (a b : Bool) (l : List Nat) : (s.signal i a b l).agenda = s.agenda := by
  unfold State.signal; dsimp only; split
  · split
    · simp
    · simp
  · rfl

@[simp] theorem State.focus_signal (s : State) (i : StreamId) (a b : Bool) (l : List Nat) : (s.signal i a b l).focus = s.focus := by
  unfold State.signal; dsimp only; split
  · split
    · simp
    · simp
  · rfl

@[simp] theorem State.die_mem_signal (s : State) (i : StreamId) (a b : Bool) (l : List Nat) (d : DieId) : ((s.signal i a b l).die d).mem = (s.die d).mem := by
  unfold State.signal; dsimp only; split
  · split
    · simp
    · simp
  · rfl

@[simp] theorem State.die_poison_signal (s : State) (i : StreamId) (a b : Bool) (l : List Nat) (d : DieId) : ((s.signal i a b l).die d).poison = (s.die d).poison := by
  unfold State.signal; dsimp only; split
  · split
    · simp
    · simp
  · rfl

@[simp] theorem State.die_commons_signal (s : State) (i : StreamId) (a b : Bool) (l : List Nat) (d : DieId) : ((s.signal i a b l).die d).commons = (s.die d).commons := by
  unfold State.signal; dsimp only; split
  · split
    · simp
    · simp
  · rfl

@[simp] theorem State.die_csr_signal (s : State) (i : StreamId) (a b : Bool) (l : List Nat) (d : DieId) : ((s.signal i a b l).die d).csr = (s.die d).csr := by
  unfold State.signal; dsimp only; split
  · split
    · simp
    · simp
  · rfl

@[simp] theorem State.die_tlb_signal (s : State) (i : StreamId) (a b : Bool) (l : List Nat) (d : DieId) : ((s.signal i a b l).die d).tlb = (s.die d).tlb := by
  unfold State.signal; dsimp only; split
  · split
    · simp
    · simp
  · rfl

@[simp] theorem State.die_walkCache_signal (s : State) (i : StreamId) (a b : Bool) (l : List Nat) (d : DieId) : ((s.signal i a b l).die d).walkCache = (s.die d).walkCache := by
  unfold State.signal; dsimp only; split
  · split
    · simp
    · simp
  · rfl

@[simp] theorem State.die_counts_signal (s : State) (i : StreamId) (a b : Bool) (l : List Nat) (d : DieId) : ((s.signal i a b l).die d).counts = (s.die d).counts := by
  unfold State.signal; dsimp only; split
  · split
    · simp
    · simp
  · rfl

@[simp] theorem State.die_torus_signal (s : State) (i : StreamId) (a b : Bool) (l : List Nat) (d : DieId) : ((s.signal i a b l).die d).torus = (s.die d).torus := by
  unfold State.signal; dsimp only; split
  · split
    · simp
    · simp
  · rfl

@[simp] theorem State.die_pool_signal (s : State) (i : StreamId) (a b : Bool) (l : List Nat) (d : DieId) : ((s.signal i a b l).die d).pool = (s.die d).pool := by
  unfold State.signal; dsimp only; split
  · split
    · simp
    · simp
  · rfl

@[simp] theorem State.die_optical_signal (s : State) (i : StreamId) (a b : Bool) (l : List Nat) (d : DieId) : ((s.signal i a b l).die d).optical = (s.die d).optical := by
  unfold State.signal; dsimp only; split
  · split
    · simp
    · simp
  · rfl

@[simp] theorem State.die_seqCache_signal (s : State) (i : StreamId) (a b : Bool) (l : List Nat) (d : DieId) : ((s.signal i a b l).die d).seqCache = (s.die d).seqCache := by
  unfold State.signal; dsimp only; split
  · split
    · simp
    · simp
  · rfl

@[simp] theorem State.die_kvinvOps_signal (s : State) (i : StreamId) (a b : Bool) (l : List Nat) (d : DieId) : ((s.signal i a b l).die d).kvinvOps = (s.die d).kvinvOps := by
  unfold State.signal; dsimp only; split
  · split
    · simp
    · simp
  · rfl

@[simp] theorem State.die_channels_signal (s : State) (i : StreamId) (a b : Bool) (l : List Nat) (d : DieId) : ((s.signal i a b l).die d).channels = (s.die d).channels := by
  unfold State.signal; dsimp only; split
  · split
    · simp
    · simp
  · rfl

@[simp] theorem State.die_faults_signal (s : State) (i : StreamId) (a b : Bool) (l : List Nat) (d : DieId) : ((s.signal i a b l).die d).faults = (s.die d).faults := by
  unfold State.signal; dsimp only; split
  · split
    · simp
    · simp
  · rfl

@[simp] theorem State.die_start_signal (s : State) (i : StreamId) (a b : Bool) (l : List Nat) (d : DieId) : ((s.signal i a b l).die d).start = (s.die d).start := by
  unfold State.signal; dsimp only; split
  · split
    · simp
    · simp
  · rfl

@[simp] theorem State.die_window_signal (s : State) (i : StreamId) (a b : Bool) (l : List Nat) (d : DieId) : ((s.signal i a b l).die d).window = (s.die d).window := by
  unfold State.signal; dsimp only; split
  · split
    · simp
    · simp
  · rfl

@[simp] theorem State.die_inReset_signal (s : State) (i : StreamId) (a b : Bool) (l : List Nat) (d : DieId) : ((s.signal i a b l).die d).inReset = (s.die d).inReset := by
  unfold State.signal; dsimp only; split
  · split
    · simp
    · simp
  · rfl

@[simp] theorem State.core_regs_signal (s : State) (i : StreamId) (a b : Bool) (l : List Nat) (c : CoreId) : ((s.signal i a b l).core c).regs = (s.core c).regs := by
  unfold State.signal; dsimp only; split
  · split
    · simp only [State.core_setCore]; split
      · next h => subst h; simp
      · rfl
    · simp
  · rfl

@[simp] theorem State.core_store_signal (s : State) (i : StreamId) (a b : Bool) (l : List Nat) (c : CoreId) : ((s.signal i a b l).core c).store = (s.core c).store := by
  unfold State.signal; dsimp only; split
  · split
    · simp only [State.core_setCore]; split
      · next h => subst h; simp
      · rfl
    · simp
  · rfl

@[simp] theorem State.core_ctl_signal (s : State) (i : StreamId) (a b : Bool) (l : List Nat) (c : CoreId) : ((s.signal i a b l).core c).ctl = (s.core c).ctl := by
  unfold State.signal; dsimp only; split
  · split
    · simp only [State.core_setCore]; split
      · next h => subst h; simp
      · rfl
    · simp
  · rfl

@[simp] theorem State.core_ex_signal (s : State) (i : StreamId) (a b : Bool) (l : List Nat) (c : CoreId) : ((s.signal i a b l).core c).ex = (s.core c).ex := by
  unfold State.signal; dsimp only; split
  · split
    · simp only [State.core_setCore]; split
      · next h => subst h; simp
      · rfl
    · simp
  · rfl

@[simp] theorem State.core_csr_signal (s : State) (i : StreamId) (a b : Bool) (l : List Nat) (c : CoreId) : ((s.signal i a b l).core c).csr = (s.core c).csr := by
  unfold State.signal; dsimp only; split
  · split
    · simp only [State.core_setCore]; split
      · next h => subst h; simp
      · rfl
    · simp
  · rfl

@[simp] theorem State.pc_signal (s : State) (i : StreamId) (a b : Bool) (l : List Nat) (j : StreamId) : ((s.signal i a b l).stream j).pc = (s.stream j).pc := by
  unfold State.signal; dsimp only; split
  · split
    · simp only [State.stream, State.core_setCore]; split
      · next h => rw [← h]; simp
      · rfl
    · simp only [State.stream_setStream]; split
      · next h => subst h; rfl
      · rfl
  · rfl

@[simp] theorem State.run_signal (s : State) (i : StreamId) (a b : Bool) (l : List Nat) (j : StreamId) : ((s.signal i a b l).stream j).run = (s.stream j).run := by
  unfold State.signal; dsimp only; split
  · split
    · simp only [State.stream, State.core_setCore]; split
      · next h => rw [← h]; simp
      · rfl
    · simp only [State.stream_setStream]; split
      · next h => subst h; rfl
      · rfl
  · rfl

@[simp] theorem State.stack_signal (s : State) (i : StreamId) (a b : Bool) (l : List Nat) (j : StreamId) : ((s.signal i a b l).stream j).stack = (s.stream j).stack := by
  unfold State.signal; dsimp only; split
  · split
    · simp only [State.stream, State.core_setCore]; split
      · next h => rw [← h]; simp
      · rfl
    · simp only [State.stream_setStream]; split
      · next h => subst h; rfl
      · rfl
  · rfl

@[simp] theorem State.x_signal (s : State) (i : StreamId) (a b : Bool) (l : List Nat) (j : StreamId) : ((s.signal i a b l).stream j).x = (s.stream j).x := by
  unfold State.signal; dsimp only; split
  · split
    · simp only [State.stream, State.core_setCore]; split
      · next h => rw [← h]; simp
      · rfl
    · simp only [State.stream_setStream]; split
      · next h => subst h; rfl
      · rfl
  · rfl

@[simp] theorem State.g_signal (s : State) (i : StreamId) (a b : Bool) (l : List Nat) (j : StreamId) : ((s.signal i a b l).stream j).g = (s.stream j).g := by
  unfold State.signal; dsimp only; split
  · split
    · simp only [State.stream, State.core_setCore]; split
      · next h => rw [← h]; simp
      · rfl
    · simp only [State.stream_setStream]; split
      · next h => subst h; rfl
      · rfl
  · rfl

@[simp] theorem State.p_signal (s : State) (i : StreamId) (a b : Bool) (l : List Nat) (j : StreamId) : ((s.signal i a b l).stream j).p = (s.stream j).p := by
  unfold State.signal; dsimp only; split
  · split
    · simp only [State.stream, State.core_setCore]; split
      · next h => rw [← h]; simp
      · rfl
    · simp only [State.stream_setStream]; split
      · next h => subst h; rfl
      · rfl
  · rfl

@[simp] theorem State.busy_signal (s : State) (i : StreamId) (a b : Bool) (l : List Nat) (j : StreamId) : ((s.signal i a b l).stream j).busy = (s.stream j).busy := by
  unfold State.signal; dsimp only; split
  · split
    · simp only [State.stream, State.core_setCore]; split
      · next h => rw [← h]; simp
      · rfl
    · simp only [State.stream_setStream]; split
      · next h => subst h; rfl
      · rfl
  · rfl

@[simp] theorem State.hold_signal (s : State) (i : StreamId) (a b : Bool) (l : List Nat) (j : StreamId) : ((s.signal i a b l).stream j).hold = (s.stream j).hold := by
  unfold State.signal; dsimp only; split
  · split
    · simp only [State.stream, State.core_setCore]; split
      · next h => rw [← h]; simp
      · rfl
    · simp only [State.stream_setStream]; split
      · next h => subst h; rfl
      · rfl
  · rfl

@[simp] theorem State.join_signal (s : State) (i : StreamId) (a b : Bool) (l : List Nat) (j : StreamId) : ((s.signal i a b l).stream j).join = (s.stream j).join := by
  unfold State.signal; dsimp only; split
  · split
    · simp only [State.stream, State.core_setCore]; split
      · next h => rw [← h]; simp
      · rfl
    · simp only [State.stream_setStream]; split
      · next h => subst h; rfl
      · rfl
  · rfl

@[simp] theorem State.wait_signal (s : State) (i : StreamId) (a b : Bool) (l : List Nat) (j : StreamId) : ((s.signal i a b l).stream j).wait = (s.stream j).wait := by
  unfold State.signal; dsimp only; split
  · split
    · simp only [State.stream, State.core_setCore]; split
      · next h => rw [← h]; simp
      · rfl
    · simp only [State.stream_setStream]; split
      · next h => subst h; rfl
      · rfl
  · rfl

@[simp] theorem State.csr_signal (s : State) (i : StreamId) (a b : Bool) (l : List Nat) (j : StreamId) : ((s.signal i a b l).stream j).csr = (s.stream j).csr := by
  unfold State.signal; dsimp only; split
  · split
    · simp only [State.stream, State.core_setCore]; split
      · next h => rw [← h]; simp
      · rfl
    · simp only [State.stream_setStream]; split
      · next h => subst h; rfl
      · rfl
  · rfl

@[simp] theorem State.streams_signal (s : State) (i : StreamId) (a b : Bool) (l : List Nat) (j : StreamId) : ((s.signal i a b l).stream j).streams = (s.stream j).streams := by
  unfold State.signal; dsimp only; split
  · split
    · simp only [State.stream, State.core_setCore]; split
      · next h => rw [← h]; simp
      · rfl
    · simp only [State.stream_setStream]; split
      · next h => subst h; rfl
      · rfl
  · rfl

theorem State.signals_signal_ne (s : State) {i j : StreamId} (a b : Bool) (l : List Nat) (h : j ≠ i) :
    ((s.signal i a b l).stream j).signals = (s.stream j).signals := by
  unfold State.signal; dsimp only; split
  · split
    · simp only [State.stream, State.core_setCore]; split
      · next q => rw [← q]; simp
      · rfl
    · simp only [State.stream_setStream_ne _ _ h]
  · rfl

end Sys2Proof.Machine
end

