-- ==== Sys2Proof/Laws/Finish.lean ====
section
/-!
SUPPORT. What an instruction that may issue becomes (`issue_goes`), and what its retirement keeps: every piece of the package that its
body kept, with the stream moved on (`keepsBut_retire`, `passed_retire`).
-/

namespace Sys2Proof.Machine

/-! ## Reads of the stream in focus -/

theorem Piece.same_refl (s : State) (p : Piece) : p.same s s := by
  cases p <;> simp [Piece.same, ClusterState.still]

theorem Piece.same_trans {s t u : State} {p : Piece} (hf : t.focus = s.focus) (h : p.same s t) (h' : p.same t u) : p.same s u := by
  cases p <;> simp only [Piece.same, ClusterState.still] at * <;> grind

theorem byteAt_congr {d e : Die} (hm : e.mem = d.mem) (hs : ∀ n < 128, (e.core n).store = (d.core n).store) (a : Nat) :
    e.byteAt a = d.byteAt a := by
  have hl : ∀ n ∈ List.range 128, (e.core n).l1Line (a / 128) = (d.core n).l1Line (a / 128) := fun n hn => by
    simp only [Core.l1Line, hs n (List.mem_range.1 hn)]
  unfold Die.byteAt
  dsimp only
  have hfind : ((List.range 128).find? fun n => ((e.core n).l1Line (a / 128)).dirty.getLsbD (a % 128 / 4)) =
      ((List.range 128).find? fun n => ((d.core n).l1Line (a / 128)).dirty.getLsbD (a % 128 / 4)) := by
    generalize List.range 128 = l at hl
    induction l with
    | nil => rfl
    | cons n t ih =>
      rw [List.find?_cons, List.find?_cons, hl n (by simp), ih fun m hm => hl m (by simp [hm])]
  rw [hfind]
  split
  · next n hn => rw [hl n (List.mem_of_find?_eq_some hn)]
  · rw [hm]

theorem State.byteAt_congr {s t : State} (d : DieId) (hm : (t.die d).mem = (s.die d).mem)
    (hs : ∀ c, (t.core c).store = (s.core c).store) (a : Nat) : (t.die d).byteAt a = (s.die d).byteAt a :=
  Machine.byteAt_congr hm (fun n hn => hs ⟨d, ⟨n, hn⟩⟩) a

/-- Two states that agree in every field but those of the stream in focus named by its pieces. -/
theorem Piece.same_of_fields {s t : State} (hf : t.focus = s.focus) {p : Piece}
    (me : t.me.x = s.me.x ∧ t.me.g = s.me.g ∧ t.me.p = s.me.p ∧ t.me.busy = s.me.busy ∧ t.me.run = s.me.run ∧ t.me.hold = s.me.hold ∧
      t.me.streams = s.me.streams)
    (ar : ∀ n, n ≠ 3 → (n < 8 ∨ 16 ≤ n) → t.me.reg n = s.me.reg n)
    (others : ∀ j, j ≠ s.focus → ClusterState.still (s.stream j) (t.stream j))
    (cores : ∀ c, (t.core c).regs = (s.core c).regs ∧ (t.core c).store = (s.core c).store ∧
      (t.core c).ctl = (s.core c).ctl ∧ (t.core c).ex = (s.core c).ex ∧ (t.core c).csr = (s.core c).csr)
    (mem : ∀ d, (t.die d).mem = (s.die d).mem ∧ (t.die d).commons = (s.die d).commons)
    (dies : ∀ d, { t.die d with mem := [], commons := [], cores := [] } = { s.die d with mem := [], commons := [], cores := [] })
    (ops : t.ops = s.ops ∧ t.nextOp = s.nextOp)
    (sys : t.invals = s.invals ∧ t.sched = s.sched ∧ t.sys = s.sys ∧ t.cycle = s.cycle ∧ t.fresh = s.fresh ∧
      t.agenda = s.agenda) : p.same s t := by
  have hc := cores s.focus.core
  have hr : t.cur.regs = s.cur.regs := by simpa [State.cur, hf] using hc.1
  cases p <;> simp only [Piece.same, State.x, State.steer, State.cap, State.vec, State.mask, State.tile, hr, me, hf, ops, sys,
    and_self, implies_true]
  · exact ar
  · simpa [State.cur, hf] using hc.2.1
  · simpa [State.cur, hf] using hc.2.2.1
  · simpa [State.cur, hf] using hc.2.2.2.1
  · simpa [State.cur, hf] using hc.2.2.2.2
  · exact others
  · exact fun c _ => cores c
  · exact fun d a => ⟨State.byteAt_congr d (mem d).1 (fun c => (cores c).2.1) a, by rw [(mem d).2]⟩
  · exact dies

/-- What an update of the stream in focus must keep for a piece of the package to stay. -/
def Piece.keptBy (u : State) (c : ClusterState) : Piece → Prop
  | .x => c.x = u.me.x
  | .steer => c.g = u.me.g
  | .status => c.p = u.me.p ∧ c.busy = u.me.busy
  | .run => c.run = u.me.run ∧ c.hold = u.me.hold ∧ c.streams = u.me.streams
  | .arith => c.csr = u.me.csr
  | _ => True

/-- An update of the stream in focus changes only that stream's pieces. -/
theorem Piece.same_setMe (u : State) (c : ClusterState) (p : Piece) (h : p.keptBy u c) : p.same u (u.setMe c) := by
  cases p <;> simp only [Piece.keptBy] at h <;>
    simp only [Piece.same, State.x, State.steer, State.cap, State.vec, State.mask, State.tile, State.me_setMe, State.cur_regs_setMe,
      State.cur_store_setMe, State.cur_ctl_setMe, State.cur_ex_setMe, State.cur_csr_setMe, State.ops_setMe, State.nextOp_setMe,
      State.invals_setMe, State.sched_setMe, State.sys_setMe, State.cycle_setMe, State.fresh_setMe, State.agenda_setMe,
      State.focus_setMe, and_self, implies_true, ClusterState.reg, h]
  · intro j hj; simp [State.setMe, State.stream_setStream_ne _ _ hj, ClusterState.still]
  · intro e _; simp [State.setMe]
  · intro d a
    exact ⟨State.byteAt_congr d (by simp) (by simp [State.setMe]) a, by simp⟩
  · intro d; simp

/-- What an update of the executing core must keep for a piece of the package to stay. -/
def Piece.keptIn (u : State) (k : Core) : Piece → Prop
  | .caps => k.regs.k = u.cur.regs.k
  | .vectors => k.regs.v = u.cur.regs.v
  | .masks => k.regs.m = u.cur.regs.m
  | .tiles => k.regs.z = u.cur.regs.z
  | .rings => { k.regs with k := [], v := [], m := [], z := [] } = { u.cur.regs with k := [], v := [], m := [], z := [] }
  | .store => k.store = u.cur.store
  | .ctl => k.ctl = u.cur.ctl
  | .crossbar => k.ex = u.cur.ex
  | .coreCsr => k.csr = u.cur.csr
  | .memory => k.store = u.cur.store
  | _ => True

/-- An update of the executing core that keeps its streams changes only that core's pieces. -/
theorem Piece.same_setCur (u : State) (k : Core) (p : Piece) (hc : k.cluster = u.cur.cluster) (h : p.keptIn u k) :
    p.same u (u.setCur k) := by
  have hme : (u.setCur k).me = u.me := by rw [State.me_setCur, hc]; rfl
  cases p <;> simp only [Piece.keptIn] at h <;>
    simp only [Piece.same, State.x, State.steer, State.cap, State.vec, State.mask, State.tile, hme, State.cur_setCur, State.ops_setCur,
      State.nextOp_setCur, State.invals_setCur, State.sched_setCur, State.sys_setCur, State.cycle_setCur, State.fresh_setCur,
      State.agenda_setCur, State.focus_setCur, and_self, implies_true, h]
  · intro j _
    have : (u.setCur k).stream j = u.stream j := by
      simp only [State.stream, State.setCur, State.core_setCore]
      split
      · next q => rw [hc, q]; rfl
      · rfl
    simp [this, ClusterState.still]
  · intro c hn; simp [State.setCur, State.core_setCore_ne _ _ hn]
  · intro d a
    refine ⟨State.byteAt_congr d (by simp) (fun c => ?_) a, by simp⟩
    simp only [State.setCur, State.core_setCore]
    split
    · next q => rw [h, q]; rfl
    · rfl
  · intro d; simp

/-- Marking partners as granted changes nothing but join marks (R209). -/
theorem Core.grantJoin_fields (c : Core) (ks : List Cluster) :
    (c.grantJoin ks).regs = c.regs ∧ (c.grantJoin ks).store = c.store ∧ (c.grantJoin ks).ctl = c.ctl ∧ (c.grantJoin ks).ex = c.ex ∧
      (c.grantJoin ks).csr = c.csr ∧ ∀ k, ((c.grantJoin ks).cluster k).still (c.cluster k) ∧ ((c.grantJoin ks).cluster k).wait = (c.cluster k).wait ∧ ((c.grantJoin ks).cluster k).fromPrev = (c.cluster k).fromPrev ∧
      ((c.grantJoin ks).cluster k).fromNext = (c.cluster k).fromNext := by
  induction ks generalizing c with
  | nil => simp [Core.grantJoin, ClusterState.still]
  | cons j t ih =>
    have h := ih (c.setCluster j { c.cluster j with join := .granted })
    have e : (c.grantJoin (j :: t)) = (c.setCluster j { c.cluster j with join := .granted }).grantJoin t := rfl
    rw [e]
    refine ⟨by simpa using h.1, by simpa using h.2.1, by simpa using h.2.2.1, by simpa using h.2.2.2.1, by simpa using h.2.2.2.2.1, ?_⟩
    intro k
    have hk := h.2.2.2.2.2 k
    by_cases hj : k = j
    · subst hj; simpa [ClusterState.still] using hk
    · simpa [ClusterState.still, Core.cluster_setCluster_ne _ _ hj] using hk

theorem ClusterState.still_symm {c e : ClusterState} (h : c.still e) : e.still c := by
  simp only [ClusterState.still] at *; grind

@[simp] theorem State.focus_atIssue (s : State) (i : Instr) : (s.atIssue i).focus = s.focus := by
  unfold State.atIssue; split <;> simp

/-- What the partners' join leaves: every field of every stream but join marks, every core, and the rest of the package. -/
theorem State.atIssue_fields (s : State) (i : Instr) :
    (∀ j, ClusterState.still (s.stream j) ((s.atIssue i).stream j) ∧ ((s.atIssue i).stream j).fromPrev = (s.stream j).fromPrev ∧
      ((s.atIssue i).stream j).fromNext = (s.stream j).fromNext) ∧
    (∀ c, ((s.atIssue i).core c).regs = (s.core c).regs ∧ ((s.atIssue i).core c).store = (s.core c).store ∧
      ((s.atIssue i).core c).ctl = (s.core c).ctl ∧ ((s.atIssue i).core c).ex = (s.core c).ex ∧
      ((s.atIssue i).core c).csr = (s.core c).csr) := by
  unfold State.atIssue
  split
  · have h := Core.grantJoin_fields s.cur (s.cur.joinPartners s.focus.cl)
    constructor
    · intro j
      simp only [State.stream, State.setCur, State.core_setCore]
      split
      · next q =>
        have hk := h.2.2.2.2.2 j.cl
        rw [q]
        exact ⟨ClusterState.still_symm hk.1, hk.2.2.1, hk.2.2.2⟩
      · simp [ClusterState.still]
    · intro c
      simp only [State.setCur, State.core_setCore]
      split
      · next q => subst q; exact ⟨h.1, h.2.1, h.2.2.1, h.2.2.2.1, h.2.2.2.2.1⟩
      · simp
  · simp [ClusterState.still]

@[simp] theorem State.die_rest_atIssue (s : State) (i : Instr) (d : DieId) :
    { (s.atIssue i).die d with cores := [] } = { s.die d with cores := [] } := by
  unfold State.atIssue
  split <;> simp

theorem State.system_atIssue (s : State) (i : Instr) : (s.atIssue i).ops = s.ops ∧ (s.atIssue i).nextOp = s.nextOp ∧
    (s.atIssue i).invals = s.invals ∧ (s.atIssue i).sched = s.sched ∧ (s.atIssue i).sys = s.sys ∧ (s.atIssue i).cycle = s.cycle ∧
    (s.atIssue i).fresh = s.fresh ∧ (s.atIssue i).agenda = s.agenda := by
  unfold State.atIssue
  split <;> simp

/-- The state that the body of an instruction sees is the state before it, but for tokens and join marks. -/
theorem Piece.same_issued (s : State) (i : Instr) (p : Piece) : p.same s ((s.atIssue i).take (syncBits i)) := by
  have h := State.atIssue_fields s i
  have hs := State.system_atIssue s i
  have hd := State.die_rest_atIssue s i
  simp only [Die.mk.injEq] at hd
  refine Piece.same_of_fields (by simp) ?_ ?_ ?_ ?_ ?_ ?_ ?_ ?_
  · have q := (h.1 s.focus).1
    simp only [ClusterState.still] at q
    simp [State.me, q]
  · intro n _ _
    have q := (h.1 s.focus).1
    simp only [ClusterState.still] at q
    simp [State.me, ClusterState.reg, q]
  · intro j _
    have q := (h.1 j).1
    simpa [ClusterState.still] using q
  · intro c; simpa using h.2 c
  · intro d; simp [hd d]
  · intro d; simp [hd d]
  · simp [hs]
  · simp [hs]

theorem State.pc_issued (s : State) (i : Instr) : ((s.atIssue i).take (syncBits i)).me.pc = s.me.pc := by
  have q := ((State.atIssue_fields s i).1 s.focus).1
  simp only [ClusterState.still] at q
  simp [State.me, q]

theorem State.stack_issued (s : State) (i : Instr) : ((s.atIssue i).take (syncBits i)).me.stack = s.me.stack := by
  have q := ((State.atIssue_fields s i).1 s.focus).1
  simp only [ClusterState.still] at q
  simp [State.me, q]

/-! ## Issue -/

/-- An instruction that may issue, and whose body neither waits nor faults exactly, does what its body says, its partners granted and its
tokens taken (R177, R209). -/
theorem State.issue_goes {s : State} {i : Instr} {body : State → Eff} (h : s.mayIssue i = true)
    (hb : (body (s.take (syncBits i))).goes = true) :
    s.issue i body = .next (finish (s.atIssue i) i (body ((s.atIssue i).take (syncBits i)))) := by
  simp only [State.mayIssue, Bool.and_eq_true, beq_iff_eq, Option.isNone_iff_eq_none] at h
  obtain ⟨⟨⟨h1, h2⟩, h3⟩, h4⟩ := h
  unfold State.issue
  simp only [h1, h2, h3, Option.isSome_none, Bool.false_eq_true, if_false]
  unfold State.joinReady at h4
  unfold State.atIssue State.joinsNow
  by_cases hj : (joins (syncBits i) && !s.me.issued && s.me.join != .granted && !(s.cur.joinPartners s.focus.cl).isEmpty) = true
  · simp only [Bool.and_eq_true, bne_iff_ne, Bool.not_eq_true'] at hj
    have h5 : ((s.cur.joinPartners s.focus.cl).all fun k => (s.cur.cluster k).join == .waiting) = true := by
      simpa [hj.1.1.1, hj.1.1.2, hj.1.2] using h4
    revert hb
    cases hB : body (s.take (syncBits i)) <;> intro hb <;> simp_all [Eff.goes]
  · rw [if_neg hj]
    revert hb
    cases hB : body (s.take (syncBits i)) <;> intro hb <;> simp only [Eff.goes, Bool.false_eq_true] at hb <;>
      simp only [if_neg hj]

/-- A word that one of the tests of R224 refuses parks its stream. -/
theorem State.issue_illegal {s : State} {i : Instr} {body : State → Eff} {c : IllegalCause} (h : s.illegalCause i = some c) :
    s.issue i body = .next (s.takeFault s.focus (.illegal c)) := by
  simp [State.issue, h]

/-- An instruction that has something to wait for changes nothing but the mark of what it waits for. -/
theorem State.issue_blocked {s : State} {i : Instr} {body : State → Eff} {w : Wait} (h : s.illegalCause i = none)
    (hh : s.me.hold = none) (ho : s.obstacle i = some w) : s.issue i body = .next (s.blocked w) := by
  simp [State.issue, h, hh, ho]

/-- A stream that a plain access holds starts nothing. -/
theorem State.issue_held {s : State} {i : Instr} {body : State → Eff} (h : s.illegalCause i = none) (hh : s.me.hold.isSome = true) :
    s.issue i body = .next s := by
  simp [State.issue, h, hh]

/-- A body that faults exactly parks the stream in the state before the instruction (R399). -/
theorem State.issue_fault {s : State} {i : Instr} {body : State → Eff} {f : FaultInfo} (h : s.illegalCause i = none)
    (hh : s.me.hold = none) (ho : s.obstacle i = none) (hb : body (s.take (syncBits i)) = .fault f) :
    s.issue i body = .next (s.takeFault s.focus f) := by
  simp [State.issue, h, hh, ho, hb]

/-- A body that waits changes nothing but the mark. -/
theorem State.issue_waits {s : State} {i : Instr} {body : State → Eff} {w : Wait} (h : s.illegalCause i = none)
    (hh : s.me.hold = none) (ho : s.obstacle i = none) (hb : body (s.take (syncBits i)) = .block w) :
    s.issue i body = .next (s.blocked w) := by
  simp [State.issue, h, hh, ho, hb]

/-! ## Retirement -/

/-- The retirement of an instruction that raised no flag. -/
def State.done (u : State) (i : Instr) : State :=
  (u.awake.retire u.focus (instrWidth i) 0#8).signal u.focus (signalsNext (syncBits i)) (signalsPrev (syncBits i)) []

theorem finish_retire (s0 u : State) (i : Instr) : finish s0 i (.retire u 0) = u.done i := rfl

@[simp] theorem State.focus_done (u : State) (i : Instr) : (u.done i).focus = u.focus := by simp [State.done]

/-- A retirement keeps every piece of the package; the stream's pc and block stack are no piece. -/
theorem Piece.same_done (u : State) (i : Instr) (p : Piece) : p.same u (u.done i) := by
  unfold State.done
  refine Piece.same_of_fields (by simp) ?_ ?_ ?_ ?_ ?_ ?_ ?_ ?_
  · simp [State.me]
  · intro n h h'
    have e : ∀ (c e : ClusterState), c.csr = e.csr → c.reg n = e.reg n := by intro c e q; simp [ClusterState.reg, q]
    simp only [State.me, State.focus_signal, State.focus_retire_zero, State.focus_awake]
    rw [e _ _ (State.csr_signal _ _ _ _ _ _)]
    have := State.reg_retire_zero u.awake u.focus (instrWidth i) h h' u.focus
    rw [e _ _ (State.csr_awake _ _)] at this
    exact this
  · intro j hj
    simp only [ClusterState.still]
    refine ⟨?_, ?_, ?_, ?_, ?_, ?_, ?_, ?_, ?_, ?_, ?_⟩
    · simp [State.retire, State.pc_setPc_ne _ _ _ hj]
    · simp
    · simp [State.retire, State.stack_setPc_ne _ _ _ hj]
    · simp
    · simp
    · simp
    · simp
    · simp
    · simp [State.signals_signal_ne _ _ _ _ hj]
    · have : ∀ (v : State), v.retireFlags u.focus 0#8 = v.setStream u.focus (v.stream u.focus).advanceRet := fun v =>
        State.retireFlags_zero v u.focus
      simp [State.retire, this, State.stream_setStream_ne _ _ hj]
    · simp
  · intro c; simp
  · intro d; simp
  · intro d; simp
  · simp
  · simp

/-- A retired instruction's stream goes on at what follows it (R211). -/
theorem State.flow_done (u : State) (i : Instr) :
    ((u.done i).me.pc, (u.done i).me.stack) = endcheck (u.me.pc + BitVec.ofNat 16 (instrWidth i)) u.me.stack := by
  simp [State.done, State.me]

/-- What completes and branches (R213): no `endcheck` runs. -/
def State.gone (u : State) (i : Instr) (pc : BitVec 16) (st : List Block) : State :=
  ((u.awake.retireFlags u.focus 0#8).setPc u.focus pc st).signal u.focus (signalsNext (syncBits i)) (signalsPrev (syncBits i)) []

theorem finish_jump (s0 u : State) (i : Instr) (pc : BitVec 16) (st : List Block) : finish s0 i (.jump u pc st) = u.gone i pc st := rfl

@[simp] theorem State.focus_gone (u : State) (i : Instr) (pc : BitVec 16) (st : List Block) : (u.gone i pc st).focus = u.focus := by
  simp [State.gone]

@[simp] theorem State.pc_gone (u : State) (i : Instr) (pc : BitVec 16) (st : List Block) : (u.gone i pc st).me.pc = pc := by
  simp [State.gone, State.me]

@[simp] theorem State.stack_gone (u : State) (i : Instr) (pc : BitVec 16) (st : List Block) : (u.gone i pc st).me.stack = st := by
  simp [State.gone, State.me]

/-- A branch keeps every piece of the package. -/
theorem Piece.same_gone (u : State) (i : Instr) (pc : BitVec 16) (st : List Block) (p : Piece) : p.same u (u.gone i pc st) := by
  have hz : ∀ v : State, v.retireFlags u.focus 0#8 = v.setStream u.focus (v.stream u.focus).advanceRet := fun v =>
    State.retireFlags_zero v u.focus
  unfold State.gone
  refine Piece.same_of_fields (by simp) ?_ ?_ ?_ ?_ ?_ ?_ ?_ ?_
  · simp [State.me]
  · intro n h h'
    have e : ∀ (c e : ClusterState), c.csr = e.csr → c.reg n = e.reg n := by intro c e q; simp [ClusterState.reg, q]
    simp only [State.me, State.focus_signal, State.focus_setPc, State.focus_retireFlags_zero, State.focus_awake]
    rw [e _ _ (State.csr_signal _ _ _ _ _ _), e _ _ (State.csr_setPc _ _ _ _ _), hz, State.stream_setStream_same,
      ClusterState.reg_advanceRet _ h h']
    exact e _ _ (State.csr_awake _ _)
  · intro j hj
    simp only [ClusterState.still]
    refine ⟨?_, ?_, ?_, ?_, ?_, ?_, ?_, ?_, ?_, ?_, ?_⟩
    · simp [State.pc_setPc_ne _ _ _ hj]
    · simp
    · simp [State.stack_setPc_ne _ _ _ hj]
    · simp
    · simp
    · simp
    · simp
    · simp
    · simp [State.signals_signal_ne _ _ _ _ hj]
    · simp [hz, State.stream_setStream_ne _ _ hj]
    · simp
  · intro c; simp
  · intro d; simp
  · intro d; simp
  · simp
  · simp

/-- An instruction whose body writes only some pieces and then branches keeps all the others. -/
theorem keepsBut_gone {s u : State} {i : Instr} {pc : BitVec 16} {st : List Block} {l : List Piece} (hf : u.focus = s.focus)
    (h : ∀ p, p ∉ l → p.same ((s.atIssue i).take (syncBits i)) u) : s.keepsBut (u.gone i pc st) l := by
  intro p hp
  have h0 := Piece.same_issued s i p
  exact Piece.same_trans (t := u) hf (Piece.same_trans (by simp) h0 (h p hp)) (Piece.same_gone u i pc st p)

/-- An instruction that completes and branches, having changed nothing. -/
theorem State.issue_jumps {s : State} {i : Instr} {body : State → Eff} {pc : BitVec 16} {st : List Block} (h : s.mayIssue i = true)
    (hb : body (s.take (syncBits i)) = .jump (s.take (syncBits i)) pc st)
    (hb' : body ((s.atIssue i).take (syncBits i)) = .jump ((s.atIssue i).take (syncBits i)) pc st) :
    ∃ t, s.issue i body = .next t ∧ t.me.pc = pc ∧ t.me.stack = st ∧ s.keepsBut t [] := by
  refine ⟨((s.atIssue i).take (syncBits i)).gone i pc st, ?_, by simp, by simp, keepsBut_gone (by simp) fun p _ => Piece.same_refl _ p⟩
  rw [State.issue_goes h (by rw [hb]; rfl), hb', finish_jump]

/-- An instruction whose body leaves the pc and block stack alone passes on to what follows it. -/
theorem passed_retire {s u : State} {i : Instr} (hpc : u.me.pc = ((s.atIssue i).take (syncBits i)).me.pc)
    (hst : u.me.stack = ((s.atIssue i).take (syncBits i)).me.stack) : s.passed (u.done i) (instrWidth i) := by
  unfold State.passed
  rw [State.flow_done, hpc, hst, State.pc_issued, State.stack_issued]

/-- An instruction that completes, having changed nothing. -/
theorem State.issue_passes {s : State} {i : Instr} {body : State → Eff} (h : s.mayIssue i = true)
    (hb : body (s.take (syncBits i)) = .retire (s.take (syncBits i)) 0)
    (hb' : body ((s.atIssue i).take (syncBits i)) = .retire ((s.atIssue i).take (syncBits i)) 0) :
    ∃ t, s.issue i body = .next t ∧ t.me.pc = (endcheck (s.me.pc + BitVec.ofNat 16 (instrWidth i)) s.me.stack).1 ∧
      t.me.stack = (endcheck (s.me.pc + BitVec.ofNat 16 (instrWidth i)) s.me.stack).2 ∧ s.keepsBut t [] := by
  have hp : s.passed (((s.atIssue i).take (syncBits i)).done i) (instrWidth i) := passed_retire rfl rfl
  have hp' := Prod.ext_iff.1 hp
  refine ⟨((s.atIssue i).take (syncBits i)).done i, ?_, hp'.1, hp'.2, ?_⟩
  · rw [State.issue_goes h (by rw [hb]; rfl), hb', finish_retire]
  · intro p _
    exact Piece.same_trans (by simp) (Piece.same_issued s i p) (Piece.same_done _ i p)

/-- An instruction whose body writes only some pieces keeps all the others. -/
theorem keepsBut_retire {s u : State} {i : Instr} {l : List Piece} (hf : u.focus = s.focus)
    (h : ∀ p, p ∉ l → p.same ((s.atIssue i).take (syncBits i)) u) : s.keepsBut (u.done i) l := by
  intro p hp
  have h0 := Piece.same_issued s i p
  exact Piece.same_trans (t := u) hf (Piece.same_trans (by simp) h0 (h p hp)) (Piece.same_done u i p)


end Sys2Proof.Machine
end

