-- ==== Sys2Proof/Laws/Memory.lean ====
section
/-!
SUPPORT. Memory operations: each keeps the canonical form, and changes nothing of a die but its memory, its poison, and the L1s and core
CSRs of its cores.
-/

namespace Sys2Proof.Machine

/-! ## Bytes -/

theorem wf_writeByte {m : Memory} (h : Memory.wf m = true) (a : Nat) (b : Byte) : Memory.wf (writeByte m a b) = true := Sparse.wf_set h

theorem wf_writeBytes {m : Memory} (h : Memory.wf m = true) (a : Nat) (bs : List Byte) : Memory.wf (writeBytes m a bs) = true := by
  induction bs generalizing m a with
  | nil => exact h
  | cons b t ih => exact ih (wf_writeByte h a b) _

theorem wf_writeNat {m : Memory} (h : Memory.wf m = true) (a n v : Nat) : Memory.wf (writeNat m a n v) = true := wf_writeBytes h _ _

@[simp] theorem readByte_writeByte_same (m : Memory) (a : Nat) (b : Byte) : readByte (writeByte m a b) a = b := Sparse.get_set_same

theorem readByte_writeByte_ne (m : Memory) {a c : Nat} (b : Byte) (h : c ≠ a) : readByte (writeByte m a b) c = readByte m c :=
  Sparse.get_set_ne h

/-- A write of several bytes leaves every address outside them alone. -/
theorem readByte_writeBytes_ne (m : Memory) {a c : Nat} (bs : List Byte) (h : c < a ∨ a + bs.length ≤ c) :
    readByte (writeBytes m a bs) c = readByte m c := by
  induction bs generalizing m a with
  | nil => rfl
  | cons b t ih =>
    simp only [List.length_cons] at h
    rw [writeBytes, ih _ (by omega), readByte_writeByte_ne _ _ (by omega)]

/-- A write of several bytes puts each at its address. -/
theorem readByte_writeBytes (m : Memory) {a i : Nat} (bs : List Byte) (h : i < bs.length) :
    readByte (writeBytes m a bs) (a + i) = bs[i] := by
  induction bs generalizing m a i with
  | nil => simp at h
  | cons b t ih =>
    cases i with
    | zero => rw [writeBytes, readByte_writeBytes_ne _ _ (by omega)]; simp
    | succ j =>
      have e : a + (j + 1) = (a + 1) + j := by omega
      rw [writeBytes, e, ih _ (by simpa using h)]
      rfl

/-- What was written is read back. -/
theorem readBytes_writeBytes (m : Memory) (a : Nat) (bs : List Byte) : readBytes (writeBytes m a bs) a bs.length = bs := by
  have h : ∀ n, ∀ (m : Memory) (a : Nat), readBytes m a n = (List.range n).map fun i => readByte m (a + i) := by
    intro n
    induction n with
    | zero => intro m a; rfl
    | succ n ih =>
      intro m a
      rw [readBytes, ih, List.range_succ_eq_map, List.map_cons, List.map_map]
      congr 1
      apply List.map_congr_left
      intro i _
      simp only [Function.comp]
      congr 1
      omega
  rw [h]
  apply List.ext_getElem
  · simp
  · intro i h1 h2
    simp only [List.getElem_map, List.getElem_range]
    exact readByte_writeBytes m bs h2

/-! ## The L1s and the slices -/

/-- Two dies that differ in nothing but memory, poison, and the L1s and CSRs of their cores. -/
structure Die.NearMemory (d e : Die) : Prop where
  commons : e.commons = d.commons
  csr : e.csr = d.csr
  tlb : e.tlb = d.tlb
  walkCache : e.walkCache = d.walkCache
  counts : e.counts = d.counts
  torus : e.torus = d.torus
  pool : e.pool = d.pool
  optical : e.optical = d.optical
  seqCache : e.seqCache = d.seqCache
  kvinvOps : e.kvinvOps = d.kvinvOps
  channels : e.channels = d.channels
  faults : e.faults = d.faults
  start : e.start = d.start
  window : e.window = d.window
  inReset : e.inReset = d.inReset
  clusters : ∀ n k, (e.core n).cluster k = (d.core n).cluster k
  regs : ∀ n, (e.core n).regs = (d.core n).regs
  ctl : ∀ n, (e.core n).ctl = (d.core n).ctl
  ex : ∀ n, (e.core n).ex = (d.core n).ex
  store : ∀ n, { (e.core n).store with l1 := [] } = { (d.core n).store with l1 := [] }

theorem Die.NearMemory.refl (d : Die) : d.NearMemory d := by constructor <;> simp

theorem Die.NearMemory.trans {d e f : Die} (h : d.NearMemory e) (h' : e.NearMemory f) : d.NearMemory f := by
  constructor <;> simp only [h'.commons, h'.csr, h'.tlb, h'.walkCache, h'.counts, h'.torus, h'.pool, h'.optical, h'.seqCache, h'.kvinvOps,
    h'.channels, h'.faults, h'.start, h'.window, h'.inReset, h'.clusters, h'.regs, h'.ctl, h'.ex, h'.store, h.commons, h.csr, h.tlb, h.walkCache,
    h.counts, h.torus, h.pool, h.optical, h.seqCache, h.kvinvOps, h.channels, h.faults, h.start, h.window, h.inReset, h.clusters, h.regs, h.ctl,
    h.ex, h.store, implies_true]

/-- A memory replaced. -/
theorem Die.NearMemory.mem (d : Die) (m : Memory) (p : List Nat) : d.NearMemory { d with mem := m, poison := p } := by
  constructor <;> intros <;> rfl

/-- A core whose L1 and CSRs are replaced. -/
theorem Die.NearMemory.core (d : Die) (n : Nat) (c : Core) (hc : ∀ k, c.cluster k = (d.core n).cluster k) (hr : c.regs = (d.core n).regs)
    (ht : c.ctl = (d.core n).ctl) (hx : c.ex = (d.core n).ex)
    (hs : { c.store with l1 := [] } = { (d.core n).store with l1 := [] }) : d.NearMemory (d.setCore n c) := by
  constructor
  case clusters => intro m k; rw [Die.core_setCore]; split; (next h => subst h; exact hc k); rfl
  case regs => intro m; rw [Die.core_setCore]; split; (next h => subst h; exact hr); rfl
  case ctl => intro m; rw [Die.core_setCore]; split; (next h => subst h; exact ht); rfl
  case ex => intro m; rw [Die.core_setCore]; split; (next h => subst h; exact hx); rfl
  case store => intro m; rw [Die.core_setCore]; split; (next h => subst h; exact hs); rfl
  all_goals rfl

/-- A memory operation of a die: it stays near, and the canonical form of the memory is kept. -/
def Die.Keeps (d e : Die) : Prop := d.NearMemory e ∧ (Memory.wf d.mem = true → Memory.wf e.mem = true)

theorem Die.Keeps.refl (d : Die) : d.Keeps d := ⟨Die.NearMemory.refl d, id⟩

theorem Die.Keeps.trans {d e f : Die} (h : d.Keeps e) (h' : e.Keeps f) : d.Keeps f :=
  ⟨h.1.trans h'.1, fun q => h'.2 (h.2 q)⟩

theorem Die.Keeps.core (d : Die) (n : Nat) (c : Core) (hc : ∀ k, c.cluster k = (d.core n).cluster k) (hr : c.regs = (d.core n).regs)
    (ht : c.ctl = (d.core n).ctl) (hx : c.ex = (d.core n).ex)
    (hs : { c.store with l1 := [] } = { (d.core n).store with l1 := [] }) : d.Keeps (d.setCore n c) :=
  ⟨Die.NearMemory.core d n c hc hr ht hx hs, id⟩

theorem Die.Keeps.mem (d : Die) (m : Memory) (p : List Nat) (h : Memory.wf d.mem = true → Memory.wf m = true) :
    d.Keeps { d with mem := m, poison := p } := ⟨Die.NearMemory.mem d m p, h⟩

theorem Die.Keeps.foldl {α : Type} (f : Die → α → Die) (h : ∀ (d : Die) a, d.Keeps (f d a)) (l : List α) (d : Die) : d.Keeps (l.foldl f d) := by
  induction l generalizing d with
  | nil => exact Die.Keeps.refl d
  | cons a t ih => exact (h d a).trans (ih _)

theorem Die.keeps_setL1 (d : Die) (n line : Nat) (l : L1Line) : d.Keeps (d.setCore n ((d.core n).setL1 line l)) :=
  Die.Keeps.core _ _ _ (fun k => by cases k <;> rfl) rfl rfl rfl rfl

theorem Die.keeps_gain (d : Die) (n k : Nat) : d.Keeps (d.setCore n ((d.core n).gain k)) :=
  Die.Keeps.core _ _ _ (fun k => by cases k <;> rfl) rfl rfl rfl rfl

theorem wf_writeWords {m : Memory} (h : Memory.wf m = true) (line : Nat) (ws : List (Nat × BitVec 32)) :
    Memory.wf (writeWords m line ws) = true := by
  unfold writeWords
  induction ws generalizing m with
  | nil => exact h
  | cons w t ih => exact ih (wf_writeNat h _ _ _)

theorem Die.keeps_dropL1 (d : Die) (core line : Nat) : d.Keeps (d.dropL1 core line) := by
  unfold Die.dropL1
  extract_lets l e
  have he : d.Keeps e := by
    simp only [e]
    split
    · exact Die.Keeps.refl d
    · exact Die.keeps_setL1 _ _ _ _
  split
  · exact he
  · split
    · exact he.trans (Die.keeps_gain _ _ _)
    · exact he.trans (Die.Keeps.mem e _ e.poison fun q => wf_writeWords q _ _)

theorem Die.keeps_recall (d : Die) (line : Nat) (keep : Option Nat) : d.Keeps (d.recall line keep) := by
  unfold Die.recall
  refine Die.Keeps.foldl _ (fun d k => ?_) _ _
  split
  · exact Die.Keeps.refl _
  · exact Die.keeps_dropL1 _ _ _

theorem Die.keeps_recallDirty (d : Die) (line : Nat) (keep : Option Nat) : d.Keeps (d.recallDirty line keep) := by
  unfold Die.recallDirty
  refine Die.Keeps.foldl _ (fun d k => ?_) _ _
  split
  · exact Die.Keeps.refl _
  · exact Die.keeps_dropL1 _ _ _

theorem Die.keeps_sliceRead (d : Die) (a n : Nat) : d.Keeps (d.sliceRead a n).1 := by
  unfold Die.sliceRead
  dsimp only
  split <;> exact Die.keeps_recallDirty _ _ _

theorem Die.keeps_sliceWrite (d : Die) (a : Nat) (bs : List Byte) : d.Keeps (d.sliceWrite a bs).1 := by
  unfold Die.sliceWrite
  dsimp only
  split
  · exact Die.keeps_recall _ _ _
  · exact (Die.keeps_recall _ _ _).trans (Die.Keeps.mem _ _ _ fun q => wf_writeBytes q _ _)

theorem Die.keeps_sliceRmw (d : Die) (a n : Nat) (f : Nat → Option Nat) : d.Keeps (d.sliceRmw a n f).1 := by
  unfold Die.sliceRmw
  dsimp only
  split
  · exact Die.keeps_recall _ _ _
  · split
    · exact (Die.keeps_recall _ _ _).trans (Die.Keeps.mem _ _ _ fun q => wf_writeNat q _ _ _)
    · exact Die.keeps_recall _ _ _

theorem Die.keeps_mergeFill (d : Die) (core line : Nat) : d.Keeps (d.mergeFill core line).1 := by
  unfold Die.mergeFill
  dsimp only
  split
  · exact (Die.keeps_recallDirty d line (some core)).trans (Die.keeps_gain _ _ _)
  · exact (Die.keeps_recallDirty d line (some core)).trans
      (Die.Keeps.core _ _ _ (fun k => by cases k <;> rfl) rfl rfl rfl rfl)

theorem Die.keeps_fillUnless (d : Die) (core line : Nat) (b : Bool) : d.Keeps (d.fillUnless core line b).1 := by
  unfold Die.fillUnless
  split
  · exact Die.Keeps.refl d
  · exact Die.keeps_mergeFill _ _ _

theorem Die.keeps_evictL1 (d : Die) (core line : Nat) : d.Keeps (d.evictL1 core line) := by
  unfold Die.evictL1
  dsimp only
  split
  · exact Die.Keeps.refl d
  · split
    · exact Die.keeps_dropL1 _ _ _
    · exact Die.Keeps.refl d

theorem Die.keeps_l1Read (d : Die) (core a n : Nat) : d.Keeps (d.l1Read core a n).1 := by
  unfold Die.l1Read
  extract_lets mask r
  split
  · exact Die.keeps_fillUnless _ _ _ _
  · exact (Die.keeps_fillUnless _ _ _ _).trans (Die.keeps_evictL1 _ _ _)

theorem Die.keeps_storeL1 (d : Die) (core line : Nat) (l : L1Line) :
    d.Keeps ((d.setCore core ((d.core core).setL1 line l)).evictL1 core line) :=
  (Die.keeps_setL1 d core line l).trans (Die.keeps_evictL1 _ _ _)

theorem Die.keeps_l1Write (d : Die) (core a : Nat) (bs : List Byte) : d.Keeps (d.l1Write core a bs).1 := by
  unfold Die.l1Write
  extract_lets mask whole r e c
  have h : d.Keeps r.1 := Die.keeps_fillUnless _ _ _ _
  split
  · exact h
  · have he : d.Keeps e := h.trans (Die.keeps_recall r.1 (a / 128) (some core))
    clear_value e
    exact he.trans (Die.keeps_storeL1 e core (a / 128) ((c.l1Line (a / 128)).store (a % 128) bs))

theorem Die.keeps_poke (d : Die) (a : Nat) (bs : List Byte) : d.Keeps (d.poke a bs) := by
  unfold Die.poke
  exact Die.Keeps.foldl _ (fun d i => Die.keeps_sliceWrite d _ _) _ _

end Sys2Proof.Machine
end

