-- ==== Sys2Proof/Laws/Fault.lean ====
section
/-!
SUPPORT. Raising an entry and taking a fault: what a post leaves alone, and what parking does to its stream.
-/

namespace Sys2Proof.Machine

/-- What raising a fault-queue entry leaves alone: every stream, the register files, control state and crossbars of every core, the
operations in flight, and the package's own state but for the interrupts it notes. -/
structure State.Posted (s t : State) : Prop where
  stream : ∀ j, t.stream j = s.stream j
  regs : ∀ c, (t.core c).regs = (s.core c).regs
  ctl : ∀ c, (t.core c).ctl = (s.core c).ctl
  ex : ∀ c, (t.core c).ex = (s.core c).ex
  ops : t.ops = s.ops
  nextOp : t.nextOp = s.nextOp
  invals : t.invals = s.invals
  sched : t.sched = s.sched
  cycle : t.cycle = s.cycle
  fresh : t.fresh = s.fresh
  agenda : t.agenda = s.agenda
  focus : t.focus = s.focus
  wf : ∀ d, Memory.wf (s.die d).mem = true → Memory.wf (t.die d).mem = true
  commons : ∀ d, (t.die d).commons = (s.die d).commons

theorem State.Posted.refl (s : State) : s.Posted s := by constructor <;> simp

theorem State.Posted.trans {s t u : State} (h : s.Posted t) (h' : t.Posted u) : s.Posted u where
  stream j := (h'.stream j).trans (h.stream j)
  regs c := (h'.regs c).trans (h.regs c)
  ctl c := (h'.ctl c).trans (h.ctl c)
  ex c := (h'.ex c).trans (h.ex c)
  ops := h'.ops.trans h.ops
  nextOp := h'.nextOp.trans h.nextOp
  invals := h'.invals.trans h.invals
  sched := h'.sched.trans h.sched
  cycle := h'.cycle.trans h.cycle
  fresh := h'.fresh.trans h.fresh
  agenda := h'.agenda.trans h.agenda
  focus := h'.focus.trans h.focus
  wf d q := h'.wf d (h.wf d q)
  commons d := (h'.commons d).trans (h.commons d)

/-- A die replaced by one whose cores, Commons and memory form are kept. -/
theorem State.Posted.setDie (s : State) (d : DieId) (x : Die) (hc : ∀ n k, (x.core n).cluster k = ((s.die d).core n).cluster k)
    (hr : ∀ n, (x.core n).regs = ((s.die d).core n).regs) (ht : ∀ n, (x.core n).ctl = ((s.die d).core n).ctl)
    (hx : ∀ n, (x.core n).ex = ((s.die d).core n).ex) (hm : x.commons = (s.die d).commons)
    (hw : Memory.wf (s.die d).mem = true → Memory.wf x.mem = true) : s.Posted (s.setDie d x) := by
  constructor
  case stream =>
    intro j; simp only [State.stream, State.core, State.die_setDie]; split
    · next h => rw [hc, h]
    · rfl
  case regs =>
    intro c; simp only [State.core, State.die_setDie]; split
    · next h => rw [hr, h]
    · rfl
  case ctl =>
    intro c; simp only [State.core, State.die_setDie]; split
    · next h => rw [ht, h]
    · rfl
  case ex =>
    intro c; simp only [State.core, State.die_setDie]; split
    · next h => rw [hx, h]
    · rfl
  case wf =>
    intro e; simp only [State.die_setDie]; split
    · next h => subst h; exact hw
    · exact id
  case commons =>
    intro e; simp only [State.die_setDie]; split
    · next h => subst h; exact hm
    · rfl
  all_goals simp

theorem State.Posted.keeps (s : State) (d : DieId) {x : Die} (h : (s.die d).Keeps x) : s.Posted (s.setDie d x) :=
  State.Posted.setDie s d x h.1.clusters h.1.regs h.1.ctl h.1.ex h.1.commons h.2

theorem State.Posted.note (s : State) (n : HostNote) : s.Posted (s.note n) := by
  constructor <;> intros <;> first | rfl | assumption

theorem State.Posted.setDieReg (s : State) (d : DieId) (n : Nat) (v : Word) : s.Posted (s.setDieReg d n v) := by
  unfold State.setDieReg
  exact State.Posted.setDie _ _ _ (fun _ _ => rfl) (fun _ => rfl) (fun _ => rfl) (fun _ => rfl) rfl id

theorem State.Posted.count (s : State) (d : DieId) (n k : Nat) : s.Posted (s.count d n k) := State.Posted.setDieReg _ _ _ _

theorem State.Posted.faults (s : State) (d : DieId) (q : FaultQueue) : s.Posted (s.setFaults d q) :=
  State.Posted.setDie _ _ _ (fun _ _ => rfl) (fun _ => rfl) (fun _ => rfl) (fun _ => rfl) rfl id

theorem State.posted_writeEntry (s : State) (d : DieId) (e : FaultEntry) : s.Posted (s.writeEntry d e) := by
  unfold State.writeEntry
  extract_lets q p head s1 s2 s3 s4
  have h1 : s.Posted s1 := State.Posted.keeps s d (Die.keeps_poke _ _ _)
  have h2 : s.Posted s2 := h1.trans (State.Posted.faults _ _ _)
  have h3 : s.Posted s3 := h2.trans (State.Posted.setDieReg _ _ _ _)
  have h4 : s.Posted s4 := by
    simp only [s4]; split
    · exact h3.trans (State.Posted.note _ _)
    · exact h3
  split
  · exact h4.trans (State.Posted.note _ _)
  · exact h4

theorem State.posted_post (s : State) (d : DieId) (e : FaultEntry) : s.Posted (s.post d e) := by
  unfold State.post
  dsimp only
  split
  · exact State.Posted.count _ _ _ _
  · refine State.Posted.trans (t := s.setFaults d { (s.die d).faults with next := (s.die d).faults.next + 1 })
      (State.Posted.faults s d _) ?_
    split
    · split
      · exact (State.posted_writeEntry _ _ _).trans (State.Posted.count _ _ _ _)
      · exact State.posted_writeEntry _ _ _
    · exact (State.Posted.faults _ _ _).trans (State.Posted.count _ _ _ _)

theorem State.posted_postClasses (s : State) (i : StreamId) (l : List Nat) : s.Posted (s.postClasses i l) := by
  unfold State.postClasses
  induction l generalizing s with
  | nil => exact State.Posted.refl s
  | cons k t ih => exact (State.posted_post _ _ _).trans (ih _)

/-! ## Taking a fault (R399, R401) -/

/-- A faulting stream parks on the sequence number of its entry. -/
@[simp] theorem State.stream_takeFault (s : State) (i : StreamId) (f : FaultInfo) : (s.takeFault i f).stream i =
    { s.stream i with run := .parked (s.die i.core.die).faults.next, wait := none, join := .none, hold := none } := by
  unfold State.takeFault
  rw [(State.posted_post _ _ _).stream]
  simp

/-- Every other stream is as it was. -/
theorem State.stream_takeFault_ne (s : State) {i j : StreamId} (f : FaultInfo) (h : j ≠ i) :
    (s.takeFault i f).stream j = s.stream j := by
  unfold State.takeFault
  rw [(State.posted_post _ _ _).stream]
  simp [State.stream_setStream_ne _ _ h]

@[simp] theorem State.regs_takeFault (s : State) (i : StreamId) (f : FaultInfo) (c : CoreId) :
    ((s.takeFault i f).core c).regs = (s.core c).regs := by
  unfold State.takeFault
  rw [(State.posted_post _ _ _).regs]
  simp

@[simp] theorem State.focus_takeFault (s : State) (i : StreamId) (f : FaultInfo) : (s.takeFault i f).focus = s.focus := by
  unfold State.takeFault
  rw [(State.posted_post _ _ _).focus]
  simp

@[simp] theorem State.ops_takeFault (s : State) (i : StreamId) (f : FaultInfo) : (s.takeFault i f).ops = s.ops := by
  unfold State.takeFault
  rw [(State.posted_post _ _ _).ops]
  simp

/-- A fault keeps the canonical form of memory. -/
theorem State.wf_takeFault (s : State) (i : StreamId) (f : FaultInfo) (d : DieId) (h : Memory.wf (s.die d).mem = true) :
    Memory.wf ((s.takeFault i f).die d).mem = true := by
  unfold State.takeFault
  exact (State.posted_post _ _ _).wf d (by simpa using h)

end Sys2Proof.Machine
end

