-- ==== Sys2Proof/Laws/PerInstr.lean ====
section
/-!
SUPPORT. What is said of every instruction, one lemma per constructor: its word fits its container, and the first bit of the container tells
a 32-bit word from a pair of compact ones (R206, R208).
-/

namespace Sys2Proof.Laws.Fits

/-- A word of an instruction has bit 31 set and 32 bits; a compact word has 15 bits. -/
def Statement (i : Instr) : Prop :=
  match encode i with
  | some (.word w) => 2 ^ 31 ≤ w ∧ w < 2 ^ 32
  | some (.compact h) => h < 2 ^ 15
  | none => True

theorem blk (l : BitVec 10) (c : BitVec 9) : Statement (.blk l c) := by
  show 2 ^ 31 ≤ (place2 0x80000000 l 9 c 0) ∧ (place2 0x80000000 l 9 c 0) < 2 ^ 32
  have h0 := l.isLt
  have h1 := c.isLt
  simp only [place1, place2]; omega
theorem blkr (l : BitVec 10) (r : BitVec 5) : Statement (.blkr l r) := by
  show 2 ^ 31 ≤ (place2 0x80080000 l 9 r 4) ∧ (place2 0x80080000 l 9 r 4) < 2 ^ 32
  have h0 := l.isLt
  have h1 := r.isLt
  simp only [place1, place2]; omega
theorem prep (sy : BitVec 5) (g : BitVec 4) (t : BitVec 15) : Statement (.prep sy g t) := by
  show 2 ^ 31 ≤ (place3 0x80100000 sy 26 g 15 t 0) ∧ (place3 0x80100000 sy 26 g 15 t 0) < 2 ^ 32
  have h0 := sy.isLt
  have h1 := g.isLt
  have h2 := t.isLt
  simp only [place1, place2, place3]; omega
theorem br (sy : BitVec 5) (g : BitVec 4) : Statement (.br sy g) := by
  show 2 ^ 31 ≤ (place2 0x80180000 sy 26 g 13) ∧ (place2 0x80180000 sy 26 g 13) < 2 ^ 32
  have h0 := sy.isLt
  have h1 := g.isLt
  simp only [place1, place2]; omega
theorem brl (sy : BitVec 5) (g : BitVec 4) : Statement (.brl sy g) := by
  show 2 ^ 31 ≤ (place2 0x801A0000 sy 26 g 13) ∧ (place2 0x801A0000 sy 26 g 13) < 2 ^ 32
  have h0 := sy.isLt
  have h1 := g.isLt
  simp only [place1, place2]; omega
theorem ret (sy : BitVec 5) (g : BitVec 4) : Statement (.ret sy g) := by
  show 2 ^ 31 ≤ (place2 0x801C0000 sy 26 g 13) ∧ (place2 0x801C0000 sy 26 g 13) < 2 ^ 32
  have h0 := sy.isLt
  have h1 := g.isLt
  simp only [place1, place2]; omega
theorem cmp (sy : BitVec 5) (g : BitVec 4) (a b : BitVec 5) (c : BitVec 3) : Statement (.cmp sy g a b c) := by
  show 2 ^ 31 ≤ (place2 (place3 0x80200000 sy 26 g 15 a 10) b 5 c 2) ∧ (place2 (place3 0x80200000 sy 26 g 15 a 10) b 5 c 2) < 2 ^ 32
  have h0 := sy.isLt
  have h1 := g.isLt
  have h2 := a.isLt
  have h3 := b.isLt
  have h4 := c.isLt
  simp only [place1, place2, place3]; omega
theorem cmpi (sy : BitVec 5) (g : BitVec 4) (a : BitVec 5) (c : BitVec 3) (i : BitVec 7) : Statement (.cmpi sy g a c i) := by
  show 2 ^ 31 ≤ (place2 (place3 0x80280000 sy 26 g 15 a 10) c 7 i 0) ∧ (place2 (place3 0x80280000 sy 26 g 15 a 10) c 7 i 0) < 2 ^ 32
  have h0 := sy.isLt
  have h1 := g.isLt
  have h2 := a.isLt
  have h3 := c.isLt
  have h4 := i.isLt
  simp only [place1, place2, place3]; omega
theorem tstp (sy : BitVec 5) (g p v : BitVec 4) (t : BitVec 3) : Statement (.tstp sy g p v t) := by
  show 2 ^ 31 ≤ (place2 (place3 0x80300000 sy 26 g 13 p 9) v 5 t 2) ∧ (place2 (place3 0x80300000 sy 26 g 13 p 9) v 5 t 2) < 2 ^ 32
  have h0 := sy.isLt
  have h1 := g.isLt
  have h2 := p.isLt
  have h3 := v.isLt
  have h4 := t.isLt
  simp only [place1, place2, place3]; omega
theorem tstq (sy : BitVec 5) (g p v : BitVec 4) (t : BitVec 3) : Statement (.tstq sy g p v t) := by
  show 2 ^ 31 ≤ (place2 (place3 0x80320000 sy 26 g 13 p 9) v 5 t 2) ∧ (place2 (place3 0x80320000 sy 26 g 13 p 9) v 5 t 2) < 2 ^ 32
  have h0 := sy.isLt
  have h1 := g.isLt
  have h2 := p.isLt
  have h3 := v.isLt
  have h4 := t.isLt
  simp only [place1, place2, place3]; omega
theorem tstm (sy : BitVec 5) (g p v : BitVec 4) (t : BitVec 3) : Statement (.tstm sy g p v t) := by
  show 2 ^ 31 ≤ (place2 (place3 0x80340000 sy 26 g 13 p 9) v 5 t 2) ∧ (place2 (place3 0x80340000 sy 26 g 13 p 9) v 5 t 2) < 2 ^ 32
  have h0 := sy.isLt
  have h1 := g.isLt
  have h2 := p.isLt
  have h3 := v.isLt
  have h4 := t.isLt
  simp only [place1, place2, place3]; omega
theorem fork (sy : BitVec 5) (m : BitVec 4) : Statement (.fork sy m) := by
  show 2 ^ 31 ≤ (place2 0x80380000 sy 26 m 14) ∧ (place2 0x80380000 sy 26 m 14) < 2 ^ 32
  have h0 := sy.isLt
  have h1 := m.isLt
  simp only [place1, place2]; omega
theorem join (sy : BitVec 5) (m : BitVec 4) : Statement (.join sy m) := by
  show 2 ^ 31 ≤ (place2 0x803C0000 sy 26 m 14) ∧ (place2 0x803C0000 sy 26 m 14) < 2 ^ 32
  have h0 := sy.isLt
  have h1 := m.isLt
  simp only [place1, place2]; omega
theorem nop (sy : BitVec 5) : Statement (.nop sy) := by
  show 2 ^ 31 ≤ (place1 0x80400000 sy 26) ∧ (place1 0x80400000 sy 26) < 2 ^ 32
  have h0 := sy.isLt
  simp only [place1]; omega
theorem yield (sy : BitVec 5) : Statement (.yield sy) := by
  show 2 ^ 31 ≤ (place1 0x80410000 sy 26) ∧ (place1 0x80410000 sy 26) < 2 ^ 32
  have h0 := sy.isLt
  simp only [place1]; omega
theorem halt (sy : BitVec 5) : Statement (.halt sy) := by
  show 2 ^ 31 ≤ (place1 0x80420000 sy 26) ∧ (place1 0x80420000 sy 26) < 2 ^ 32
  have h0 := sy.isLt
  simp only [place1]; omega
theorem tfence (sy : BitVec 5) : Statement (.tfence sy) := by
  show 2 ^ 31 ≤ (place1 0x80430000 sy 26) ∧ (place1 0x80430000 sy 26) < 2 ^ 32
  have h0 := sy.isLt
  simp only [place1]; omega
theorem trap (sy : BitVec 5) (c : BitVec 16) : Statement (.trap sy c) := by
  show 2 ^ 31 ≤ (place2 0x80480000 sy 26 c 0) ∧ (place2 0x80480000 sy 26 c 0) < 2 ^ 32
  have h0 := sy.isLt
  have h1 := c.isLt
  simp only [place1, place2]; omega
theorem swap (sy : BitVec 5) : Statement (.swap sy) := by
  show 2 ^ 31 ≤ (place1 0x80500000 sy 26) ∧ (place1 0x80500000 sy 26) < 2 ^ 32
  have h0 := sy.isLt
  simp only [place1]; omega
theorem eret (sy : BitVec 5) : Statement (.eret sy) := by
  show 2 ^ 31 ≤ (place1 0x80510000 sy 26) ∧ (place1 0x80510000 sy 26) < 2 ^ 32
  have h0 := sy.isLt
  simp only [place1]; omega
theorem add (sy d a b : BitVec 5) : Statement (.add sy d a b) := by
  show 2 ^ 31 ≤ (place1 (place3 0x80800000 sy 26 d 14 a 9) b 4) ∧ (place1 (place3 0x80800000 sy 26 d 14 a 9) b 4) < 2 ^ 32
  have h0 := sy.isLt
  have h1 := d.isLt
  have h2 := a.isLt
  have h3 := b.isLt
  simp only [place1, place2, place3]; omega
theorem sub (sy d a b : BitVec 5) : Statement (.sub sy d a b) := by
  show 2 ^ 31 ≤ (place1 (place3 0x80800001 sy 26 d 14 a 9) b 4) ∧ (place1 (place3 0x80800001 sy 26 d 14 a 9) b 4) < 2 ^ 32
  have h0 := sy.isLt
  have h1 := d.isLt
  have h2 := a.isLt
  have h3 := b.isLt
  simp only [place1, place2, place3]; omega
theorem mul (sy d a b : BitVec 5) : Statement (.mul sy d a b) := by
  show 2 ^ 31 ≤ (place1 (place3 0x80800002 sy 26 d 14 a 9) b 4) ∧ (place1 (place3 0x80800002 sy 26 d 14 a 9) b 4) < 2 ^ 32
  have h0 := sy.isLt
  have h1 := d.isLt
  have h2 := a.isLt
  have h3 := b.isLt
  simp only [place1, place2, place3]; omega
theorem mulh (sy d a b : BitVec 5) : Statement (.mulh sy d a b) := by
  show 2 ^ 31 ≤ (place1 (place3 0x80800003 sy 26 d 14 a 9) b 4) ∧ (place1 (place3 0x80800003 sy 26 d 14 a 9) b 4) < 2 ^ 32
  have h0 := sy.isLt
  have h1 := d.isLt
  have h2 := a.isLt
  have h3 := b.isLt
  simp only [place1, place2, place3]; omega
theorem mulhu (sy d a b : BitVec 5) : Statement (.mulhu sy d a b) := by
  show 2 ^ 31 ≤ (place1 (place3 0x80800004 sy 26 d 14 a 9) b 4) ∧ (place1 (place3 0x80800004 sy 26 d 14 a 9) b 4) < 2 ^ 32
  have h0 := sy.isLt
  have h1 := d.isLt
  have h2 := a.isLt
  have h3 := b.isLt
  simp only [place1, place2, place3]; omega
theorem div (sy d a b : BitVec 5) : Statement (.div sy d a b) := by
  show 2 ^ 31 ≤ (place1 (place3 0x80800005 sy 26 d 14 a 9) b 4) ∧ (place1 (place3 0x80800005 sy 26 d 14 a 9) b 4) < 2 ^ 32
  have h0 := sy.isLt
  have h1 := d.isLt
  have h2 := a.isLt
  have h3 := b.isLt
  simp only [place1, place2, place3]; omega
theorem divu (sy d a b : BitVec 5) : Statement (.divu sy d a b) := by
  show 2 ^ 31 ≤ (place1 (place3 0x80800006 sy 26 d 14 a 9) b 4) ∧ (place1 (place3 0x80800006 sy 26 d 14 a 9) b 4) < 2 ^ 32
  have h0 := sy.isLt
  have h1 := d.isLt
  have h2 := a.isLt
  have h3 := b.isLt
  simp only [place1, place2, place3]; omega
theorem rem (sy d a b : BitVec 5) : Statement (.rem sy d a b) := by
  show 2 ^ 31 ≤ (place1 (place3 0x80800007 sy 26 d 14 a 9) b 4) ∧ (place1 (place3 0x80800007 sy 26 d 14 a 9) b 4) < 2 ^ 32
  have h0 := sy.isLt
  have h1 := d.isLt
  have h2 := a.isLt
  have h3 := b.isLt
  simp only [place1, place2, place3]; omega
theorem remu (sy d a b : BitVec 5) : Statement (.remu sy d a b) := by
  show 2 ^ 31 ≤ (place1 (place3 0x80800008 sy 26 d 14 a 9) b 4) ∧ (place1 (place3 0x80800008 sy 26 d 14 a 9) b 4) < 2 ^ 32
  have h0 := sy.isLt
  have h1 := d.isLt
  have h2 := a.isLt
  have h3 := b.isLt
  simp only [place1, place2, place3]; omega
theorem and (sy d a b : BitVec 5) : Statement (.and sy d a b) := by
  show 2 ^ 31 ≤ (place1 (place3 0x80880000 sy 26 d 14 a 9) b 4) ∧ (place1 (place3 0x80880000 sy 26 d 14 a 9) b 4) < 2 ^ 32
  have h0 := sy.isLt
  have h1 := d.isLt
  have h2 := a.isLt
  have h3 := b.isLt
  simp only [place1, place2, place3]; omega
theorem or (sy d a b : BitVec 5) : Statement (.or sy d a b) := by
  show 2 ^ 31 ≤ (place1 (place3 0x80880001 sy 26 d 14 a 9) b 4) ∧ (place1 (place3 0x80880001 sy 26 d 14 a 9) b 4) < 2 ^ 32
  have h0 := sy.isLt
  have h1 := d.isLt
  have h2 := a.isLt
  have h3 := b.isLt
  simp only [place1, place2, place3]; omega
theorem xor (sy d a b : BitVec 5) : Statement (.xor sy d a b) := by
  show 2 ^ 31 ≤ (place1 (place3 0x80880002 sy 26 d 14 a 9) b 4) ∧ (place1 (place3 0x80880002 sy 26 d 14 a 9) b 4) < 2 ^ 32
  have h0 := sy.isLt
  have h1 := d.isLt
  have h2 := a.isLt
  have h3 := b.isLt
  simp only [place1, place2, place3]; omega
theorem shl (sy d a b : BitVec 5) : Statement (.shl sy d a b) := by
  show 2 ^ 31 ≤ (place1 (place3 0x80880003 sy 26 d 14 a 9) b 4) ∧ (place1 (place3 0x80880003 sy 26 d 14 a 9) b 4) < 2 ^ 32
  have h0 := sy.isLt
  have h1 := d.isLt
  have h2 := a.isLt
  have h3 := b.isLt
  simp only [place1, place2, place3]; omega
theorem shr (sy d a b : BitVec 5) : Statement (.shr sy d a b) := by
  show 2 ^ 31 ≤ (place1 (place3 0x80880004 sy 26 d 14 a 9) b 4) ∧ (place1 (place3 0x80880004 sy 26 d 14 a 9) b 4) < 2 ^ 32
  have h0 := sy.isLt
  have h1 := d.isLt
  have h2 := a.isLt
  have h3 := b.isLt
  simp only [place1, place2, place3]; omega
theorem sar (sy d a b : BitVec 5) : Statement (.sar sy d a b) := by
  show 2 ^ 31 ≤ (place1 (place3 0x80880005 sy 26 d 14 a 9) b 4) ∧ (place1 (place3 0x80880005 sy 26 d 14 a 9) b 4) < 2 ^ 32
  have h0 := sy.isLt
  have h1 := d.isLt
  have h2 := a.isLt
  have h3 := b.isLt
  simp only [place1, place2, place3]; omega
theorem min (sy d a b : BitVec 5) : Statement (.min sy d a b) := by
  show 2 ^ 31 ≤ (place1 (place3 0x80880006 sy 26 d 14 a 9) b 4) ∧ (place1 (place3 0x80880006 sy 26 d 14 a 9) b 4) < 2 ^ 32
  have h0 := sy.isLt
  have h1 := d.isLt
  have h2 := a.isLt
  have h3 := b.isLt
  simp only [place1, place2, place3]; omega
theorem max (sy d a b : BitVec 5) : Statement (.max sy d a b) := by
  show 2 ^ 31 ≤ (place1 (place3 0x80880007 sy 26 d 14 a 9) b 4) ∧ (place1 (place3 0x80880007 sy 26 d 14 a 9) b 4) < 2 ^ 32
  have h0 := sy.isLt
  have h1 := d.isLt
  have h2 := a.isLt
  have h3 := b.isLt
  simp only [place1, place2, place3]; omega
theorem minu (sy d a b : BitVec 5) : Statement (.minu sy d a b) := by
  show 2 ^ 31 ≤ (place1 (place3 0x80880008 sy 26 d 14 a 9) b 4) ∧ (place1 (place3 0x80880008 sy 26 d 14 a 9) b 4) < 2 ^ 32
  have h0 := sy.isLt
  have h1 := d.isLt
  have h2 := a.isLt
  have h3 := b.isLt
  simp only [place1, place2, place3]; omega
theorem maxu (sy d a b : BitVec 5) : Statement (.maxu sy d a b) := by
  show 2 ^ 31 ≤ (place1 (place3 0x80880009 sy 26 d 14 a 9) b 4) ∧ (place1 (place3 0x80880009 sy 26 d 14 a 9) b 4) < 2 ^ 32
  have h0 := sy.isLt
  have h1 := d.isLt
  have h2 := a.isLt
  have h3 := b.isLt
  simp only [place1, place2, place3]; omega
theorem sel (sy d a b : BitVec 5) (g : BitVec 4) : Statement (.sel sy d a b g) := by
  show 2 ^ 31 ≤ (place2 (place3 0x80900000 sy 26 d 14 a 9) b 4 g 0) ∧ (place2 (place3 0x80900000 sy 26 d 14 a 9) b 4 g 0) < 2 ^ 32
  have h0 := sy.isLt
  have h1 := d.isLt
  have h2 := a.isLt
  have h3 := b.isLt
  have h4 := g.isLt
  simp only [place1, place2, place3]; omega
theorem lea (sy d a b : BitVec 5) (h : BitVec 4) : Statement (.lea sy d a b h) := by
  show 2 ^ 31 ≤ (place2 (place3 0x80980000 sy 26 d 14 a 9) b 4 h 0) ∧ (place2 (place3 0x80980000 sy 26 d 14 a 9) b 4 h 0) < 2 ^ 32
  have h0 := sy.isLt
  have h1 := d.isLt
  have h2 := a.isLt
  have h3 := b.isLt
  have h4 := h.isLt
  simp only [place1, place2, place3]; omega
theorem clz (sy d a : BitVec 5) : Statement (.clz sy d a) := by
  show 2 ^ 31 ≤ (place3 0x80A00000 sy 26 d 14 a 9) ∧ (place3 0x80A00000 sy 26 d 14 a 9) < 2 ^ 32
  have h0 := sy.isLt
  have h1 := d.isLt
  have h2 := a.isLt
  simp only [place1, place2, place3]; omega
theorem ctz (sy d a : BitVec 5) : Statement (.ctz sy d a) := by
  show 2 ^ 31 ≤ (place3 0x80A00001 sy 26 d 14 a 9) ∧ (place3 0x80A00001 sy 26 d 14 a 9) < 2 ^ 32
  have h0 := sy.isLt
  have h1 := d.isLt
  have h2 := a.isLt
  simp only [place1, place2, place3]; omega
theorem popc (sy d a : BitVec 5) : Statement (.popc sy d a) := by
  show 2 ^ 31 ≤ (place3 0x80A00002 sy 26 d 14 a 9) ∧ (place3 0x80A00002 sy 26 d 14 a 9) < 2 ^ 32
  have h0 := sy.isLt
  have h1 := d.isLt
  have h2 := a.isLt
  simp only [place1, place2, place3]; omega
theorem ffs (sy d a : BitVec 5) : Statement (.ffs sy d a) := by
  show 2 ^ 31 ≤ (place3 0x80A00003 sy 26 d 14 a 9) ∧ (place3 0x80A00003 sy 26 d 14 a 9) < 2 ^ 32
  have h0 := sy.isLt
  have h1 := d.isLt
  have h2 := a.isLt
  simp only [place1, place2, place3]; omega
theorem mov (sy d a : BitVec 5) : Statement (.mov sy d a) := by
  show 2 ^ 31 ≤ (place3 0x80A00004 sy 26 d 14 a 9) ∧ (place3 0x80A00004 sy 26 d 14 a 9) < 2 ^ 32
  have h0 := sy.isLt
  have h1 := d.isLt
  have h2 := a.isLt
  simp only [place1, place2, place3]; omega
theorem sext (sy d a : BitVec 5) (n : BitVec 6) : Statement (.sext sy d a n) := by
  show 2 ^ 31 ≤ (place1 (place3 0x80A80000 sy 26 d 14 a 9) n 2) ∧ (place1 (place3 0x80A80000 sy 26 d 14 a 9) n 2) < 2 ^ 32
  have h0 := sy.isLt
  have h1 := d.isLt
  have h2 := a.isLt
  have h3 := n.isLt
  simp only [place1, place2, place3]; omega
theorem zext (sy d a : BitVec 5) (n : BitVec 6) : Statement (.zext sy d a n) := by
  show 2 ^ 31 ≤ (place1 (place3 0x80A80100 sy 26 d 14 a 9) n 2) ∧ (place1 (place3 0x80A80100 sy 26 d 14 a 9) n 2) < 2 ^ 32
  have h0 := sy.isLt
  have h1 := d.isLt
  have h2 := a.isLt
  have h3 := n.isLt
  simp only [place1, place2, place3]; omega
theorem addi (sy d a : BitVec 5) (i : BitVec 9) : Statement (.addi sy d a i) := by
  show 2 ^ 31 ≤ (place1 (place3 0x80B00000 sy 26 d 14 a 9) i 0) ∧ (place1 (place3 0x80B00000 sy 26 d 14 a 9) i 0) < 2 ^ 32
  have h0 := sy.isLt
  have h1 := d.isLt
  have h2 := a.isLt
  have h3 := i.isLt
  simp only [place1, place2, place3]; omega
theorem andi (sy d a : BitVec 5) (i : BitVec 9) : Statement (.andi sy d a i) := by
  show 2 ^ 31 ≤ (place1 (place3 0x80B80000 sy 26 d 14 a 9) i 0) ∧ (place1 (place3 0x80B80000 sy 26 d 14 a 9) i 0) < 2 ^ 32
  have h0 := sy.isLt
  have h1 := d.isLt
  have h2 := a.isLt
  have h3 := i.isLt
  simp only [place1, place2, place3]; omega
theorem ori (sy d a : BitVec 5) (i : BitVec 9) : Statement (.ori sy d a i) := by
  show 2 ^ 31 ≤ (place1 (place3 0x80C00000 sy 26 d 14 a 9) i 0) ∧ (place1 (place3 0x80C00000 sy 26 d 14 a 9) i 0) < 2 ^ 32
  have h0 := sy.isLt
  have h1 := d.isLt
  have h2 := a.isLt
  have h3 := i.isLt
  simp only [place1, place2, place3]; omega
theorem xori (sy d a : BitVec 5) (i : BitVec 9) : Statement (.xori sy d a i) := by
  show 2 ^ 31 ≤ (place1 (place3 0x80C80000 sy 26 d 14 a 9) i 0) ∧ (place1 (place3 0x80C80000 sy 26 d 14 a 9) i 0) < 2 ^ 32
  have h0 := sy.isLt
  have h1 := d.isLt
  have h2 := a.isLt
  have h3 := i.isLt
  simp only [place1, place2, place3]; omega
theorem shli (sy d a : BitVec 5) (h : BitVec 6) : Statement (.shli sy d a h) := by
  show 2 ^ 31 ≤ (place1 (place3 0x80D00000 sy 26 d 14 a 9) h 0) ∧ (place1 (place3 0x80D00000 sy 26 d 14 a 9) h 0) < 2 ^ 32
  have h0 := sy.isLt
  have h1 := d.isLt
  have h2 := a.isLt
  have h3 := h.isLt
  simp only [place1, place2, place3]; omega
theorem shri (sy d a : BitVec 5) (h : BitVec 6) : Statement (.shri sy d a h) := by
  show 2 ^ 31 ≤ (place1 (place3 0x80D80000 sy 26 d 14 a 9) h 0) ∧ (place1 (place3 0x80D80000 sy 26 d 14 a 9) h 0) < 2 ^ 32
  have h0 := sy.isLt
  have h1 := d.isLt
  have h2 := a.isLt
  have h3 := h.isLt
  simp only [place1, place2, place3]; omega
theorem sari (sy d a : BitVec 5) (h : BitVec 6) : Statement (.sari sy d a h) := by
  show 2 ^ 31 ≤ (place1 (place3 0x80E00000 sy 26 d 14 a 9) h 0) ∧ (place1 (place3 0x80E00000 sy 26 d 14 a 9) h 0) < 2 ^ 32
  have h0 := sy.isLt
  have h1 := d.isLt
  have h2 := a.isLt
  have h3 := h.isLt
  simp only [place1, place2, place3]; omega
theorem movi (sy d : BitVec 5) (i : BitVec 14) : Statement (.movi sy d i) := by
  show 2 ^ 31 ≤ (place3 0x80E80000 sy 26 d 14 i 0) ∧ (place3 0x80E80000 sy 26 d 14 i 0) < 2 ^ 32
  have h0 := sy.isLt
  have h1 := d.isLt
  have h2 := i.isLt
  simp only [place1, place2, place3]; omega
theorem movh (sy d : BitVec 5) (i : BitVec 14) : Statement (.movh sy d i) := by
  show 2 ^ 31 ≤ (place3 0x80F00000 sy 26 d 14 i 0) ∧ (place3 0x80F00000 sy 26 d 14 i 0) < 2 ^ 32
  have h0 := sy.isLt
  have h1 := d.isLt
  have h2 := i.isLt
  simp only [place1, place2, place3]; omega
theorem compactNop : Statement (.compactNop) := by show (0x0400 : Nat) < 2 ^ 15; decide
theorem compactMov (d a : BitVec 5) : Statement (.compactMov d a) := by
  show (place2 0x0800 d 5 a 0) < 2 ^ 15
  have h0 := d.isLt
  have h1 := a.isLt
  simp only [place1, place2]; omega
theorem compactAdd (d a : BitVec 5) : Statement (.compactAdd d a) := by
  show (place2 0x0C00 d 5 a 0) < 2 ^ 15
  have h0 := d.isLt
  have h1 := a.isLt
  simp only [place1, place2]; omega
theorem compactSub (d a : BitVec 5) : Statement (.compactSub d a) := by
  show (place2 0x1000 d 5 a 0) < 2 ^ 15
  have h0 := d.isLt
  have h1 := a.isLt
  simp only [place1, place2]; omega
theorem compactAnd (d a : BitVec 5) : Statement (.compactAnd d a) := by
  show (place2 0x1400 d 5 a 0) < 2 ^ 15
  have h0 := d.isLt
  have h1 := a.isLt
  simp only [place1, place2]; omega
theorem compactAddi (d i : BitVec 5) : Statement (.compactAddi d i) := by
  show (place2 0x1800 d 5 i 0) < 2 ^ 15
  have h0 := d.isLt
  have h1 := i.isLt
  simp only [place1, place2]; omega
theorem compactShli (d i : BitVec 5) : Statement (.compactShli d i) := by
  show (place2 0x1C00 d 5 i 0) < 2 ^ 15
  have h0 := d.isLt
  have h1 := i.isLt
  simp only [place1, place2]; omega
theorem compactShri (d i : BitVec 5) : Statement (.compactShri d i) := by
  show (place2 0x2000 d 5 i 0) < 2 ^ 15
  have h0 := d.isLt
  have h1 := i.isLt
  simp only [place1, place2]; omega
theorem compactMovi (d i : BitVec 5) : Statement (.compactMovi d i) := by
  show (place2 0x2400 d 5 i 0) < 2 ^ 15
  have h0 := d.isLt
  have h1 := i.isLt
  simp only [place1, place2]; omega
theorem compactLd (d a : BitVec 5) : Statement (.compactLd d a) := by
  show (place2 0x2800 d 5 a 0) < 2 ^ 15
  have h0 := d.isLt
  have h1 := a.isLt
  simp only [place1, place2]; omega
theorem compactSt (d a : BitVec 5) : Statement (.compactSt d a) := by
  show (place2 0x2C00 d 5 a 0) < 2 ^ 15
  have h0 := d.isLt
  have h1 := a.isLt
  simp only [place1, place2]; omega
theorem compactQpush (q : BitVec 4) (a : BitVec 5) : Statement (.compactQpush q a) := by
  show (place2 0x3000 q 5 a 0) < 2 ^ 15
  have h0 := q.isLt
  have h1 := a.isLt
  simp only [place1, place2]; omega
theorem compactQpop (d : BitVec 5) (q : BitVec 4) : Statement (.compactQpop d q) := by
  show (place2 0x3400 d 5 q 0) < 2 ^ 15
  have h0 := d.isLt
  have h1 := q.isLt
  simp only [place1, place2]; omega
theorem compactBr (g : BitVec 4) : Statement (.compactBr g) := by
  show (place1 0x3800 g 6) < 2 ^ 15
  have h0 := g.isLt
  simp only [place1]; omega
theorem compactFqpush (a : BitVec 5) : Statement (.compactFqpush a) := by
  show (place1 0x3C00 a 0) < 2 ^ 15
  have h0 := a.isLt
  simp only [place1]; omega
theorem compactYield : Statement (.compactYield) := by show (0x4000 : Nat) < 2 ^ 15; decide
theorem ld (sy d b : BitVec 5) (z : BitVec 2) (o : BitVec 3) (f : BitVec 4) : Statement (.ld sy d b z o f) := by
  show 2 ^ 31 ≤ (place3 (place3 0x81800000 sy 26 d 14 b 9) z 7 o 4 f 0) ∧ (place3 (place3 0x81800000 sy 26 d 14 b 9) z 7 o 4 f 0) < 2 ^ 32
  have h0 := sy.isLt
  have h1 := d.isLt
  have h2 := b.isLt
  have h3 := z.isLt
  have h4 := o.isLt
  have h5 := f.isLt
  simp only [place1, place2, place3]; omega
theorem ldS (sy d b : BitVec 5) (z : BitVec 2) (o p : BitVec 3) : Statement (.ldS sy d b z o p) := by
  show 2 ^ 31 ≤ (place3 (place3 0x81880000 sy 26 d 14 b 9) z 7 o 4 p 0) ∧ (place3 (place3 0x81880000 sy 26 d 14 b 9) z 7 o 4 p 0) < 2 ^ 32
  have h0 := sy.isLt
  have h1 := d.isLt
  have h2 := b.isLt
  have h3 := z.isLt
  have h4 := o.isLt
  have h5 := p.isLt
  simp only [place1, place2, place3]; omega
theorem st (sy d b : BitVec 5) (z : BitVec 2) (o : BitVec 3) (f : BitVec 4) : Statement (.st sy d b z o f) := by
  show 2 ^ 31 ≤ (place3 (place3 0x81900000 sy 26 d 14 b 9) z 7 o 4 f 0) ∧ (place3 (place3 0x81900000 sy 26 d 14 b 9) z 7 o 4 f 0) < 2 ^ 32
  have h0 := sy.isLt
  have h1 := d.isLt
  have h2 := b.isLt
  have h3 := z.isLt
  have h4 := o.isLt
  have h5 := f.isLt
  simp only [place1, place2, place3]; omega
theorem stS (sy d b : BitVec 5) (z : BitVec 2) (o p : BitVec 3) : Statement (.stS sy d b z o p) := by
  show 2 ^ 31 ≤ (place3 (place3 0x81980000 sy 26 d 14 b 9) z 7 o 4 p 0) ∧ (place3 (place3 0x81980000 sy 26 d 14 b 9) z 7 o 4 p 0) < 2 ^ 32
  have h0 := sy.isLt
  have h1 := d.isLt
  have h2 := b.isLt
  have h3 := z.isLt
  have h4 := o.isLt
  have h5 := p.isLt
  simp only [place1, place2, place3]; omega
theorem ldq (sy : BitVec 5) (q : BitVec 4) (b : BitVec 5) (z : BitVec 2) (o p : BitVec 3) : Statement (.ldq sy q b z o p) := by
  show 2 ^ 31 ≤ (place3 (place3 0x81A00000 sy 26 q 15 b 10) z 8 o 5 p 0) ∧ (place3 (place3 0x81A00000 sy 26 q 15 b 10) z 8 o 5 p 0) < 2 ^ 32
  have h0 := sy.isLt
  have h1 := q.isLt
  have h2 := b.isLt
  have h3 := z.isLt
  have h4 := o.isLt
  have h5 := p.isLt
  simp only [place1, place2, place3]; omega
theorem amo (sy : BitVec 5) (r c : BitVec 4) (o p : BitVec 3) : Statement (.amo sy r c o p) := by
  show 2 ^ 31 ≤ (place2 (place3 0x81A80000 sy 26 r 15 c 11) o 8 p 0) ∧ (place2 (place3 0x81A80000 sy 26 r 15 c 11) o 8 p 0) < 2 ^ 32
  have h0 := sy.isLt
  have h1 := r.isLt
  have h2 := c.isLt
  have h3 := o.isLt
  have h4 := p.isLt
  simp only [place1, place2, place3]; omega
theorem cas (sy : BitVec 5) (r : BitVec 4) (n : BitVec 5) (z : BitVec 1) (o p : BitVec 3) : Statement (.cas sy r n z o p) := by
  show 2 ^ 31 ≤ (place3 (place3 0x81B00000 sy 26 r 15 n 10) z 9 o 6 p 0) ∧ (place3 (place3 0x81B00000 sy 26 r 15 n 10) z 9 o 6 p 0) < 2 ^ 32
  have h0 := sy.isLt
  have h1 := r.isLt
  have h2 := n.isLt
  have h3 := z.isLt
  have h4 := o.isLt
  have h5 := p.isLt
  simp only [place1, place2, place3]; omega
theorem lds (sy d b : BitVec 5) (z : BitVec 2) (o p : BitVec 3) : Statement (.lds sy d b z o p) := by
  show 2 ^ 31 ≤ (place3 (place3 0x81B80000 sy 26 d 14 b 9) z 7 o 4 p 0) ∧ (place3 (place3 0x81B80000 sy 26 d 14 b 9) z 7 o 4 p 0) < 2 ^ 32
  have h0 := sy.isLt
  have h1 := d.isLt
  have h2 := b.isLt
  have h3 := z.isLt
  have h4 := o.isLt
  have h5 := p.isLt
  simp only [place1, place2, place3]; omega
theorem sts (sy d b : BitVec 5) (z : BitVec 2) (o p : BitVec 3) : Statement (.sts sy d b z o p) := by
  show 2 ^ 31 ≤ (place3 (place3 0x81C00000 sy 26 d 14 b 9) z 7 o 4 p 0) ∧ (place3 (place3 0x81C00000 sy 26 d 14 b 9) z 7 o 4 p 0) < 2 ^ 32
  have h0 := sy.isLt
  have h1 := d.isLt
  have h2 := b.isLt
  have h3 := z.isLt
  have h4 := o.isLt
  have h5 := p.isLt
  simp only [place1, place2, place3]; omega
theorem pld (sy d : BitVec 5) (k : BitVec 4) (z : BitVec 3) (o : BitVec 4) (p : BitVec 3) : Statement (.pld sy d k z o p) := by
  show 2 ^ 31 ≤ (place3 (place3 0x81C80000 sy 26 d 14 k 10) z 7 o 3 p 0) ∧ (place3 (place3 0x81C80000 sy 26 d 14 k 10) z 7 o 3 p 0) < 2 ^ 32
  have h0 := sy.isLt
  have h1 := d.isLt
  have h2 := k.isLt
  have h3 := z.isLt
  have h4 := o.isLt
  have h5 := p.isLt
  simp only [place1, place2, place3]; omega
theorem pst (sy d : BitVec 5) (k : BitVec 4) (z : BitVec 3) (o : BitVec 4) (p : BitVec 3) : Statement (.pst sy d k z o p) := by
  show 2 ^ 31 ≤ (place3 (place3 0x81D00000 sy 26 d 14 k 10) z 7 o 3 p 0) ∧ (place3 (place3 0x81D00000 sy 26 d 14 k 10) z 7 o 3 p 0) < 2 ^ 32
  have h0 := sy.isLt
  have h1 := d.isLt
  have h2 := k.isLt
  have h3 := z.isLt
  have h4 := o.isLt
  have h5 := p.isLt
  simp only [place1, place2, place3]; omega
theorem pamo (sy : BitVec 5) (r k c : BitVec 4) (z : BitVec 1) (o p : BitVec 3) : Statement (.pamo sy r k c z o p) := by
  show 2 ^ 31 ≤ (place1 (place3 (place3 0x81D80000 sy 26 r 15 k 11) c 7 z 6 o 3) p 0) ∧ (place1 (place3 (place3 0x81D80000 sy 26 r 15 k 11) c 7 z 6 o 3) p 0) < 2 ^ 32
  have h0 := sy.isLt
  have h1 := r.isLt
  have h2 := k.isLt
  have h3 := c.isLt
  have h4 := z.isLt
  have h5 := o.isLt
  have h6 := p.isLt
  simp only [place1, place2, place3]; omega
theorem pcas (sy : BitVec 5) (r k n : BitVec 4) (z : BitVec 1) (o p : BitVec 3) : Statement (.pcas sy r k n z o p) := by
  show 2 ^ 31 ≤ (place1 (place3 (place3 0x81E00000 sy 26 r 15 k 11) n 7 z 6 o 3) p 0) ∧ (place1 (place3 (place3 0x81E00000 sy 26 r 15 k 11) n 7 z 6 o 3) p 0) < 2 ^ 32
  have h0 := sy.isLt
  have h1 := r.isLt
  have h2 := k.isLt
  have h3 := n.isLt
  have h4 := z.isLt
  have h5 := o.isLt
  have h6 := p.isLt
  simp only [place1, place2, place3]; omega
theorem pget (sy a : BitVec 5) (k : BitVec 4) (b : BitVec 5) (p : BitVec 3) : Statement (.pget sy a k b p) := by
  show 2 ^ 31 ≤ (place2 (place3 0x81E80000 sy 26 a 14 k 10) b 5 p 0) ∧ (place2 (place3 0x81E80000 sy 26 a 14 k 10) b 5 p 0) < 2 ^ 32
  have h0 := sy.isLt
  have h1 := a.isLt
  have h2 := k.isLt
  have h3 := b.isLt
  have h4 := p.isLt
  simp only [place1, place2, place3]; omega
theorem kld (sy : BitVec 5) (d k a o : BitVec 4) (p : BitVec 3) : Statement (.kld sy d k a o p) := by
  show 2 ^ 31 ≤ (place3 (place3 0x81F00000 sy 26 d 15 k 11) a 7 o 3 p 0) ∧ (place3 (place3 0x81F00000 sy 26 d 15 k 11) a 7 o 3 p 0) < 2 ^ 32
  have h0 := sy.isLt
  have h1 := d.isLt
  have h2 := k.isLt
  have h3 := a.isLt
  have h4 := o.isLt
  have h5 := p.isLt
  simp only [place1, place2, place3]; omega
theorem kder (sy : BitVec 5) (d k a b : BitVec 4) : Statement (.kder sy d k a b) := by
  show 2 ^ 31 ≤ (place2 (place3 0x81F80000 sy 26 d 13 k 9) a 5 b 1) ∧ (place2 (place3 0x81F80000 sy 26 d 13 k 9) a 5 b 1) < 2 ^ 32
  have h0 := sy.isLt
  have h1 := d.isLt
  have h2 := k.isLt
  have h3 := a.isLt
  have h4 := b.isLt
  simp only [place1, place2, place3]; omega
theorem kchk (sy : BitVec 5) (p k a b : BitVec 4) : Statement (.kchk sy p k a b) := by
  show 2 ^ 31 ≤ (place2 (place3 0x81FA0000 sy 26 p 13 k 9) a 5 b 1) ∧ (place2 (place3 0x81FA0000 sy 26 p 13 k 9) a 5 b 1) < 2 ^ 32
  have h0 := sy.isLt
  have h1 := p.isLt
  have h2 := k.isLt
  have h3 := a.isLt
  have h4 := b.isLt
  simp only [place1, place2, place3]; omega
theorem kmov (sy : BitVec 5) (d k : BitVec 4) : Statement (.kmov sy d k) := by
  show 2 ^ 31 ≤ (place3 0x81FC0000 sy 26 d 13 k 9) ∧ (place3 0x81FC0000 sy 26 d 13 k 9) < 2 ^ 32
  have h0 := sy.isLt
  have h1 := d.isLt
  have h2 := k.isLt
  simp only [place1, place2, place3]; omega
theorem lacq (sy : BitVec 5) (k : BitVec 4) (a b : BitVec 5) (p : BitVec 3) : Statement (.lacq sy k a b p) := by
  show 2 ^ 31 ≤ (place2 (place3 0x82000000 sy 26 k 13 a 8) b 3 p 0) ∧ (place2 (place3 0x82000000 sy 26 k 13 a 8) b 3 p 0) < 2 ^ 32
  have h0 := sy.isLt
  have h1 := k.isLt
  have h2 := a.isLt
  have h3 := b.isLt
  have h4 := p.isLt
  simp only [place1, place2, place3]; omega
theorem lrel (sy : BitVec 5) (k : BitVec 4) (a b : BitVec 5) (p : BitVec 3) : Statement (.lrel sy k a b p) := by
  show 2 ^ 31 ≤ (place2 (place3 0x82020000 sy 26 k 13 a 8) b 3 p 0) ∧ (place2 (place3 0x82020000 sy 26 k 13 a 8) b 3 p 0) < 2 ^ 32
  have h0 := sy.isLt
  have h1 := k.isLt
  have h2 := a.isLt
  have h3 := b.isLt
  have h4 := p.isLt
  simp only [place1, place2, place3]; omega
theorem lhand (sy : BitVec 5) (k : BitVec 4) (a b : BitVec 5) (p : BitVec 3) : Statement (.lhand sy k a b p) := by
  show 2 ^ 31 ≤ (place2 (place3 0x82040000 sy 26 k 13 a 8) b 3 p 0) ∧ (place2 (place3 0x82040000 sy 26 k 13 a 8) b 3 p 0) < 2 ^ 32
  have h0 := sy.isLt
  have h1 := k.isLt
  have h2 := a.isLt
  have h3 := b.isLt
  have h4 := p.isLt
  simp only [place1, place2, place3]; omega
theorem qpush (sy : BitVec 5) (q : BitVec 4) (a : BitVec 5) : Statement (.qpush sy q a) := by
  show 2 ^ 31 ≤ (place3 0x82080000 sy 26 q 15 a 9) ∧ (place3 0x82080000 sy 26 q 15 a 9) < 2 ^ 32
  have h0 := sy.isLt
  have h1 := q.isLt
  have h2 := a.isLt
  simp only [place1, place2, place3]; omega
theorem qpushRing (sy : BitVec 5) (q : BitVec 4) (a : BitVec 5) : Statement (.qpushRing sy q a) := by
  show 2 ^ 31 ≤ (place3 0x82084000 sy 26 q 15 a 9) ∧ (place3 0x82084000 sy 26 q 15 a 9) < 2 ^ 32
  have h0 := sy.isLt
  have h1 := q.isLt
  have h2 := a.isLt
  simp only [place1, place2, place3]; omega
theorem qpop (sy : BitVec 5) (q : BitVec 4) (a : BitVec 5) : Statement (.qpop sy q a) := by
  show 2 ^ 31 ≤ (place3 0x82100000 sy 26 q 15 a 9) ∧ (place3 0x82100000 sy 26 q 15 a 9) < 2 ^ 32
  have h0 := sy.isLt
  have h1 := q.isLt
  have h2 := a.isLt
  simp only [place1, place2, place3]; omega
theorem qpopRing (sy : BitVec 5) (q : BitVec 4) (a : BitVec 5) : Statement (.qpopRing sy q a) := by
  show 2 ^ 31 ≤ (place3 0x82104000 sy 26 q 15 a 9) ∧ (place3 0x82104000 sy 26 q 15 a 9) < 2 ^ 32
  have h0 := sy.isLt
  have h1 := q.isLt
  have h2 := a.isLt
  simp only [place1, place2, place3]; omega
theorem qcnt (sy : BitVec 5) (q : BitVec 4) (d : BitVec 5) : Statement (.qcnt sy q d) := by
  show 2 ^ 31 ≤ (place3 0x82180000 sy 26 q 13 d 8) ∧ (place3 0x82180000 sy 26 q 13 d 8) < 2 ^ 32
  have h0 := sy.isLt
  have h1 := q.isLt
  have h2 := d.isLt
  simp only [place1, place2, place3]; omega
theorem fqpush (sy a : BitVec 5) : Statement (.fqpush sy a) := by
  show 2 ^ 31 ≤ (place2 0x821A0000 sy 26 a 8) ∧ (place2 0x821A0000 sy 26 a 8) < 2 ^ 32
  have h0 := sy.isLt
  have h1 := a.isLt
  simp only [place1, place2]; omega
theorem fqpushT (sy a : BitVec 5) : Statement (.fqpushT sy a) := by
  show 2 ^ 31 ≤ (place2 0x821A2000 sy 26 a 8) ∧ (place2 0x821A2000 sy 26 a 8) < 2 ^ 32
  have h0 := sy.isLt
  have h1 := a.isLt
  simp only [place1, place2]; omega
theorem fqclose (sy : BitVec 5) : Statement (.fqclose sy) := by
  show 2 ^ 31 ≤ (place1 0x821C0000 sy 26) ∧ (place1 0x821C0000 sy 26) < 2 ^ 32
  have h0 := sy.isLt
  simp only [place1]; omega
theorem rmap (sy : BitVec 5) (n : BitVec 4) (a : BitVec 5) (p : BitVec 3) : Statement (.rmap sy n a p) := by
  show 2 ^ 31 ≤ (place1 (place3 0x82200000 sy 26 n 13 a 8) p 0) ∧ (place1 (place3 0x82200000 sy 26 n 13 a 8) p 0) < 2 ^ 32
  have h0 := sy.isLt
  have h1 := n.isLt
  have h2 := a.isLt
  have h3 := p.isLt
  simp only [place1, place2, place3]; omega
theorem rflush (sy : BitVec 5) (n : BitVec 4) (a : BitVec 5) (o p : BitVec 3) : Statement (.rflush sy n a o p) := by
  show 2 ^ 31 ≤ (place2 (place3 0x82220000 sy 26 n 13 a 8) o 5 p 0) ∧ (place2 (place3 0x82220000 sy 26 n 13 a 8) o 5 p 0) < 2 ^ 32
  have h0 := sy.isLt
  have h1 := n.isLt
  have h2 := a.isLt
  have h3 := o.isLt
  have h4 := p.isLt
  simp only [place1, place2, place3]; omega
theorem rinv (sy : BitVec 5) (n : BitVec 4) (a : BitVec 5) : Statement (.rinv sy n a) := by
  show 2 ^ 31 ≤ (place3 0x82240000 sy 26 n 13 a 8) ∧ (place3 0x82240000 sy 26 n 13 a 8) < 2 ^ 32
  have h0 := sy.isLt
  have h1 := n.isLt
  have h2 := a.isLt
  simp only [place1, place2, place3]; omega
theorem rcfgRegion (sy : BitVec 5) (n : BitVec 4) (a b : BitVec 5) : Statement (.rcfgRegion sy n a b) := by
  show 2 ^ 31 ≤ (place1 (place3 0x82280000 sy 26 n 14 a 9) b 4) ∧ (place1 (place3 0x82280000 sy 26 n 14 a 9) b 4) < 2 ^ 32
  have h0 := sy.isLt
  have h1 := n.isLt
  have h2 := a.isLt
  have h3 := b.isLt
  simp only [place1, place2, place3]; omega
theorem rcfgRing (sy : BitVec 5) (n : BitVec 4) (a : BitVec 5) : Statement (.rcfgRing sy n a) := by
  show 2 ^ 31 ≤ (place3 0x822C0000 sy 26 n 14 a 9) ∧ (place3 0x822C0000 sy 26 n 14 a 9) < 2 ^ 32
  have h0 := sy.isLt
  have h1 := n.isLt
  have h2 := a.isLt
  simp only [place1, place2, place3]; omega
theorem fence (sy : BitVec 5) (o : BitVec 3) (u : BitVec 1) : Statement (.fence sy o u) := by
  show 2 ^ 31 ≤ (place3 0x82400000 sy 26 o 16 u 15) ∧ (place3 0x82400000 sy 26 o 16 u 15) < 2 ^ 32
  have h0 := sy.isLt
  have h1 := o.isLt
  have h2 := u.isLt
  simp only [place1, place2, place3]; omega
theorem flagw (sy : BitVec 5) (f : BitVec 6) (a b : BitVec 5) (p : BitVec 3) : Statement (.flagw sy f a b p) := by
  show 2 ^ 31 ≤ (place2 (place3 0x82480000 sy 26 f 13 a 8) b 3 p 0) ∧ (place2 (place3 0x82480000 sy 26 f 13 a 8) b 3 p 0) < 2 ^ 32
  have h0 := sy.isLt
  have h1 := f.isLt
  have h2 := a.isLt
  have h3 := b.isLt
  have h4 := p.isLt
  simp only [place1, place2, place3]; omega
theorem flagadd (sy : BitVec 5) (f : BitVec 8) (a : BitVec 5) : Statement (.flagadd sy f a) := by
  show 2 ^ 31 ≤ (place3 0x82500000 sy 26 f 10 a 5) ∧ (place3 0x82500000 sy 26 f 10 a 5) < 2 ^ 32
  have h0 := sy.isLt
  have h1 := f.isLt
  have h2 := a.isLt
  simp only [place1, place2, place3]; omega
theorem flagwait (sy : BitVec 5) (f : BitVec 8) (a : BitVec 5) (t : BitVec 3) : Statement (.flagwait sy f a t) := by
  show 2 ^ 31 ≤ (place1 (place3 0x82540000 sy 26 f 10 a 5) t 2) ∧ (place1 (place3 0x82540000 sy 26 f 10 a 5) t 2) < 2 ^ 32
  have h0 := sy.isLt
  have h1 := f.isLt
  have h2 := a.isLt
  have h3 := t.isLt
  simp only [place1, place2, place3]; omega
theorem bar (sy : BitVec 5) (t : BitVec 1) (l : BitVec 2) (i : BitVec 8) : Statement (.bar sy t l i) := by
  show 2 ^ 31 ≤ (place1 (place3 0x82580000 sy 26 t 18 l 16) i 8) ∧ (place1 (place3 0x82580000 sy 26 t 18 l 16) i 8) < 2 ^ 32
  have h0 := sy.isLt
  have h1 := t.isLt
  have h2 := l.isLt
  have h3 := i.isLt
  simp only [place1, place2, place3]; omega
theorem cpy (sy : BitVec 5) (d i c : BitVec 4) (q l : BitVec 1) (o : BitVec 3) (b : BitVec 1) : Statement (.cpy sy d i c q l o b) := by
  show 2 ^ 31 ≤ (place2 (place3 (place3 0x82600000 sy 26 d 15 i 11) c 7 q 6 l 5) o 2 b 1) ∧ (place2 (place3 (place3 0x82600000 sy 26 d 15 i 11) c 7 q 6 l 5) o 2 b 1) < 2 ^ 32
  have h0 := sy.isLt
  have h1 := d.isLt
  have h2 := i.isLt
  have h3 := c.isLt
  have h4 := q.isLt
  have h5 := l.isLt
  have h6 := o.isLt
  have h7 := b.isLt
  simp only [place1, place2, place3]; omega
theorem cpyw (sy : BitVec 5) (p : BitVec 3) : Statement (.cpyw sy p) := by
  show 2 ^ 31 ≤ (place2 0x82680000 sy 26 p 14) ∧ (place2 0x82680000 sy 26 p 14) < 2 ^ 32
  have h0 := sy.isLt
  have h1 := p.isLt
  simp only [place1, place2]; omega
theorem cpyq (sy : BitVec 5) (d : BitVec 4) : Statement (.cpyq sy d) := by
  show 2 ^ 31 ≤ (place2 0x826C0000 sy 26 d 14) ∧ (place2 0x826C0000 sy 26 d 14) < 2 ^ 32
  have h0 := sy.isLt
  have h1 := d.isLt
  simp only [place1, place2]; omega
theorem bop (sy d : BitVec 5) (r : BitVec 4) (k : BitVec 2) (o : BitVec 4) (f : BitVec 3) : Statement (.bop sy d r k o f) := by
  show 2 ^ 31 ≤ (place3 (place3 0x82700000 sy 26 d 14 r 10) k 8 o 4 f 1) ∧ (place3 (place3 0x82700000 sy 26 d 14 r 10) k 8 o 4 f 1) < 2 ^ 32
  have h0 := sy.isLt
  have h1 := d.isLt
  have h2 := r.isLt
  have h3 := k.isLt
  have h4 := o.isLt
  have h5 := f.isLt
  simp only [place1, place2, place3]; omega
theorem coll (sy : BitVec 5) (d i c : BitVec 4) (q l : BitVec 1) (o : BitVec 3) (b : BitVec 1) : Statement (.coll sy d i c q l o b) := by
  show 2 ^ 31 ≤ (place2 (place3 (place3 0x82780000 sy 26 d 15 i 11) c 7 q 6 l 5) o 2 b 1) ∧ (place2 (place3 (place3 0x82780000 sy 26 d 15 i 11) c 7 q 6 l 5) o 2 b 1) < 2 ^ 32
  have h0 := sy.isLt
  have h1 := d.isLt
  have h2 := i.isLt
  have h3 := c.isLt
  have h4 := q.isLt
  have h5 := l.isLt
  have h6 := o.isLt
  have h7 := b.isLt
  simp only [place1, place2, place3]; omega
theorem vadd (sy d a b : BitVec 5) (m : BitVec 3) (e : BitVec 1) : Statement (.vadd sy d a b m e) := by
  show 2 ^ 31 ≤ (place3 (place3 0x82800000 sy 26 d 14 a 9) b 4 m 1 e 0) ∧ (place3 (place3 0x82800000 sy 26 d 14 a 9) b 4 m 1 e 0) < 2 ^ 32
  have h0 := sy.isLt
  have h1 := d.isLt
  have h2 := a.isLt
  have h3 := b.isLt
  have h4 := m.isLt
  have h5 := e.isLt
  simp only [place1, place2, place3]; omega
theorem vsub (sy d a b : BitVec 5) (m : BitVec 3) (e : BitVec 1) : Statement (.vsub sy d a b m e) := by
  show 2 ^ 31 ≤ (place3 (place3 0x82880000 sy 26 d 14 a 9) b 4 m 1 e 0) ∧ (place3 (place3 0x82880000 sy 26 d 14 a 9) b 4 m 1 e 0) < 2 ^ 32
  have h0 := sy.isLt
  have h1 := d.isLt
  have h2 := a.isLt
  have h3 := b.isLt
  have h4 := m.isLt
  have h5 := e.isLt
  simp only [place1, place2, place3]; omega
theorem vmul (sy d a b : BitVec 5) (m : BitVec 3) (e : BitVec 1) : Statement (.vmul sy d a b m e) := by
  show 2 ^ 31 ≤ (place3 (place3 0x82900000 sy 26 d 14 a 9) b 4 m 1 e 0) ∧ (place3 (place3 0x82900000 sy 26 d 14 a 9) b 4 m 1 e 0) < 2 ^ 32
  have h0 := sy.isLt
  have h1 := d.isLt
  have h2 := a.isLt
  have h3 := b.isLt
  have h4 := m.isLt
  have h5 := e.isLt
  simp only [place1, place2, place3]; omega
theorem vfma (sy d a b : BitVec 5) (m : BitVec 3) (e : BitVec 1) : Statement (.vfma sy d a b m e) := by
  show 2 ^ 31 ≤ (place3 (place3 0x82980000 sy 26 d 14 a 9) b 4 m 1 e 0) ∧ (place3 (place3 0x82980000 sy 26 d 14 a 9) b 4 m 1 e 0) < 2 ^ 32
  have h0 := sy.isLt
  have h1 := d.isLt
  have h2 := a.isLt
  have h3 := b.isLt
  have h4 := m.isLt
  have h5 := e.isLt
  simp only [place1, place2, place3]; omega
theorem vfms (sy d a b : BitVec 5) (m : BitVec 3) (e : BitVec 1) : Statement (.vfms sy d a b m e) := by
  show 2 ^ 31 ≤ (place3 (place3 0x82A00000 sy 26 d 14 a 9) b 4 m 1 e 0) ∧ (place3 (place3 0x82A00000 sy 26 d 14 a 9) b 4 m 1 e 0) < 2 ^ 32
  have h0 := sy.isLt
  have h1 := d.isLt
  have h2 := a.isLt
  have h3 := b.isLt
  have h4 := m.isLt
  have h5 := e.isLt
  simp only [place1, place2, place3]; omega
theorem vmax (sy d a b : BitVec 5) (m : BitVec 3) (e : BitVec 1) : Statement (.vmax sy d a b m e) := by
  show 2 ^ 31 ≤ (place3 (place3 0x82A80000 sy 26 d 14 a 9) b 4 m 1 e 0) ∧ (place3 (place3 0x82A80000 sy 26 d 14 a 9) b 4 m 1 e 0) < 2 ^ 32
  have h0 := sy.isLt
  have h1 := d.isLt
  have h2 := a.isLt
  have h3 := b.isLt
  have h4 := m.isLt
  have h5 := e.isLt
  simp only [place1, place2, place3]; omega
theorem vmin (sy d a b : BitVec 5) (m : BitVec 3) (e : BitVec 1) : Statement (.vmin sy d a b m e) := by
  show 2 ^ 31 ≤ (place3 (place3 0x82B00000 sy 26 d 14 a 9) b 4 m 1 e 0) ∧ (place3 (place3 0x82B00000 sy 26 d 14 a 9) b 4 m 1 e 0) < 2 ^ 32
  have h0 := sy.isLt
  have h1 := d.isLt
  have h2 := a.isLt
  have h3 := b.isLt
  have h4 := m.isLt
  have h5 := e.isLt
  simp only [place1, place2, place3]; omega
theorem vabs (sy d a : BitVec 5) (m : BitVec 3) (i o : BitVec 1) : Statement (.vabs sy d a m i o) := by
  show 2 ^ 31 ≤ (place3 (place3 0x82B80000 sy 26 d 14 a 9) m 6 i 5 o 4) ∧ (place3 (place3 0x82B80000 sy 26 d 14 a 9) m 6 i 5 o 4) < 2 ^ 32
  have h0 := sy.isLt
  have h1 := d.isLt
  have h2 := a.isLt
  have h3 := m.isLt
  have h4 := i.isLt
  have h5 := o.isLt
  simp only [place1, place2, place3]; omega
theorem vneg (sy d a : BitVec 5) (m : BitVec 3) (i o : BitVec 1) : Statement (.vneg sy d a m i o) := by
  show 2 ^ 31 ≤ (place3 (place3 0x82B80001 sy 26 d 14 a 9) m 6 i 5 o 4) ∧ (place3 (place3 0x82B80001 sy 26 d 14 a 9) m 6 i 5 o 4) < 2 ^ 32
  have h0 := sy.isLt
  have h1 := d.isLt
  have h2 := a.isLt
  have h3 := m.isLt
  have h4 := i.isLt
  have h5 := o.isLt
  simp only [place1, place2, place3]; omega
theorem vrcp (sy d a : BitVec 5) (m : BitVec 3) (i o t r : BitVec 1) : Statement (.vrcp sy d a m i o t r) := by
  show 2 ^ 31 ≤ (place2 (place3 (place3 0x82B80002 sy 26 d 14 a 9) m 6 i 5 o 4) t 3 r 2) ∧ (place2 (place3 (place3 0x82B80002 sy 26 d 14 a 9) m 6 i 5 o 4) t 3 r 2) < 2 ^ 32
  have h0 := sy.isLt
  have h1 := d.isLt
  have h2 := a.isLt
  have h3 := m.isLt
  have h4 := i.isLt
  have h5 := o.isLt
  have h6 := t.isLt
  have h7 := r.isLt
  simp only [place1, place2, place3]; omega
theorem vrsq (sy d a : BitVec 5) (m : BitVec 3) (i o t r : BitVec 1) : Statement (.vrsq sy d a m i o t r) := by
  show 2 ^ 31 ≤ (place2 (place3 (place3 0x82B80003 sy 26 d 14 a 9) m 6 i 5 o 4) t 3 r 2) ∧ (place2 (place3 (place3 0x82B80003 sy 26 d 14 a 9) m 6 i 5 o 4) t 3 r 2) < 2 ^ 32
  have h0 := sy.isLt
  have h1 := d.isLt
  have h2 := a.isLt
  have h3 := m.isLt
  have h4 := i.isLt
  have h5 := o.isLt
  have h6 := t.isLt
  have h7 := r.isLt
  simp only [place1, place2, place3]; omega
theorem vexp2 (sy d a : BitVec 5) (m : BitVec 3) (i o : BitVec 1) : Statement (.vexp2 sy d a m i o) := by
  show 2 ^ 31 ≤ (place3 (place3 0x82C00000 sy 26 d 14 a 9) m 6 i 5 o 4) ∧ (place3 (place3 0x82C00000 sy 26 d 14 a 9) m 6 i 5 o 4) < 2 ^ 32
  have h0 := sy.isLt
  have h1 := d.isLt
  have h2 := a.isLt
  have h3 := m.isLt
  have h4 := i.isLt
  have h5 := o.isLt
  simp only [place1, place2, place3]; omega
theorem vlog2 (sy d a : BitVec 5) (m : BitVec 3) (i o : BitVec 1) : Statement (.vlog2 sy d a m i o) := by
  show 2 ^ 31 ≤ (place3 (place3 0x82C00001 sy 26 d 14 a 9) m 6 i 5 o 4) ∧ (place3 (place3 0x82C00001 sy 26 d 14 a 9) m 6 i 5 o 4) < 2 ^ 32
  have h0 := sy.isLt
  have h1 := d.isLt
  have h2 := a.isLt
  have h3 := m.isLt
  have h4 := i.isLt
  have h5 := o.isLt
  simp only [place1, place2, place3]; omega
theorem vcvtFromFp32 (sy d a f : BitVec 5) (r : BitVec 3) (t : BitVec 1) : Statement (.vcvtFromFp32 sy d a f r t) := by
  show 2 ^ 31 ≤ (place3 (place3 0x82C80000 sy 26 d 14 a 9) f 4 r 1 t 0) ∧ (place3 (place3 0x82C80000 sy 26 d 14 a 9) f 4 r 1 t 0) < 2 ^ 32
  have h0 := sy.isLt
  have h1 := d.isLt
  have h2 := a.isLt
  have h3 := f.isLt
  have h4 := r.isLt
  have h5 := t.isLt
  simp only [place1, place2, place3]; omega
theorem vcvtToFp32 (sy d a f : BitVec 5) : Statement (.vcvtToFp32 sy d a f) := by
  show 2 ^ 31 ≤ (place1 (place3 0x82D00000 sy 26 d 14 a 9) f 4) ∧ (place1 (place3 0x82D00000 sy 26 d 14 a 9) f 4) < 2 ^ 32
  have h0 := sy.isLt
  have h1 := d.isLt
  have h2 := a.isLt
  have h3 := f.isLt
  simp only [place1, place2, place3]; omega
theorem vquant (sy d a f : BitVec 5) (r : BitVec 3) (t : BitVec 1) : Statement (.vquant sy d a f r t) := by
  show 2 ^ 31 ≤ (place3 (place3 0x82D80000 sy 26 d 14 a 9) f 4 r 1 t 0) ∧ (place3 (place3 0x82D80000 sy 26 d 14 a 9) f 4 r 1 t 0) < 2 ^ 32
  have h0 := sy.isLt
  have h1 := d.isLt
  have h2 := a.isLt
  have h3 := f.isLt
  have h4 := r.isLt
  have h5 := t.isLt
  simp only [place1, place2, place3]; omega
theorem vdeq (sy d a f : BitVec 5) : Statement (.vdeq sy d a f) := by
  show 2 ^ 31 ≤ (place1 (place3 0x82E00000 sy 26 d 14 a 9) f 4) ∧ (place1 (place3 0x82E00000 sy 26 d 14 a 9) f 4) < 2 ^ 32
  have h0 := sy.isLt
  have h1 := d.isLt
  have h2 := a.isLt
  have h3 := f.isLt
  simp only [place1, place2, place3]; omega
theorem vcmp (sy : BitVec 5) (d : BitVec 3) (a b : BitVec 5) (t m : BitVec 3) : Statement (.vcmp sy d a b t m) := by
  show 2 ^ 31 ≤ (place3 (place3 0x82E80000 sy 26 d 16 a 11) b 6 t 3 m 0) ∧ (place3 (place3 0x82E80000 sy 26 d 16 a 11) b 6 t 3 m 0) < 2 ^ 32
  have h0 := sy.isLt
  have h1 := d.isLt
  have h2 := a.isLt
  have h3 := b.isLt
  have h4 := t.isLt
  have h5 := m.isLt
  simp only [place1, place2, place3]; omega
theorem vsel (sy d a b : BitVec 5) (m : BitVec 3) : Statement (.vsel sy d a b m) := by
  show 2 ^ 31 ≤ (place2 (place3 0x82F00000 sy 26 d 14 a 9) b 4 m 1) ∧ (place2 (place3 0x82F00000 sy 26 d 14 a 9) b 4 m 1) < 2 ^ 32
  have h0 := sy.isLt
  have h1 := d.isLt
  have h2 := a.isLt
  have h3 := b.isLt
  have h4 := m.isLt
  simp only [place1, place2, place3]; omega
theorem vand (sy d a b : BitVec 5) (m : BitVec 3) : Statement (.vand sy d a b m) := by
  show 2 ^ 31 ≤ (place2 (place3 0x82F80000 sy 26 d 14 a 9) b 4 m 1) ∧ (place2 (place3 0x82F80000 sy 26 d 14 a 9) b 4 m 1) < 2 ^ 32
  have h0 := sy.isLt
  have h1 := d.isLt
  have h2 := a.isLt
  have h3 := b.isLt
  have h4 := m.isLt
  simp only [place1, place2, place3]; omega
theorem vor (sy d a b : BitVec 5) (m : BitVec 3) : Statement (.vor sy d a b m) := by
  show 2 ^ 31 ≤ (place2 (place3 0x83000000 sy 26 d 14 a 9) b 4 m 1) ∧ (place2 (place3 0x83000000 sy 26 d 14 a 9) b 4 m 1) < 2 ^ 32
  have h0 := sy.isLt
  have h1 := d.isLt
  have h2 := a.isLt
  have h3 := b.isLt
  have h4 := m.isLt
  simp only [place1, place2, place3]; omega
theorem vxor (sy d a b : BitVec 5) (m : BitVec 3) : Statement (.vxor sy d a b m) := by
  show 2 ^ 31 ≤ (place2 (place3 0x83080000 sy 26 d 14 a 9) b 4 m 1) ∧ (place2 (place3 0x83080000 sy 26 d 14 a 9) b 4 m 1) < 2 ^ 32
  have h0 := sy.isLt
  have h1 := d.isLt
  have h2 := a.isLt
  have h3 := b.isLt
  have h4 := m.isLt
  simp only [place1, place2, place3]; omega
theorem vnot (sy d a : BitVec 5) (m : BitVec 3) : Statement (.vnot sy d a m) := by
  show 2 ^ 31 ≤ (place1 (place3 0x83100000 sy 26 d 14 a 9) m 6) ∧ (place1 (place3 0x83100000 sy 26 d 14 a 9) m 6) < 2 ^ 32
  have h0 := sy.isLt
  have h1 := d.isLt
  have h2 := a.isLt
  have h3 := m.isLt
  simp only [place1, place2, place3]; omega
theorem vshl (sy d a b : BitVec 5) (m : BitVec 3) : Statement (.vshl sy d a b m) := by
  show 2 ^ 31 ≤ (place2 (place3 0x83180000 sy 26 d 14 a 9) b 4 m 1) ∧ (place2 (place3 0x83180000 sy 26 d 14 a 9) b 4 m 1) < 2 ^ 32
  have h0 := sy.isLt
  have h1 := d.isLt
  have h2 := a.isLt
  have h3 := b.isLt
  have h4 := m.isLt
  simp only [place1, place2, place3]; omega
theorem vshr (sy d a b : BitVec 5) (m : BitVec 3) : Statement (.vshr sy d a b m) := by
  show 2 ^ 31 ≤ (place2 (place3 0x83200000 sy 26 d 14 a 9) b 4 m 1) ∧ (place2 (place3 0x83200000 sy 26 d 14 a 9) b 4 m 1) < 2 ^ 32
  have h0 := sy.isLt
  have h1 := d.isLt
  have h2 := a.isLt
  have h3 := b.isLt
  have h4 := m.isLt
  simp only [place1, place2, place3]; omega
theorem vsar (sy d a b : BitVec 5) (m : BitVec 3) : Statement (.vsar sy d a b m) := by
  show 2 ^ 31 ≤ (place2 (place3 0x83280000 sy 26 d 14 a 9) b 4 m 1) ∧ (place2 (place3 0x83280000 sy 26 d 14 a 9) b 4 m 1) < 2 ^ 32
  have h0 := sy.isLt
  have h1 := d.isLt
  have h2 := a.isLt
  have h3 := b.isLt
  have h4 := m.isLt
  simp only [place1, place2, place3]; omega
theorem viadd (sy d a b : BitVec 5) (m : BitVec 3) (t : BitVec 1) : Statement (.viadd sy d a b m t) := by
  show 2 ^ 31 ≤ (place3 (place3 0x83300000 sy 26 d 14 a 9) b 4 m 1 t 0) ∧ (place3 (place3 0x83300000 sy 26 d 14 a 9) b 4 m 1 t 0) < 2 ^ 32
  have h0 := sy.isLt
  have h1 := d.isLt
  have h2 := a.isLt
  have h3 := b.isLt
  have h4 := m.isLt
  have h5 := t.isLt
  simp only [place1, place2, place3]; omega
theorem vimul (sy d a b : BitVec 5) (m : BitVec 3) (t : BitVec 1) : Statement (.vimul sy d a b m t) := by
  show 2 ^ 31 ≤ (place3 (place3 0x83380000 sy 26 d 14 a 9) b 4 m 1 t 0) ∧ (place3 (place3 0x83380000 sy 26 d 14 a 9) b 4 m 1 t 0) < 2 ^ 32
  have h0 := sy.isLt
  have h1 := d.isLt
  have h2 := a.isLt
  have h3 := b.isLt
  have h4 := m.isLt
  have h5 := t.isLt
  simp only [place1, place2, place3]; omega
theorem vred (sy d a : BitVec 5) (m : BitVec 3) (f : BitVec 2) : Statement (.vred sy d a m f) := by
  show 2 ^ 31 ≤ (place2 (place3 0x83400000 sy 26 d 14 a 9) m 6 f 0) ∧ (place2 (place3 0x83400000 sy 26 d 14 a 9) m 6 f 0) < 2 ^ 32
  have h0 := sy.isLt
  have h1 := d.isLt
  have h2 := a.isLt
  have h3 := m.isLt
  have h4 := f.isLt
  simp only [place1, place2, place3]; omega
theorem vperm (sy d a b : BitVec 5) (m : BitVec 3) : Statement (.vperm sy d a b m) := by
  show 2 ^ 31 ≤ (place2 (place3 0x83480000 sy 26 d 14 a 9) b 4 m 1) ∧ (place2 (place3 0x83480000 sy 26 d 14 a 9) b 4 m 1) < 2 ^ 32
  have h0 := sy.isLt
  have h1 := d.isLt
  have h2 := a.isLt
  have h3 := b.isLt
  have h4 := m.isLt
  simp only [place1, place2, place3]; omega
theorem vbcast (sy d a : BitVec 5) (l : BitVec 6) : Statement (.vbcast sy d a l) := by
  show 2 ^ 31 ≤ (place1 (place3 0x83500000 sy 26 d 11 a 6) l 0) ∧ (place1 (place3 0x83500000 sy 26 d 11 a 6) l 0) < 2 ^ 32
  have h0 := sy.isLt
  have h1 := d.isLt
  have h2 := a.isLt
  have h3 := l.isLt
  simp only [place1, place2, place3]; omega
theorem vsplat (sy d : BitVec 5) (i : BitVec 6) : Statement (.vsplat sy d i) := by
  show 2 ^ 31 ≤ (place3 0x83510000 sy 26 d 11 i 0) ∧ (place3 0x83510000 sy 26 d 11 i 0) < 2 ^ 32
  have h0 := sy.isLt
  have h1 := d.isLt
  have h2 := i.isLt
  simp only [place1, place2, place3]; omega
theorem viota (sy d : BitVec 5) (x : BitVec 6) : Statement (.viota sy d x) := by
  show 2 ^ 31 ≤ (place3 0x83520000 sy 26 d 11 x 0) ∧ (place3 0x83520000 sy 26 d 11 x 0) < 2 ^ 32
  have h0 := sy.isLt
  have h1 := d.isLt
  have h2 := x.isLt
  simp only [place1, place2, place3]; omega
theorem vmov (sy d a : BitVec 5) : Statement (.vmov sy d a) := by
  show 2 ^ 31 ≤ (place3 0x83530000 sy 26 d 11 a 6) ∧ (place3 0x83530000 sy 26 d 11 a 6) < 2 ^ 32
  have h0 := sy.isLt
  have h1 := d.isLt
  have h2 := a.isLt
  simp only [place1, place2, place3]; omega
theorem vmovToQueue (sy a : BitVec 5) (q : BitVec 4) : Statement (.vmovToQueue sy a q) := by
  show 2 ^ 31 ≤ (place3 0x83540000 sy 26 a 6 q 0) ∧ (place3 0x83540000 sy 26 a 6 q 0) < 2 ^ 32
  have h0 := sy.isLt
  have h1 := a.isLt
  have h2 := q.isLt
  simp only [place1, place2, place3]; omega
theorem vmovFromQueue (sy d : BitVec 5) (q : BitVec 4) : Statement (.vmovFromQueue sy d q) := by
  show 2 ^ 31 ≤ (place3 0x83550000 sy 26 d 11 q 0) ∧ (place3 0x83550000 sy 26 d 11 q 0) < 2 ^ 32
  have h0 := sy.isLt
  have h1 := d.isLt
  have h2 := q.isLt
  simp only [place1, place2, place3]; omega
theorem vmovToInteger (sy d a : BitVec 5) (l : BitVec 6) : Statement (.vmovToInteger sy d a l) := by
  show 2 ^ 31 ≤ (place1 (place3 0x83560000 sy 26 d 11 a 6) l 0) ∧ (place1 (place3 0x83560000 sy 26 d 11 a 6) l 0) < 2 ^ 32
  have h0 := sy.isLt
  have h1 := d.isLt
  have h2 := a.isLt
  have h3 := l.isLt
  simp only [place1, place2, place3]; omega
theorem vld (sy d : BitVec 5) (a : BitVec 4) (m o p : BitVec 3) : Statement (.vld sy d a m o p) := by
  show 2 ^ 31 ≤ (place3 (place3 0x83580000 sy 26 d 14 a 10) m 7 o 4 p 0) ∧ (place3 (place3 0x83580000 sy 26 d 14 a 10) m 7 o 4 p 0) < 2 ^ 32
  have h0 := sy.isLt
  have h1 := d.isLt
  have h2 := a.isLt
  have h3 := m.isLt
  have h4 := o.isLt
  have h5 := p.isLt
  simp only [place1, place2, place3]; omega
theorem vst (sy d : BitVec 5) (a : BitVec 4) (m o p : BitVec 3) : Statement (.vst sy d a m o p) := by
  show 2 ^ 31 ≤ (place3 (place3 0x83600000 sy 26 d 14 a 10) m 7 o 4 p 0) ∧ (place3 (place3 0x83600000 sy 26 d 14 a 10) m 7 o 4 p 0) < 2 ^ 32
  have h0 := sy.isLt
  have h1 := d.isLt
  have h2 := a.isLt
  have h3 := m.isLt
  have h4 := o.isLt
  have h5 := p.isLt
  simp only [place1, place2, place3]; omega
theorem vgath (sy d : BitVec 5) (a b : BitVec 4) (m p : BitVec 3) : Statement (.vgath sy d a b m p) := by
  show 2 ^ 31 ≤ (place3 (place3 0x83680000 sy 26 d 14 a 10) b 6 m 3 p 0) ∧ (place3 (place3 0x83680000 sy 26 d 14 a 10) b 6 m 3 p 0) < 2 ^ 32
  have h0 := sy.isLt
  have h1 := d.isLt
  have h2 := a.isLt
  have h3 := b.isLt
  have h4 := m.isLt
  have h5 := p.isLt
  simp only [place1, place2, place3]; omega
theorem vscat (sy d : BitVec 5) (a b : BitVec 4) (m p : BitVec 3) : Statement (.vscat sy d a b m p) := by
  show 2 ^ 31 ≤ (place3 (place3 0x83700000 sy 26 d 14 a 10) b 6 m 3 p 0) ∧ (place3 (place3 0x83700000 sy 26 d 14 a 10) b 6 m 3 p 0) < 2 ^ 32
  have h0 := sy.isLt
  have h1 := d.isLt
  have h2 := a.isLt
  have h3 := b.isLt
  have h4 := m.isLt
  have h5 := p.isLt
  simp only [place1, place2, place3]; omega
theorem mand (sy : BitVec 5) (d a b : BitVec 3) : Statement (.mand sy d a b) := by
  show 2 ^ 31 ≤ (place1 (place3 0x83780000 sy 26 d 13 a 10) b 7) ∧ (place1 (place3 0x83780000 sy 26 d 13 a 10) b 7) < 2 ^ 32
  have h0 := sy.isLt
  have h1 := d.isLt
  have h2 := a.isLt
  have h3 := b.isLt
  simp only [place1, place2, place3]; omega
theorem mor (sy : BitVec 5) (d a b : BitVec 3) : Statement (.mor sy d a b) := by
  show 2 ^ 31 ≤ (place1 (place3 0x83790000 sy 26 d 13 a 10) b 7) ∧ (place1 (place3 0x83790000 sy 26 d 13 a 10) b 7) < 2 ^ 32
  have h0 := sy.isLt
  have h1 := d.isLt
  have h2 := a.isLt
  have h3 := b.isLt
  simp only [place1, place2, place3]; omega
theorem mnot (sy : BitVec 5) (d a : BitVec 3) : Statement (.mnot sy d a) := by
  show 2 ^ 31 ≤ (place3 0x837A0000 sy 26 d 13 a 10) ∧ (place3 0x837A0000 sy 26 d 13 a 10) < 2 ^ 32
  have h0 := sy.isLt
  have h1 := d.isLt
  have h2 := a.isLt
  simp only [place1, place2, place3]; omega
theorem mpop (sy : BitVec 5) (a : BitVec 3) (r : BitVec 5) : Statement (.mpop sy a r) := by
  show 2 ^ 31 ≤ (place3 0x837B0000 sy 26 a 10 r 2) ∧ (place3 0x837B0000 sy 26 a 10 r 2) < 2 ^ 32
  have h0 := sy.isLt
  have h1 := a.isLt
  have h2 := r.isLt
  simp only [place1, place2, place3]; omega
theorem mffs (sy : BitVec 5) (a : BitVec 3) (r : BitVec 5) : Statement (.mffs sy a r) := by
  show 2 ^ 31 ≤ (place3 0x837C0000 sy 26 a 10 r 2) ∧ (place3 0x837C0000 sy 26 a 10 r 2) < 2 ^ 32
  have h0 := sy.isLt
  have h1 := a.isLt
  have h2 := r.isLt
  simp only [place1, place2, place3]; omega
theorem mma (sy : BitVec 5) (d c a b : BitVec 4) : Statement (.mma sy d c a b) := by
  show 2 ^ 31 ≤ (place2 (place3 0x83800000 sy 26 d 15 c 11) a 7 b 3) ∧ (place2 (place3 0x83800000 sy 26 d 15 c 11) a 7 b 3) < 2 ^ 32
  have h0 := sy.isLt
  have h1 := d.isLt
  have h2 := c.isLt
  have h3 := a.isLt
  have h4 := b.isLt
  simp only [place1, place2, place3]; omega
theorem mmas (sy : BitVec 5) (d c a b : BitVec 4) : Statement (.mmas sy d c a b) := by
  show 2 ^ 31 ≤ (place2 (place3 0x83880000 sy 26 d 15 c 11) a 7 b 3) ∧ (place2 (place3 0x83880000 sy 26 d 15 c 11) a 7 b 3) < 2 ^ 32
  have h0 := sy.isLt
  have h1 := d.isLt
  have h2 := c.isLt
  have h3 := a.isLt
  have h4 := b.isLt
  simp only [place1, place2, place3]; omega
theorem mfft (sy : BitVec 5) (r i : BitVec 4) : Statement (.mfft sy r i) := by
  show 2 ^ 31 ≤ (place3 0x83900000 sy 26 r 15 i 11) ∧ (place3 0x83900000 sy 26 r 15 i 11) < 2 ^ 32
  have h0 := sy.isLt
  have h1 := r.isLt
  have h2 := i.isLt
  simp only [place1, place2, place3]; omega
theorem mtw (sy a : BitVec 5) : Statement (.mtw sy a) := by
  show 2 ^ 31 ≤ (place2 0x83980000 sy 26 a 14) ∧ (place2 0x83980000 sy 26 a 14) < 2 ^ 32
  have h0 := sy.isLt
  have h1 := a.isLt
  simp only [place1, place2]; omega
theorem mzero (sy : BitVec 5) (d : BitVec 4) (m : BitVec 3) : Statement (.mzero sy d m) := by
  show 2 ^ 31 ≤ (place3 0x83A00000 sy 26 d 12 m 1) ∧ (place3 0x83A00000 sy 26 d 12 m 1) < 2 ^ 32
  have h0 := sy.isLt
  have h1 := d.isLt
  have h2 := m.isLt
  simp only [place1, place2, place3]; omega
theorem mtr (sy : BitVec 5) (d a : BitVec 4) : Statement (.mtr sy d a) := by
  show 2 ^ 31 ≤ (place3 0x83A10000 sy 26 d 12 a 8) ∧ (place3 0x83A10000 sy 26 d 12 a 8) < 2 ^ 32
  have h0 := sy.isLt
  have h1 := d.isLt
  have h2 := a.isLt
  simp only [place1, place2, place3]; omega
theorem madd (sy : BitVec 5) (d a b : BitVec 4) : Statement (.madd sy d a b) := by
  show 2 ^ 31 ≤ (place1 (place3 0x83A20000 sy 26 d 12 a 8) b 4) ∧ (place1 (place3 0x83A20000 sy 26 d 12 a 8) b 4) < 2 ^ 32
  have h0 := sy.isLt
  have h1 := d.isLt
  have h2 := a.isLt
  have h3 := b.isLt
  simp only [place1, place2, place3]; omega
theorem mmov (sy : BitVec 5) (d a : BitVec 4) : Statement (.mmov sy d a) := by
  show 2 ^ 31 ≤ (place3 0x83A30000 sy 26 d 12 a 8) ∧ (place3 0x83A30000 sy 26 d 12 a 8) < 2 ^ 32
  have h0 := sy.isLt
  have h1 := d.isLt
  have h2 := a.isLt
  simp only [place1, place2, place3]; omega
theorem msc (sy : BitVec 5) (d a i : BitVec 4) : Statement (.msc sy d a i) := by
  show 2 ^ 31 ≤ (place1 (place3 0x83A40000 sy 26 d 12 a 8) i 4) ∧ (place1 (place3 0x83A40000 sy 26 d 12 a 8) i 4) < 2 ^ 32
  have h0 := sy.isLt
  have h1 := d.isLt
  have h2 := a.isLt
  have h3 := i.isLt
  simp only [place1, place2, place3]; omega
theorem mldz (sy : BitVec 5) (z : BitVec 4) (a : BitVec 5) : Statement (.mldz sy z a) := by
  show 2 ^ 31 ≤ (place3 0x83A80000 sy 26 z 14 a 9) ∧ (place3 0x83A80000 sy 26 z 14 a 9) < 2 ^ 32
  have h0 := sy.isLt
  have h1 := z.isLt
  have h2 := a.isLt
  simp only [place1, place2, place3]; omega
theorem mstz (sy : BitVec 5) (z : BitVec 4) (a : BitVec 5) : Statement (.mstz sy z a) := by
  show 2 ^ 31 ≤ (place3 0x83AC0000 sy 26 z 14 a 9) ∧ (place3 0x83AC0000 sy 26 z 14 a 9) < 2 ^ 32
  have h0 := sy.isLt
  have h1 := z.isLt
  have h2 := a.isLt
  simp only [place1, place2, place3]; omega
theorem mcvt (sy : BitVec 5) (z : BitVec 4) (a : BitVec 5) (t : BitVec 1) : Statement (.mcvt sy z a t) := by
  show 2 ^ 31 ≤ (place1 (place3 0x83B00000 sy 26 z 15 a 10) t 9) ∧ (place1 (place3 0x83B00000 sy 26 z 15 a 10) t 9) < 2 ^ 32
  have h0 := sy.isLt
  have h1 := z.isLt
  have h2 := a.isLt
  have h3 := t.isLt
  simp only [place1, place2, place3]; omega
theorem kvattn (sy : BitVec 5) (d : BitVec 4) (a b : BitVec 5) (p : BitVec 3) : Statement (.kvattn sy d a b p) := by
  show 2 ^ 31 ≤ (place2 (place3 0x83B80000 sy 26 d 15 a 10) b 5 p 0) ∧ (place2 (place3 0x83B80000 sy 26 d 15 a 10) b 5 p 0) < 2 ^ 32
  have h0 := sy.isLt
  have h1 := d.isLt
  have h2 := a.isLt
  have h3 := b.isLt
  have h4 := p.isLt
  simp only [place1, place2, place3]; omega
theorem kvapp (sy a b c : BitVec 5) (p : BitVec 3) : Statement (.kvapp sy a b c p) := by
  show 2 ^ 31 ≤ (place2 (place3 0x83C00000 sy 26 a 14 b 9) c 4 p 0) ∧ (place2 (place3 0x83C00000 sy 26 a 14 b 9) c 4 p 0) < 2 ^ 32
  have h0 := sy.isLt
  have h1 := a.isLt
  have h2 := b.isLt
  have h3 := c.isLt
  have h4 := p.isLt
  simp only [place1, place2, place3]; omega
theorem kvgrow (sy a b c : BitVec 5) (p : BitVec 3) : Statement (.kvgrow sy a b c p) := by
  show 2 ^ 31 ≤ (place2 (place3 0x83C80000 sy 26 a 13 b 8) c 3 p 0) ∧ (place2 (place3 0x83C80000 sy 26 a 13 b 8) c 3 p 0) < 2 ^ 32
  have h0 := sy.isLt
  have h1 := a.isLt
  have h2 := b.isLt
  have h3 := c.isLt
  have h4 := p.isLt
  simp only [place1, place2, place3]; omega
theorem kvcmt (sy a b c : BitVec 5) (p : BitVec 3) : Statement (.kvcmt sy a b c p) := by
  show 2 ^ 31 ≤ (place2 (place3 0x83CC0000 sy 26 a 13 b 8) c 3 p 0) ∧ (place2 (place3 0x83CC0000 sy 26 a 13 b 8) c 3 p 0) < 2 ^ 32
  have h0 := sy.isLt
  have h1 := a.isLt
  have h2 := b.isLt
  have h3 := c.isLt
  have h4 := p.isLt
  simp only [place1, place2, place3]; omega
theorem kvld (sy d a : BitVec 5) (w : BitVec 2) (p : BitVec 3) : Statement (.kvld sy d a w p) := by
  show 2 ^ 31 ≤ (place2 (place3 0x83D00000 sy 26 d 14 a 9) w 7 p 0) ∧ (place2 (place3 0x83D00000 sy 26 d 14 a 9) w 7 p 0) < 2 ^ 32
  have h0 := sy.isLt
  have h1 := d.isLt
  have h2 := a.isLt
  have h3 := w.isLt
  have h4 := p.isLt
  simp only [place1, place2, place3]; omega
theorem csrr (sy d : BitVec 5) (c : BitVec 12) : Statement (.csrr sy d c) := by
  show 2 ^ 31 ≤ (place3 0x83E00000 sy 26 d 14 c 0) ∧ (place3 0x83E00000 sy 26 d 14 c 0) < 2 ^ 32
  have h0 := sy.isLt
  have h1 := d.isLt
  have h2 := c.isLt
  simp only [place1, place2, place3]; omega
theorem csrw (sy a : BitVec 5) (c : BitVec 12) : Statement (.csrw sy a c) := by
  show 2 ^ 31 ≤ (place3 0x83E80000 sy 26 a 14 c 0) ∧ (place3 0x83E80000 sy 26 a 14 c 0) < 2 ^ 32
  have h0 := sy.isLt
  have h1 := a.isLt
  have h2 := c.isLt
  simp only [place1, place2, place3]; omega
theorem tlbi (sy a b : BitVec 5) : Statement (.tlbi sy a b) := by
  show 2 ^ 31 ≤ (place3 0x83F00000 sy 26 a 12 b 7) ∧ (place3 0x83F00000 sy 26 a 12 b 7) < 2 ^ 32
  have h0 := sy.isLt
  have h1 := a.isLt
  have h2 := b.isLt
  simp only [place1, place2, place3]; omega
theorem snap (sy d b : BitVec 5) : Statement (.snap sy d b) := by
  show 2 ^ 31 ≤ (place3 0x83F20000 sy 26 d 12 b 7) ∧ (place3 0x83F20000 sy 26 d 12 b 7) < 2 ^ 32
  have h0 := sy.isLt
  have h1 := d.isLt
  have h2 := b.isLt
  simp only [place1, place2, place3]; omega
theorem evcfg (sy a b : BitVec 5) : Statement (.evcfg sy a b) := by
  show 2 ^ 31 ≤ (place3 0x83F40000 sy 26 a 12 b 7) ∧ (place3 0x83F40000 sy 26 a 12 b 7) < 2 ^ 32
  have h0 := sy.isLt
  have h1 := a.isLt
  have h2 := b.isLt
  simp only [place1, place2, place3]; omega
theorem rwctl (sy a b : BitVec 5) : Statement (.rwctl sy a b) := by
  show 2 ^ 31 ≤ (place3 0x83F60000 sy 26 a 12 b 7) ∧ (place3 0x83F60000 sy 26 a 12 b 7) < 2 ^ 32
  have h0 := sy.isLt
  have h1 := a.isLt
  have h2 := b.isLt
  simp only [place1, place2, place3]; omega
theorem resume (sy a : BitVec 5) : Statement (.resume sy a) := by
  show 2 ^ 31 ≤ (place2 0x83F80000 sy 26 a 14) ∧ (place2 0x83F80000 sy 26 a 14) < 2 ^ 32
  have h0 := sy.isLt
  have h1 := a.isLt
  simp only [place1, place2]; omega
theorem illegalInstruction (cause : IllegalCause) : Statement (.illegalInstruction cause) := trivial
theorem memoryAccessComplete (op : Nat) : Statement (.memoryAccessComplete op) := trivial
theorem coreRelease (die : DieId) : Statement (.coreRelease die) := trivial
theorem sweeperAdvance (die : DieId) (ch : Fin 48) : Statement (.sweeperAdvance die ch) := trivial
theorem victimAllocation (die : DieId) (ch : Fin 48) : Statement (.victimAllocation die ch) := trivial
theorem allocationRetry (die : DieId) (ch : Fin 48) : Statement (.allocationRetry die ch) := trivial
theorem prefetchWalk (die : DieId) : Statement (.prefetchWalk die) := trivial
theorem pageWalk (core : CoreId) (va asid : Nat) : Statement (.pageWalk core va asid) := trivial
theorem invalidationComplete (id : Nat) (other : Option OtherInval) : Statement (.invalidationComplete id other) := trivial
theorem kvinvComplete (die : DieId) : Statement (.kvinvComplete die) := trivial
theorem kvattnRound (core : CoreId) : Statement (.kvattnRound core) := trivial
theorem kvgrowPairInstall (op : Nat) : Statement (.kvgrowPairInstall op) := trivial
theorem kvgrowPageCopy (op : Nat) : Statement (.kvgrowPageCopy op) := trivial
theorem packetHop (die : DieId) (arrival : Option (List Byte)) : Statement (.packetHop die arrival) := trivial
theorem ceCommandStart (die : DieId) (ch : Fin 32) : Statement (.ceCommandStart die ch) := trivial
theorem ceLineComplete (die : DieId) (ch : Fin 32) (slot : Fin 8) : Statement (.ceLineComplete die ch slot) := trivial
theorem ceCommandComplete (die : DieId) (ch : Fin 32) (slot : Fin 8) : Statement (.ceCommandComplete die ch slot) := trivial
theorem ceRingWaitEnd (core : CoreId) : Statement (.ceRingWaitEnd core) := trivial
theorem muFillComplete (core : CoreId) (line : Fin 512) : Statement (.muFillComplete core line) := trivial
theorem muWritebackComplete (core : CoreId) (line : Fin 512) : Statement (.muWritebackComplete core line) := trivial
theorem launchAdmission (queue : Nat) : Statement (.launchAdmission queue) := trivial
theorem stageGrowth (gang : Nat) : Statement (.stageGrowth gang) := trivial
theorem launchComplete (gang : Nat) : Statement (.launchComplete gang) := trivial
theorem planeLoadComplete (core : CoreId) : Statement (.planeLoadComplete core) := trivial
theorem drainPoint (core : CoreId) : Statement (.drainPoint core) := trivial
theorem planeSwap (core : CoreId) : Statement (.planeSwap core) := trivial
theorem exDeferredPulse (core : CoreId) : Statement (.exDeferredPulse core) := trivial
theorem exPendingTarget (core : CoreId) (target : Fin 16) : Statement (.exPendingTarget core target) := trivial
theorem cqdoorWrite (v : Word) : Statement (.cqdoorWrite v) := trivial
theorem stepStart (queue : Nat) : Statement (.stepStart queue) := trivial
theorem launchNode (queue : Nat) (node : Fin 32) : Statement (.launchNode queue node) := trivial
theorem flagWaitNode (queue : Nat) (node : Fin 32) : Statement (.flagWaitNode queue node) := trivial
theorem signalNode (queue : Nat) (node : Fin 32) : Statement (.signalNode queue node) := trivial
theorem conditionalNode (queue : Nat) (node : Fin 32) : Statement (.conditionalNode queue node) := trivial
theorem circuitChangeNode (queue : Nat) (node : Fin 32) : Statement (.circuitChangeNode queue node) := trivial
theorem routeInstallNode (queue : Nat) (node : Fin 32) : Statement (.routeInstallNode queue node) := trivial
theorem leaseHandoverNode (queue : Nat) (node : Fin 32) : Statement (.leaseHandoverNode queue node) := trivial
theorem nodeComplete (queue : Nat) (node : Fin 32) : Statement (.nodeComplete queue node) := trivial
theorem lotteryDraw (die : DieId) : Statement (.lotteryDraw die) := trivial
theorem chainedLaunch (queue : Nat) (node : Fin 32) : Statement (.chainedLaunch queue node) := trivial
theorem gangSwitch (gang : Nat) : Statement (.gangSwitch gang) := trivial
theorem gangRestore (gang : Nat) : Statement (.gangRestore gang) := trivial
theorem heldEntryWrite (die : DieId) : Statement (.heldEntryWrite die) := trivial
theorem fackWrite (die : DieId) (v : Word) : Statement (.fackWrite die v) := trivial
theorem streamRestart (die : DieId) : Statement (.streamRestart die) := trivial
theorem hostWindowWrite (die : DieId) (core : Fin 128) (cl : Cluster) (n : BitVec 12) (v : Word) : Statement (.hostWindowWrite die core cl n v) := trivial
theorem coldPowerUp : Statement (.coldPowerUp) := trivial
theorem powerUpStageDone : Statement (.powerUpStageDone) := trivial
theorem powerUpStageTimeout : Statement (.powerUpStageTimeout) := trivial
theorem coreLeaveReset (die : DieId) : Statement (.coreLeaveReset die) := trivial
theorem recoveryImage (image : List Byte) : Statement (.recoveryImage image) := trivial
theorem dieReset (die : DieId) : Statement (.dieReset die) := trivial
theorem poolRequestTimeout (die : DieId) (tag : Nat) : Statement (.poolRequestTimeout die tag) := trivial
theorem leaseFillReply (die : DieId) (tag : Nat) (gen : BitVec 4) (ans : PoolAnswer) : Statement (.leaseFillReply die tag gen ans) := trivial
theorem promotionReply (die : DieId) (tag : Nat) (gen : BitVec 4) (epoch : BitVec 64) (ticks : Nat) : Statement (.promotionReply die tag gen epoch ticks) := trivial
theorem leaseRecall (die : DieId) (obj pidx : Nat) : Statement (.leaseRecall die obj pidx) := trivial
theorem leaseExpiry (die : DieId) (frame : Nat) : Statement (.leaseExpiry die frame) := trivial
theorem leaseRenewal (die : DieId) (frame : Nat) : Statement (.leaseRenewal die frame) := trivial
theorem renewalReply (die : DieId) (tag : Nat) (gen : BitVec 4) (ans : PoolAnswer) : Statement (.renewalReply die tag gen ans) := trivial
theorem writeThroughReply (die : DieId) (tag : Nat) (gen : BitVec 4) (st : Status) : Statement (.writeThroughReply die tag gen st) := trivial
theorem releaseReply (die : DieId) (tag : Nat) (gen : BitVec 4) (st : Status) : Statement (.releaseReply die tag gen st) := trivial
theorem handoverReply (die : DieId) (tag : Nat) (gen : BitVec 4) (st : Status) : Statement (.handoverReply die tag gen st) := trivial
theorem pfposWrite (die : DieId) (v : Word) : Statement (.pfposWrite die v) := trivial
theorem tinvcWrite (die : DieId) (v : Word) : Statement (.tinvcWrite die v) := trivial
theorem accessCounterWindow (die : DieId) : Statement (.accessCounterWindow die) := trivial
theorem kvinvWrite (die : DieId) (v : Word) : Statement (.kvinvWrite die v) := trivial
theorem tlinksEnable (die : DieId) (v : Word) : Statement (.tlinksEnable die v) := trivial
theorem linkTrainingResult (die : DieId) (link : Fin 6) (far : Option FarEnd) : Statement (.linkTrainingResult die link far) := trivial
theorem linkFailure (die : DieId) (link : Fin 6) : Statement (.linkFailure die link) := trivial
theorem remoteRequestArrival (die : DieId) (pkt : List Byte) : Statement (.remoteRequestArrival die pkt) := trivial
theorem remoteReply (die : DieId) (pkt : List Byte) : Statement (.remoteReply die pkt) := trivial
theorem remoteTimeout (die : DieId) (tag : Nat) : Statement (.remoteTimeout die tag) := trivial
theorem remoteTagRelease (die : DieId) (tag : Nat) : Statement (.remoteTagRelease die tag) := trivial
theorem flagArrival (die : DieId) (pkt : List Byte) : Statement (.flagArrival die pkt) := trivial
theorem fsrstWrite (die : DieId) (v : Word) : Statement (.fsrstWrite die v) := trivial
theorem rtwWrite (die : DieId) (v : Word) : Statement (.rtwWrite die v) := trivial
theorem gate (die : DieId) (port : Fin 16) : Statement (.gate die port) := trivial
theorem train (die : DieId) (port : Fin 16) : Statement (.train die port) := trivial
theorem drain (die : DieId) (port : Fin 16) : Statement (.drain die port) := trivial
theorem off (die : DieId) (port : Fin 16) : Statement (.off die port) := trivial
theorem laserModuleRemoved (die : DieId) (m : Fin 4) : Statement (.laserModuleRemoved die m) := trivial
theorem laserModuleInserted (die : DieId) (m : Fin 4) : Statement (.laserModuleInserted die m) := trivial
theorem portTrainingResult (die : DieId) (port : Fin 16) (res : TrainResult) : Statement (.portTrainingResult die port res) := trivial
theorem portTrainingTimeout (die : DieId) (port : Fin 16) : Statement (.portTrainingTimeout die port) := trivial
theorem portDrainComplete (die : DieId) (port : Fin 16) : Statement (.portDrainComplete die port) := trivial
theorem portDrainTimeout (die : DieId) (port : Fin 16) : Statement (.portDrainTimeout die port) := trivial
theorem laneCheck (die : DieId) (port : Fin 16) (counts : List Nat) : Statement (.laneCheck die port counts) := trivial
theorem tsnapWrite (die : DieId) (v : Word) : Statement (.tsnapWrite die v) := trivial
theorem latch (die : DieId) (lanes : List LaneReading) : Statement (.latch die lanes) := trivial
theorem oswackWrite (die : DieId) (v : Word) : Statement (.oswackWrite die v) := trivial
theorem switchRequestTimeout (queue : Nat) : Statement (.switchRequestTimeout queue) := trivial
theorem governorSettle (fixedDraw : Nat) (bids : List Bid) : Statement (.governorSettle fixedDraw bids) := trivial
theorem swathReplacement (core : CoreId) : Statement (.swathReplacement core) := trivial
theorem reassignmentEvaluation (gang : Nat) : Statement (.reassignmentEvaluation gang) := trivial
theorem flagWaitPoll (queue : Nat) (node : Fin 32) : Statement (.flagWaitPoll queue node) := trivial
theorem preemptionRequest (queue : Nat) : Statement (.preemptionRequest queue) := trivial
theorem preemptionDeadline (gang : Nat) (die : DieId) : Statement (.preemptionDeadline gang die) := trivial
theorem attestationRequest (nonce : BitVec 256) : Statement (.attestationRequest nonce) := trivial
theorem rollbackRaise (v : BitVec 64) : Statement (.rollbackRaise v) := trivial
theorem securityAlarm (kind : Alarm) : Statement (.securityAlarm kind) := trivial
theorem hostMemoryAccess (die : DieId) (addr : Nat) (what : HartAccess) : Statement (.hostMemoryAccess die addr what) := trivial
theorem attestationReportComplete (c : BitVec 256) (extra : BitVec 64) : Statement (.attestationReportComplete c extra) := trivial

end Sys2Proof.Laws.Fits
end

