-- ==== Sys2Proof/Laws/Retire.lean ====
section
/-!
SUPPORT. Retirement with flags raised (R203 to R205): what the flags and counters of a stream become, and that nothing else of the stream
changes.
-/

namespace Sys2Proof.Machine

theorem ClusterState.countClass_eq (c : ClusterState) (k : Nat) : c.countClass k =
    if actionDue (c.reg (8 + k)) (c.reg (0x10 + k)) = true then
      (c.setReg (8 + k) (counted (c.reg (8 + k)))).act (field (c.reg (0x10 + k)) 62 2)
    else (c.setReg (8 + k) (counted (c.reg (8 + k))), false) := rfl

@[simp] theorem ClusterState.pc_raise (c : ClusterState) (cs : Classes) : (c.raise cs).pc = c.pc := by
  unfold ClusterState.raise; split <;> rfl

@[simp] theorem ClusterState.pc_act (c : ClusterState) (a : Nat) : (c.act a).1.pc = c.pc := by
  unfold ClusterState.act; split <;> rfl

@[simp] theorem ClusterState.pc_countClass (c : ClusterState) (k : Nat) : (c.countClass k).1.pc = c.pc := by
  rw [ClusterState.countClass_eq]
  by_cases h : actionDue (c.reg (8 + k)) (c.reg (0x10 + k)) = true
  · rw [if_pos h, ClusterState.pc_act, ClusterState.pc_setReg]
  · rw [if_neg h, ClusterState.pc_setReg]

@[simp] theorem ClusterState.pc_countClasses (c : ClusterState) (cs : Classes) : (c.countClasses cs).1.pc = c.pc := by
  unfold ClusterState.countClasses
  exact foldl_keeps (fun r : ClusterState × List Nat => r.1.pc) _
    (by intro b a; dsimp only; split; (exact ClusterState.pc_countClass b.1 a); rfl) _ _

@[simp] theorem ClusterState.run_raise (c : ClusterState) (cs : Classes) : (c.raise cs).run = c.run := by
  unfold ClusterState.raise; split <;> rfl

@[simp] theorem ClusterState.run_act (c : ClusterState) (a : Nat) : (c.act a).1.run = c.run := by
  unfold ClusterState.act; split <;> rfl

@[simp] theorem ClusterState.run_countClass (c : ClusterState) (k : Nat) : (c.countClass k).1.run = c.run := by
  rw [ClusterState.countClass_eq]
  by_cases h : actionDue (c.reg (8 + k)) (c.reg (0x10 + k)) = true
  · rw [if_pos h, ClusterState.run_act, ClusterState.run_setReg]
  · rw [if_neg h, ClusterState.run_setReg]

@[simp] theorem ClusterState.run_countClasses (c : ClusterState) (cs : Classes) : (c.countClasses cs).1.run = c.run := by
  unfold ClusterState.countClasses
  exact foldl_keeps (fun r : ClusterState × List Nat => r.1.run) _
    (by intro b a; dsimp only; split; (exact ClusterState.run_countClass b.1 a); rfl) _ _

@[simp] theorem ClusterState.stack_raise (c : ClusterState) (cs : Classes) : (c.raise cs).stack = c.stack := by
  unfold ClusterState.raise; split <;> rfl

@[simp] theorem ClusterState.stack_act (c : ClusterState) (a : Nat) : (c.act a).1.stack = c.stack := by
  unfold ClusterState.act; split <;> rfl

@[simp] theorem ClusterState.stack_countClass (c : ClusterState) (k : Nat) : (c.countClass k).1.stack = c.stack := by
  rw [ClusterState.countClass_eq]
  by_cases h : actionDue (c.reg (8 + k)) (c.reg (0x10 + k)) = true
  · rw [if_pos h, ClusterState.stack_act, ClusterState.stack_setReg]
  · rw [if_neg h, ClusterState.stack_setReg]

@[simp] theorem ClusterState.stack_countClasses (c : ClusterState) (cs : Classes) : (c.countClasses cs).1.stack = c.stack := by
  unfold ClusterState.countClasses
  exact foldl_keeps (fun r : ClusterState × List Nat => r.1.stack) _
    (by intro b a; dsimp only; split; (exact ClusterState.stack_countClass b.1 a); rfl) _ _

@[simp] theorem ClusterState.x_raise (c : ClusterState) (cs : Classes) : (c.raise cs).x = c.x := by
  unfold ClusterState.raise; split <;> rfl

@[simp] theorem ClusterState.x_act (c : ClusterState) (a : Nat) : (c.act a).1.x = c.x := by
  unfold ClusterState.act; split <;> rfl

@[simp] theorem ClusterState.x_countClass (c : ClusterState) (k : Nat) : (c.countClass k).1.x = c.x := by
  rw [ClusterState.countClass_eq]
  by_cases h : actionDue (c.reg (8 + k)) (c.reg (0x10 + k)) = true
  · rw [if_pos h, ClusterState.x_act, ClusterState.x_setReg]
  · rw [if_neg h, ClusterState.x_setReg]

@[simp] theorem ClusterState.x_countClasses (c : ClusterState) (cs : Classes) : (c.countClasses cs).1.x = c.x := by
  unfold ClusterState.countClasses
  exact foldl_keeps (fun r : ClusterState × List Nat => r.1.x) _
    (by intro b a; dsimp only; split; (exact ClusterState.x_countClass b.1 a); rfl) _ _

@[simp] theorem ClusterState.g_raise (c : ClusterState) (cs : Classes) : (c.raise cs).g = c.g := by
  unfold ClusterState.raise; split <;> rfl

@[simp] theorem ClusterState.g_act (c : ClusterState) (a : Nat) : (c.act a).1.g = c.g := by
  unfold ClusterState.act; split <;> rfl

@[simp] theorem ClusterState.g_countClass (c : ClusterState) (k : Nat) : (c.countClass k).1.g = c.g := by
  rw [ClusterState.countClass_eq]
  by_cases h : actionDue (c.reg (8 + k)) (c.reg (0x10 + k)) = true
  · rw [if_pos h, ClusterState.g_act, ClusterState.g_setReg]
  · rw [if_neg h, ClusterState.g_setReg]

@[simp] theorem ClusterState.g_countClasses (c : ClusterState) (cs : Classes) : (c.countClasses cs).1.g = c.g := by
  unfold ClusterState.countClasses
  exact foldl_keeps (fun r : ClusterState × List Nat => r.1.g) _
    (by intro b a; dsimp only; split; (exact ClusterState.g_countClass b.1 a); rfl) _ _

@[simp] theorem ClusterState.p_raise (c : ClusterState) (cs : Classes) : (c.raise cs).p = c.p := by
  unfold ClusterState.raise; split <;> rfl

@[simp] theorem ClusterState.p_act (c : ClusterState) (a : Nat) : (c.act a).1.p = c.p := by
  unfold ClusterState.act; split <;> rfl

@[simp] theorem ClusterState.p_countClass (c : ClusterState) (k : Nat) : (c.countClass k).1.p = c.p := by
  rw [ClusterState.countClass_eq]
  by_cases h : actionDue (c.reg (8 + k)) (c.reg (0x10 + k)) = true
  · rw [if_pos h, ClusterState.p_act, ClusterState.p_setReg]
  · rw [if_neg h, ClusterState.p_setReg]

@[simp] theorem ClusterState.p_countClasses (c : ClusterState) (cs : Classes) : (c.countClasses cs).1.p = c.p := by
  unfold ClusterState.countClasses
  exact foldl_keeps (fun r : ClusterState × List Nat => r.1.p) _
    (by intro b a; dsimp only; split; (exact ClusterState.p_countClass b.1 a); rfl) _ _

@[simp] theorem ClusterState.busy_raise (c : ClusterState) (cs : Classes) : (c.raise cs).busy = c.busy := by
  unfold ClusterState.raise; split <;> rfl

@[simp] theorem ClusterState.busy_act (c : ClusterState) (a : Nat) : (c.act a).1.busy = c.busy := by
  unfold ClusterState.act; split <;> rfl

@[simp] theorem ClusterState.busy_countClass (c : ClusterState) (k : Nat) : (c.countClass k).1.busy = c.busy := by
  rw [ClusterState.countClass_eq]
  by_cases h : actionDue (c.reg (8 + k)) (c.reg (0x10 + k)) = true
  · rw [if_pos h, ClusterState.busy_act, ClusterState.busy_setReg]
  · rw [if_neg h, ClusterState.busy_setReg]

@[simp] theorem ClusterState.busy_countClasses (c : ClusterState) (cs : Classes) : (c.countClasses cs).1.busy = c.busy := by
  unfold ClusterState.countClasses
  exact foldl_keeps (fun r : ClusterState × List Nat => r.1.busy) _
    (by intro b a; dsimp only; split; (exact ClusterState.busy_countClass b.1 a); rfl) _ _

@[simp] theorem ClusterState.hold_raise (c : ClusterState) (cs : Classes) : (c.raise cs).hold = c.hold := by
  unfold ClusterState.raise; split <;> rfl

@[simp] theorem ClusterState.hold_act (c : ClusterState) (a : Nat) : (c.act a).1.hold = c.hold := by
  unfold ClusterState.act; split <;> rfl

@[simp] theorem ClusterState.hold_countClass (c : ClusterState) (k : Nat) : (c.countClass k).1.hold = c.hold := by
  rw [ClusterState.countClass_eq]
  by_cases h : actionDue (c.reg (8 + k)) (c.reg (0x10 + k)) = true
  · rw [if_pos h, ClusterState.hold_act, ClusterState.hold_setReg]
  · rw [if_neg h, ClusterState.hold_setReg]

@[simp] theorem ClusterState.hold_countClasses (c : ClusterState) (cs : Classes) : (c.countClasses cs).1.hold = c.hold := by
  unfold ClusterState.countClasses
  exact foldl_keeps (fun r : ClusterState × List Nat => r.1.hold) _
    (by intro b a; dsimp only; split; (exact ClusterState.hold_countClass b.1 a); rfl) _ _

@[simp] theorem ClusterState.join_raise (c : ClusterState) (cs : Classes) : (c.raise cs).join = c.join := by
  unfold ClusterState.raise; split <;> rfl

@[simp] theorem ClusterState.join_act (c : ClusterState) (a : Nat) : (c.act a).1.join = c.join := by
  unfold ClusterState.act; split <;> rfl

@[simp] theorem ClusterState.join_countClass (c : ClusterState) (k : Nat) : (c.countClass k).1.join = c.join := by
  rw [ClusterState.countClass_eq]
  by_cases h : actionDue (c.reg (8 + k)) (c.reg (0x10 + k)) = true
  · rw [if_pos h, ClusterState.join_act, ClusterState.join_setReg]
  · rw [if_neg h, ClusterState.join_setReg]

@[simp] theorem ClusterState.join_countClasses (c : ClusterState) (cs : Classes) : (c.countClasses cs).1.join = c.join := by
  unfold ClusterState.countClasses
  exact foldl_keeps (fun r : ClusterState × List Nat => r.1.join) _
    (by intro b a; dsimp only; split; (exact ClusterState.join_countClass b.1 a); rfl) _ _

@[simp] theorem ClusterState.wait_raise (c : ClusterState) (cs : Classes) : (c.raise cs).wait = c.wait := by
  unfold ClusterState.raise; split <;> rfl

@[simp] theorem ClusterState.wait_act (c : ClusterState) (a : Nat) : (c.act a).1.wait = c.wait := by
  unfold ClusterState.act; split <;> rfl

@[simp] theorem ClusterState.wait_countClass (c : ClusterState) (k : Nat) : (c.countClass k).1.wait = c.wait := by
  rw [ClusterState.countClass_eq]
  by_cases h : actionDue (c.reg (8 + k)) (c.reg (0x10 + k)) = true
  · rw [if_pos h, ClusterState.wait_act, ClusterState.wait_setReg]
  · rw [if_neg h, ClusterState.wait_setReg]

@[simp] theorem ClusterState.wait_countClasses (c : ClusterState) (cs : Classes) : (c.countClasses cs).1.wait = c.wait := by
  unfold ClusterState.countClasses
  exact foldl_keeps (fun r : ClusterState × List Nat => r.1.wait) _
    (by intro b a; dsimp only; split; (exact ClusterState.wait_countClass b.1 a); rfl) _ _

@[simp] theorem ClusterState.fromPrev_raise (c : ClusterState) (cs : Classes) : (c.raise cs).fromPrev = c.fromPrev := by
  unfold ClusterState.raise; split <;> rfl

@[simp] theorem ClusterState.fromPrev_act (c : ClusterState) (a : Nat) : (c.act a).1.fromPrev = c.fromPrev := by
  unfold ClusterState.act; split <;> rfl

@[simp] theorem ClusterState.fromPrev_countClass (c : ClusterState) (k : Nat) : (c.countClass k).1.fromPrev = c.fromPrev := by
  rw [ClusterState.countClass_eq]
  by_cases h : actionDue (c.reg (8 + k)) (c.reg (0x10 + k)) = true
  · rw [if_pos h, ClusterState.fromPrev_act, ClusterState.fromPrev_setReg]
  · rw [if_neg h, ClusterState.fromPrev_setReg]

@[simp] theorem ClusterState.fromPrev_countClasses (c : ClusterState) (cs : Classes) : (c.countClasses cs).1.fromPrev = c.fromPrev := by
  unfold ClusterState.countClasses
  exact foldl_keeps (fun r : ClusterState × List Nat => r.1.fromPrev) _
    (by intro b a; dsimp only; split; (exact ClusterState.fromPrev_countClass b.1 a); rfl) _ _

@[simp] theorem ClusterState.fromNext_raise (c : ClusterState) (cs : Classes) : (c.raise cs).fromNext = c.fromNext := by
  unfold ClusterState.raise; split <;> rfl

@[simp] theorem ClusterState.fromNext_act (c : ClusterState) (a : Nat) : (c.act a).1.fromNext = c.fromNext := by
  unfold ClusterState.act; split <;> rfl

@[simp] theorem ClusterState.fromNext_countClass (c : ClusterState) (k : Nat) : (c.countClass k).1.fromNext = c.fromNext := by
  rw [ClusterState.countClass_eq]
  by_cases h : actionDue (c.reg (8 + k)) (c.reg (0x10 + k)) = true
  · rw [if_pos h, ClusterState.fromNext_act, ClusterState.fromNext_setReg]
  · rw [if_neg h, ClusterState.fromNext_setReg]

@[simp] theorem ClusterState.fromNext_countClasses (c : ClusterState) (cs : Classes) : (c.countClasses cs).1.fromNext = c.fromNext := by
  unfold ClusterState.countClasses
  exact foldl_keeps (fun r : ClusterState × List Nat => r.1.fromNext) _
    (by intro b a; dsimp only; split; (exact ClusterState.fromNext_countClass b.1 a); rfl) _ _

@[simp] theorem ClusterState.signals_raise (c : ClusterState) (cs : Classes) : (c.raise cs).signals = c.signals := by
  unfold ClusterState.raise; split <;> rfl

@[simp] theorem ClusterState.signals_act (c : ClusterState) (a : Nat) : (c.act a).1.signals = c.signals := by
  unfold ClusterState.act; split <;> rfl

@[simp] theorem ClusterState.signals_countClass (c : ClusterState) (k : Nat) : (c.countClass k).1.signals = c.signals := by
  rw [ClusterState.countClass_eq]
  by_cases h : actionDue (c.reg (8 + k)) (c.reg (0x10 + k)) = true
  · rw [if_pos h, ClusterState.signals_act, ClusterState.signals_setReg]
  · rw [if_neg h, ClusterState.signals_setReg]

@[simp] theorem ClusterState.signals_countClasses (c : ClusterState) (cs : Classes) : (c.countClasses cs).1.signals = c.signals := by
  unfold ClusterState.countClasses
  exact foldl_keeps (fun r : ClusterState × List Nat => r.1.signals) _
    (by intro b a; dsimp only; split; (exact ClusterState.signals_countClass b.1 a); rfl) _ _

@[simp] theorem ClusterState.streams_raise (c : ClusterState) (cs : Classes) : (c.raise cs).streams = c.streams := by
  unfold ClusterState.raise; split <;> rfl

@[simp] theorem ClusterState.streams_act (c : ClusterState) (a : Nat) : (c.act a).1.streams = c.streams := by
  unfold ClusterState.act; split <;> rfl

@[simp] theorem ClusterState.streams_countClass (c : ClusterState) (k : Nat) : (c.countClass k).1.streams = c.streams := by
  rw [ClusterState.countClass_eq]
  by_cases h : actionDue (c.reg (8 + k)) (c.reg (0x10 + k)) = true
  · rw [if_pos h, ClusterState.streams_act, ClusterState.streams_setReg]
  · rw [if_neg h, ClusterState.streams_setReg]

@[simp] theorem ClusterState.streams_countClasses (c : ClusterState) (cs : Classes) : (c.countClasses cs).1.streams = c.streams := by
  unfold ClusterState.countClasses
  exact foldl_keeps (fun r : ClusterState × List Nat => r.1.streams) _
    (by intro b a; dsimp only; split; (exact ClusterState.streams_countClass b.1 a); rfl) _ _

/-- A raised class is sticky (R203). -/
theorem ClusterState.reg_raise (c : ClusterState) (cs : Classes) : (c.raise cs).reg 0 = c.reg 0 ||| cs.setWidth 64 := by
  unfold ClusterState.raise; split
  · next h => simp [h]
  · simp

theorem getLsbD_setField {m : Nat} (w : BitVec m) (lo n v i : Nat) :
    (setField w lo n v).getLsbD i = (decide (i < m) && if lo ≤ i ∧ i < lo + n then v.testBit (i - lo) else w.getLsbD i) := by
  unfold setField
  simp only [BitVec.getLsbD_or, BitVec.getLsbD_and, BitVec.getLsbD_not, BitVec.getLsbD_ofNat]
  have e1 : ((2 ^ n - 1) * 2 ^ lo).testBit i = decide (lo ≤ i ∧ i < lo + n) := by
    rw [Nat.mul_comm, Nat.testBit_two_pow_mul, Nat.testBit_two_pow_sub_one]
    by_cases h : lo ≤ i <;> simp [h]; omega
  have e2 : (v % 2 ^ n * 2 ^ lo).testBit i = (decide (lo ≤ i ∧ i < lo + n) && v.testBit (i - lo)) := by
    rw [Nat.mul_comm, Nat.testBit_two_pow_mul, Nat.testBit_mod_two_pow]
    by_cases h : lo ≤ i <;> simp [h]
    by_cases h' : i < lo + n
    · have : i - lo < n := by omega
      simp [h', this]
    · have : ¬ i - lo < n := by omega
      simp [h', this]
  rw [e1, e2]
  by_cases h : i < m
  · by_cases h' : lo ≤ i ∧ i < lo + n <;> simp [h, h']
  · have := BitVec.getLsbD_of_ge w i (by omega)
    simp [h, this]

/-- Counting a class leaves the sticky flags alone (R205). -/
theorem ClusterState.sticky_act (c : ClusterState) {a n : Nat} (h : n < 16) :
    ((c.act a).1.reg 0).getLsbD n = (c.reg 0).getLsbD n := by
  unfold ClusterState.act
  split
  · rw [ClusterState.reg_setReg_same, setBit, getLsbD_setField, if_neg (by omega), decide_eq_true (show n < 64 by omega), Bool.true_and]
  · rfl

theorem ClusterState.sticky_countClass (c : ClusterState) {k n : Nat} (h : n < 16) :
    ((c.countClass k).1.reg 0).getLsbD n = (c.reg 0).getLsbD n := by
  rw [ClusterState.countClass_eq]
  by_cases q : actionDue (c.reg (8 + k)) (c.reg (0x10 + k)) = true
  · rw [if_pos q, ClusterState.sticky_act _ h, ClusterState.reg_setReg_ne _ _ (by omega)]
  · rw [if_neg q, ClusterState.reg_setReg_ne _ _ (by omega)]

theorem ClusterState.sticky_countClasses (c : ClusterState) (cs : Classes) {n : Nat} (h : n < 16) :
    ((c.countClasses cs).1.reg 0).getLsbD n = (c.reg 0).getLsbD n := by
  unfold ClusterState.countClasses
  exact foldl_keeps (fun r : ClusterState × List Nat => (r.1.reg 0).getLsbD n) _
    (by intro b a; dsimp only; split; (exact ClusterState.sticky_countClass b.1 h); rfl) _ _

/-- The stream of a retirement: flags raised and counted, `aret` advanced (R205). -/
theorem State.stream_retireFlags (s : State) (i : StreamId) (cs : Classes) :
    (s.retireFlags i cs).stream i = (((s.stream i).raise cs).countClasses cs).1.advanceRet := by
  unfold State.retireFlags
  dsimp only
  rw [State.stream_setStream_same, (State.posted_postClasses _ _ _).stream, State.stream_setStream_same]

theorem State.stream_retireFlags_ne (s : State) {i j : StreamId} (cs : Classes) (h : j ≠ i) :
    (s.retireFlags i cs).stream j = s.stream j := by
  unfold State.retireFlags
  dsimp only
  rw [State.stream_setStream_ne _ _ h, (State.posted_postClasses _ _ _).stream, State.stream_setStream_ne _ _ h]

/-- A retired instruction's flags are sticky, and its stream goes on (R203, R211). -/
theorem State.stream_retire (s : State) (i : StreamId) (n : Nat) (cs : Classes) : (s.retire i n cs).stream i =
    { (((s.stream i).raise cs).countClasses cs).1.advanceRet with
      pc := (endcheck ((s.stream i).pc + BitVec.ofNat 16 n) (s.stream i).stack).1,
      stack := (endcheck ((s.stream i).pc + BitVec.ofNat 16 n) (s.stream i).stack).2 } := by
  unfold State.retire
  dsimp only
  rw [State.setPc, State.stream_setStream_same, State.stream_retireFlags]
  simp

@[simp] theorem State.focus_retire (s : State) (i : StreamId) (n : Nat) (cs : Classes) : (s.retire i n cs).focus = s.focus := by
  unfold State.retire State.retireFlags
  dsimp only
  rw [State.focus_setPc, State.focus_setStream, (State.posted_postClasses _ _ _).focus, State.focus_setStream]

end Sys2Proof.Machine
end

