-- ==== Sys2Proof/Laws/Result.lean ====
section
/-!
SUPPORT. The registers that a body reads are those before the instruction, and a write of one register changes one piece of the package.
-/

namespace Sys2Proof.Machine

/-! ## Reads in the body of an instruction that issues -/

@[simp] theorem State.x_issued (s : State) (i : Instr) (n : Nat) : ((s.atIssue i).take (syncBits i)).x n = s.x n :=
  Piece.same_issued s i .x n

@[simp] theorem State.u_issued (s : State) (i : Instr) (n : Nat) : ((s.atIssue i).take (syncBits i)).u n = (s.x n).toNat := by
  simp [State.u]

@[simp] theorem State.steer_issued (s : State) (i : Instr) (n : Nat) : ((s.atIssue i).take (syncBits i)).steer n = s.steer n :=
  Piece.same_issued s i .steer n

@[simp] theorem State.cap_issued (s : State) (i : Instr) (n : Nat) : ((s.atIssue i).take (syncBits i)).cap n = s.cap n :=
  Piece.same_issued s i .caps n

@[simp] theorem State.vec_issued (s : State) (i : Instr) (n : Nat) : ((s.atIssue i).take (syncBits i)).vec n = s.vec n :=
  Piece.same_issued s i .vectors n

@[simp] theorem State.mask_issued (s : State) (i : Instr) (n : Nat) : ((s.atIssue i).take (syncBits i)).mask n = s.mask n :=
  Piece.same_issued s i .masks n

@[simp] theorem State.tile_issued (s : State) (i : Instr) (n : Nat) : ((s.atIssue i).take (syncBits i)).tile n = s.tile n :=
  Piece.same_issued s i .tiles n

@[simp] theorem State.store_issued (s : State) (i : Instr) : ((s.atIssue i).take (syncBits i)).cur.store = s.cur.store :=
  Piece.same_issued s i .store

@[simp] theorem State.ctl_issued (s : State) (i : Instr) : ((s.atIssue i).take (syncBits i)).cur.ctl = s.cur.ctl :=
  Piece.same_issued s i .ctl

@[simp] theorem State.ex_issued (s : State) (i : Instr) : ((s.atIssue i).take (syncBits i)).cur.ex = s.cur.ex :=
  Piece.same_issued s i .crossbar

@[simp] theorem State.csr_issued (s : State) (i : Instr) : ((s.atIssue i).take (syncBits i)).cur.csr = s.cur.csr :=
  Piece.same_issued s i .coreCsr

@[simp] theorem State.ops_issued (s : State) (i : Instr) : ((s.atIssue i).take (syncBits i)).ops = s.ops :=
  (Piece.same_issued s i .ops).1

@[simp] theorem State.nextOp_issued (s : State) (i : Instr) : ((s.atIssue i).take (syncBits i)).nextOp = s.nextOp :=
  (Piece.same_issued s i .ops).2

@[simp] theorem State.focus_issued (s : State) (i : Instr) : ((s.atIssue i).take (syncBits i)).focus = s.focus := by simp

@[simp] theorem State.regs_issued (s : State) (i : Instr) : ((s.atIssue i).take (syncBits i)).cur.regs = s.cur.regs := by
  have h := (State.atIssue_fields s i).2 s.focus.core
  simp [State.cur, h.1]

@[simp] theorem State.pcIn_issued (s : State) (i : Instr) : ((s.atIssue i).take (syncBits i)).me.pc = s.me.pc := State.pc_issued s i

@[simp] theorem State.stackIn_issued (s : State) (i : Instr) : ((s.atIssue i).take (syncBits i)).me.stack = s.me.stack :=
  State.stack_issued s i

@[simp] theorem State.reg_issued (s : State) (i : Instr) (n : Nat) : ((s.atIssue i).take (syncBits i)).me.reg n = s.me.reg n := by
  have q := ((State.atIssue_fields s i).1 s.focus).1
  simp only [ClusterState.still] at q
  simp [State.me, ClusterState.reg, q]

/-! ## Writes of one register -/

@[simp] theorem State.focus_setX (u : State) (n : Nat) (v : Word) : (u.setX n v).focus = u.focus := by simp [State.setX]

@[simp] theorem State.x_setX_same (u : State) (n : Nat) (v : Word) : (u.setX n v).x n = v := by simp [State.setX, State.x]

theorem State.x_setX_ne (u : State) {n m : Nat} (v : Word) (h : m ≠ n) : (u.setX n v).x m = u.x m := by
  simp [State.setX, State.x, Sparse.get_set_ne h]

theorem Piece.same_setX (u : State) (n : Nat) (v : Word) (p : Piece) (h : p ∉ [Piece.x]) : p.same u (u.setX n v) :=
  Piece.same_setMe _ _ p (by cases p <;> simp_all [Piece.keptBy])

@[simp] theorem State.focus_setSteer (u : State) (n : Nat) (v : Steer) : (u.setSteer n v).focus = u.focus := by simp [State.setSteer]

@[simp] theorem State.steer_setSteer_same (u : State) (n : Nat) (v : Steer) : (u.setSteer n v).steer n = v := by
  simp [State.setSteer, State.steer]

theorem State.steer_setSteer_ne (u : State) {n m : Nat} (v : Steer) (h : m ≠ n) : (u.setSteer n v).steer m = u.steer m := by
  simp [State.setSteer, State.steer, Sparse.get_set_ne h]

theorem Piece.same_setSteer (u : State) (n : Nat) (v : Steer) (p : Piece) (h : p ∉ [Piece.steer]) : p.same u (u.setSteer n v) :=
  Piece.same_setMe _ _ p (by cases p <;> simp_all [Piece.keptBy])

@[simp] theorem State.focus_setCap (u : State) (n : Nat) (v : Cap) : (u.setCap n v).focus = u.focus := by simp [State.setCap]

@[simp] theorem State.cap_setCap_same (u : State) (n : Nat) (v : Cap) : (u.setCap n v).cap n = v := by
  simp [State.setCap, State.cap]

theorem State.cap_setCap_ne (u : State) {n m : Nat} (v : Cap) (h : m ≠ n) : (u.setCap n v).cap m = u.cap m := by
  simp [State.setCap, State.cap, Sparse.get_set_ne h]

theorem Piece.same_setCap (u : State) (n : Nat) (v : Cap) (p : Piece) (h : p ∉ [Piece.caps]) : p.same u (u.setCap n v) :=
  Piece.same_setCur _ _ p (by funext k; cases k <;> rfl) (by cases p <;> simp_all [Piece.keptIn])

@[simp] theorem State.mask_zero (u : State) : u.mask 0 = BitVec.allOnes 64 := rfl

@[simp] theorem State.focus_setMask (u : State) (n : Nat) (v : Word) : (u.setMask n v).focus = u.focus := by
  unfold State.setMask; split <;> simp

theorem State.mask_setMask_same (u : State) {n : Nat} (v : Word) (h : n ≠ 0) : (u.setMask n v).mask n = v := by
  simp [State.setMask, State.mask, h]

theorem State.mask_setMask_ne (u : State) {n m : Nat} (v : Word) (h : m ≠ n) : (u.setMask n v).mask m = u.mask m := by
  unfold State.setMask State.mask
  split
  · rfl
  · split
    · rfl
    · simp [Sparse.get_set_ne h]

theorem Piece.same_setMask (u : State) (n : Nat) (v : Word) (p : Piece) (h : p ∉ [Piece.masks]) : p.same u (u.setMask n v) := by
  unfold State.setMask
  split
  · exact Piece.same_refl u p
  · exact Piece.same_setCur _ _ p (by funext k; cases k <;> rfl) (by cases p <;> simp_all [Piece.keptIn])

/-! ## The state that a body sees -/

/-- A state that the body of an instruction of `s` may see: tokens taken and partners granted, and all else as before. -/
structure State.Seen (s u : State) : Prop where
  focus : u.focus = s.focus
  pc : u.me.pc = s.me.pc
  stack : u.me.stack = s.me.stack
  same : ∀ p : Piece, p.same s u
  regs : u.cur.regs = s.cur.regs
  reg : ∀ n, u.me.reg n = s.me.reg n

theorem State.Seen.x {s u : State} (h : s.Seen u) (n : Nat) : u.x n = s.x n := h.same .x n
theorem State.Seen.steer {s u : State} (h : s.Seen u) (n : Nat) : u.steer n = s.steer n := h.same .steer n
theorem State.Seen.status {s u : State} (h : s.Seen u) (n : Nat) : u.me.status n = s.me.status n := by
  simp [ClusterState.status, (h.same .status).1]
theorem State.Seen.store {s u : State} (h : s.Seen u) : u.cur.store = s.cur.store := h.same .store
theorem State.Seen.ctl {s u : State} (h : s.Seen u) : u.cur.ctl = s.cur.ctl := h.same .ctl
theorem State.Seen.ops {s u : State} (h : s.Seen u) : u.ops = s.ops := (h.same .ops).1
theorem State.Seen.sched {s u : State} (h : s.Seen u) : u.sched = s.sched := (h.same .system).2.1
theorem State.Seen.opsOf {s u : State} (h : s.Seen u) (i : StreamId) : u.opsOf i = s.opsOf i := by
  simp [State.opsOf, State.awayOp, h.ops, h.sched]
theorem State.Seen.mask {s u : State} (h : s.Seen u) (n : Nat) : u.mask n = s.mask n := h.same .masks n
theorem State.Seen.cap {s u : State} (h : s.Seen u) (n : Nat) : u.cap n = s.cap n := h.same .caps n
theorem State.Seen.vec {s u : State} (h : s.Seen u) (n : Nat) : u.vec n = s.vec n := h.same .vectors n
theorem State.Seen.tile {s u : State} (h : s.Seen u) (n : Nat) : u.tile n = s.tile n := h.same .tiles n
theorem State.Seen.coreCsr {s u : State} (h : s.Seen u) : u.cur.csr = s.cur.csr := h.same .coreCsr
theorem State.Seen.header {s u : State} (h : s.Seen u) (k : Cluster) (n : Nat) : u.cur.headerAt k n = s.cur.headerAt k n := by
  unfold Core.headerAt Core.container Core.entry
  rw [h.ctl]

theorem State.seen_issued (s : State) (i : Instr) : s.Seen ((s.atIssue i).take (syncBits i)) :=
  ⟨by simp, by simp, by simp, Piece.same_issued s i, State.regs_issued s i, State.reg_issued s i⟩

theorem State.seen_take (s : State) (y : Sync) : s.Seen (s.take y) where
  focus := by simp
  pc := by simp [State.me]
  stack := by simp [State.me]
  regs := by simp [State.cur]
  reg := by simp [State.me, ClusterState.reg]
  same p := by
    refine Piece.same_of_fields (by simp) ?_ ?_ ?_ ?_ ?_ ?_ ?_ ?_
    · simp [State.me]
    · intro n _ _; simp [State.me, ClusterState.reg]
    · intro j _; simp [ClusterState.still]
    · intro c; simp
    · intro d; simp
    · intro d; simp
    · simp
    · simp

/-- The next state of an instruction whose body completes and branches, having changed nothing. -/
theorem State.Seen.jumps {s : State} {i : Instr} {body : State → Eff} {pc : BitVec 16} {st : List Block} (h : s.mayIssue i = true)
    (hb : ∀ u, s.Seen u → body u = .jump u pc st) :
    ∃ t, s.issue i body = .next t ∧ t.me.pc = pc ∧ t.me.stack = st ∧ s.keepsBut t [] :=
  State.issue_jumps h (hb _ (State.seen_take s _)) (hb _ (State.seen_issued s i))

/-- The next state of an instruction whose body completes, having changed nothing. -/
theorem State.Seen.passes {s : State} {i : Instr} {body : State → Eff} (h : s.mayIssue i = true)
    (hb : ∀ u, s.Seen u → body u = .retire u 0) :
    ∃ t, s.issue i body = .next t ∧ t.me.pc = (endcheck (s.me.pc + BitVec.ofNat 16 (instrWidth i)) s.me.stack).1 ∧
      t.me.stack = (endcheck (s.me.pc + BitVec.ofNat 16 (instrWidth i)) s.me.stack).2 ∧ s.keepsBut t [] :=
  State.issue_passes h (hb _ (State.seen_take s _)) (hb _ (State.seen_issued s i))

/-- The next state of an instruction whose body completes, having written something: `f` of the state it sees. -/
theorem State.Seen.retires {s : State} {i : Instr} {f : State → State} {bodyE : State → Eff} {l : List Piece}
    (h : s.mayIssue i = true) (hb : ∀ u, s.Seen u → bodyE u = .retire (f u) 0) (hf : ∀ u, s.Seen u → (f u).focus = u.focus)
    (hl : ∀ u, s.Seen u → ∀ p, p ∉ l → p.same u (f u)) :
    ∃ u, s.Seen u ∧ s.issue i bodyE = .next ((f u).done i) ∧ s.keepsBut ((f u).done i) l := by
  have hs := State.seen_issued s i
  refine ⟨_, hs, ?_, keepsBut_retire (by rw [hf _ hs]; simp) (hl _ hs)⟩
  rw [State.issue_goes h (by rw [hb _ (State.seen_take s _)]; rfl), hb _ hs, finish_retire]

/-- An exact fault of the body (R399). -/
theorem State.Seen.faults {s : State} {i : Instr} {body : State → Eff} {f : FaultInfo} (h : s.mayIssue i = true)
    (hb : ∀ u, s.Seen u → body u = .fault f) : s.issue i body = .next (s.takeFault s.focus f) := by
  simp only [State.mayIssue, Bool.and_eq_true, beq_iff_eq, Option.isNone_iff_eq_none] at h
  exact State.issue_fault h.1.1.1 h.1.1.2 h.1.2 (hb _ (State.seen_take s _))

/-- The next state of an instruction whose body writes one x register (R246 to R250). -/
theorem State.issueX_goes {s : State} {i : Instr} {d : Nat} {f : State → Word} (h : s.mayIssue i = true) :
    ∃ t, s.issueX i d f = .next t ∧ t.x d = f ((s.atIssue i).take (syncBits i)) ∧ (∀ n, n ≠ d → t.x n = s.x n) ∧
      s.keepsBut t [.x] ∧ s.passed t (instrWidth i) := by
  refine ⟨(((s.atIssue i).take (syncBits i)).setX d (f ((s.atIssue i).take (syncBits i)))).done i, ?_, ?_, ?_, ?_, ?_⟩
  · rw [State.issueX, State.issue_goes h rfl]; rfl
  · rw [Piece.same_done _ i .x]; simp
  · intro n hn
    rw [Piece.same_done _ i .x, State.x_setX_ne _ _ hn]; simp
  · exact keepsBut_retire (by simp) fun p hp => Piece.same_setX _ _ _ p hp
  · exact passed_retire (by simp [State.setX]) (by simp [State.setX])

end Sys2Proof.Machine
end

