-- ==== Sys2Proof/Tests/Slice0.lean ====
section
/-!
SUPPORT. Small tests of the model: ill-formed terms that the check refuses, words of the spec's encodings, single steps of its worked
examples, and for the statements of Obligations a state that meets their hypotheses (`witness_…`).
-/

set_option Elab.async false

namespace Sys2Proof.Tests

open Sys2Proof Sys2Proof.Machine

/-! ## Small states -/

/-- A package in which core 0 of die 0 runs one instruction at halfword 0 of the stream that implements it. -/
def placed (i : Instr) : State := State.reset.placeWord (((encode i).map Code.container).getD 0)

/-- The same instruction with every integer register at one value. -/
def allX (s : State) (v : Nat) : State := (List.range 32).foldl (fun s n => s.setX n (BitVec.ofNat 64 v)) s

/-- A property of the next state. -/
def after (i : Instr) (s : State) (p : State → Bool) : Bool :=
  match exec i s with
  | .next t => p t
  | _ => false

/-- Translation is on at die 0, and the core's micro-TLB maps the first 1 GiB to local memory from 0x1000_0000. -/
def mapped (s : State) : State :=
  let s := s.setDieReg 0 0x101 1
  let c := s.cur
  s.setCur { c with store := { c.store with utlb := [⟨0, false, 0, 2 ^ 30, 0, 0, 0x10000000, true, true, 0, 0, 1⟩] } }

/-- Local memory from 0x1000_1000 holds 64 bytes, the bytes 11, 48, 85, …. -/
def filled (s : State) : State :=
  s.setDie 0 { s.die0 with mem := writeBytes [] 0x10001000 ((List.range 64).map fun n => BitVec.ofNat 8 (n * 37 + 11)) }

/-- A stream whose registers hold the virtual address 0x1000, which reaches local address 0x1000_1000. -/
def atMemory (i : Instr) : State := filled (mapped (allX (placed i) 0x1000))

/-- The same with one register of another value. -/
def atMemory' (i : Instr) (n : Nat) (v : Word) : State := (atMemory i).setX n v

theorem core_eq (d : Die) (n : Nat) : d.core n = Core.reset ∨ ∃ e ∈ d.cores, d.core n = e.2 := by
  unfold Die.core
  induction d.cores with
  | nil => exact .inl rfl
  | cons h t ih =>
    obtain ⟨j, v⟩ := h
    by_cases hn : n = j
    · exact .inr ⟨(j, v), by simp, by simp [Sparse.get, hn]⟩
    · rcases ih with h | ⟨e, he, h⟩
      · exact .inl (by simpa [Sparse.get, hn] using h)
      · exact .inr ⟨e, by simp [he], by simpa [Sparse.get, hn] using h⟩

def unheldB (d : Die) (l : Nat) : Bool :=
  !d.poisoned l && Core.reset.l1Line l == ⟨0, 0, 0⟩ && d.cores.all fun e => e.2.l1Line l == ⟨0, 0, 0⟩

theorem unheld_of (d : Die) (l : Nat) (h : unheldB d l = true) : d.unheld l := by
  simp only [unheldB, Bool.and_eq_true, Bool.not_eq_true', beq_iff_eq, List.all_eq_true] at h
  refine ⟨h.1.1, fun c => ?_⟩
  rcases core_eq d c with e | ⟨x, hx, e⟩
  · rw [e]; exact h.1.2
  · rw [e]; exact h.2 x hx

/-- The translation that `mapped` gives. -/
def wide : TlbEntry := ⟨0, false, 0, 2 ^ 30, 0, 0, 0x10000000, true, true, 0, 0, 1⟩

theorem reaches_of (s : State) (va n a : Nat) (write : Bool)
    (h : (decide (va < 2 ^ 48) && bit (s.dieReg s.focus.core.die 0x101) 0 && s.cur.store.walked.isEmpty &&
      lookupTlb s.cur.store.utlb (s.cur.reg 0x40).toNat va == some wide && wide.check write true == none &&
      s.place s.focus.core.die wide va == (s.dieNum s.focus.core.die, a) && s.inDomain s.focus.core.die (s.dieNum s.focus.core.die) &&
      s.ownDie (s.dieNum s.focus.core.die) == some s.focus.core.die && decide (va % 128 + n ≤ 128 ∧ a % 128 = va % 128 ∧ a + n ≤ field (s.here.reg 0 0x100) 0 9 * 2 ^ 30 ∧ a + n ≤ 0x6000000000)) = true) :
    s.reaches va n a write := by
  simp only [Bool.and_eq_true, decide_eq_true_eq, beq_iff_eq, List.isEmpty_iff] at h
  obtain ⟨⟨⟨⟨⟨⟨⟨⟨h1, h2⟩, h3⟩, h4⟩, h5⟩, h6⟩, h7⟩, h8⟩, h9⟩ := h
  exact ⟨h1, h2, by simp [h3], ⟨wide, h4, h5, h6⟩, h7, h8, h9⟩

theorem linesReady_of (s : State) (a n : Nat)
    (h : s.me.wait = none ∧ ∀ l < (a % 2 ^ 26 + n + 4095) / 4096, s.cur.line l ≠ .absent ∧ s.cur.line l ≠ .filling) : s.linesReady a n :=
  fun _ => ⟨fun _ _ _ => by simp [h.1], fun l _ hl => h.2 l hl⟩

/-- The core has a window of the whole Commons, and the scratchpad and Commons of die 0 hold bytes from offset 0x3F8. -/
def stored (s : State) : State :=
  let c := s.cur
  let s := s.setCur { c with store := { c.store with spad := writeBytes [] 0x3F8 ((List.range 64).map fun n => BitVec.ofNat 8 (n * 37 + 11)) } }
  let s := s.setCur (s.cur.setReg 0x42 (BitVec.ofNat 64 (2 ^ 32 * 1024)))
  s.setDie 0 { s.die0 with commons := writeBytes [] 0x3F8 ((List.range 64).map fun n => BitVec.ofNat 8 (n * 31 + 5)) }

/-- Registers 3n, 3n + 1 and 3n + 2 at three values. -/
def thrice (s : State) (a b c : Nat) : State :=
  (List.range 32).foldl (fun s n => s.setX n (BitVec.ofNat 64 (if n % 3 = 0 then a else if n % 3 = 1 then b else c))) s

/-- Even and odd registers at two values. -/
def paired (s : State) (a b : Nat) : State :=
  (List.range 32).foldl (fun s n => s.setX n (BitVec.ofNat 64 (if n % 2 = 0 then a else b))) s

/-- Region 3 of the map unit is the lines 0 to 3 of a writable map; line 0 is CLEAN, 1 DIRTY, 2 and 3 ABSENT. -/
def regioned (s : State) (w : Bool) : State :=
  let c := (s.cur.setReg 0x53 (BitVec.ofNat 64 (2 ^ 63 + if w then 2 ^ 62 else 0))).setReg 0x63 (BitVec.ofNat 64 (4 * 2 ^ 32))
  s.setCur ((((c.setLine 0 .clean).setLine 1 .dirty).setLine 2 .absent).setLine 3 .absent)

/-- Ring register 2 names a ring descriptor in the scratchpad. -/
def ringAt (s : State) (r : Ring) (u : RingUse) : State :=
  let k := s.cur
  s.setCur { k with regs := { k.regs with rg := [(2, BitVec.ofNat 64 (2 ^ 63 + r.addr))] },
                    store := { k.store with spad := writeBytes [] r.addr r.bytes, rings := [(r.addr, u)] }, ctl := { k.ctl with stage := 3 } }

/-- A ring of four slots, two filled, one reserved and one free, produced and consumed by stage 3. -/
def ring0 : Ring := { addr := 0x200, base := 0x1000, ssz := 1, lgs := 2, wres := 5, head := 4, tail := 2, filled := 2, free := 1, done := 0,
                      prod := 2 ^ 28 + 3, cons := 3 * 2 ^ 28 + 3 }

/-- A running gang of one stage on cores 0 and 1 of die 0. -/
def gang0 : Gang := { id := 7, order := 0, queue := 0, node := 0, record := 0, launch := List.replicate 256 0, asid := 0, prio := 0, pdl := 200000,
                      cmBase := 0, cmLen := 0, stages := [⟨0, 1, 2, [0, 1]⟩], phase := .running, flags := [(5, 9)], barriers := [], request := none,
                      forced := false, ctx := (0, 0), saved := [], ringDies := [], samples := [], evaluated := 0, chain := none, trailing := [] }

/-- The package with a gang, its cores released. -/
def member (s : State) (g : Gang) : State :=
  let s := { s with sched := { s.sched with gangs := [g] } }
  g.cores.foldl (fun s n => let c := CoreId.ofIndex n; s.setCore c { s.core c with ctl := { (s.core c).ctl with gang := some g.id, released := true } }) s

/-- A part of 8 bytes of local memory that has ended with a status. -/
def donePart (st : Status) : Part :=
  { die := 0, com := false, addr := 0x1000, off := 0, len := 8, segs := [], order := 1, inc := 0, va := 0x1000, rep := 0x1000, fs := none,
    st := .done st }

/-- An operation of core 0's A stream whose one part has ended with a status. -/
def doneOp (dest : Dest) (req : Req) (st : Status) : Op :=
  { id := 42, owner := ⟨⟨0, 0⟩, .a⟩, engine := false, plain := true, preg := 0, acq := false, rel := false, so := false, dest := dest, size := 8,
    req := req,
    parts := [donePart st], tasks := [], cap := 0, data := [(0, 5)], grow := none, faultAddr := 0x1000,
    asid := 0, circ := none }

/-! ## What the check refuses: an ill-formed term for each test of `Instr.wellFormed` (R218, R219, R223) -/

theorem test_illformed_control :
    ([.cmp 0 0 0 0 6, .cmpi 0 0 0 7 0, .tstp 0 0 0 0 2, .tstq 0 0 0 0 4, .tstm 0 0 0 0 5, .sext 0 0 0 0, .zext 0 0 0 0] : List Instr).all
      (fun i => !i.wellFormed) = true := by decide

theorem test_illformed_memory :
    ([.pld 0 0 0 4 0 0, .pld 0 0 0 0 8 0, .pst 0 0 0 6 0 0, .pst 0 0 0 1 8 0, .pamo 0 0 0 10 0 0 0, .pamo 0 0 0 9 1 0 0, .kld 0 0 0 0 8 0,
      .fence 0 0 0, .flagwait 0 0 0 4, .bar 0 0 2 0, .bar 0 1 0 0, .cpy 0 0 0 0 1 0 0 0, .cpy 0 0 0 0 0 0 1 0, .coll 0 0 0 0 0 1 0 0,
      .bop 0 0 0 0 8 0, .bop 0 0 0 0 0 5, .bop 0 0 0 0 3 3, .bop 0 0 0 1 7 0, .bop 0 0 0 3 6 0, .bop 0 1 0 1 0 0] : List Instr).all
      (fun i => !i.wellFormed) = true := by decide

theorem test_illformed_arithmetic :
    ([.vcvtFromFp32 0 0 0 5 0 0, .vcvtFromFp32 0 0 0 1 5 0, .vcvtToFp32 0 0 0 0, .vquant 0 0 0 4 0 0, .vquant 0 0 0 5 5 0, .vdeq 0 0 0 11,
      .vred 0 0 0 0 3, .mzero 0 0 5, .kvld 0 0 0 3 0] : List Instr).all
      (fun i => !i.wellFormed) = true := by decide

/-! ## Words written out from the spec's encodings (R207, R208, R223) -/

/-- The line of R238's example that sums, as the manual prints its words. -/
theorem test_decode_control :
    decodeContainer 0x80001001 false = .ok (.blk 8 1) ∧ decodeContainer 0x80081020 false = .ok (.blkr 8 2) ∧
    decodeContainer 0x80108014 false = .ok (.prep 0 1 0x14) ∧ decodeContainer 0x80182000 false = .ok (.br 0 1) ∧
    decodeContainer 0x80288594 false = .ok (.cmpi 0 1 1 3 20) ∧ decodeContainer 0x80420000 false = .ok (.halt 0) := by decide

theorem test_decode_integer :
    decodeContainer 0x80E84000 false = .ok (.movi 0 1 0#14) ∧ decodeContainer 0x80B0C601 false = .ok (.addi 0 3 3 1) ∧
    decodeContainer 0x80804230 false = .ok (.add 0 1 1 3) ∧ decodeContainer 0x80A10604 false = .ok (.mov 0 4 3) := by decide

/-- The worked examples of 11_encoding.md and 13_isa_memory.md. -/
theorem test_decode_memory :
    decodeContainer 0x8180C944 false = .ok (.ld 0 3 4 2 4 4) ∧ decodeContainer 0xC9914D80 false = .ok (.st 18 5 6 3 0 0) ∧
    decodeContainer 0x81D9903B false = .ok (.pamo 0 3 2 0 0 7 3) := by decide

/-- The worked examples of 14_isa_vector.md. -/
theorem test_decode_vector :
    decodeContainer 0x8298C224 false = .ok (.vfma 0 3 1 2 2 0) ∧ decodeContainer 0x83410A00 false = .ok (.vred 0 4 5 0 0) ∧
    decodeContainer 0x82D984A0 false = .ok (.vquant 0 6 2 10 0 0) := by decide

/-- The worked examples of 15_isa_matrix.md, and the layouts of R317, R321 and R322 written out. -/
theorem test_decode_matrix :
    decodeContainer 0x83811008 false = .ok (.mma 0 2 2 0 1) ∧ decodeContainer 0x83933800 false = .ok (.mfft 0 6 7) ∧
    decodeContainer 0x83A15500 false = .ok (.mtr 0 5 5) ∧ decodeContainer 0x83B29000 false = .ok (.mcvt 0 5 4 0) ∧
    decodeContainer 0x83BA0861 false = .ok (.kvattn 0 4 2 3 1) := by decide

/-- R206, R208: a compact word in either half of its container; no bit [31] and a bit [15], or no bit at all, is no instruction. -/
theorem test_decode_compact :
    decodeContainer 0x0400 false = .ok .compactNop ∧ decodeContainer 0x04000400 true = .ok .compactNop ∧
    decodeContainer 0 false = .undef ∧ decodeContainer 0x8000 false = .undef := by decide

/-- R5, R224: a reserved bit that is set gives the instruction with the mark of a reserved field. -/
theorem test_decode_reserved : decodeContainer 0x80420001 false = .resv (.halt 0) := by decide

/-- A word at the reset state, and how the step runs it: `movi a9, 0x25` placed where the next step fetches. -/
theorem test_fetch_word :
    decodeTableWord 32 0x80EA4025 = some (.movi 0 9 0x25) ∧
      (match step (State.reset.withFetchWord 32 0x80EA4025) with | .next t => t.x 9 == 0x25 && t.me.pc == 2 | _ => false) = true := by
  decide +kernel

/-! ## Single steps of the worked examples -/

/-- 12_isa_control.md: the lines that build 0x2545_F491_4F6C_DD1D. -/
theorem test_movh :
    after (.movh 0 9 0x117D) ((placed (.movh 0 9 0x117D)).setX 9 0x25) (fun t => t.x 9 == 0x9517D) = true ∧
    after (.movh 0 9 0x1D1D) ((placed (.movh 0 9 0x1D1D)).setX 9 0x9517D2453DB3) (fun t => t.x 9 == 0x2545F4914F6CDD1D) = true := by
  decide +kernel

/-- R247: −2^63 by −1, and a divisor of 0, which sets div0 (bit 1 of `aflags`, R203). -/
theorem test_div :
    after (.div 0 3 1 2) (((placed (.div 0 3 1 2)).setX 1 (BitVec.ofInt 64 (-2 ^ 63))).setX 2 (BitVec.allOnes 64))
      (fun t => t.x 3 == BitVec.ofInt 64 (-2 ^ 63) && !bit (t.me.reg 0) 1) = true ∧
    after (.div 0 3 1 2) ((placed (.div 0 3 1 2)).setX 1 7) (fun t => t.x 3 == BitVec.allOnes 64 && bit (t.me.reg 0) 1) = true := by
  decide +kernel

/-- R224: a V-cluster word in the A stream is CLUSTER (cause 2), and the stream parks. -/
theorem test_cluster_fault :
    after (.mpop 0 0 0) (placed (.nop 0)) (fun t => t.me.run == .parked 0 && (t.die0.faults.posted ++ t.die0.faults.held).map (fun e => (e.kind, e.cause)) == [(8, 2)]) = true := by
  decide +kernel

/-- 14_isa_vector.md, R295: 1.0 in lane 0 and 2^−24 in lanes 1 to 3 sum to 0x3F80_0001 by the tree, with inexact sticky. -/
theorem test_vred :
    after (.vred 0 4 5 0 0) ((placed (.vred 0 4 5 0 0)).setVec 5 (BitVec.ofNat 2048 (ofLanes [0x3F800000, 0x33800000, 0x33800000, 0x33800000])))
      (fun t => t.lane 4 0 == 0x3F800001 && field (t.me.reg 0) 0 8 != 0) = true := by decide +kernel

/-- 10_formats.md, R200: exp2x(−2.5) is 0x3E35_04F3, and log2x(8.0) is 3.0 without a flag. -/
theorem test_exp2_log2 : (exp2x false false 0xC0200000).1 = 0x3E3504F3 ∧ log2x false false 0x41000000 = (0x40400000, 0) := by decide +kernel

/-- 19_scheduling.md, R395: a seed of 1 becomes 0x200_0001, the generator's output is 0x47E4_CE4B_896C_DD1D. -/
theorem test_seed : seedNext 1 = 0x2000001 ∧ seedOut (seedNext 1) = 0x47E4CE4B896CDD1D := by decide

/-- 02_pool.md, R48: page 0x1235 of object 0xA17 lives on die 0. 03_pool_cache.md, R55: a grant of 40,000 ticks of 1,000 ns. -/
theorem test_pool_numbers : pageDie 0xA17 0x1235 = 0 ∧
    (State.reset.setDieReg 0 0x113 (BitVec.ofNat 64 (4 * 2 ^ 20 + 20000 + 1000 * 2 ^ 32))).ldur 0 40000 = 39976000 := by decide +kernel

/-- R240: a `nop` at the end of a body with two iterations left goes back to the body's start. -/
theorem test_body_end :
    after (.nop 0) ((placed (.nop 0)).setMe { (placed (.nop 0)).me with pc := 4, stack := [⟨0, 6, 2⟩] })
      (fun t => t.me.pc == 0 && t.me.stack == [⟨0, 6, 1⟩]) = true := by decide +kernel

/-! ## Witnesses: encoding and the step -/

theorem witness_DecodingInvertsEncoding :
    (Instr.wellFormed (.st 31 31 31 3 7 15) = true ∧ encode (.st 31 31 31 3 7 15) ≠ none) ∧
      (Instr.wellFormed (.compactMovi 31 31) = true ∧ ∃ h, encode (.compactMovi 31 31) = some (.compact h)) := by
  exact ⟨by decide, by decide, _, rfl⟩

theorem witness_EncodingInvertsDecoding :
    decodeContainer 0x8180C944 false = .ok (.ld 0 3 4 2 4 4) ∧ decodeContainer 0x04000400 true = .ok .compactNop ∧
      decodeContainer 0x7FFF0400 false = .ok .compactNop := by decide

theorem swath_passes (u : State) (a : u.cur.ctl.badRule = none) (b : matchable (u.cur.container .m u.cur.cm.pc.toNat) = none)
    (c : u.cur.regs.bypass = 0) (d : u.cur.regs.begun = none) : u.swathTurn = .issue u := by simp [State.swathTurn, a, b, c, d]

theorem witness_StepRunsTheDecodedInstruction :
    (∀ e ∈ ([(.nop 0, .a), (.kvattn 0 4 2 3 1, .m), (.mpop 0 0 0, .v), (.cpyq 0 0, .d)] : List (Instr × Cluster)),
      let s := placed e.1
      let f : StreamId := ⟨⟨0, 0⟩, e.2⟩
      s.agenda = [.stream f] ∧ (s.stream f).run = .running ∧ (s.stream f).hold = none ∧ (s.core f.core).ctl.released = true ∧
        s.stopping f.core = false ∧ (s.core f.core).fetch f.cl (s.stream f).pc.toNat = .word (.ok e.1)) ∧
    (let u := { placed (.kvattn 0 4 2 3 1) with agenda := [] }
     u.swathTurn = .issue u) := by
  exact ⟨by decide +kernel, swath_passes _ (by decide +kernel) (by decide +kernel) (by decide +kernel) (by decide +kernel)⟩

/-- Core 0, whose A and M streams are at the same word with the S bit, M waiting for the join. -/
def joined (i : Instr) : State :=
  let k := (placed i).cur
  (placed i).setCur { k with cm := { k.ca with join := .waiting }, ctl := { k.ctl with joinSet := Cluster.joinBit .a ||| Cluster.joinBit .m } }

/-- A join of A and M, both of which may go; a stopping gang whose stream has a failed demand fill to take. -/
theorem witness_StepRunsTheDecodedInstruction_join :
    (let v := { joined (.nop 16) with agenda := [] }
     let l : List (Cluster × Instr) := [(.a, .nop 16), (.m, .nop 16)]
     let all := v.setCur (v.cur.grantJoin (l.map (·.1)))
     v.joinMembers (.nop 16) = some l ∧ (∀ e ∈ l, all.memberGoes e = true) ∧
       (match State.runMembers l all with | .ok t => t.me.pc == 2 && t.cur.cm.pc == 2 | _ => false) = true) ∧
    (let s := member State.reset { gang0 with forced := true }
     let o := { Op.empty s.focus with id := 3, engine := true, dest := .probe, plain := false, tasks := [{ pageTask .ready 6 4 none with st := .done Status.linkDown }] }
     s.stopping s.focus.core = true ∧ ({ s with ops := [o] }).probeFailed = true) := by decide +kernel

theorem witness_IllegalInstructionsPark :
    ((placed (.nop 0)).illegalCause (.mpop 0 0 0) = some .cluster ∧ (placed (.nop 0)).illegalCause (.cmp 0 15 0 0 0) = some .reg) ∧
    (∀ e ∈ ([((placed (.nop 0)).setMe { (placed (.nop 0)).me with pc := 0x8000 }, .past), (State.reset.placeWord 0, .word .undef),
        (State.reset.placeWord 0x80420001, .word (.resv (.halt 0)))] : List (State × Fetched)),
      let s := e.1
      s.me.run = .running ∧ s.me.hold = none ∧ s.cur.ctl.released = true ∧ s.stopping s.focus.core = false ∧ s.focus.cl ≠ .m ∧
        s.cur.fetch s.focus.cl s.me.pc.toNat = e.2) := by decide +kernel

theorem witness_WaitingAndRetirement :
    (let s := (placed (.nop 0)).setMe { (placed (.nop 0)).me with hold := some 7 }
     s.illegalCause (.nop 0) = none ∧ s.me.hold.isSome = true) ∧
    (let s := placed (.nop 8)
     s.illegalCause (.nop 8) = none ∧ s.me.hold = none ∧ s.obstacle (.nop 8) ≠ none) ∧
    (let s := placed (.nop 16)
     s.illegalCause (.nop 16) = none ∧ s.me.hold = none ∧ s.obstacle (.nop 16) = none ∧ s.joinReady (.nop 16) = false) ∧
    (let s := placed (.nop 0)
     s.mayIssue (.nop 0) = true ∧ s.joinsNow (.nop 0) = false ∧ s.me.issued = false ∧ s.opsOf s.focus = []) := by decide +kernel

/-! ## Witnesses: faults, control and integer arithmetic -/

theorem witness_TakingAFault : ({ kind := 8, cause := 1 } : FaultInfo).kind ≠ 14 := by decide

theorem witness_EntriesInMemory :
    let s := State.reset.takeFault ⟨⟨0, 0⟩, .a⟩ { kind := 8, cause := 1 }
    s.die0.faults.posted ++ s.die0.faults.held ≠ [] ∧ (∀ l, s.die0.poisoned l = false) ∧ ∀ e ∈ s.die0.faults.posted ++ s.die0.faults.held, e.rwr.length ≤ 20 := by
  refine ⟨by decide +kernel, fun l => ?_, by decide +kernel⟩
  have h : (State.reset.takeFault ⟨⟨0, 0⟩, .a⟩ { kind := 8, cause := 1 }).die0.poison = [] := by decide +kernel
  simp [Die.poisoned, h]

theorem witness_SteeringWrites :
    (∀ i ∈ ([.prep 0 11 0x7FFF, .cmp 0 1 2 3 5, .cmpi 0 1 2 5 0x7F, .tstp 0 1 2 3 1, .tstq 0 1 2 3 3] : List Instr),
      (placed i).mayIssue i = true) ∧
    (placed (.tstm 0 1 2 3 3)).mayIssue (.tstm 0 1 2 3 3) = true ∧ (placed (.tstp 0 1 2 3 1)).copyFault 2 = none := by decide +kernel

/-- The boundary lengths of a body, an entered and a skipped one, and one that is no body. -/
theorem witness_BlockHeaders :
    ∀ i ∈ ([.blk 2 1, .blk 1022 511, .blk 8 0, .blk 0 1, .blk 3 1, .blkr 8 2] : List Instr), (placed i).mayIssue i = true := by
  decide +kernel

theorem witness_BodiesRepeat :
    let at_ := fun (i : Instr) (pc : BitVec 16) (n : BitVec 32) => (placed i).setMe { (placed i).me with pc := pc, stack := [⟨0, 6, n⟩] }
    (∀ e ∈ ([(.nop 0, 2, 2), (.nop 0, 4, 2), (.nop 0, 4, 1)] : List (Instr × BitVec 16 × BitVec 32)),
      (at_ e.1 e.2.1 e.2.2).mayIssue e.1 = true) ∧
    (∀ e ∈ ([(.compactNop, 2, 2), (.compactNop, 5, 2), (.compactNop, 5, 1)] : List (Instr × BitVec 16 × BitVec 32)),
      (at_ e.1 e.2.1 e.2.2).mayIssue e.1 = true) := by decide +kernel

/-- A branch not taken, one taken to the header at 0, and one whose target is no header. -/
theorem witness_Branches :
    let at_ := fun (i : Instr) (g : Steer) => (placed i).setSteer 3 g
    (∀ i ∈ ([.br 0 3, .brl 0 3, .ret 0 3, .compactBr 3] : List Instr), ∀ g ∈ ([⟨false, true, 0⟩, ⟨true, true, 0⟩, ⟨true, false, 9⟩] : List Steer),
      (at_ i g).mayIssue i = true ∧ (at_ i g).steer 3 = g) ∧
    (placed (.blk 8 1)).cur.headerAt .a 0 = true ∧ (placed (.br 0 3)).cur.headerAt .a 0 = false := by decide +kernel

theorem witness_StreamControl :
    (∀ i ∈ ([.fork 0 5, .join 0 10, .yield 0, .compactYield, .swap 0, .halt 0] : List Instr),
      let s := placed i
      s.mayIssue i = true ∧ s.drainPending s.focus.core = false ∧ s.ops = [] ∧ s.gangOf s.focus.core = none) ∧
    (let s := placed (.yield 0)
     let t := s.setCur { s.cur with ctl := { s.cur.ctl with drain := true } }
     t.mayIssue (.yield 0) = true ∧ t.drainPending t.focus.core = true ∧ t.opsOf t.focus = []) ∧
    (∀ e ∈ [([], 0), ([(3, 1)], 1), ([(2, 1)], 1)],
      let g := { gang0 with barriers := e.1.map fun b => ⟨0, 0, 1, b.1, b.2, [1], [0, 1], false⟩ }
      let s := member (placed (.halt 0)) g
      s.mayIssue (.halt 0) = true ∧ s.focus.cl = .a ∧ s.opsOf s.focus = [] ∧ s.gangOf s.focus.core = some g ∧
        (g.barriers.filter fun b => b.members.contains 0 && !b.waiting.contains 0).length = e.2 ∧ CoreId.ofIndex 1 ≠ s.focus.core) := by decide +kernel

/-- `aflags` of 0, with `pend`, with an enabled sticky flag, and with a sticky flag that is not enabled. -/
theorem witness_ArithmeticTrap :
    let flags := fun (f : Word) => (placed (.tfence 0)).setMe ((placed (.tfence 0)).me.setReg 0 f)
    ((flags 0).mayIssue (.tfence 0) && (flags 0x10000).mayIssue (.tfence 0) && (flags 0x101).mayIssue (.tfence 0) &&
      (flags 0x201).mayIssue (.tfence 0) && (flags 0x101).me.reg 0 == 0x101 && (flags 0x10000).me.reg 0 == 0x10000) = true := by
  decide +kernel

/-- A host trap, a local one whose handler is a header, one whose handler is none, and `eret` with and without a frame. -/
theorem witness_TrapsAndReturns :
    let local_ := fun (i : Instr) => (placed i).setSteer 11 ⟨false, true, 0⟩
    let framed := (placed (.eret 0)).setCur { (placed (.eret 0)).cur with regs := { (placed (.eret 0)).cur.regs with frame := some ⟨2, [], 0x8001⟩ } }
    (placed (.trap 0 0x7FFF)).mayIssue (.trap 0 0x7FFF) = true ∧ (local_ (.trap 0 0x8000)).mayIssue (.trap 0 0x8000) = true ∧
      ((local_ (.trap 0 0x8000)).steer 11).tv = true ∧ (local_ (.trap 0 0x8000)).cur.regs.frame = none ∧
      (placed (.eret 0)).mayIssue (.eret 0) = true ∧ (placed (.eret 0)).cur.regs.frame = none ∧
      framed.mayIssue (.eret 0) = true ∧ framed.cur.regs.frame ≠ none := by decide +kernel

/-- The 15 forms of R246 and the divisions. -/
theorem witness_IntegerRegisterForms :
    ∀ i ∈ ([.add 0 31 30 29, .sub 0 1 1 1, .mul 0 1 2 3, .mulh 0 1 2 3, .mulhu 0 1 2 3, .and 0 1 2 3, .or 0 1 2 3, .xor 0 1 2 3,
      .shl 0 1 2 3, .shr 0 1 2 3, .sar 0 1 2 3, .min 0 1 2 3, .max 0 1 2 3, .minu 0 1 2 3, .maxu 0 0 0 0] : List Instr),
      (placed i).mayIssue i = true := by decide +kernel

theorem witness_FieldExtension :
    (placed (.sext 0 1 2 63)).mayIssue (.sext 0 1 2 63) = true ∧ (placed (.zext 0 1 2 1)).mayIssue (.zext 0 1 2 1) = true := by decide +kernel

theorem witness_DivisionForms :
    ∀ i ∈ ([.div 0 1 2 3, .divu 0 1 2 3, .rem 0 1 2 3, .remu 0 1 2 3] : List Instr),
      (placed i).mayIssue i = true ∧ (placed i).x 3 = 0 ∧ ((placed i).setX 3 5).mayIssue i = true ∧ ((placed i).setX 3 5).x 3 = 5 := by
  decide +kernel

theorem witness_IntegerUnaryAndImmediateForms :
    (∀ i ∈ ([.sel 0 1 2 3 4, .lea 0 1 2 3 15, .clz 0 1 2, .ctz 0 1 2, .popc 0 1 2, .ffs 0 1 2, .mov 0 1 2, .addi 0 1 2 0x1FF,
      .andi 0 1 2 0x1FF, .ori 0 1 2 0x1FF, .xori 0 1 2 0x1FF, .shli 0 1 2 63, .shri 0 1 2 63] : List Instr),
      (placed i).mayIssue i = true) ∧
    (∀ i ∈ ([.sari 0 1 2 63, .movi 0 1 0x3FFF, .movh 0 1 0x3FFF, .compactMov 1 2, .compactAdd 1 2, .compactSub 1 2, .compactAnd 1 2,
      .compactAddi 1 31, .compactShli 1 31, .compactShri 1 31, .compactMovi 1 31] : List Instr),
      (placed i).mayIssue i = true) := by decide +kernel

/-! ## Witnesses: domain memory -/

/-- Every load and store form, at an address that reaches memory and whose line no L1 holds. -/
theorem witness_Loads :
    ∀ i ∈ ([.ld 0 3 4 3 4 0, .ldS 0 3 4 2 7 5, .compactLd 3 4] : List Instr),
      (atMemory i).mayIssue i = true ∧ (atMemory i).idleMemory ∧ (atMemory i).reaches 0x1000 8 0x10001000 false ∧
        (atMemory i).here.unheld (0x10001000 / 128) := by
  intro i hi
  simp only [List.mem_cons, List.not_mem_nil, or_false] at hi
  rcases hi with rfl | rfl | rfl <;>
    exact ⟨by decide +kernel, ⟨by decide +kernel, by decide +kernel, by decide +kernel⟩, reaches_of _ _ _ _ _ (by decide +kernel),
      unheld_of _ _ (by decide +kernel)⟩

/-- A load whose words the L1 holds. -/
theorem witness_Loads_l1 :
    let i : Instr := .ld 0 3 4 3 4 0
    let s := (atMemory i).setCur ((atMemory i).cur.setL1 (0x10001000 / 128) ⟨3, 0, 0x1122334455667788⟩)
    s.mayIssue i = true ∧ s.idleMemory ∧ s.reaches 0x1000 8 0x10001000 false ∧
      (s.cur.l1Line (0x10001000 / 128)).valid &&& wordMask (0x10001000 % 128) 8 = wordMask (0x10001000 % 128) 8 :=
  ⟨by decide +kernel, ⟨by decide +kernel, by decide +kernel, by decide +kernel⟩, reaches_of _ _ _ _ _ (by decide +kernel), by decide +kernel⟩

theorem witness_Stores :
    ∀ i ∈ ([.st 0 3 4 3 4 0, .stS 0 3 4 2 7 5, .compactSt 3 4] : List Instr),
      (atMemory i).mayIssue i = true ∧ (atMemory i).idleMemory ∧ (atMemory i).reaches 0x1000 8 0x10001000 true ∧
        (atMemory i).here.unheld (0x10001000 / 128) := by
  intro i hi
  simp only [List.mem_cons, List.not_mem_nil, or_false] at hi
  rcases hi with rfl | rfl | rfl <;>
    exact ⟨by decide +kernel, ⟨by decide +kernel, by decide +kernel, by decide +kernel⟩, reaches_of _ _ _ _ _ (by decide +kernel),
      unheld_of _ _ (by decide +kernel)⟩

/-- Atomics at an aligned address, and one at an address that is not. -/
theorem witness_AtomicsOfMemory :
    (∀ i ∈ ([.amo 0 2 0 4 0, .amo 0 2 15 7 5, .cas 0 2 6 1 4 0, .cas 0 2 6 0 7 3] : List Instr),
      (atMemory i).mayIssue i = true ∧ (atMemory i).idleMemory ∧ (atMemory i).reaches 0x1000 8 0x10001000 true ∧
        (atMemory i).here.unheld (0x10001000 / 128)) ∧
    (let s := atMemory' (.amo 0 2 1 4 0) 4 0x1004
     s.mayIssue (.amo 0 2 1 4 0) = true ∧ (s.x 4).toNat % 8 ≠ 0) := by
  refine ⟨?_, by decide +kernel⟩
  intro i hi
  simp only [List.mem_cons, List.not_mem_nil, or_false] at hi
  rcases hi with rfl | rfl | rfl | rfl <;>
    exact ⟨by decide +kernel, ⟨by decide +kernel, by decide +kernel, by decide +kernel⟩, reaches_of _ _ _ _ _ (by decide +kernel),
      unheld_of _ _ (by decide +kernel)⟩

/-- A queue with room, and a full one. -/
theorem witness_QueueLoads :
    let i : Instr := .ldq 0 2 4 3 4 0
    let s := atMemory i
    let full := s.setCur { s.cur with store := { s.cur.store with queues := [(2, List.replicate (queueDepth 2) (.filled 0))] } }
    (s.mayIssue i = true ∧ s.idleMemory ∧ (s.cur.queue 2).length < queueDepth 2 ∧ s.reaches 0x1000 8 0x10001000 false ∧
      s.here.unheld (0x10001000 / 128)) ∧
    (full.mayIssue i = true ∧ full.idleMemory ∧ queueDepth 2 ≤ (full.cur.queue 2).length) :=
  ⟨⟨by decide +kernel, ⟨by decide +kernel, by decide +kernel, by decide +kernel⟩, by decide +kernel, reaches_of _ _ _ _ _ (by decide +kernel),
    unheld_of _ _ (by decide +kernel)⟩, by decide +kernel, ⟨by decide +kernel, by decide +kernel, by decide +kernel⟩, by decide +kernel⟩

/-- Translation off; an address of 2^48; a fence with nothing before it, and one with an access that is not performed. -/
theorem witness_FencesAndUnmappedAccesses :
    (∀ i ∈ ([.ld 0 3 4 3 4 0, .st 0 3 4 3 4 0, .ldS 0 3 4 3 7 5, .stS 0 3 4 3 7 5, .compactLd 3 4, .compactSt 3 4] : List Instr),
      (placed i).mayIssue i = true ∧ bit ((placed i).dieReg 0 0x101) 0 = false) ∧
    (let s := atMemory' (.ld 0 3 4 3 4 0) 4 (BitVec.ofNat 64 (2 ^ 48))
     s.mayIssue (.ld 0 3 4 3 4 0) = true ∧ 2 ^ 48 ≤ (s.x 4).toNat) ∧
    ((placed (.fence 0 7 0)).mayIssue (.fence 0 7 0) = true ∧ (placed (.fence 0 7 0)).opsOf (placed (.fence 0 7 0)).focus = []) := by
  decide +kernel

/-- A completed access of each form, with OK and with another status. -/
def ended (plain : Bool) (preg : Nat) (st : Status) : State :=
  let s := placed (.ld 0 3 4 3 4 0)
  let s := if plain then s.setMe { s.me with hold := some 42 } else s
  { s with ops := [{ doneOp (.x 3) .read st with plain := plain, preg := preg }] }

/-- A completed access of another destination: none, a queue entry, a vector, a capability, a tile, and a tile store. -/
def endedAt (st : Status) (dest : Dest) : State :=
  let s := ended false 5 st
  { s with ops := [{ doneOp dest .read st with plain := false, preg := 5 }] }

theorem witness_AccessesComplete :
    ∀ s ∈ [ended true 0 Status.ok, ended false 5 Status.ok, ended true 0 Status.timeout, ended false 5 Status.timeout],
      (match s.op? 42 with
       | some o => o.performed && o.dest == .x 3 && o.grow == none && !s.awayOp 42 && !o.isTileStore && decide ((s.stream o.owner).run ≠ .atGrow 42)
       | none => false) = true := by decide +kernel

theorem witness_AccessesComplete_destinations :
    (∀ dest ∈ [Dest.none, .queue 3, .v 2 0xFF, .k 4, .tile 1], ∀ st ∈ [Status.ok, Status.timeout],
      (match (endedAt st dest).op? 42 with
       | some o => o.performed && o.dest == dest && o.grow == none && !(endedAt st dest).awayOp 42 && !o.isTileStore &&
           decide (((endedAt st dest).stream o.owner).run ≠ .atGrow 42)
       | none => false) = true) ∧
    (let s := placed (.mstz 0 1 2)
     let s := s.setCur { s.cur with ex := { s.cur.ex with deferred := [10] } }
     let o := { doneOp .none .write Status.ok with owner := s.focus, size := 16384 }
     let t := (s.setMe { s.me with hold := some 42 })
     let t := { t with ops := [o] }
     s.focus.cl = .m ∧ t.op? 42 = some o ∧ o.performed = true ∧ o.isTileStore = true ∧ o.status = Status.ok ∧ t.awayOp 42 = false ∧
       t.cur.ex.deferred.contains 10 = true) := by decide +kernel

/-! ## Witnesses: untranslated storage and the map unit -/

theorem witness_UntranslatedAccessesAndFaults :
    (∀ i ∈ ([.lds 0 1 2 3 7 2, .sts 0 1 2 3 7 2] : List Instr), ∀ a ∈ [0x400, 0x40000400],
      let s := stored (allX (placed i) a)
      s.mayIssue i = true ∧ s.ops = [] ∧ s.untransCheck s.focus.core a 8 8 true = none ∧ s.linesReady a 8) := by
  intro i hi a ha
  simp only [List.mem_cons, List.not_mem_nil, or_false] at hi ha
  rcases hi with rfl | rfl <;> rcases ha with rfl | rfl <;>
    exact ⟨by decide +kernel, by decide +kernel, by decide +kernel, linesReady_of _ _ _ (by decide +kernel)⟩

/-- Reserved bits of an address, the end of the scratchpad, misalignment, a read-only region, space 3, the core's window. -/
theorem witness_UntranslatedAccessesAndFaults_stops :
    (∀ a ∈ [0x4000000, 0x1FFFFC, 0x404, 0xC0000000, 0x44000000, 0x40000000, 0x80000000],
      (allX (placed (.lds 0 1 2 3 7 2)) a).mayIssue (.lds 0 1 2 3 7 2) = true ∧
        (allX (placed (.sts 0 1 2 3 7 2)) a).mayIssue (.sts 0 1 2 3 7 2) = true) ∧
    (stored (allX (placed (.lds 0 1 2 3 7 2)) 0x40000404)).mayIssue (.lds 0 1 2 3 7 2) = true ∧
    (let s := regioned (allX (placed (.sts 0 1 2 3 7 2)) 0x400) false
     s.mayIssue (.sts 0 1 2 3 7 2) = true ∧ (match s.cur.regionOf 0 with | some r => s.cur.regionW r == false | none => false) = true) := by
  decide +kernel

/-- A run of two lines that its region holds, and one that it does not. -/
theorem witness_RegionRuns :
    (∀ i ∈ ([.rinv 0 3 1, .rmap 0 3 1 2, .rmap 0 3 1 0, .rflush 0 3 1 4 2] : List Instr), ∀ w ∈ [2 * 2 ^ 16 + 2, 4 * 2 ^ 16, 5 * 2 ^ 16, 0],
      (regioned (allX (placed i) w) true).mayIssue i = true ∧ (regioned (allX (placed i) w) true).joinsNow i = false) ∧
    (let s := regioned (allX (placed (.rinv 0 3 1)) (2 * 2 ^ 16 + 2)) true
     s.cur.regionValid 3 = true ∧ s.cur.regionLen 3 = 4 ∧ (∀ l < 4, s.cur.line l ≠ .filling)) := by decide +kernel

theorem witness_RegionRuns_started :
    (let i : Instr := .rmap 0 3 1 2
     let s := regioned (atMemory' i 1 (BitVec.ofNat 64 (2 * 2 ^ 16 + 2))) true
     (match (s.take 0).startAll .absent false [2, 3] with
      | .ok v => v.focus == s.focus && (List.range 32).all (fun n => v.x n == s.x n) && v.me == (s.take 0).me | _ => false) = true) ∧
    (let i : Instr := .rflush 0 3 1 4 2
     let s := regioned (atMemory' i 1 (BitVec.ofNat 64 (2 * 2 ^ 16))) true
     (match (s.take 0).startAll .dirty true [0, 1] with
      | .ok v => v.focus == s.focus && (List.range 32).all (fun n => v.x n == s.x n) && v.me == (s.take 0).me | _ => false) = true) := by
  decide +kernel

/-- The registers that a region has; another region; a length of 0, one past the end, and one that overlaps region 3. -/
theorem witness_RegionConfiguration :
    let i : Instr := .rcfgRegion 0 3 1 2
    (∀ e ∈ [(2 ^ 63 + 2 ^ 62, 4 * 2 ^ 32), (2 ^ 63, 512 * 2 ^ 32), (2 ^ 63, 0), (2 ^ 63, 1 * 2 ^ 32 + 512 * 4096 - 4096), (2 ^ 63, 2 * 2 ^ 32 + 511 * 4096)],
      (regioned (thrice (placed i) 0 e.1 e.2) true).mayIssue i = true ∧ (regioned (thrice (placed i) 0 e.1 e.2) true).ops = []) ∧
    (let j : Instr := .rcfgRegion 0 4 1 2
     let s := regioned (thrice (placed j) 0 (2 ^ 63) (4 * 2 ^ 32 + 3 * 4096)) true
     s.mayIssue j = true ∧ s.cur.regionValid 3 = true ∧ s.cur.regionBase 3 = 0 ∧ s.cur.regionLen 3 = 4) := by decide +kernel

/-- A fill and a write-back that have been performed, with OK and with another status. -/
theorem witness_MapUnitCompletes :
    ∀ st ∈ [Status.ok, Status.access], ∀ write ∈ [false, true],
      let s := { placed (.nop 0) with ops := [doneOp (.line 2) (if write then .write else .read) st] }
      (match s.lineOp ⟨0, 0⟩ 2 write with | some o => o.performed && o.status == st | none => false) = true := by decide +kernel

/-! ## Witnesses: queues, rings, flags and copies -/

/-- A queue's contents. -/
def queued (s : State) (q : Nat) (l : List QEntry) : State :=
  s.setCur { s.cur with store := { s.cur.store with queues := [(q, l)] } }

/-- Each queue form on an empty queue, one entry, a reserved entry, and a full queue. -/
theorem witness_QueueRegisters :
    (∀ i ∈ ([.qpush 0 2 1, .compactQpush 2 1, .qpop 0 2 1, .compactQpop 1 2, .qcnt 0 2 1] : List Instr),
      ∀ l ∈ ([[], [.filled 5], [.reserved 9], List.replicate (queueDepth 2) (.filled 0)] : List (List QEntry)),
      (queued (placed i) 2 l).mayIssue i = true ∧ (queued (placed i) 2 l).cur.queue 2 = l) ∧
    (∀ i ∈ ([.fqpush 0 1, .compactFqpush 1, .fqpushT 0 1, .fqclose 0] : List Instr), ∀ l ∈ ([[], List.replicate 32 7] : List (List Word)),
      let s := (placed i).setCur { (placed i).cur with store := { (placed i).cur.store with fq := l } }
      let c := s.setCur { s.cur with store := { s.cur.store with fqClosed := true } }
      s.mayIssue i = true ∧ c.mayIssue i = true ∧ s.cur.store.fq = l) := by decide +kernel

/-- The four forms of a ring operation, with a free slot, with none, and with a slot that the cluster reserved; a form that has published and
waits. -/
theorem witness_RingProduction :
    let i : Instr := .qpushRing 0 2 3
    ∀ w ∈ [0, 1, 2, 3], ∀ r ∈ [ring0, { ring0 with wres := 6, free := 0 }], ∀ own ∈ [[], [0]],
      let s := ringAt (allX (placed i) w) r ⟨own, 0⟩
      let r1 := match s.oldestReserved 2 with | some e => r.publish (e % 256) | none => r
      s.mayIssue i = true ∧ s.ops = [] ∧ s.me.issued = false ∧ s.ring s.focus.core 2 = .ok r ∧
        Ring.parse r.addr (s.untransRead s.focus.core r.addr 32) = some r ∧ r.sound = true ∧ r1.sound = true ∧ r.producer s.cur = true ∧
        (∀ e ∈ own, e % 256 < r.slots) ∧ (own = [0] → s.oldestReserved 2 = some 0) := by decide +kernel

/-- The same with a filled slot left after the pop, with none, and with none at all. -/
theorem witness_RingConsumption :
    let i : Instr := .qpopRing 0 2 3
    (∀ w ∈ [0, 1, 2, 3], ∀ r ∈ [ring0, { ring0 with filled := 1, free := 2, tail := 3 }, { ring0 with filled := 0, free := 3, tail := 4 }], ∀ n ∈ [0, 1],
      let s := ringAt (allX (placed i) w) r ⟨[], n⟩
      s.mayIssue i = true ∧ s.ops = [] ∧ s.me.issued = false ∧ s.ring s.focus.core 2 = .ok r ∧
        Ring.parse r.addr (s.untransRead s.focus.core r.addr 32) = some r ∧ r.sound = true ∧ r.consumer s.focus.core s.cur = true ∧
        Sparse.wf (fun _ => Core.reset) s.die0.cores = true ∧ Sparse.wf (fun _ => Core.reset) s.die1.cores = true) ∧
    (∀ e ∈ [(2, 2, true), (1, 3, false)],
      let r := { ring0 with filled := e.1, free := 3 - e.1, tail := e.2.1 }
      let s := ringAt (allX (placed i) 3) r ⟨[], 1⟩
      let v := (s.setCur (s.cur.setRingUse 2 { s.cur.ringUse 2 with reads := 0 })).popSlot s.focus.core r
      decide (v.readsOf (ringKey s.focus.core r.addr) < r.filled - 1) = e.2.2) := by
  decide +kernel

/-- A ring register that is not valid, one whose ring names another producer and consumer, and `rcfg ring`. -/
theorem witness_RingRegisters :
    (∀ i ∈ ([.qpushRing 0 2 3, .qpopRing 0 2 3] : List Instr), (placed i).mayIssue i = true ∧
      (match (placed i).ring (placed i).focus.core 2 with | .error _ => true | .ok _ => false) = true) ∧
    (∀ i ∈ ([.qpushRing 0 2 3, .qpopRing 0 2 3] : List Instr), let r := { ring0 with prod := 2 ^ 28 + 4, cons := 3 * 2 ^ 28 + 4 }
      let s := ringAt (placed i) r ⟨[], 0⟩
      s.mayIssue i = true ∧ s.ring s.focus.core 2 = .ok r ∧ r.producer s.cur = false ∧ r.consumer s.focus.core s.cur = false) ∧
    (placed (.rcfgRing 0 15 1)).mayIssue (.rcfgRing 0 15 1) = true := by decide +kernel

/-- A core with no gang, one of a gang of two whose other core has not arrived, and one whose other core has. -/
theorem witness_FlagsAndBarriers :
    (∀ i ∈ ([.flagadd 0 5 1, .flagwait 0 5 1 3, .flagwait 0 5 1 0] : List Instr),
      (member (placed i) gang0).mayIssue i = true ∧ (member (placed i) gang0).ops = [] ∧ (placed i).mayIssue i = true) ∧
    (let i : Instr := .bar 0 1 1 9
     let s := placed i
     let g := member s gang0
     let b := g.armBarrier gang0 1 0 9
     let h := member s { gang0 with barriers := [{ b with got := 1, waiting := [1] }] }
     s.mayIssue i = true ∧ s.instrAt s.focus = some i ∧ s.gangOf s.focus.core = none ∧
       g.mayIssue i = true ∧ g.opsOf g.focus = [] ∧ g.instrAt g.focus = some i ∧ g.gangOf g.focus.core = some gang0 ∧
       b.members.contains 0 = true ∧ b.got + 1 < b.need ∧ h.mayIssue i = true ∧ b.need ≤ 2) := by decide +kernel

theorem witness_CountedFlags :
    let i : Instr := .flagw 0 2 0 1 3
    let s := fun (v : Nat) => filled (mapped (paired (placed i) 0x1000 v))
    (let s := filled (mapped (paired (placed i) 0x1001 0))
     s.mayIssue i = true ∧ (s.x 0).toNat % 4 ≠ 0) ∧
    ((s (2 ^ 63)).mayIssue i = true ∧ (s (2 ^ 63)).reaches 0x1000 4 0x10001000 true ∧ bit ((s (2 ^ 63)).x 1) 63 = true) ∧
    (let s := s 7
     s.mayIssue i = true ∧ s.ops = [] ∧ s.reaches 0x1000 4 0x10001000 true ∧ s.here.unheld (0x10001000 / 128) ∧ wide.inc = s.inc 0 ∧
       (s.source 0 2).flagOut = false ∧ s.commandsNaming s.focus.core 2 = false ∧ s.here.torus.freeTag.isSome = true ∧
       (s.dest 0 (s.dieNum 0) 2).gen = (s.source 0 2).gen ∧ (s.source 0 2).count ≤ (s.dest 0 (s.dieNum 0) 2).counter (s.source 0 2).phase) :=
  ⟨by decide +kernel, ⟨by decide +kernel, reaches_of _ _ _ _ _ (by decide +kernel), by decide +kernel⟩,
    by decide +kernel, by decide +kernel, reaches_of _ _ _ _ _ (by decide +kernel), unheld_of _ _ (by decide +kernel), by decide +kernel,
    by decide +kernel, by decide +kernel, by decide +kernel, by decide +kernel, by decide +kernel⟩

/-- A command from memory to a Commons with room in the queue, with a full queue, and one that fails its check. -/
theorem witness_CopyCommands :
    (∀ i ∈ ([.cpy 0 0 1 2 0 0 0 0, .coll 0 0 1 2 0 0 0 0] : List Instr),
      let m := fun (s : State) => (⟨s.x 0, s.x 1, s.x 2, i == .coll 0 0 1 2 0 0 0 0, false, false, 0, false, 0, 0, none, false, false⟩ : CopyCmd)
      let s := thrice (placed i) (2 ^ 63) (2 ^ 62) (127 + 2 ^ 51)
      let full := s.setCur { s.cur with store := { s.cur.store with copies := List.replicate 16 (m s) } }
      let bad := thrice (placed i) (2 ^ 63 + 2 ^ 62) (2 ^ 63) 0
      s.focus.cl = .d ∧ s.mayIssue i = true ∧ s.copyCheck s.focus.core (m s) = none ∧ full.mayIssue i = true ∧
        full.copyCheck s.focus.core (m s) = none ∧ bad.mayIssue i = true ∧ bad.copyCheck s.focus.core (m bad) ≠ none) ∧
    (let s := placed (.cpyw 0 3)
     let busy := s.setCur { s.cur with store := { s.cur.store with copies := [⟨2 ^ 63, 2 ^ 62, 127 + 3 * 2 ^ 48, false, false, false, 0, false, 1, 0, none, false, false⟩] } }
     let failed := s.setCur { s.cur with store := { s.cur.store with copyFaults := [⟨0, Status.timeout, 77⟩, ⟨3, Status.access, 78⟩] } }
     s.mayIssue (.cpyw 0 3) = true ∧ s.mayIssue (.cpyw 0 0) = true ∧ s.commands s.focus.core = [] ∧ busy.mayIssue (.cpyw 0 0) = true ∧
       busy.commands s.focus.core ≠ [] ∧ failed.mayIssue (.cpyw 0 3) = true ∧ failed.commands s.focus.core = []) ∧
    (placed (.cpyq 0 1)).mayIssue (.cpyq 0 1) = true := by decide +kernel

/-- One element, every element with one operand, every element with an operand of its own, the fold, and an operation outside the window. -/
theorem witness_BankOperations :
    (∀ e ∈ ([(.bop 0 3 0 0 0 0, 0x40000400, 5), (.bop 0 3 0 0 7 2, 0x40000400, 5), (.bop 0 0 0 1 1 1, 0x40000400 + 4 * 2 ^ 32, 9),
        (.bop 0 0 0 2 0 4, 0x40000404 + 3 * 2 ^ 32, 0x40000410), (.bop 0 3 0 3 0 0, 0x40000400 + 4 * 2 ^ 32, 0)] : List (Instr × Nat × Nat)),
      let s := stored (paired (placed e.1) e.2.1 e.2.2)
      s.mayIssue e.1 = true ∧ s.ops = [] ∧ s.bopCheck (field (s.x 0) 0 32) 1 4 false = none) ∧
    (let s := paired (placed (.bop 0 3 0 0 0 0)) 3 1
     s.mayIssue (.bop 0 3 0 0 0 0) = true ∧ s.bopCheck 3 1 4 false ≠ none) ∧
    (let s := stored (paired (placed (.bop 0 0 0 2 0 4)) (0x40000404 + 3 * 2 ^ 32) 0x40000410)
     s.bopCheck (field (s.x 0) 0 32) 3 2 true = none ∧ s.spanCheck 0x40000410 6 2 false = none) := by decide +kernel

/-- A queued command from the scratchpad to a Commons; the same in a slot; the same finished, and failed; and one that waits on a ring. -/
theorem witness_CopyEngineSteps :
    let cmd := fun (n : Nat) => (⟨2 ^ 63 + 0x400, 2 ^ 62 + 0x400, BitVec.ofNat 64 (127 + 3 * 2 ^ 48), false, false, false, 0, false, 1, n, none, false, false⟩ : CopyCmd)
    let s := stored (placed (.cpyq 0 0))
    let q := s.setCur { s.cur with store := { s.cur.store with copies := [cmd 0] } }
    let slot := fun (n : Nat) (st : Status) => s.setDie 0 (s.die0.setChannel 0 ((s.die0.channel 0).setSlot 0 (some ⟨0, cmd n, 0, none, 0, false, st, none, none, none, 0, 0⟩)))
    ((q.die0.channel 0).freeSlot = some 0 ∧ q.startCheck ⟨0, 0⟩ = .go none ∧ (q.nextStart 0 0).isSome = true) ∧
    (let m := cmd 0
     ((slot 0 Status.ok).die0.channel 0).slot 0 = some ⟨0, m, 0, none, 0, false, Status.ok, none, none, none, 0, 0⟩ ∧ m.offset < m.bytes ∧ m.srcKind = 1 ∧ m.dstKind = 2 ∧ s.ownDie (field m.id 40 9) = some 0 ∧ s.inDomain 0 (field m.id 40 9) = true ∧
       m.coll = false ∧ (s.core ⟨0, 0⟩).spadCheck 0x400 128 (lineAlign 128) false = none ∧ (s.core ⟨0, 0⟩).inWindow 0x400 128 = true ∧
       (∀ l ∈ linesOf 0x400 128, (s.core ⟨0, 0⟩).line l ≠ .absent ∧ (s.core ⟨0, 0⟩).line l ≠ .filling) ∧
       (slot 0 Status.ok).stopping ⟨0, 0⟩ = false ∧ m.fstream = none) ∧
    ((cmd 128).bytes ≤ 128 ∧ ((slot 128 Status.ok).die0.channel 0).slot 0 = some ⟨0, cmd 128, 0, none, 0, false, Status.ok, none, none, none, 0, 0⟩ ∧
      ((slot 0 Status.timeout).die0.channel 0).slot 0 = some ⟨0, cmd 0, 0, none, 0, false, Status.timeout, none, none, none, 0, 0⟩) := by decide +kernel

/-! ## Witnesses: the vector and matrix clusters -/

theorem witness_VectorFloatForms :
    ∀ i ∈ ([.vadd 0 1 2 3 0 0, .vsub 0 1 2 3 7 1, .vmul 0 1 2 3 0 0, .vfma 0 3 1 2 2 0, .vfms 0 3 1 2 2 1, .vmax 0 1 2 3 0 0, .vmin 0 1 2 3 0 0,
      .vabs 0 1 2 0 1 0, .vneg 0 1 2 0 0 1, .vexp2 0 1 2 0 0 0, .vlog2 0 1 2 0 1 1, .vrcp 0 1 2 0 0 0 1 1, .vrsq 0 1 2 0 0 0 0 0] : List Instr),
      (placed i).mayIssue i = true := by decide +kernel

theorem witness_VectorLaneForms :
    (∀ i ∈ ([.vand 0 1 2 3 0, .vor 0 1 2 3 0, .vxor 0 1 2 3 0, .vnot 0 1 2 0, .vshl 0 1 2 3 0, .vshr 0 1 2 3 0, .vsar 0 1 2 3 0,
      .viadd 0 1 2 3 0 1, .vimul 0 1 2 3 0 1] : List Instr), (placed i).mayIssue i = true) ∧
    (∀ i ∈ ([.vperm 0 1 2 3 0, .vsel 0 1 2 3 7, .vbcast 0 1 2 63, .vsplat 0 1 15, .viota 0 1 63, .vmov 0 1 2, .vmovToInteger 0 15 2 63] : List Instr),
      (placed i).mayIssue i = true) := by decide +kernel

/-- The forms, a move of 32 entries into an empty queue, one that fills a queue, one that finds enough, and one that finds too few. -/
theorem witness_VectorReductionQueuesAndMasks :
    (∀ i ∈ ([.vcmp 0 1 2 3 5 0, .vred 0 4 5 0 0, .vred 0 4 5 7 2, .mand 0 1 2 3, .mor 0 1 2 3, .mnot 0 1 0, .mpop 0 0 15, .mffs 0 0 15] : List Instr),
      (placed i).mayIssue i = true) ∧
    (∀ e ∈ ([(.vmovToQueue 0 5 11, 11, [], 0), (.vmovToQueue 0 5 11, 11, List.replicate (queueDepth 11 - 1) (.filled 0), 0),
        (.vmovToQueue 0 5 11, 11, [], 31), (.vmovFromQueue 0 5 4, 4, [.filled 1], 31), (.vmovFromQueue 0 5 4, 4, [.filled 1, .reserved 2], 0)] :
          List (Instr × Nat × List QEntry × Nat)),
      let s := (queued (placed e.1) e.2.1 e.2.2.1).setCursor e.2.2.2
      s.mayIssue e.1 = true ∧ s.joinsNow e.1 = false ∧ s.cur.regs.cursor < 32 ∧ s.cur.queue e.2.1 = e.2.2.1) := by decide +kernel

theorem witness_VectorConversions :
    ∀ i ∈ ([.vcvtFromFp32 0 1 2 1 4 1, .vcvtFromFp32 0 1 2 14 0 0, .vquant 0 6 2 10 0 0, .vquant 0 6 2 16 4 0, .vcvtToFp32 0 1 2 4, .vdeq 0 1 2 16] : List Instr),
      (placed i).mayIssue i = true := by decide +kernel

/-- A register that names untranslated storage, all lanes active. -/
theorem witness_VectorMemory :
    (∀ i ∈ ([.vld 0 3 4 0 7 2, .vst 0 3 4 0 7 2, .vgath 0 3 4 5 0 2, .vscat 0 3 4 5 0 2] : List Instr),
      let s := stored (allX (placed i) (2 ^ 63 + 0x40000400))
      s.mayIssue i = true ∧ bit (s.x 4) 63 = true ∧ field (s.x 4) 32 31 = 0 ∧ s.ops = [] ∧ s.pendingWrites = false ∧
        ∀ seq ∈ [false, true], ∀ store ∈ [false, true], ∀ k < 64, s.laneCheck (field (s.x 4) 0 32) (0x40000400 + 4 * k) seq store = none) ∧
    ∀ k < 64, (stored (allX (placed (.vld 0 3 4 0 7 2)) (2 ^ 63 + 0x40000400))).linesReady (0x40000400 + 4 * k) 4 := by
  refine ⟨by decide +kernel, fun k hk => ?_⟩
  intro h
  omega

/-- One active lane of domain memory, aligned and not. -/
theorem witness_VectorMemory_domain :
    (∀ i ∈ ([.vld 0 3 4 1 7 2, .vst 0 3 4 1 7 2, .vgath 0 3 4 5 1 2, .vscat 0 3 4 5 1 2] : List Instr),
      let s := (atMemory i).setMask 1 1
      s.mayIssue i = true ∧ bit (s.x 4) 63 = false ∧ (∀ j < 64, (s.mask 1).getLsbD j = decide (j = 0)) ∧ s.idleMemory ∧
        s.reaches 0x1000 4 0x10001000 true ∧ s.here.unheld (0x10001000 / 128)) ∧
    (let s := (atMemory' (.vld 0 3 4 1 7 2) 4 0x1002).setMask 1 1
     s.mayIssue (.vld 0 3 4 1 7 2) = true ∧ bit (s.x 4) 63 = false ∧ (s.x 4).toNat % 4 ≠ 0) := by
  refine ⟨?_, by decide +kernel⟩
  intro i hi
  simp only [List.mem_cons, List.not_mem_nil, or_false] at hi
  rcases hi with rfl | rfl | rfl | rfl <;>
    exact ⟨by decide +kernel, by decide +kernel, by decide +kernel, ⟨by decide +kernel, by decide +kernel, by decide +kernel⟩,
      reaches_of _ _ _ _ _ (by decide +kernel), unheld_of _ _ (by decide +kernel)⟩

theorem witness_AccumulatorForms :
    (∀ i ∈ ([.mzero 0 1 4, .mtr 0 5 5, .mmov 0 1 2, .madd 0 1 2 3, .msc 0 1 2 3, .mtw 0 1] : List Instr), (placed i).mayIssue i = true) ∧
    (∀ i ∈ ([.mldz 0 1 2, .mstz 0 1 2] : List Instr),
      let s := stored (allX (placed i) (2 ^ 63 + 0x40000400))
      s.mayIssue i = true ∧ bit (s.x 2) 63 = true ∧ s.tileCheck (s.x 2) true = none ∧ s.ops = [] ∧ s.linesReady 0x40000400 16384) ∧
    (∀ i ∈ ([.mldz 0 1 2, .mstz 0 1 2] : List Instr), (atMemory' i 2 0x1001).mayIssue i = true ∧ (atMemory i).mayIssue i = true ∧
      (atMemory i).joinsNow i = false) := by
  refine ⟨by decide +kernel, ?_, by decide +kernel⟩
  intro i hi
  simp only [List.mem_cons, List.not_mem_nil, or_false] at hi
  rcases hi with rfl | rfl <;> exact ⟨by decide +kernel, by decide +kernel, by decide +kernel, by decide +kernel, fun h => absurd h (by decide)⟩

theorem witness_AccumulatorForms_domain :
    ∀ i ∈ ([.mldz 0 1 2, .mstz 0 1 2] : List Instr),
      let s := atMemory i
      (match (s.take 0).plan s.focus.core (s.asks s.focus) (s.cur.reg 0x40).toNat true true (s.openStream s.focus) (pieces 0x1000 16384) with
        | (u, .ok ps) => !u.mustWait u.focus 0 false (ps.any fun p => decide (p.order = 0)) ps && u.focus == s.focus && u.ops.isEmpty
        | _ => false) = true := by decide +kernel

/-- The format queue's words. -/
def words (s : State) (l : List Word) : State := s.setCur { s.cur with store := { s.cur.store with fq := l } }

/-- Two operands of ring registers 0 and 1 in the scratchpad, filled. -/
def operands2 (s : State) (ssz lgs : Nat) : State :=
  let k := s.cur
  let ra : Ring := { addr := 0x200, base := 0x1000, ssz := ssz, lgs := lgs, wres := 2, head := 2, tail := 0, filled := 2, free := 0, done := 0,
                     prod := 0, cons := 2 * 2 ^ 28 }
  let rb : Ring := { ra with addr := 0x240, base := 0x40000 }
  s.setCur { k with regs := { k.regs with rg := (List.range 2).map fun n => (n, BitVec.ofNat 64 (2 ^ 63 + 0x200 + 0x40 * n)) },
                    store := { k.store with spad := writeBytes (writeBytes [] 0x200 ra.bytes) 0x240 rb.bytes } }

/-- A format word for two dense operands of format 5 with scales, one for structured sparsity, and the words of R320's example and of a conversion. -/
def multiplyWord : Word := BitVec.ofNat 64 (5 * 2 ^ 59 + 5 * 2 ^ 54 + 2 ^ 28 + 2 ^ 26)
def sparseWord : Word := BitVec.ofNat 64 (2 * 2 ^ 59 + 2 * 2 ^ 54 + 2 ^ 36)
def transformWord : Word := 0x6004880000000000
def convertWord : Word := BitVec.ofNat 64 (2 * 2 ^ 49)

theorem witness_TileCommands :
    (∀ i ∈ ([.mma 0 2 2 0 1, .mmas 0 2 2 0 1, .mcvt 0 5 4 0, .mfft 0 6 7] : List Instr), ∀ l ∈ ([[], [BitVec.allOnes 64]] : List (List Word)),
      (words (placed i) l).mayIssue i = true ∧ (words (placed i) l).cur.store.fq = l) ∧
    (let s := placed (.mma 0 2 2 0 1)
     let closed := s.setCur { s.cur with store := { s.cur.store with fqClosed := true } }
     s.cur.noMoreWords = false ∧ closed.mayIssue (.mma 0 2 2 0 1) = true ∧ closed.cur.noMoreWords = true) ∧
    (∀ e ∈ ([(.mma 0 2 2 0 1, true, multiplyWord, 33), (.mmas 0 2 2 0 1, false, sparseWord, 80)] : List (Instr × Bool × Word × Nat)),
      let s := words (operands2 (placed e.1) e.2.2.2 1) [e.2.2.1, 7]
      s.mayIssue e.1 = true ∧ fwMul e.2.1 e.2.2.1 = true ∧ (∀ d : DieId, Sparse.wf (fun _ => Core.reset) (s.die d).cores = true) ∧
        (s.unperformed s.focus).all (fun o => !o.acq && !o.rel) = true ∧ (∀ n < 256, s.cur.line n ≠ .absent ∧ s.cur.line n ≠ .filling) ∧
        (match s.operandRing 0, s.operandRing 1 with
          | .ok ra, .ok rb => operandCheck e.2.2.1 true 0 ra == none && operandCheck e.2.2.1 false 1 rb == none &&
              decide (s.readsOf (ringKey s.focus.core ra.addr) < ra.filled ∧ s.readsOf (ringKey s.focus.core rb.addr) < rb.filled)
          | _, _ => false) = true) ∧
    (let s := words ((placed (.mfft 0 6 7)).setTwiddle 48) [transformWord]
     s.mayIssue (.mfft 0 6 7) = true ∧ fwTransform s.cur.regs.twiddle transformWord = true) ∧
    (let s := words (stored (allX (placed (.mcvt 0 5 4 0)) 0x40001000)) [convertWord]
     s.mayIssue (.mcvt 0 5 4 0) = true ∧ fwConvert convertWord = true ∧ s.ops = [] ∧
       s.cur.commonsCheck 0x40001000 (denseBytes (fwO convertWord) + scaleBytes (fwO convertWord)) 0 = none) := by decide +kernel

/-! ## Witnesses: pool space and KV space -/

/-- A valid lease of a page, in the way that a fill leaves it. -/
def leaseOf (obj pg : Nat) (k : LeaseKind) (caps : Bool) : Lease :=
  { Lease.free with obj := obj, pidx := pg, st := .valid, epoch := 11, dline := 2 ^ 40, fgen := 3, kind := k, own := false, ldur := 2 ^ 30,
                    types := if caps then [(0, true), (1, true)] else [] }

/-- Page 0 of object 6 lies in frame 100 of die 0, whose ports 0 to 15 are as `ports` says, and every k register holds a capability of the whole
object. -/
def pooled (s : State) (k : LeaseKind) (caps : Bool) (ports : Bool) : State :=
  let x := s.die0
  let s := s.setDie 0 { x with pool := { x.pool with frames := [(100, leaseOf 6 0 k caps)], started := true },
                               mem := writeBytes [] (x.localSize + 100 * 65536) ((List.range 64).map fun n => BitVec.ofNat 8 (n * 29 + 3)) }
  let s := if ports then s.setDieReg 0 0x120 (s.dieReg 0 0x120 ||| BitVec.ofNat 64 (3 * 2 ^ 20)) else s
  (List.range 16).foldl (fun s n => s.setCap n ⟨BitVec.ofNat 128 (6 * 2 ^ 88 + 255 * 2 ^ 80 + 16 * 2 ^ 35 + 16), true⟩) s

/-- Page 0's first bytes are held as `holdsPage` asks. -/
theorem holdsPage_of (s : State) (n : Nat) (l : Lease)
    (h : ((s.die (pageDie 6 0)).frameOf 6 0 == some (100, l) && (s.die (pageDie 6 0)).lease 100 == l &&
      precedes (s.ltime (pageDie 6 0)) l.dline && l.st == .valid && decide (n ≤ 128) && (s.die (pageDie 6 0)).frameAddr 100 % 128 == 0 &&
      unheldB (s.die (pageDie 6 0)) ((s.die (pageDie 6 0)).frameAddr 100 / 128)) = true) :
    s.holdsPage 6 0 n 100 l := by
  simp only [Bool.and_eq_true, decide_eq_true_eq, beq_iff_eq] at h
  obtain ⟨⟨⟨⟨⟨⟨h1, h2⟩, h3⟩, h4⟩, h5⟩, h6⟩, h7⟩ := h
  refine ⟨h1, h2, h3, h4, fun k hk => ?_⟩
  have e : ((s.die (pageDie 6 (0 / 65536))).frameAddr 100 + 0 % 65536 + k) / 128 = (s.die (pageDie 6 0)).frameAddr 100 / 128 := by
    simp only [Nat.zero_div, Nat.zero_mod, Nat.add_zero]; omega
  rw [e]
  exact unheld_of _ _ h7

theorem witness_PoolLoadsAndCapabilities :
    (∀ i ∈ ([.pld 0 2 3 3 0 2, .pld 0 2 3 7 0 2] : List Instr),
      let s := stored (paired (pooled (placed i) .s false false) 0 (16 * 2 ^ 32 + 0x400))
      s.mayIssue i = true ∧ s.ops = [] ∧ s.pendingWrites = false ∧ (leaseOf 6 0 .s false).pend = 0 ∧ (s.cap 3).poolCheck 0 16 1 true 8 = none ∧ s.spadOperandCheck (s.x 3) true = none ∧
        s.linesReady 0x400 16 ∧ s.holdsPage 6 0 16 100 (leaseOf 6 0 .s false) ∧ (leaseOf 6 0 .s false).hasType 0 16 true = false) ∧
    (let i : Instr := .kld 0 4 3 2 0 2
     let s := pooled (placed i) .s true false
     s.mayIssue i = true ∧ s.ops = [] ∧ (s.cap 3).poolCheck 0 16 32 true 16 = none ∧ s.holdsPage 6 0 16 100 (leaseOf 6 0 .s true) ∧
       (leaseOf 6 0 .s true).hasType 0 16 false = false) ∧
    (∀ c ∈ ([Cap.empty, ⟨BitVec.ofNat 128 (22 * 2 ^ 35 + 255 * 2 ^ 80), true⟩, ⟨BitVec.ofNat 128 (16 * 2 ^ 35 + 16), true⟩,
        ⟨BitVec.ofNat 128 (255 * 2 ^ 80 + 16 * 2 ^ 35), true⟩] : List Cap),
      let s := (placed (.pld 0 2 3 3 0 2)).setCap 3 c
      s.mayIssue (.pld 0 2 3 3 0 2) = true ∧ s.cap 3 = c ∧ s.ops = []) ∧
    (∀ i ∈ ([.kder 0 4 3 1 2, .kchk 0 4 3 1 2, .kmov 0 4 3] : List Instr), (pooled (placed i) .s false false).mayIssue i = true ∧
      (match ((pooled (placed i) .s false false).cap 3).derive 0 0x10000 with | .ok _ => true | .error _ => false) = true ∧
      (match Cap.empty.derive 0 16 with | .ok _ => false | .error _ => true) = true) := by
  refine ⟨?_, ⟨by decide +kernel, by decide +kernel, by decide +kernel, holdsPage_of _ _ _ (by decide +kernel), by decide +kernel⟩,
    by decide +kernel, by decide +kernel⟩
  intro i hi
  simp only [List.mem_cons, List.not_mem_nil, or_false] at hi
  rcases hi with rfl | rfl <;>
    exact ⟨by decide +kernel, by decide +kernel, by decide +kernel, by decide +kernel, by decide +kernel, by decide +kernel,
      linesReady_of _ _ _ (by decide +kernel), holdsPage_of _ _ _ (by decide +kernel), by decide +kernel⟩

/-- A store, an atomic and the two verdicts of a compare on a page held exclusively; an atomic that the pool lacks. -/
theorem witness_PoolStoresAndLeases :
    (∀ i ∈ ([.pst 0 2 3 3 0 2, .pst 0 2 3 7 0 2, .pamo 0 1 3 0 1 7 3, .pamo 0 1 3 9 0 7 3, .pcas 0 1 3 4 1 7 3] : List Instr),
      let s := stored (paired (pooled (placed i) .x false true) 0 (16 * 2 ^ 32 + 0x400))
      s.mayIssue i = true ∧ s.ops = [] ∧ (s.pendingWrites = false ∧ (∀ d : DieId, (s.die d).pool.waiting = []) ∧ s.lacksFeature 0 = false) ∧
        (leaseOf 6 0 .x false).pend = 0 ∧ (s.cap 3).poolCheck 0 16 2 true 8 = none ∧
        (s.cap 3).poolCheck 0 8 4 true 8 = none ∧ s.spadOperandCheck (s.x 3) false = none ∧ s.linesReady 0x400 16 ∧
        s.holdsPage 6 0 16 100 (leaseOf 6 0 .x false) ∧ s.poolClosed (pageDie 6 0) 6 0 = none ∧
        (leaseOf 6 0 .x false).hasType 0 16 true = false) ∧
    (∀ i ∈ ([.pget 0 0 3 1 2, .lacq 0 3 0 1 2, .lrel 0 3 0 1 2, .lhand 0 3 0 1 2] : List Instr), ∀ v ∈ [2 ^ 32, 2 ^ 63 + 2 ^ 32 + 0x10000, 65536],
      let s := paired (pooled (placed i) .x false true) 0 v
      s.mayIssue i = true ∧ s.ops = [] ∧ (s.cap 3).poolCheck 0 65536 8 false 65536 = none ∧ (s.cap 3).rangeCheck 0 65536 64 = none ∧
        s.cur.spadCheck 0x10000 65536 128 true = none ∧ s.linesReady 0x10000 65536 ∧ Cap.empty.rangeCheck 0 65536 64 ≠ none) := by
  constructor
  · intro i hi
    simp only [List.mem_cons, List.not_mem_nil, or_false] at hi
    rcases hi with rfl | rfl | rfl | rfl | rfl <;>
      exact ⟨by decide +kernel, by decide +kernel, by decide +kernel, by decide +kernel, by decide +kernel, by decide +kernel,
        by decide +kernel, linesReady_of _ _ _ (by decide +kernel), holdsPage_of _ _ _ (by decide +kernel), by decide +kernel,
        by decide +kernel⟩
  · intro i hi v hv
    simp only [List.mem_cons, List.not_mem_nil, or_false] at hi hv
    rcases hi with rfl | rfl | rfl | rfl <;> rcases hv with rfl | rfl | rfl <;>
      exact ⟨by decide +kernel, by decide +kernel, by decide +kernel, by decide +kernel, by decide +kernel,
        linesReady_of _ _ _ (by decide +kernel), by decide +kernel⟩

/-- A sequence of ASID 0: its record, of 1,024-byte rows' tokens, its committed length 700 and a slab of layer 1 that is valid where `slab` is not 0. -/
def sequence (s : State) (slab : Nat) : State :=
  let rec_ := bytesOf 4 700 ++ [1, 1, 5, 0] ++ bytesOf 8 0 ++ bytesOf 4 0 ++ bytesOf 4 slab ++ List.replicate 1016 0
  s.setDie 0 { s.die0 with seqCache := [⟨0, 9, BitVec.ofNat 128 (6 * 2 ^ 88 + 255 * 2 ^ 80 + 16 * 2 ^ 35 + 16), rec_⟩] }

/-- A KV address of sequence 9. -/
def kvAddr (layer head pos : Nat) : Nat := 9 * 2 ^ 40 + layer * 2 ^ 32 + head * 2 ^ 24 + pos

/-- The record is at hand and the page of the object's record is held exclusively; the operands of each form at a value below the committed length,
at it, and past it. -/
theorem witness_KvForms :
    (∀ i ∈ ([.kvld 0 0 0 0 2, .kvld 0 1 0 1 2, .kvapp 0 0 1 2 2, .kvcmt 0 0 1 2 2, .kvgrow 0 0 1 2 2, .kvattn 0 4 0 1 2] : List Instr),
      ∀ v ∈ [600, 700], ∀ slab ∈ [0, 2 ^ 31 + 3 * 2 ^ 25 + 2 * 2 ^ 20 + 4],
      let s := sequence (stored (thrice (pooled (placed i) .x false true) (kvAddr 1 1 3) v 0x400)) slab
      s.mayIssue i = true ∧ s.ops = [] ∧ field (s.x 0) 60 4 = 0 ∧
        (match s.here.seqEntry (s.cur.reg 0x40).toNat (kvSeq (s.x 0)) with
          | some e => e.good && (match (s.die (pageDie e.obj 0)).frameOf e.obj 0 with
              | some (_, l) => precedes (s.ltime (pageDie e.obj 0)) l.dline
              | none => true) && e.clen == 700 && e.inWindow 0 4 && !e.badSlab (e.slab (kvLayer (s.x 0))) && decide (kvLayer (s.x 0) ≤ e.nlay)
          | none => false) = true ∧
        s.growing 0 9 1 = false ∧ s.pendingWrites = false ∧ (∀ d : DieId, (s.die d).pool.waiting = []) ∧ s.poolClosed (pageDie 6 0) 6 0 = none ∧ (leaseOf 6 0 .x false).hasType 0 4 true = false) ∧
    (let s := sequence (pooled (placed (.kvcmt 0 0 1 2 2)) .x false true) 0
     s.holdsPage 6 0 4 100 (leaseOf 6 0 .x false)) := by
  exact ⟨by decide +kernel, holdsPage_of _ _ _ (by decide +kernel)⟩

/-- `kvattn` with a word in the queue, and a row that `kvld` finds. -/
theorem witness_KvForms_words :
    (let i : Instr := .kvattn 0 4 0 1 2
     let s := words (sequence (thrice (pooled (placed i) .x false true) (kvAddr 1 1 3) (5 * 2 ^ 36) 0) 0) [BitVec.ofNat 64 (2 * 2 ^ 59)]
     s.focus.cl = .m ∧ s.mayIssue i = true ∧ s.cur.store.fq = [BitVec.ofNat 64 (2 * 2 ^ 59)] ∧ fwWhole (BitVec.ofNat 64 (2 * 2 ^ 59)) = true ∧ field (s.x 1) 36 4 ≠ 4 ∧ bit (s.me.reg 0x18) 63 = false) ∧
    (let i : Instr := .kvld 0 2 0 1 2
     let s := sequence (stored (thrice (pooled (placed i) .s false true) (kvAddr 1 1 3) 0 0x400)) (2 ^ 31 + 3 * 2 ^ 25 + 2 * 2 ^ 20 + 4)
     s.mayIssue i = true ∧ (match s.here.seqCache with
       | [e] => (match s.kvxlate 0 e (s.x 0) 1 1 3 with | .ok _ koff _ _ => decide (koff + e.row ≤ 65536) | _ => false)
       | _ => false) = true) := by decide +kernel

theorem unheld_all (d : Die) (h : (d.poison.isEmpty && d.cores.all fun e => e.2.store.l1.isEmpty) = true) (l : Nat) : d.unheld l := by
  simp only [Bool.and_eq_true, List.isEmpty_iff, List.all_eq_true] at h
  refine ⟨by simp [Die.poisoned, h.1], fun c => ?_⟩
  rcases core_eq d c with e | ⟨x, hx, e⟩
  · rw [e]; rfl
  · rw [e, Core.l1Line, h.2 x hx]; rfl

/-- The slab of `kvAddr 1 1 n` at page 4. -/
def slab4 : Nat := 2 ^ 31 + 3 * 2 ^ 25 + 2 * 2 ^ 20 + 4

/-- Pages 5, 6 and 7 of object 6 are held too. -/
def withPages (s : State) (k : LeaseKind) : State :=
  let f := fun (s : State) (d : DieId) (l : List (Nat × Lease)) =>
    s.setDie d { s.die d with pool := { (s.die d).pool with frames := (s.die d).pool.frames ++ l, started := true } }
  f (f s 0 [(101, leaseOf 6 6 k false)]) 1 [(101, leaseOf 6 7 k false), (102, leaseOf 6 5 k false)]

/-- `kvapp` past the committed length: the four rows of two heads go to pages that are held exclusively. -/
theorem witness_KvForms_rows :
    let s := withPages (sequence (stored (thrice (pooled (placed (.kvapp 0 0 1 2 2)) .x false true) (kvAddr 1 1 3) 700 0x400)) slab4) .x
    let rows : List KvRow := [⟨6, 12224, 4, 0⟩, ⟨6, 44992, 4, 64⟩, ⟨7, 12224, 5, 128⟩, ⟨7, 44992, 5, 192⟩]
    s.mayIssue (.kvapp 0 0 1 2 2) = true ∧ s.ops = [] ∧ s.cur.spadCheck 0x400 256 16 false = none ∧
      (match s.here.seqCache with
        | [e] => e.clen == 700 && e.row == 64 && e.obj == 6 && (match s.appRows e (s.x 0) 703 [0, 1] with | .ok r => decide (r.1 = rows) && r.2 == 0 | .error _ => false) &&
            rows.all fun (r : KvRow) => e.inWindow (r.page * 65536 + r.off) 64
        | _ => false) = true ∧
      (∀ r ∈ rows, s.poolClosed (pageDie 6 r.page) 6 r.page = none ∧ (leaseOf 6 r.page .x false).hasType r.off 64 true = false) ∧
      (∀ n < 65536, s.die0.unheld (((s.die0.frameAddr 101) + n) / 128)) ∧ ∀ n < 65536, s.die1.unheld (((s.die1.frameAddr 101) + n) / 128) :=
  ⟨by decide +kernel, by decide +kernel, by decide +kernel, by decide +kernel, by decide +kernel, fun _ _ => unheld_all _ (by decide +kernel) _,
    fun _ _ => unheld_all _ (by decide +kernel) _⟩

/-- A reserved bit of the KV address; a growth whose target fits, with and without one under way, and one whose target does not. -/
theorem witness_KvForms_growth :
    (∀ i ∈ ([.kvld 0 0 0 0 2, .kvapp 0 0 1 2 2, .kvcmt 0 0 1 2 2, .kvgrow 0 0 1 2 2, .kvattn 0 4 0 1 2] : List Instr),
      let s := words (allX (placed i) (2 ^ 60)) [BitVec.ofNat 64 (2 * 2 ^ 59)]
      s.mayIssue i = true ∧ field (s.x 0) 60 4 ≠ 0) ∧
    (∀ e ∈ [(8, true), (5, false)],
      let s := sequence (thrice (pooled (placed (.kvgrow 0 0 1 2 2)) .x false true) (kvAddr 1 1 3) e.1 1) slab4
      s.mayIssue (.kvgrow 0 0 1 2 2) = true ∧ s.growing 0 9 1 = false ∧ (match s.here.seqCache with
        | [x] => let sl := x.slab 1
          sl.v && sl.base == 4 && sl.lc == 2 && !x.badSlab sl && x.mayX && x.inWindow (8 * 65536) (4 * 65536) && x.inWindow (4 * 65536) (4 * 65536) &&
            decide (1 ≤ e.1 ∧ e.1 + 8 ≤ 2 ^ 20 ∧ (4 + 4 ≤ e.1 ∨ e.1 + 8 ≤ 4)) == e.2
        | _ => false) = true) ∧
    (let s := sequence (thrice (pooled (placed (.kvgrow 0 0 1 2 2)) .x false true) (kvAddr 1 1 3) 8 48) 0
     s.mayIssue (.kvgrow 0 0 1 2 2) = true ∧ s.ops = [] ∧ 47 < field (s.x 2) 0 6 ∧ 1 ≤ field (s.x 1) 0 20) ∧
    (∀ e ∈ [(3, 701), (256, 700), (3, 2 ^ 24)],
      let s := sequence (stored (thrice (pooled (placed (.kvapp 0 0 1 2 2)) .x false true) (kvAddr 1 1 0 + e.1) e.2 0x400)) slab4
      s.mayIssue (.kvapp 0 0 1 2 2) = true ∧ kvPos (s.x 0) = e.1 ∧ (s.x 1).toNat = e.2 ∧ s.cur.spadCheck 0x400 256 16 false = none) ∧
    (∀ e ∈ [(700, 700), (700, 957), (2 ^ 24, 2 ^ 24 + 1)],
      let s := thrice (placed (.kvcmt 0 0 1 2 2)) (kvAddr 1 1 0) e.1 e.2
      s.mayIssue (.kvcmt 0 0 1 2 2) = true ∧ (s.x 1).toNat = e.1 ∧ (s.x 2).toNat = e.2 ∧ field (s.x 0) 60 4 = 0) ∧
    (let g : Grow := { asid := 0, seq := 9, layer := 1, oldBase := 4, newBase := 8, lc := 2, rot := 3, heads := 2, tokens := 512, pair := 0, phase := .pair }
     ({ State.reset with ops := [{ doneOp .none .read Status.ok with grow := some g }] }).growing 0 9 1 = true) := by decide +kernel

/-! ## Witnesses: CSRs, the system instructions, the torus and the pool's steps -/

theorem witness_CsrForms :
    (∀ i ∈ ([.csrr 0 1 0, .csrr 0 1 0x17, .csrr 0 1 0x41, .csrr 0 1 0x10F, .csrr 0 1 0x7FF, .csrw 0 1 0, .csrw 0 1 1, .csrw 0 1 2, .csrw 0 1 3,
      .csrw 0 1 8, .csrw 0 1 15, .csrw 0 1 0x10, .csrw 0 1 0x17, .csrw 0 1 0x10F, .csrw 0 1 0x118, .csrw 0 1 0x41] : List Instr), (placed i).mayIssue i = true) ∧
    (csrListed 0x41 .a && csrReadable 0x41) = true ∧ (csrListed 0x7FF .a && csrReadable 0x7FF) = false ∧
    (csrListed 0x41 .a && csrWritable 0x41) = false := by decide +kernel

/-- `tlbi` without, with a waiting and with a finished invalidation; `snap` likewise; `evcfg` of an entry and of a trigger; `rwctl`; `resume`. -/
theorem witness_SystemForms :
    (∀ i ∈ ([.tlbi 0 1 2, .snap 0 3 2, .evcfg 0 1 2, .rwctl 0 1 2, .resume 0 1] : List Instr),
      ∀ e ∈ [(0x1000, 0), (0, 2 ^ 60), (0x50, 0), (2 ^ 63, 16)], (thrice (placed i) 0 e.1 e.2).mayIssue i = true) ∧
    (∀ fin ∈ [false, true],
      let s := placed (.tlbi 0 1 2)
      let t := { s with invals := [⟨5, 0, 0, 0, 0, 0x1000, 0, false, some s.focus, false, fin⟩] }
      t.mayIssue (.tlbi 0 1 2) = true ∧ (match t.invals.find? fun v => decide (v.stream = some s.focus) with
        | some v => v.finished == fin | none => false) = true) ∧
    (let s := placed (.snap 0 3 2)
     let t := fun (r : Option Word) => s.setDie 0 { s.die0 with optical := { s.die0.optical with latches := [⟨4, some s.focus, r⟩] } }
     (t none).mayIssue (.snap 0 3 2) = true ∧ (t (some 77)).mayIssue (.snap 0 3 2) = true) ∧
    (let s := thrice (placed (.evcfg 0 1 2)) 0 0x10 5
     s.mayIssue (.evcfg 0 1 2) = true ∧ evLegal 0x10 5 = true ∧ Sparse.get (fun _ => (0 : BitVec 40)) s.cur.ex.latch 0 &&& (5 : Word).setWidth 40 = 0) ∧
    evLegal 0x20 (BitVec.ofNat 64 (3 * 2 ^ 48 + 7)) = true ∧ evLegal 0x50 0 = true ∧ evLegal 0x7F 0 = false := by decide +kernel

/-- A domain of 3 × 1 × 1 dies whose die knows its place, all links up where `links` says. -/
def domain (links : Nat) : State :=
  let f := fun (s : State) (d : DieId) =>
    (s.setDieReg d 0x108 (BitVec.ofNat 64 (d.val + d.val * 2 ^ 11 + 3 * 2 ^ 20 + 1 * 2 ^ 24))).setDieReg d 0x10B (BitVec.ofNat 64 (links + 0x3F00))
  f (f State.reset 0) 1

/-- A write of eight bytes from die 2 to die 0. -/
def packet0 : Packet :=
  { kind := 1, dirs := 1, vc := 0, src := 2, dst := 0, tag := 3, gen := 0, inc := 1, size := 7, op := 0, addr := 0x1000, ord := 0, fs := 2, phase := false,
    counted := false, fsg := 0, fcnt := 0, bad := false, data := List.replicate 8 9 }

/-- Die 0 with an outstanding tag, resting or not. -/
def tagged (resting : Bool) : State :=
  let s := { domain 0x3F with ops := [doneOp (.x 3) .read Status.ok], cycle := 2 ^ 31 }
  s.setDie 0 { s.die0 with torus := { s.die0.torus with tags := [(3, ⟨42, 0, 2, 5, resting, none⟩)], router := [packet0] } }

theorem witness_TorusSteps :
    (let s := domain 0x3F
     s.die0.inReset = false ∧ (∀ k ∈ [0, 1, 2, 3, 4, 8], Packet.parse ({ packet0 with kind := k, data := packet0.data.take (payloadLength k 0 7) }).bytes =
         { packet0 with kind := k, data := packet0.data.take (payloadLength k 0 7) }) ∧
       (Packet.parse ({ packet0 with kind := 7 }).bytes).bad = true ∧ packet0.kind = 1 ∧ packet0.inc = s.inc 0 ∧ packet0.data.length = packet0.size + 1 ∧
       s.die0.inLocal 0x1000 8 = true ∧ s.path 0 2 = .remote ∧ (s.dest 0 2 2).gen = 0 ∧ (s.dest 0 2 2).counter false = 0) ∧
    (domain 0x3F).die0.unheld (0x1000 / 128) ∧
    ((match (domain 0x3F).hop 1 { packet0 with dst := 2 } with | .leave _ _ => true | _ => false) = true ∧
      (match (domain 0).hop 0 { packet0 with dst := 2 } with | .down => true | _ => false) = true) ∧
    (∀ resting ∈ [false, true], (tagged resting).die0.torus.tag? 3 = some ⟨42, 0, 2, 5, resting, none⟩ ∧
      (tagged resting).remoteDue 0 5 = true ∧ (tagged resting).die0.torus.gen 3 = 0 ∧ (tagged resting).die0.torus.tag? 7 = none ∧
      (tagged resting).die0.torus.router = [packet0]) ∧
    (let s := domain 0
     bit (s.dieReg 0 0x10B) 8 = true ∧ s.linkUp 0 0 = false ∧ (s.coord 0).usesLink 0 0 = true ∧ (domain 0x3F).linkUp 0 0 = true) :=
  ⟨by decide +kernel, unheld_of _ _ (by decide +kernel), by decide +kernel, by decide +kernel, by decide +kernel⟩

/-- Die 0 or 1 holds the leases listed, and its ports and pool are in service. -/
def leased (l : List (Nat × Lease)) : State :=
  let f := fun (s : State) (d : DieId) =>
    let x := s.die d
    let s := s.setDie d { x with pool := { x.pool with frames := l.filter (fun e => pageDie e.2.obj e.2.pidx = d), started := true } }
    (s.setDieReg d 0x120 (s.dieReg d 0x120 ||| BitVec.ofNat 64 (3 * 2 ^ 20))).setDieReg d 0x113 (BitVec.ofNat 64 (4 * 2 ^ 20 + 20000 + 2 ^ 32 * 100000))
  f (f State.reset 0) 1

/-- A request under tag 3 of die 0. -/
def asked (s : State) (r : PoolReq) : State := s.setDie 0 { s.die0 with pool := { s.die0.pool with reqs := [(3, r)] } }

/-- A frame that a fill waits for. -/
def filling : Lease := { leaseOf 6 4 .s false with st := .filling, fgen := 9 }

theorem witness_PoolSteps :
    (∀ e ∈ ([(.fill true, filling), (.renew, leaseOf 6 0 .s false), (.writeThrough 0 [1, 2], { leaseOf 6 0 .x false with pend := 2 }), (.release, leaseOf 6 0 .s false),
        (.handover 5, leaseOf 6 0 .x false)] : List (PoolAsk × Lease)),
      let r := { poolReq e.1 100 e.2 0 none with tsend := 0, sent := 5 }
      let s := asked (leased [(100, e.2)]) r
      s.ops = [] ∧ (∀ d : DieId, (s.die d).pool.waiting = []) ∧ (match s.poolReply 0 3 0 with | .inr x => x == r | .inl _ => false) = true ∧
        s.expireFor r = s ∧ s.ldur 0 5 ≠ 0 ∧ precedes (s.ltime 0) ((r.tsend + s.ldur 0 5) % 2 ^ 48) = true ∧
        (r.ask = .fill true → s.fillMatches 0 r = true) ∧ (s.die0.lease 100).fgen = r.fgen) ∧
    (let s := leased [(100, leaseOf 6 0 .s false)]
     s.die0.pool.reqs = [] ∧ s.die0.frameOf 6 0 = some (100, s.die0.lease 100) ∧ (s.die0.lease 100).kind = .s ∧ s.die0.frameOf 6 8 = none) ∧
    (let s := (leased [(100, { leaseOf 6 0 .x false with dline := 5, pend := 0 })]).setDieReg 0 0x114 50
     precedes (s.ltime 0) (s.die0.lease 100).dline = false ∧ (s.die0.lease 100).st = .valid) ∧
    (let l := { leaseOf 6 0 .x false with own := true, dline := 1000, ldur := 2 ^ 20 }
     let s := (leased [(100, l)]).setDieReg 0 0x114 990
     s.renewalDue 0 100 l = true ∧ (s.poolPort 0 6 0).isSome = true) ∧
    (let r := { poolReq .release 100 (leaseOf 6 0 .s false) 0 none with sent := 5 }
     let s := { asked (leased [(100, leaseOf 6 0 .s false)]) r with cycle := 2 ^ 30 + 5 }
     s.die0.pool.reqs = [(3, r)] ∧ s.poolDue 0 r = true) ∧
    (State.reset.die0.pool.pfAt = none ∧ bit ((State.reset.setDieReg 0 0x117 0x10300).dieReg 0 0x117) 16 = true ∧
      field ((State.reset.setDieReg 0 0x116 (BitVec.ofNat 64 (2 ^ 48 + 4))).dieReg 0 0x116) 48 16 ≠ 0 ∧
      bit (BitVec.ofNat 256 (ofBytes (((State.reset.die 0).peek? 0 32).getD []))) 56 = false) ∧
    field (State.reset.dieReg 0 0x117) 8 4 ≠ 0 ∧ field ((State.reset.setDieReg 0 0x117 0).dieReg 0 0x117) 8 4 = 0 := by decide +kernel

/-- A channel of a small die, all of whose frames hold leases; a frame of it is ready to be taken. -/
theorem witness_PoolSteps_channel :
    (let s := (State.reset.setDieReg 0 0x100 383).setDie 0 { (State.reset.setDieReg 0 0x100 383).die0 with
        pool := { (State.reset.setDieReg 0 0x100 383).die0.pool with started := true, frames := [(4, leaseOf 6 8 .s false)] } }
     s.sweeps 0 4 = true ∧ s.die0.channelFrames 4 ≠ 0 ∧ s.die0.pool.started = true ∧ (s.die0.lease 4).st = .valid ∧ (s.die0.lease 4).own = false ∧
       (s.die0.lease 4).pin = 0 ∧ (s.die0.lease 4).pend = 0 ∧ (s.die0.sweeper 4).hand % s.die0.channelFrames 4 * 48 + 4 = 4) := by
  decide +kernel

/-! ## Witnesses: translation, KV and fault steps, optical ports, pipelines, queues, the system -/

/-- The tables of ASID 0 of die 0, which map the first 1 GiB to local memory from 0 (R74, R76): the root lies on die `d`. -/
def tabled (s : State) (d : Nat) : State :=
  let m := writeBytes [] 0 (bytesOf 8 (2 ^ 63 + d * 2 ^ 40 + 0x2000))
  let m := writeBytes m 0x2000 (bytesOf 8 (1 + 0x3000))
  (s.setDie 0 { s.die0 with mem := writeBytes m 0x3000 (bytesOf 8 543) }).setDieReg 0 0x101 1

/-- A walk with translation on; a write of `tinvc` while none runs; an invalidation under way; `kvinv` at work; held and acknowledged entries; the
host window; a waiting pulse and a waiting target; and M's turn at the Swath. -/
theorem witness_TranslationKvAndFaultSteps :
    (∀ again ∈ [false, true], ∀ e ∈ [(State.reset, 1), (tabled State.reset 0, 0), (tabled (domain 0x3F) 2, 2)],
      let o := doneOp (.walk 0 0x5000 (.instr .a 0 0) again []) .read Status.ok
      let s := { e.1 with ops := [o] }
      let w : Walker := ⟨⟨0, 0⟩, .instr .a 0 0, 0, 0x5000⟩
      let r := if again then (s.dropOp o.id).walk w else (s.dropOp o.id).walkWith w [⟨o.walkKey, o.status, readNat o.data 0 o.size⟩]
      s.ops.filter (fun o => o.walkDone ⟨0, 0⟩ 0x5000 0) = [o] ∧
        (match r.2 with | .ok x => e.2 == 0 && x.base == 0 && x.size == 2 ^ 30 | .fault c => e.2 == 1 && c == 1 | .need => e.2 == 2) = true) ∧
    (bit (State.reset.dieReg 0 0x103) 63 = false ∧ bit ((State.reset.setDieReg 0 0x103 (BitVec.ofNat 64 (2 ^ 63))).dieReg 0 0x103) 63 = true) ∧
    (∀ host ∈ [false, true], let s := { State.reset with invals := [⟨5, 0, 0, 0, 0, 0x10000000, 0, host, none, true, false⟩] }
     s.ops = [] ∧ (match s.invals.find? fun y => decide (y.id = 5) with | some i => !i.finished && i.stream.isNone | none => false) = true) ∧
    (bit (State.reset.dieReg 0 0x106) 63 = false ∧ bit ((State.reset.setDieReg 0 0x106 (BitVec.ofNat 64 (2 ^ 63))).dieReg 0 0x106) 63 = true) ∧
    (let s := (placed (.nop 0)).takeFault ⟨⟨0, 0⟩, .a⟩ { kind := 8, cause := 1 }
     s.die0.faults.held ≠ [] ∧ (s.setDieReg 0 0x11F (BitVec.ofNat 64 (0x40 * 4096 + 2 * 16 + 1))).faultRoom 0 = true) ∧
    (let s := ((placed (.nop 0)).setDieReg 0 0x11F (BitVec.ofNat 64 (0x40 * 4096 + 2 * 16 + 1))).takeFault ⟨⟨0, 0⟩, .a⟩ { kind := 8, cause := 1 }
     let t := s.setDie 0 { s.die0 with faults := { s.die0.faults with batches := [[0]] } }
     (t.stream ⟨⟨0, 0⟩, .a⟩).run = .parked 0 ∧ t.stopping ⟨0, 0⟩ = false ∧ (match t.die0.faults.posted.find? fun e => decide (e.seq = 0) with
       | some e => e.stream == some ⟨⟨0, 0⟩, .a⟩ && (e.rwr.drop 4).isEmpty && decide (e.kind < 10) | none => false) = true ∧
       t.die0.faults.restarted ≠ t.cycle + 1) ∧
    (let ended := fun (s : State) => s.die0.window + 2 ^ field (s.dieReg 0 0x104) 24 5 ≤ s.cycle
     ¬ ended State.reset ∧ ended { State.reset with cycle := 2 ^ 31 }) := by decide +kernel

theorem witness_TranslationKvAndFaultSteps_core :
    (csrScope 0x43 = some .core ∧ csrListed 0 .a = true ∧ csrScope 0x300 ≠ some .core ∧ csrListed 0x300 .a = false) ∧
    (let s := member (placed (.nop 0)) gang0
     let c := s.core ⟨0, 0⟩
     let t := s.setCore ⟨0, 0⟩ { c with ex := { c.ex with deferred := [3], pending := [(2, 3)] } }
     (t.core ⟨0, 0⟩).ex.deferred = [3] ∧ (t.core ⟨0, 0⟩).ev 0x22 = 0 ∧
       (let u := t.setCore ⟨0, 0⟩ { t.core ⟨0, 0⟩ with ex := { (t.core ⟨0, 0⟩).ex with entry := [(0x22, BitVec.ofNat 64 (3 * 2 ^ 48 + 5))] } }
        (u.core ⟨0, 0⟩).pendingOf 2 ≠ 0 ∧ u.stopping ⟨0, 0⟩ = false ∧ field ((u.core ⟨0, 0⟩).ev 0x22) 48 4 = 3 ∧ u.gangOf ⟨0, 0⟩ = some gang0)) ∧
    (let s := placed (.kvattn 0 4 2 3 1)
     s.me.run = .running ∧ s.me.hold = none ∧ s.cur.ctl.released = true ∧ s.stopping ⟨0, 0⟩ = false) := by decide +kernel

/-- Each answer of a round: at the end of the tokens; past the committed length; no slab; a record to be read; a round of one block, whose page is held. -/
theorem witness_TranslationKvAndFaultSteps_rounds :
    let at_ := fun (n slab : Nat) => words (withPages (sequence (thrice (pooled (placed (.kvattn 0 4 0 1 2)) .s false true) (kvAddr 1 1 n) (5 * 2 ^ 36) 0) slab) .s) []
    let o := fun (stage : Nat) (ts : List Task) => { doneOp (.attn 4 stage) .read Status.ok with owner := ⟨⟨0, 0⟩, .m⟩, tasks := ts }
    let round := fun (n slab : Nat) => let s := { at_ n slab with ops := [o 0 []] }
      (s.nextRound ⟨0, 0⟩ 4 (s.x 0) (s.x 1) false).2
    (match round 0 slab4 with | .finished => true | _ => false) = true ∧ (match round 957 slab4 with | .fault _ => true | _ => false) = true ∧
    (match round 300 0 with | .fault _ => true | _ => false) = true ∧
    (match ({ placed (.kvattn 0 4 0 1 2) with ops := [o 0 []] }).nextRound ⟨0, 0⟩ 4 0 0 false with
      | (_, .tasks _ 0 _ none 0) => true | (_, .fault _) => true | _ => false) = true ∧
    (match round 300 slab4 with
      | .tasks _ 1 ts (some _) fwd =>
        let qs := ts.map fun t => { t with st := .done Status.ok }
        let s := { at_ 300 slab4 with ops := [o 1 qs] }
        fwd == 0 && (s.attnArgs ⟨0, 0⟩).isSome && (o 1 qs).performed && (o 1 qs).status == Status.ok && samePages qs ts &&
          !(qs.any s.pageGone) && !s.roundPoisoned qs
      | _ => false) = true := by decide +kernel

/-- A `kvattn` at the end of its first stage, and a `kvgrow` in each of its phases. -/
theorem witness_TranslationKvAndFaultSteps_kv :
    (let s := placed (.kvattn 0 4 2 3 1)
     let o := fun (st : Status) => { doneOp (.attn 4 0) .read st with owner := ⟨⟨0, 0⟩, .m⟩ }
     s.attnArgs ⟨0, 0⟩ ≠ none ∧ (o Status.ok).performed = true ∧ (o Status.ok).status = Status.ok ∧ (o Status.access).status ≠ Status.ok) ∧
    (∀ ph ∈ ([.pair, .copy 0, .copy 3, .record, .release 0, .release 3] : List GrowPhase),
      let g : Grow := { asid := 0, seq := 9, layer := 1, oldBase := 4, newBase := 8, lc := 2, rot := 3, heads := 2, tokens := 512, pair := 0, phase := ph }
      let o := { doneOp .none .read Status.ok with grow := some g }
      let s := { State.reset with ops := [o] }
      s.op? 42 = some o ∧ o.performed = true ∧ o.status = Status.ok ∧ s.pairOf 0 9 1 = none ∧
        ((List.range 16).find? fun j => !bit (s.dieReg 0 (0x140 + j)) 63) = some 0) := by decide +kernel

/-- A port in each of its states, with its modules present and removed; lane counts above the limit; a latch; a switch request. -/
def port (st : Nat) : State := State.reset.setDieReg 0 0x120 (setField (State.reset.dieReg 0 0x120) 20 3 st)

theorem witness_OpticalSteps :
    (∀ st ∈ [0, 1, 2, 3, 4, 5, 6], (port st).portSt 0 0 = st ∧ (port st).ops = [] ∧ (∀ d : DieId, ((port st).die d).pool.waiting = []) ∧
      (port st).portPoolTags 0 0 = [] ∧ (port st).portCircuitTags 0 0 = []) ∧
    (bit (State.reset.dieReg 0 0x130) 8 = true ∧ bit ((State.reset.setDieReg 0 0x130 0).dieReg 0 0x130) 8 = false) ∧
    (6 ≤ popCount 8 (trainedLanes [0, 2000, 5, 1024, 1025]) ∧ ¬ 6 ≤ popCount 8 (trainedLanes [0, 2000, 5, 1025, 1025]) ∧
      (port 2).otherPool 9 = false ∧ ((port 2).setDieReg 0 0x121 (setField (State.reset.dieReg 0 0x121) 20 3 3)).otherPool 9 = true ∧ (port 2).attemptLate 0 0 = false ∧ field ((port 2).dieReg 0 0x111) 32 32 = 0 ∧
      bit ((port 2).oport 0 0) 8 = false ∧ bit (((port 2).setDieReg 0 0x120 (setBit ((port 2).dieReg 0 0x120) 8 true)).oport 0 0) 8 = true) ∧
    (¬ stepLimit ((port 2).portRun 0 0).step < (port 2).stepTime 0 0 ∧ (port 2).attemptTime 0 0 ≤ 1000000 ∧
      1000000 < ((port 2).setDieReg 0 0x114 1000001).attemptTime 0 0) ∧
    (let s := port 4
     let t := { s.setDie 0 { s.die0 with pool := { s.die0.pool with reqs := [(3, poolReq .release 100 (leaseOf 6 0 .s false) 0 none)] } } with cycle := 2 ^ 30 }
     t.portSt 0 0 = 4 ∧ t.portPoolTags 0 0 = [(0, 3)] ∧ (t.portRun 0 0).since + 2 ^ field (t.dieReg 0 0x11A) 8 6 ≤ t.cycle) ∧
    (let s := { (port 3).setDieReg 0 0x120 (setField ((port 3).dieReg 0 0x120) 40 8 0xFF) with cycle := 2 ^ 24 }
     s.portSt 0 0 = 3 ∧ (s.portRun 0 0).since + 2 ^ 24 ≤ s.cycle ∧ s.die0.optical.latches = [] ∧
       ((List.range 8).filter fun i => bit (s.oport 0 0) (40 + i) && decide (2 ^ 14 < [0, 16385].getD i 0)) = [1]) ∧
    (State.reset.settleDue = false ∧ (State.reset.setDieReg 0 0x114 50000).settleDue = true) ∧
    (let s := State.reset.setDie 0 { State.reset.die0 with optical := { State.reset.die0.optical with latches := [⟨4, none, none⟩] } }
     (s.die0.optical.latches.find? fun l => l.result.isNone) = some ⟨4, none, none⟩) ∧
    (let s := ({ State.reset with cycle := 2 ^ 25 }).setQueueRun 0 { QueueRun.reset with run := some ⟨0x1000, 0, 0, [], [.circuit 2 0 Status.ok none [(0, 0)]]⟩ }
     (s.queue 0).run = some ⟨0x1000, 0, 0, [], [.circuit 2 0 Status.ok none [(0, 0)]]⟩ ∧
       2 ^ field (s.dieReg 0 0x11A) 8 6 ≤ s.cycle ∧ field (s.dieReg 0 0x11B) 0 2 = 0) := by decide +kernel

/-- A launch record of one stage of one or two cores, and the record of a queue's step with a launch node whose record has been read. -/
def record1 : List Byte :=
  bytesOf 2 0 ++ [5, 1] ++ bytesOf 2 100 ++ [0, 3] ++ bytesOf 8 0 ++ bytesOf 8 0 ++ bytesOf 8 0 ++ bytesOf 8 (2 * 2 ^ 45 + 2 ^ 36 + 0x100) ++
    List.replicate 216 0

def stepping (nodes : List NodeState) (recs : List (List Byte)) : State :=
  State.reset.setQueueRun 0 { QueueRun.reset with base := 0x4000, lgn := 4, en := true, state := 1, run := some ⟨0x1000, 7, 0, recs, nodes⟩ }

/-- The bytes of a node: kind, flags, predecessors, and the rest from byte 8. -/
def nodeOf (kind : Nat) (rest : List Byte) : List Byte := [BitVec.ofNat 8 kind, 0, 0, 0] ++ bytesOf 4 0 ++ rest ++ List.replicate (56 - rest.length) 0

/-- A core of gang 7 whose four streams are all in one state. -/
def allRun (s : State) (n : Nat) (r : Run) : State :=
  [Cluster.a, .m, .v, .d].foldl (fun s k => s.setStream ⟨CoreId.ofIndex n, k⟩ { s.stream ⟨CoreId.ofIndex n, k⟩ with run := r }) s

theorem witness_PipelineSteps :
    (let s := State.reset.setDie 0 { State.reset.die0 with start := ⟨[⟨0, 7, 0⟩], 0, 0, 0⟩ }
     s.die0.start.queue = [⟨0, 7, 0⟩] ∧ s.die0.start.last = 0 ∧ [Cluster.a, .m, .v, .d].all (fun k => (s.stream ⟨⟨0, 0⟩, k⟩).run == .idle) = true) ∧
    (let s := stepping [.candidate record1] [nodeOf 1 (bytesOf 8 0x1000)]
     let t := { s with sched := { s.sched with won := some (0, 0) } }
     lrMalformed record1 = false ∧ t.node 0 0 = some (.candidate record1) ∧ t.pick record1 (lrMins record1) = some [[0]] ∧
       t.commonsRun (lrCmLen record1) = some 0 ∧ t.sched.won = some (0, 0)) ∧
    (let s := stepping [.candidate record1] [nodeOf 1 (bytesOf 8 0x1000)]
     (s.eligible 0).length = 1 ∧ s.sched.won = none ∧ (drawWinner (s.eligible 0) (seedOut (seedNext (s.dieReg 0 0x11D)))).isSome = true) ∧
    (let s := member State.reset { gang0 with launch := record1, stages := [⟨0, 1, 2, [0]⟩] }
     s.launchWaits 0 = false ∧ s.stageCount { gang0 with launch := record1, stages := [⟨0, 1, 2, [0]⟩] } 0 + s.arriving { gang0 with launch := record1, stages := [⟨0, 1, 2, [0]⟩] } 0 = 1 ∧ (s.gang? 7).isSome = true ∧ s.coreFree 0 = false ∧ s.coreFree 1 = true ∧ lrMax record1 0 = 2) ∧
    (let s := allRun (allRun (member State.reset gang0) 0 .halted) 1 .halted
     s.gang? 7 = some gang0 ∧ gang0.chain = none ∧ s.chainedTo gang0 = false ∧ (∀ i ∈ gang0.cores, s.coreDone (CoreId.ofIndex i) = true)) ∧
    (bit (State.reset.dieReg (queueDie gang0.queue) 0x11E) 8 = true ∧ (member State.reset gang0).evaluationDue gang0 = true ∧
      (member State.reset { gang0 with evaluated := 1 }).gang? 7 = some { gang0 with evaluated := 1 } ∧
      (member State.reset { gang0 with evaluated := 1 }).evaluationDue { gang0 with evaluated := 1 } = false) := by decide +kernel

/-- A core at its drain point, with and without a gang and a request; a core at `swap` whose shadow plane is loaded; a request whose deadline has
passed; a gang that can be saved; and one that waits to be restored. -/
theorem witness_PipelineSteps_switch :
    (let s := allRun (member State.reset gang0) 0 .atYield
     (s.core ⟨0, 0⟩).atDrain = true ∧ s.gangOf ⟨0, 0⟩ = some gang0 ∧ gang0.request = none ∧ gang0.counts 0 = false ∧
       (let t := s.setCtl ⟨0, 0⟩ fun k => { k with drain := true }
        (t.core ⟨0, 0⟩).atDrain = true ∧ (t.core ⟨0, 0⟩).ctl.loadFailed = false ∧ (t.core ⟨0, 0⟩).ctl.load = none)) ∧
    (let s := allRun (State.reset.setCore ⟨0, 0⟩ { State.reset.core ⟨0, 0⟩ with ctl := { (State.reset.core ⟨0, 0⟩).ctl with released := true } }) 0 .atYield
     (s.core ⟨0, 0⟩).atDrain = true ∧ s.gangOf ⟨0, 0⟩ = none) ∧
    (let s := allRun (placed (.swap 0)) 0 .atSwap
     let c := s.core ⟨0, 0⟩
     let t := s.setCore ⟨0, 0⟩ { c with ctl := { c.ctl with shadow := c.ctl.active } }
     (t.core ⟨0, 0⟩).atDrain = true ∧ (t.core ⟨0, 0⟩).ctl.shadow.loaded = true ∧ (t.core ⟨0, 0⟩).ca.run = .atSwap ∧ t.gangOf ⟨0, 0⟩ = none ∧
       t.engineDone ⟨0, 0⟩ = true ∧ (t.core ⟨0, 0⟩).ctl.shadowFor = none) ∧
    (let g := { gang0 with request := some 5, ctx := (0, 4) }
     let s := allRun (allRun (member State.reset g) 0 .atYield) 1 .atYield
     s.gang? 7 = some g ∧ (∀ i ∈ g.cores, s.canSave g (CoreId.ofIndex i) = true)) ∧
    (let g := { gang0 with request := some 5 }
     let s := { member State.reset g with cycle := 200005 }
     s.gang? 7 = some g ∧ g.forced = false ∧ 5 + g.pdl ≤ s.cycle ∧ (s.core ⟨0, 0⟩).atDrain = false ∧ (s.core ⟨0, 0⟩).ctl.released = true) ∧
    (let g := { gang0 with phase := .saved, launch := record1, stages := [⟨0, 1, 2, [0]⟩] }
     let s := stepping [.running 7] [nodeOf 1 (bytesOf 8 0x1000)]
     let t := { s with sched := { s.sched with gangs := [g], won := some (0, 0) } }
     t.gang? 7 = some g ∧ t.node 0 0 = some (.running 7) ∧ t.pick g.launch [1] = some [[0]]) := by decide +kernel

/-- Descriptors that are malformed and not; a queue with a step to take; a node of each kind whose access has ended; misaligned nodes; the stages
of a circuit change; a lease hand-over whose capability fails; and the last node of a step. -/
theorem witness_QueueAndNodeSteps :
    (descMalformed (List.replicate 32 0) = true ∧ descMalformed (bytesOf 8 0x4000 ++ [4, 1] ++ List.replicate 22 0) = false) ∧
    (let r := { QueueRun.reset with base := 0x4000, lgn := 4, en := true, head := 1 }
     let s := (State.reset.setDie 0 { State.reset.die0 with mem := writeBytes [] 0x4000 (bytesOf 8 0x8000) }).setQueueRun 0 r
     (s.queue 0).run = none ∧ (s.queue 0).fetch = none ∧ (s.queue 0).state ≠ 2 ∧ (s.queue 0).head % 16 ≠ (s.queue 0).tail % 16 ∧
       s.physPeek 0x4000 8 = some (bytesOf 8 0x8000) ∧ ofBytes (bytesOf 8 0x8000) % 2 ^ 49 % 64 = 0) ∧
    (let h := bytesOf 4 9 ++ bytesOf 2 0 ++ [1] ++ List.replicate 57 0
     let s := { State.reset.setQueueRun 0 { QueueRun.reset with fetch := some ⟨0x1000, [h, nodeOf 1 (bytesOf 8 0x1000)], 42⟩ } with
       ops := [doneOp .node .read Status.ok] }
     (s.queue 0).fetch = some ⟨0x1000, [h, nodeOf 1 (bytesOf 8 0x1000)], 42⟩ ∧ s.op? 42 = some (doneOp .node .read Status.ok) ∧
       (doneOp .node .read Status.ok).performed = true ∧ headerOk h = true) ∧
    (∀ kind ∈ [1, 2, 3, 4, 6],
      let s := { stepping [.access (some 42)] [nodeOf kind (bytesOf 8 0x1000)] with ops := [doneOp .none .read Status.ok] }
      s.node 0 0 = some (.access (some 42)) ∧ bytesAt (s.nodeBytes 0 0) 0 1 = kind ∧
        (match (s.performOp 42).op? 42 with | some o => o.performed | none => false) = true) ∧
    (∀ kind ∈ [1, 2, 3, 4], let s := stepping [.pending] [nodeOf kind (bytesOf 8 0x1001)]
      s.nodeReady 0 0 kind = true ∧ bytesAt (s.nodeBytes 0 0) 8 8 % 4 ≠ 0) ∧
    (let s := fun (st : NodeState) => stepping [st] [nodeOf 5 (bytesOf 2 1)]
     (s .pending).nodeReady 0 0 5 = true ∧ (s (.circuit 1 0 Status.ok none [(0, 0)])).node 0 0 = some (.circuit 1 0 Status.ok none [(0, 0)]) ∧
       nodePorts ((s .pending).nodeBytes 0 0) = [(0, 0)] ∧ (s .pending).portSt 0 0 ≠ portDraining ∧ (s .pending).switchBusy 0 = false ∧
       (s .pending).portSt 0 0 ≠ portAbsent ∧ field (((s .pending).setDieReg 0 0x11B 1).dieReg 0 0x11B) 0 2 = 1) ∧
    (let s := stepping [.pending] [nodeOf 7 []]
     s.nodeReady 0 0 7 = true ∧ ((⟨BitVec.ofNat 128 (bytesAt (s.nodeBytes 0 0) 16 16), true⟩ : Cap).rangeCheck 0 0 64).isSome = true) ∧
    ((stepping [.ended Status.ok] [nodeOf 1 []]).queue 0).run = some ⟨0x1000, 7, 0, [nodeOf 1 []], [.ended Status.ok]⟩ ∧
    ((stepping [.ended Status.ok] [nodeOf 1 []]).nodeOver 0 0 = some Status.ok ∧ (stepping [.closing Status.ok [(0, 3)]] [nodeOf 1 []]).nodeOver 0 0 = some Status.ok ∧
      (stepping [.running 7] [nodeOf 1 []]).nodeOver 0 0 = none) ∧
    (stepping [.ended Status.ok, .running 7] [nodeOf 1 [], nodeOf 1 []]).node 0 1 = some (.running 7) := by decide +kernel

/-- FIPS 180-4's example "abc", and the test vector of RFC 6979, A.2.5 (P-256, SHA-256, "sample"). -/
theorem test_sha256 :
    sha256 [0x61, 0x62, 0x63] = bytesBig 32 0xBA7816BF8F01CFEA414140DE5DAE2223B00361A396177A9CB410FF61F20015AD := by decide +kernel

theorem test_ecdsa :
    ecdsaSign 0xC9AFA9D845BA75166B5C215767B1D6934E50C3DB36E89B127B8A622B120F6721
        0xA6E3C57DD01ABE90086538398355DD4C3B17AA873382B0F24D6129493D8AAD60 [0x73, 0x61, 0x6D, 0x70, 0x6C, 0x65] =
      some (bytesBig 32 0xEFD48B2AACB6A8FD1140DD9CD45E81D69D2C877B56AAF991C34D0EA84EAF3716 ++
        bytesBig 32 0xF7CB1C942D657C41D436C7A1B6E29F65F3E900DBB9AFF4064DC4AB2F843ACDA8) := by decide +kernel

/-- An image of version `ver` for key slot `key` whose body is the byte 7, with a signature's second half. -/
def image0 (ver key s : Nat) : List Byte :=
  bytesOf 4 0x4B374657 ++ bytesOf 4 ver ++ bytesOf 4 1 ++ bytesOf 1 key ++ List.replicate 51 0 ++
    bytesBig 32 0xCA358758F6D27E6CF45272937977A748FD88391DB679CEDA7DC7BF1F005EE879 ++
    bytesBig 32 0xEFD48B2AACB6A8FD1140DD9CD45E81D69D2C877B56AAF991C34D0EA84EAF3716 ++ bytesBig 32 s ++ [7]

/-- Two images that were signed with the key of RFC 6979, A.2.5, outside this package. -/
def imageA : List Byte := image0 41 1 0x6A16FD8500C5A528C8373C6D7786915D7296AC9BD45F4E4FF11D09A080F3B63C
def imageB : List Byte := image0 40 2 0x38348242281790A6069806DAC159BCD4A823B181C91428788EF94EDE30ACC9C5

/-- The SHA-256 of that key. -/
def keyDigest : List Byte := bytesBig 32 0xB18B86CE1389E46DE87AA4A5131CE83C1160FA33C087AB15B863574D31D8FF3C

/-- 24_system.md: slot A's key has been revoked, slot B's has not. -/
def slotted : System :=
  { State.reset.sys with
    keyDigests := [none, some keyDigest, some keyDigest, none], keysRevoked := 2, slotA := some imageA, slotB := some imageB, rollback := 40,
    romKeys := [4 :: bytesBig 32 0x60FED4BA255A9D31C961EB74C6356D68C049B8923B61FA6CE669622E60F29FB6 ++
      bytesBig 32 0x7903FE1008B8BC99A41AE9E95628BC64F2F1B20C2D7E9F5177A3C294D4462299] }

theorem test_accepts : slotted.accepts imageB = true := by decide +kernel

theorem test_refuses : slotted.accepts imageA = false ∧ ({ slotted with rollback := 41, keysRevoked := 4 }).accepts imageB = false := by decide +kernel

theorem test_boot_slots : slotted.boot = some imageB := by
  simp [System.boot, show slotted.slotA = some imageA from rfl, show slotted.slotB = some imageB from rfl, test_accepts, test_refuses.1, Option.filter]

theorem witness_SystemSteps :
    (∀ p ∈ ([.row 1, .row 2, .row 3, .row 4, .row 5, .row 6, .recovery, .done] : List PowerStage), ({ State.reset with sys := { slotted with power := p } }).sys.power = p) ∧
    (∀ n ∈ [1, 2, 3, 4, 5, 6], let s := { State.reset with sys := { slotted with power := .row n } }
     s.rowLate = false ∧ (s.setDieReg 0 0x114 (BitVec.ofNat 64 (rowLimit n))).rowLate = false ∧
       (s.setDieReg 0 0x114 (BitVec.ofNat 64 (rowLimit n + 1))).rowLate = true) ∧
    State.reset.sys.boot = none ∧
    (State.reset.die0.allLeft = true ∧ State.reset.die1.allLeft = true ∧ State.reset.die0.inReset = false) ∧
    (let s := State.reset.setCore ⟨0, 0⟩ { State.reset.core ⟨0, 0⟩ with ctl := { (State.reset.core ⟨0, 0⟩).ctl with outOfReset := false } }
     s.die0.inReset = false ∧ ((List.range 128).find? fun n => !(s.die0.core n).ctl.outOfReset) = some 0 ∧ s.mayLeave 0 0 = true ∧
       (s.setDie 0 { s.die0 with start := { s.die0.start with since := 5 } }).mayLeave 0 0 = false ∧ s.ops = []) ∧
    (State.reset.sys.identity = some 0 ∧ State.reset.sys.attest = none ∧ State.reset.sys.resetting = false ∧ State.reset.sys.power ≠ .off) ∧
    (field State.reset.secalarm 5 2 = 0) ∧ State.reset.die0.inLocal 0x1000 8 = true ∧ backedEnd < backedEnd - 4 + 8 :=
  by decide +kernel

theorem witness_SystemSteps_memory : State.reset.die0.unheld (0x1000 / 128) := unheld_of _ _ (by decide +kernel)

/-- A step from the reset state with a word placed keeps the memories canonical, and the state before it has the form. -/
theorem witness_StepKeepsMemoryCanonical :
    (placed (.movi 0 1 5)).safe = true ∧ (match step (placed (.movi 0 1 5)) with | .next t => t.safe | _ => false) = true := by decide +kernel

end Sys2Proof.Tests
end

namespace Sys2Proof.Machine

/-! # Every step keeps the memories of the package canonical

One lemma for each function of the model that gives a state, in the order of the model's files: where the state it is given is sound, so is
the state it gives. Only the memory operations of `Laws/Memory`, the installation of a page's bytes and the resets touch a memory; every
other function keeps soundness because it calls functions that do, and its proof follows its branches. -/

/-! ## What it is for the memories of a die and of the package to be canonical -/

/-- The memories of a die are in canonical form: `Die.safe`, with its parts by name. -/
structure Die.Sound (d : Die) : Prop where
  mem : Memory.wf d.mem = true
  commons : Memory.wf d.commons = true

/-- The memories of the package are in canonical form: `State.safe`, with its parts by name. -/
structure State.Sound (s : State) : Prop where
  die0 : s.die0.Sound
  die1 : s.die1.Sound

theorem Die.safe_iff_sound (d : Die) : d.safe = true ↔ d.Sound := by
  simp only [Die.safe, Bool.and_eq_true]
  exact ⟨fun h => ⟨h.1, h.2⟩, fun h => ⟨h.mem, h.commons⟩⟩

theorem State.safe_iff_sound (s : State) : s.safe = true ↔ s.Sound := by
  simp only [State.safe, Bool.and_eq_true, Die.safe_iff_sound]
  exact ⟨fun h => ⟨h.1, h.2⟩, fun h => ⟨h.die0, h.die1⟩⟩

/-! The intermediate answers of the model carry a state: each is sound where the state that it carries is. -/

/-- An outcome's next state is sound. -/
def Lands : Host.Outcome State Fault Refusal → Prop
  | .next s => s.Sound
  | .fault _ => True
  | .refused _ => True

/-- The state that the effect of an instruction's body carries is sound. -/
def Eff.Sound : Eff → Prop
  | .retire s _ => s.Sound
  | .jump s _ _ => s.Sound
  | .block _ => True
  | .await s _ => s.Sound
  | .begun s _ => s.Sound
  | .fault _ => True
  | .abort s _ => s.Sound
  | .faultIn s _ => s.Sound
  | .sent s _ => s.Sound
  | .hold s _ => s.Sound
  | .stop s _ => s.Sound
  | .again s => s.Sound

/-- The state that the map unit's answer carries is sound. -/
def Ready.Sound : Ready → Prop
  | .ok s => s.Sound
  | .wait s _ => s.Sound
  | .later s => s.Sound
  | .fault s _ _ => s.Sound
  | .failed s _ _ => s.Sound
  | .need s _ => s.Sound

/-- The state that one side of a copy line carries is sound. -/
def Side.Sound : Side → Prop
  | .data s _ => s.Sound
  | .op s _ => s.Sound
  | .status s _ => s.Sound
  | .fault s _ _ _ => s.Sound
  | .wait s _ => s.Sound
  | .walk s => s.Sound

/-- The state that the choice of a fabric carries is sound. -/
def Fabric.Sound : Fabric → Prop
  | .chosen s _ => s.Sound
  | .walk s => s.Sound
  | .fault s _ _ => s.Sound

/-- The state that the Swath's turn carries is sound. -/
def SwathTurn.Sound : SwathTurn → Prop
  | .used s => s.Sound
  | .issue s => s.Sound

/-- The state that an optional answer carries is sound. -/
def MaybeSound : Option State → Prop
  | some s => s.Sound
  | none => True

/-- The state that comes with a further value is sound. -/
def PairSound {α : Type} (p : State × α) : Prop := p.1.Sound

section
variable {s t : State} {d e : Die} {α : Type}

theorem MaybeSound.of_eq {r r' : Option State} (h : MaybeSound r) (e : r = r') : MaybeSound r' := e ▸ h

/-- Where an optional answer is none, the state stays. -/
theorem MaybeSound.getD {o : Option State} (h : MaybeSound o) (hs : s.Sound) : (o.getD s).Sound := by
  cases o with
  | none => exact hs
  | some t => exact h

theorem State.Sound.of_eq {p : State × α} {a : α} (h : p.1.Sound) (e : p = (t, a)) : t.Sound := by
  subst e; exact h

theorem Die.Sound.of_eq {p : Die × α} {a : α} (h : p.1.Sound) (e : p = (d, a)) : d.Sound := by
  subst e; exact h

theorem Ready.Sound.of_eq {r r' : Ready} (h : r.Sound) (e : r = r') : r'.Sound := e ▸ h

theorem Ready.Sound.of_fst_eq {p : Ready × α} {r : Ready} {a : α} (h : p.1.Sound) (e : p = (r, a)) : r.Sound := by
  subst e; exact h

theorem Side.Sound.of_eq {r r' : Side} (h : r.Sound) (e : r = r') : r'.Sound := e ▸ h

theorem Fabric.Sound.of_eq {r r' : Fabric} (h : r.Sound) (e : r = r') : r'.Sound := e ▸ h

theorem SwathTurn.Sound.of_eq {r r' : SwathTurn} (h : r.Sound) (e : r = r') : r'.Sound := e ▸ h

theorem Eff.Sound.of_eq {r r' : Eff} (h : r.Sound) (e : r = r') : r'.Sound := e ▸ h

theorem Lands.of_eq {r r' : Host.Outcome State Fault Refusal} (h : Lands r) (e : r = r') : Lands r' := e ▸ h

/-! ## Dies and the package -/

/-- A change of anything but a die's memories. -/
theorem Die.Sound.same {poison csr cores tlb walkCache counts torus pool optical seqCache kvinvOps channels faults start window inReset}
    (h : d.Sound) : Die.Sound ⟨d.mem, poison, d.commons, csr, cores, tlb, walkCache, counts, torus, pool, optical, seqCache, kvinvOps, channels,
      faults, start, window, inReset⟩ :=
  ⟨h.mem, h.commons⟩

/-- A change of anything but the dies. -/
theorem State.Sound.same {ops nextOp invals sched sys cycle fresh agenda focus} (h : s.Sound) :
    State.Sound ⟨s.die0, s.die1, ops, nextOp, invals, sched, sys, cycle, fresh, agenda, focus⟩ :=
  ⟨h.die0, h.die1⟩

theorem State.Sound.die {i : DieId} (h : s.Sound) : (s.die i).Sound := by
  unfold State.die
  split
  · exact h.die0
  · exact h.die1

theorem State.Sound.setDie {i : DieId} (h : s.Sound) (hd : d.Sound) : (s.setDie i d).Sound := by
  unfold State.setDie
  split
  · exact ⟨hd, h.die1⟩
  · exact ⟨h.die0, hd⟩

theorem State.Sound.ite {c : Prop} [Decidable c] (hs : s.Sound) (ht : t.Sound) : (if c then s else t).Sound := by
  split
  · exact hs
  · exact ht

/-- A further change that is made, or not, after the others. -/
theorem State.Sound.thenIf {c : Prop} [Decidable c] (hs : s.Sound) (f : s.Sound → t.Sound) : (if c then t else s).Sound := (f hs).ite hs

theorem State.Sound.thenUnless {c : Prop} [Decidable c] (hs : s.Sound) (f : s.Sound → t.Sound) : (if c then s else t).Sound := hs.ite (f hs)

/-- A further change that reads the state that the others have left. -/
theorem State.Sound.andThen (hs : s.Sound) (f : s.Sound → t.Sound) : t.Sound := f hs

theorem Eff.Sound.ite {c : Prop} [Decidable c] {a b : Eff} (ha : a.Sound) (hb : b.Sound) : (if c then a else b).Sound := by
  split
  · exact ha
  · exact hb

/-- What one action keeps, its repetition over a list keeps. -/
theorem State.Sound.foldl {f : State → α → State} {l : List α} (h : s.Sound) (hf : ∀ {s : State} (a : α), s.Sound → (f s a).Sound) :
    (l.foldl f s).Sound := by
  induction l generalizing s with
  | nil => exact h
  | cons a l ih => exact ih (hf a h)

theorem State.Sound.foldl_fst {β : Type} {f : State × β → α → State × β} {l : List α} {r : State × β} (h : r.1.Sound)
    (hf : ∀ {r : State × β} (a : α), r.1.Sound → PairSound (f r a)) : (l.foldl f r).1.Sound := by
  induction l generalizing r with
  | nil => exact h
  | cons a l ih => exact ih (hf a h)

/-- A recursion over a list that carries a state and a number keeps the state sound where each of its steps does. -/
theorem PairSound.brecOn {n : Nat} {l : List α}
    {F : (l : List α) → List.below (motive := fun _ => State → Nat → State × Nat) l → State → Nat → State × Nat} (h : s.Sound)
    (hnil : ∀ {s n below}, s.Sound → PairSound (F [] below s n))
    (hcons : ∀ {s n a l below}, (∀ {s n}, s.Sound → PairSound (below.1 s n)) → s.Sound → PairSound (F (a :: l) below s n)) :
    PairSound (List.brecOn l F s n) := by
  induction l generalizing s n with
  | nil => exact hnil h
  | cons a l ih => exact hcons (below := (List.brecOn.go (a :: l) F).2) ih h

theorem State.Sound.reset : State.reset.Sound := ⟨⟨rfl, rfl⟩, ⟨rfl, rfl⟩⟩

/-- A memory operation of a die that keeps what Laws/Memory says is kept. -/
theorem Die.Keeps.sound (hk : d.Keeps e) (h : d.Sound) : e.Sound := ⟨hk.2 h.mem, hk.1.commons ▸ h.commons⟩

end

/-! ## What the functions of Machine/State keep -/

theorem Die.Sound.setCore {d : Die} {n c} (h : d.Sound) : (d.setCore n c).Sound := h.same

theorem State.Sound.setCore {s : State} {c x} (h : s.Sound) : (s.setCore c x).Sound := h.setDie h.die.setCore

theorem State.Sound.setStream {s : State} {i x} (h : s.Sound) : (s.setStream i x).Sound := h.setCore

theorem State.Sound.setCur {s : State} {c} (h : s.Sound) : (s.setCur c).Sound := h.setCore

theorem State.Sound.setMe {s : State} {x} (h : s.Sound) : (s.setMe x).Sound := h.setStream

theorem State.Sound.setDieReg {s : State} {d n v} (h : s.Sound) : (s.setDieReg d n v).Sound := h.setDie h.die.same

/-! ## What the functions of Machine/Memory keep -/

theorem Die.Sound.sliceRead {d : Die} {a n : Nat} (h : d.Sound) : (d.sliceRead a n).1.Sound := (Die.keeps_sliceRead ..).sound h

theorem Die.Sound.sliceWrite {d : Die} {a : Nat} {bs : List Byte} (h : d.Sound) : (d.sliceWrite a bs).1.Sound :=
  (Die.keeps_sliceWrite ..).sound h

theorem Die.Sound.sliceRmw {d : Die} {a n : Nat} {f : Nat → Option Nat} (h : d.Sound) : (d.sliceRmw a n f).1.Sound :=
  (Die.keeps_sliceRmw ..).sound h

theorem Die.Sound.l1Read {d : Die} {core a n : Nat} (h : d.Sound) : (d.l1Read core a n).1.Sound := (Die.keeps_l1Read ..).sound h

theorem Die.Sound.l1Write {d : Die} {core a : Nat} {bs : List Byte} (h : d.Sound) : (d.l1Write core a bs).1.Sound :=
  (Die.keeps_l1Write ..).sound h

theorem Die.Sound.poke {d : Die} {a : Nat} {bs : List Byte} (h : d.Sound) : (d.poke a bs).Sound := (Die.keeps_poke ..).sound h

/-! ## What the functions of Machine/Ops keep -/

theorem State.Sound.setX {s : State} {n v} (h : s.Sound) : (s.setX n v).Sound := h.setMe

theorem State.Sound.setSteer {s : State} {n v} (h : s.Sound) : (s.setSteer n v).Sound := h.setMe

theorem State.Sound.setCond {s : State} {n c} (h : s.Sound) : (s.setCond n c).Sound := h.setSteer

theorem State.Sound.setCap {s : State} {n c} (h : s.Sound) : (s.setCap n c).Sound := h.setCur

theorem State.Sound.setMask {s : State} {n v} (h : s.Sound) : (s.setMask n v).Sound := h.ite h.setCur

theorem State.Sound.note {s : State} {n} (h : s.Sound) : (s.note n).Sound := h.same

theorem State.Sound.count {s : State} {d n k} (h : s.Sound) : (s.count d n k).Sound := h.setDieReg

theorem State.Sound.setFaults {s : State} {d q} (h : s.Sound) : (s.setFaults d q).Sound := h.setDie h.die.same

theorem State.Sound.pokeDie {s : State} {d a bs} (h : s.Sound) : (s.pokeDie d a bs).Sound := h.setDie h.die.poke

theorem State.Sound.writeEntry {s : State} {d e} (h : s.Sound) : (s.writeEntry d e).Sound :=
  (h.pokeDie.setFaults.setDieReg.thenIf (·.note)).thenIf (·.note)

theorem State.Sound.post {s : State} {d e} (h : s.Sound) : (s.post d e).Sound :=
  h.count.ite ((h.setFaults.writeEntry.thenIf (·.count)).ite h.setFaults.setFaults.count)

theorem State.Sound.takeFault {s : State} {i f} (h : s.Sound) : (s.takeFault i f).Sound := h.setStream.post

theorem State.Sound.postNote {s : State} {i f} (h : s.Sound) : (s.postNote i f).Sound := h.post

theorem State.Sound.signal {s : State} {i next prev also} (h : s.Sound) : (s.signal i next prev also).Sound :=
  (h.setCore.ite h.setStream).ite h

theorem State.Sound.settle {s : State} {i op} (h : s.Sound) : (s.settle i op).Sound := h.setStream.foldl (fun _ hs => hs.setCore)

theorem State.Sound.postClasses {s : State} {i due} (h : s.Sound) : (s.postClasses i due).Sound := h.foldl (fun _ hs => hs.postNote)

theorem State.Sound.retireFlags {s : State} {i cs} (h : s.Sound) : (s.retireFlags i cs).Sound := h.setStream.postClasses.setStream

theorem State.Sound.setPc {s : State} {i pc st} (h : s.Sound) : (s.setPc i pc st).Sound := h.setStream

theorem State.Sound.retire {s : State} {i width cs} (h : s.Sound) : (s.retire i width cs).Sound := h.retireFlags.setPc

theorem State.Sound.take {s : State} {y} (h : s.Sound) : (s.take y).Sound := h.setMe

theorem State.Sound.awake {s : State} (h : s.Sound) : s.awake.Sound := h.setMe

theorem State.Sound.blocked {s : State} {w} (h : s.Sound) : (s.blocked w).Sound := h.setMe

theorem sound_finish {s0 : State} {i} {a : Eff} (hs0 : s0.Sound) (ha : a.Sound) : (finish s0 i a).Sound := by
  unfold finish
  split
  · exact (State.Sound.awake ha).retire.signal
  · exact (State.Sound.awake ha).retireFlags.setPc.signal
  · exact hs0.blocked
  · exact State.Sound.setMe ha
  · exact State.Sound.setMe ha
  · exact hs0.takeFault
  · exact (State.Sound.setMe ha).takeFault
  · exact State.Sound.takeFault ha
  · exact (State.Sound.awake ha).retire.signal
  · exact State.Sound.setMe ha
  · exact State.Sound.setMe ha
  · exact State.Sound.awake ha

theorem State.Sound.issue {s : State} {i} {body : State → Eff} (h : s.Sound) (hbody : ∀ {x0 : State}, x0.Sound → (body x0).Sound) :
    Lands (s.issue i body) := by
  unfold State.issue
  split
  · exact h.takeFault
  split
  · exact h
  split
  · exact h.blocked
  split
  · exact h.blocked
  next e => exact ((hbody h.take).of_eq e : State.Sound _).setMe
  · exact h.takeFault
  next e => exact ((hbody h.take).of_eq e : State.Sound _).setMe.takeFault
  · dsimp only
    split
    · split
      · exact sound_finish h.setCur (hbody h.setCur.take)
      · exact h.setMe
    · exact sound_finish h (hbody h.take)

theorem State.Sound.acknowledge {s : State} {d f n want} (h : s.Sound) : (s.acknowledge d f n want).Sound := h.setDie h.die.same

theorem State.Sound.resumeAfter {s : State} {i} (h : s.Sound) : (s.resumeAfter i).Sound := by
  unfold State.resumeAfter
  dsimp only
  split
  · exact h.setStream.retire.signal
  · exact h.setStream.retire

theorem State.Sound.restart {s : State} {i e} (h : s.Sound) : (s.restart i e).Sound :=
  ((h.thenIf (·.setCore)).thenUnless (·.setCore)).andThen fun hs => hs.resumeAfter.ite hs.setStream

/-! ## What the functions of Machine/Torus keep -/

theorem State.Sound.otherSplit {s : State} {num gib} (h : s.Sound) : (s.otherSplit num gib).Sound :=
  h.ite (h.foldl (fun _ hs => hs.setDie hs.die.same))

theorem State.Sound.setPeer {s : State} {d n v} (h : s.Sound) : (s.setPeer d n v).Sound := h.setDie h.die.same

theorem State.Sound.inject {s : State} {d p} (h : s.Sound) : (s.inject d p).Sound := by
  unfold State.inject
  split
  · exact h.setDie h.die.same
  · exact h.note
  · exact h.setDie h.die.same
  · exact h

/-! ## What the functions of Machine/Remote keep -/

theorem State.Sound.countAccess {s : State} {d asid va target} (h : s.Sound) : (s.countAccess d asid va target).Sound :=
  h.ite (h.ite ((h.setDie h.die.same).post.ite (h.setDie h.die.same)))

theorem State.Sound.setDest {s : State} {d src n v} (h : s.Sound) : (s.setDest d src n v).Sound := h.setDie h.die.same

theorem State.Sound.adopt {s : State} {d src n g} (h : s.Sound) : (s.adopt d src n g).1.Sound := by
  unfold State.adopt
  dsimp only
  split
  · exact h
  split
  · exact h.setDest
  · exact h.count

theorem State.Sound.countUp {s : State} {bits v} (h : s.Sound) : (s.countUp bits v).1.Sound := by
  unfold State.countUp
  split
  · exact h
  · exact h.same

theorem State.Sound.setSource {s : State} {d n v} (h : s.Sound) : (s.setSource d n v).Sound := h.setDie h.die.same

theorem State.Sound.oweReset {s : State} {op part} (h : s.Sound) : (s.oweReset op part).Sound := by
  unfold State.oweReset
  split
  · exact h
  split
  · exact h.setSource
  · exact h

theorem State.Sound.partDone {s : State} {op part st} (h : s.Sound) : (s.partDone op part st).Sound := (h.ite h.oweReset).same

theorem State.Sound.partData {s : State} {op part bs} (h : s.Sound) : (s.partData op part bs).Sound := h.same

theorem State.Sound.complete {s : State} {d tag st bs} (h : s.Sound) : (s.complete d tag st bs).Sound := by
  unfold State.complete
  split
  · exact h
  · exact (((h.setDie h.die.same).thenIf (·.partData)).thenIf (·.count)).partDone

theorem State.Sound.dropStale {s : State} {d target inc} (h : s.Sound) : (s.dropStale d target inc).Sound := h.setDie h.die.same

theorem State.Sound.takeReply {s : State} {d p} (h : s.Sound) : (s.takeReply d p).Sound := by
  unfold State.takeReply
  dsimp only
  split
  · exact h.setPeer.count
  · exact h.setPeer.count.ite (h.setPeer.thenIf (·.dropStale)).complete

theorem State.Sound.sendReply {s : State} {d q st bs} (h : s.Sound) : (s.sendReply d q st bs).Sound := by
  unfold State.sendReply
  dsimp only
  split
  · exact h.takeReply
  · exact h.takeReply
  · exact h.inject
  · exact h

theorem State.Sound.performFlag {s : State} {d p} (h : s.Sound) : (s.performFlag d p).Sound := by
  unfold State.performFlag
  dsimp only
  exact h.setDest.sendReply.ite (h.setDest.setDie h.setDest.die.sliceRmw).sendReply

theorem State.Sound.releaseFlags {s : State} {d src n} (h : s.Sound) : (s.releaseFlags d src n).Sound :=
  h.setDest.foldl (fun _ hs => hs.performFlag)

theorem State.Sound.flagArrives {s : State} {d p} (h : s.Sound) : (s.flagArrives d p).Sound :=
  h.sendReply.ite (h.adopt.ite (h.adopt.performFlag.ite h.adopt.setDest))

theorem State.Sound.countWrite {s : State} {d src n phase} (h : s.Sound) : (s.countWrite d src n phase).Sound :=
  h.countUp.setDest.releaseFlags

theorem State.Sound.unspecified {s : State} {bits} (h : s.Sound) : (s.unspecified bits).1.Sound := h.same

theorem State.Sound.flagCount {s : State} {d n} (h : s.Sound) : (s.flagCount d n).1.Sound := by
  unfold State.flagCount
  split
  · exact h.unspecified
  · exact h

theorem State.Sound.issueCounted {s : State} {d n} (h : s.Sound) : (s.issueCounted d n).Sound := h.countUp.setSource

theorem State.Sound.resetSource {s : State} {d n} (h : s.Sound) : (s.resetSource d n).Sound := h.setSource

/-! ## What the functions of Machine/Request keep -/

theorem Die.Sound.atSlice {d : Die} {req a n bs} (h : d.Sound) : (d.atSlice req a n bs).1.Sound := by
  unfold Die.atSlice
  dsimp only
  split
  · exact h.sliceRead
  · exact h.sliceWrite
  · exact h.sliceRmw
  · exact h.sliceRmw
  · exact h
  · exact h
  · exact h

theorem Die.Sound.atCore {d : Die} {core req a n bs} (h : d.Sound) : (d.atCore core req a n bs).1.Sound := by
  unfold Die.atCore
  dsimp only
  split
  · exact h.l1Read
  · exact h.l1Write
  · exact h.atSlice

theorem State.Sound.addOp {s : State} {o} (h : s.Sound) : (s.addOp o).1.Sound := h.same

theorem State.Sound.dropOp {s : State} {id} (h : s.Sound) : (s.dropOp id).Sound := h.same

theorem State.Sound.setOp {s : State} {o} (h : s.Sound) : (s.setOp o).Sound := h.same

theorem State.Sound.takeTag {s : State} {d tag op part target port} (h : s.Sound) : (s.takeTag d tag op part target port).Sound :=
  (h.setDie h.die.same).same

theorem State.Sound.countPart {s : State} {o p} (h : s.Sound) : (s.countPart o p).Sound := h.countAccess.ite h

theorem Die.Sound.overRuns {f : Die → Nat → Nat → List Byte → Die × Status × List Byte} {p bs runs} {d : Die} (h : d.Sound)
    (hf : ∀ {d : Die} {a n bs}, d.Sound → (f d a n bs).1.Sound) : (Die.overRuns f p bs runs d).1.Sound := by
  induction runs generalizing d with
  | nil => exact h
  | cons r t ih => exact ih (hf h)

theorem Die.Sound.doPart {x : Die} {o own p bs} (h : x.Sound) : (x.doPart o own p bs).1.Sound := by
  unfold Die.doPart
  dsimp only
  split
  · split
    · exact h.atCore
    · exact h.atSlice
  · refine h.overRuns (fun ht => ?_)
    split
    · exact ht.atCore
    · exact ht.atSlice

theorem State.Sound.partAt {s : State} {o k p t} (h : s.Sound) : (s.partAt o k p t).Sound := by
  unfold State.partAt
  extract_lets
  split
  next take s' e =>
  have hs : s'.Sound := by
    split at e
    · cases e
      exact h.adopt
    · cases e
      exact h
  refine hs.partDone.ite ?_
  split
  next e' =>
  extract_lets s1 s2 s3
  have h1 : s1.Sound := hs.setDie (hs.die.doPart.of_eq e')
  have h3 : s3.Sound := (h1.thenIf (·.partData)).partDone
  split
  · exact h3.thenIf (·.countWrite)
  · exact h3

theorem State.Sound.issued {s : State} {d p} (h : s.Sound) : (s.issued d p).Sound := by
  unfold State.issued
  split
  · exact h.issueCounted
  · exact h

theorem State.Sound.sendPart {s : State} {o k p port} (h : s.Sound) : (s.sendPart o k p port).Sound := by
  unfold State.sendPart
  dsimp only
  split
  · exact h
  split
  · exact h.issued.countPart.takeTag.note
  · exact h.issued.countPart.takeTag.inject

theorem State.Sound.doPart {s : State} {o k p} (h : s.Sound) : (s.doPart o k p).Sound := by
  unfold State.doPart
  dsimp only
  split
  · exact h.partDone.ite (h.issued.count.partDone.ite h.issued.countPart.setPeer.dropStale.partDone)
  split
  · exact h.issued.partAt
  · exact h.ite h.issued.countPart.setPeer.partAt
  · exact h.sendPart

theorem State.Sound.tryPart {s : State} {id k} (h : s.Sound) : (s.tryPart id k).Sound := by
  unfold State.tryPart
  split
  · exact h
  split
  · exact h
  · exact h.doPart.ite h

theorem State.Sound.endParts {s : State} {o own} (h : s.Sound) : (s.endParts o own).Sound :=
  h.foldl (fun _ ht => ht.ite (ht.doPart.ite ht.partDone))

theorem State.Sound.performStore {s : State} {o} (h : s.Sound) : (s.performStore o).Sound := by
  unfold State.performStore
  dsimp only
  split
  · exact h.endParts
  split
  · exact h
  split
  · exact h.endParts
  split
  · exact h
  split
  · exact h.tryPart
  · exact h.foldl (fun _ hs => hs.tryPart)

theorem State.Sound.performOp {s : State} {id} (h : s.Sound) : (s.performOp id).Sound := by
  unfold State.performOp
  split
  · exact h
  · exact h.performStore.ite (h.endParts.ite (h.foldl (fun _ hs => hs.tryPart)))

theorem State.Sound.pump {s : State} {d} (h : s.Sound) : (s.pump d).Sound := h.foldl (fun _ hs => hs.performOp)

/-! ## What the functions of Machine/Xlate keep -/

theorem State.Sound.walkerSend {s : State} {w got req die a n} (h : s.Sound) : (s.walkerSend w got req die a n).Sound := h.addOp.performOp

theorem State.Sound.readTable {s : State} {w got pa n} (h : s.Sound) : (s.readTable w got pa n).1.Sound := by
  unfold State.readTable
  dsimp only
  split
  · exact h
  split
  · exact h.count
  · split
    · exact h
    · split
      · exact h.walkerSend
      · exact h
    · exact h.walkerSend.ite h.walkerSend
  · exact h.setDie h.die.sliceRead

theorem State.Sound.asidEntry {s : State} {w} (h : s.Sound) : (s.asidEntry w).1.Sound := h.readTable

theorem State.Sound.setAccessed {s : State} {w got pa} (h : s.Sound) : (s.setAccessed w got pa).1.Sound := by
  unfold State.setAccessed
  dsimp only
  split
  · exact h.setDie h.die.sliceRmw
  · exact h.setDie h.die.sliceRmw
  split
  · exact h
  · exact h.walkerSend

theorem State.Sound.cacheTable {s : State} {d w} (h : s.Sound) : (s.cacheTable d w).Sound := h.ite (h.setDie h.die.same)

theorem State.Sound.walkFrom {w got fuel} {s : State} {t} (h : s.Sound) : (State.walkFrom w got fuel s t).1.Sound := by
  induction fuel generalizing s t with
  | zero => exact h
  | succ fuel ih =>
    unfold State.walkFrom
    dsimp only
    split
    next e => exact h.readTable.of_eq e
    next e => exact h.readTable.of_eq e
    next e =>
      have hs := h.readTable.of_eq e
      split
      · exact hs
      split
      · exact hs
      split
      · split
        · exact hs
        split
        · exact hs
        · exact ih hs.cacheTable
      · split
        · split
          · exact hs
          split
          next e' => exact hs.setAccessed.of_eq e'
          next e' => exact hs.setAccessed.of_eq e'
        · exact hs

theorem State.Sound.recordInc {s : State} {w got e} (h : s.Sound) : (s.recordInc w got e).1.Sound := by
  unfold State.recordInc
  dsimp only
  split
  · exact h
  split
  · exact h.setPeer
  · split
    · exact h
    · exact h.walkerSend
  · exact h.count
  · exact h

/-- The definition is unfolded as a function and then applied: the kernel compares a call with a `match` by evaluating what is matched, and
the walk of a table does not evaluate. The pair is kept behind `PairSound` for the same reason. -/
theorem State.Sound.walkWith {s : State} {w got} (h : s.Sound) : (s.walkWith w got).1.Sound := by
  change PairSound _
  generalize hf : @State.walkWith = f
  delta State.walkWith at hf
  subst hf
  beta_reduce
  split
  · next e => exact h.asidEntry.of_eq e
  · next e => exact h.asidEntry.of_eq e
  · next e =>
    have hs : State.Sound _ := h.asidEntry.of_eq e
    split
    · exact hs
    · split
      · exact hs
      · split
        split
        · next e' => exact (hs.walkFrom.of_eq e').recordInc
        · exact hs.walkFrom

theorem State.Sound.walk {s : State} {w} (h : s.Sound) : (s.walk w).1.Sound := h.count.walkWith

theorem State.Sound.install {s : State} {c e} (h : s.Sound) : (s.install c e).Sound := (h.setDie h.die.same).setCore

theorem State.Sound.discard {s : State} {c e} (h : s.Sound) : (s.discard c e).Sound := (h.setDie h.die.same).setCore

theorem State.Sound.holdEntry {s : State} {w e} (h : s.Sound) : (s.holdEntry w e).Sound := (h.setDie h.die.same).ite h.install

theorem State.Sound.held {w} {p : State × Xres} (h : p.1.Sound) : (State.held w p).1.Sound := by
  unfold State.held
  split
  · exact State.Sound.holdEntry h
  · exact h

theorem sound_checked {write program} {p : State × Xres} (h : p.1.Sound) : (checked write program p).1.Sound := by
  unfold checked
  split
  · exact h
  · exact h

theorem State.Sound.putWalked {s : State} {w r} (h : s.Sound) : (s.putWalked w r).Sound := h.same.ite h.setCore

theorem State.Sound.takeWalked {s : State} {w} (h : s.Sound) : (s.takeWalked w).1.Sound := by
  unfold State.takeWalked
  dsimp only
  split
  · split
    · exact h.same
    · exact h
  · split
    · exact h.setCore
    · exact h

theorem State.Sound.dropEntry {s : State} {w e} (h : s.Sound) : (s.dropEntry w e).Sound := (h.setDie h.die.same).ite h.discard

theorem State.Sound.lookup {s : State} {w} (h : s.Sound) : (s.lookup w).1.Sound := by
  unfold State.lookup
  dsimp only
  split
  · exact h
  split
  · exact h
  split
  · exact h.install
  · exact h

theorem State.Sound.translateFor {s : State} {w write program} (h : s.Sound) : (s.translateFor w write program).1.Sound := by
  unfold State.translateFor
  dsimp only
  split
  · exact h
  split
  next e =>
    have hs := h.takeWalked.of_eq e
    exact sound_checked hs
  next e =>
    have hs := h.takeWalked.of_eq e
    split
    · exact hs
    split
    next e' =>
      have hs' := hs.lookup.of_eq e'
      split
      · exact hs'
      · exact sound_checked hs'.dropEntry.walk.held
    next e' =>
      have hs' := hs.lookup.of_eq e'
      exact sound_checked hs'.count.walk.held

theorem State.Sound.translate {s : State} {c who asid va write program} (h : s.Sound) :
    (s.translate c who asid va write program).1.Sound :=
  h.translateFor

theorem State.Sound.translateCp {s : State} {d who asid va write} (h : s.Sound) : (s.translateCp d who asid va write).1.Sound :=
  h.translateFor

theorem State.Sound.walkOn {s : State} {o} (h : s.Sound) : (s.walkOn o).Sound := by
  unfold State.walkOn
  split
  · extract_lets w s1 r
    have hr : r.1.Sound := by
      dsimp only [r]
      split
      · exact h.dropOp.walk
      · exact h.dropOp.walkWith
    split
    next e => exact hr.held.of_eq e
    next e => exact (hr.held.of_eq e).putWalked
    next e => exact (hr.held.of_eq e).putWalked
  · exact h

theorem lands_execPageWalk {core va asid} {s : State} (h : s.Sound) : Lands (execPageWalk core va asid s) :=
  h.foldl (fun _ hs => hs.walkOn)

/-! ## What the functions of Machine/Access keep -/

theorem State.Sound.plan {s : State} {c who asid write program fs l} (h : s.Sound) : (s.plan c who asid write program fs l).1.Sound := by
  induction l generalizing s with
  | nil => exact h
  | cons x l ih =>
    unfold State.plan
    dsimp only
    split
    next e => exact h.translate.of_eq e
    next e => exact h.translate.of_eq e
    next e =>
      have hs := h.translate.of_eq e
      split
      next e' => exact (ih hs).of_eq e'
      · exact ih hs

theorem State.Sound.sendOp {s : State} {o} (h : s.Sound) : (s.sendOp o).Sound := by
  unfold State.sendOp
  split
  next e =>
    have hs := h.addOp.of_eq e
    dsimp only
    split
    · exact hs.setMe.performOp
    · exact hs.setMe.performOp

theorem State.Sound.accessWith {s : State} {ps release o merge} {prep : State → State} (h : s.Sound)
    (hprep : ∀ {x0 : State}, x0.Sound → (prep x0).Sound) :
    (s.accessWith ps release o merge prep).Sound := by
  unfold State.accessWith
  split
  next e => exact h.plan.of_eq e
  next e => exact h.plan.of_eq e
  next e =>
    have ht := h.plan.of_eq e
    dsimp only
    split
    · exact ht
    · exact (hprep ht).sendOp

theorem State.Sound.access {s : State} {ps release o} (h : s.Sound) : (s.access ps release o).Sound := h.accessWith (fun ht => ht)

theorem sound_loadBody {d b z o off p plain} {s : State} (h : s.Sound) : (loadBody d b z o off p plain s).Sound := h.access

theorem sound_storeBody {d b z o off p plain} {s : State} (h : s.Sound) : (storeBody d b z o off p plain s).Sound := h.access

theorem lands_execLd {sy d b z o f} {s : State} (h : s.Sound) : Lands (execLd sy d b z o f s) := h.issue (fun ht => sound_loadBody ht)

theorem lands_execLdS {sy d b z o p} {s : State} (h : s.Sound) : Lands (execLdS sy d b z o p s) := h.issue (fun ht => sound_loadBody ht)

theorem lands_execSt {sy d b z o f} {s : State} (h : s.Sound) : Lands (execSt sy d b z o f s) := h.issue (fun ht => sound_storeBody ht)

theorem lands_execStS {sy d b z o p} {s : State} (h : s.Sound) : Lands (execStS sy d b z o p s) := h.issue (fun ht => sound_storeBody ht)

theorem lands_execCompactLd {d a} {s : State} (h : s.Sound) : Lands (execCompactLd d a s) := h.issue (fun ht => sound_loadBody ht)

theorem lands_execCompactSt {d a} {s : State} (h : s.Sound) : Lands (execCompactSt d a s) := h.issue (fun ht => sound_storeBody ht)

theorem lands_execLdq {sy q b z o p} {s : State} (h : s.Sound) : Lands (execLdq sy q b z o p s) := by
  unfold execLdq
  refine h.issue (fun hs => ?_)
  dsimp only
  split
  · trivial
  · exact hs.accessWith (fun ht => ht.setCur)

theorem sound_atomicBody {n pair o p req} {s : State} (h : s.Sound) : (atomicBody n pair o p req s).Sound := by
  unfold atomicBody
  dsimp only
  split
  · trivial
  · exact h.access

theorem lands_execAmo {sy r c o p} {s : State} (h : s.Sound) : Lands (execAmo sy r c o p s) := h.issue (fun hs => sound_atomicBody hs)

theorem lands_execCas {sy r n z o p} {s : State} (h : s.Sound) : Lands (execCas sy r n z o p s) := h.issue (fun hs => sound_atomicBody hs)

theorem lands_execFence {sy o u} {s : State} (h : s.Sound) : Lands (execFence sy o u s) := by
  unfold execFence
  refine h.issue (fun hs => ?_)
  split
  · split
    · exact hs
    · trivial
  · split
    · exact hs
    · trivial

/-! ## What the functions of Machine/Store keep -/

theorem State.Sound.planLine {s : State} {w write l} (h : s.Sound) : (s.planLine w write l).1.Sound := by
  unfold State.planLine
  dsimp only
  split
  · exact h
  split
  · exact h
  split
  next e => exact h.plan.of_eq e
  next e => exact h.plan.of_eq e
  next e =>
    have ht := h.plan.of_eq e
    split
    · exact ht
    · exact ht

theorem State.Sound.sendLine {s : State} {w write l ps} (h : s.Sound) : (s.sendLine w write l ps).Sound := h.setCore.addOp.performOp

theorem State.Sound.startFill {s : State} {w l} (h : s.Sound) : (s.startFill w l).Sound := by
  unfold State.startFill
  split
  next e =>
    have hs : State.Sound _ := h.planLine.of_fst_eq e
    exact hs.sendLine
  next e => exact h.planLine.of_fst_eq e

theorem State.Sound.readyLines {w} {s : State} {ls} (h : s.Sound) : (State.readyLines w s ls).Sound := by
  induction ls generalizing s with
  | nil => exact h
  | cons l ls ih =>
    unfold State.readyLines
    split
    · exact h.startFill
    · exact h
    · exact ih h

theorem State.Sound.focusLines {s : State} {ls} (h : s.Sound) : (s.focusLines ls).Sound := by
  unfold State.focusLines
  split
  · split
    · exact h
    · exact h.readyLines
  · exact h.readyLines

theorem State.Sound.spadWrite {s : State} {c a bs} (h : s.Sound) : (s.spadWrite c a bs).Sound := h.setCore

theorem State.Sound.untransFault {s : State} {f} (h : s.Sound) : (s.untransFault f).Sound := h.count.ite h

theorem State.Sound.untransReady {s : State} {a n} (h : s.Sound) : (s.untransReady a n).Sound := by
  unfold State.untransReady
  split
  · exact h.focusLines
  · exact h

theorem State.Sound.untransWrite {s : State} {c a bs} (h : s.Sound) : (s.untransWrite c a bs).Sound :=
  h.spadWrite.ite (h.setDie ⟨h.die.mem, wf_writeBytes h.die.commons _ _⟩)

theorem State.Sound.setP {s : State} {p st} (h : s.Sound) : (s.setP p st).Sound := h.setMe

theorem State.Sound.failWith {s : State} {p addr st} (h : s.Sound) : (s.failWith p addr st).Sound := by
  unfold State.failWith
  split
  · exact h
  · exact h.setP

theorem Ready.Sound.andThen {r : Ready} {p} {f : State → Eff} (h : r.Sound) (hf : ∀ {x0 : State}, x0.Sound → (f x0).Sound) :
    (r.andThen p f).Sound := by
  unfold Ready.andThen
  split
  · exact hf h
  · exact h
  · exact h
  · exact h
  · exact State.Sound.failWith h
  · exact h

theorem lands_execLds {sy d b z o p} {s : State} (h : s.Sound) : Lands (execLds sy d b z o p s) := by
  unfold execLds
  refine h.issue (fun hs => ?_)
  dsimp only
  split
  · exact hs.untransFault
  split
  · trivial
  · exact hs.untransReady.andThen (fun hs' => hs'.setX.setP)

theorem lands_execSts {sy d b z o p} {s : State} (h : s.Sound) : Lands (execSts sy d b z o p s) := by
  unfold execSts
  refine h.issue (fun hs => ?_)
  dsimp only
  split
  · exact hs.untransFault
  split
  · trivial
  · exact hs.untransReady.andThen (fun hs' => hs'.untransWrite.setP)

theorem State.Sound.planLines {w from_ write} {s : State} {ls} (h : s.Sound) : (State.planLines w from_ write s ls).1.Sound := by
  induction ls generalizing s with
  | nil => exact h
  | cons l ls ih =>
    unfold State.planLines
    dsimp only
    split
    · split
      next e =>
        have hs : State.Sound _ := h.planLine.of_fst_eq e
        exact ih hs
      next e => exact h.planLine.of_fst_eq e
    · exact ih h

theorem State.Sound.startAll {s : State} {from_ write ls} (h : s.Sound) : (s.startAll from_ write ls).Sound := by
  unfold State.startAll
  split
  next e =>
    have ht : State.Sound _ := h.planLines.of_fst_eq e
    exact ht.foldl (fun _ ht' => ht'.sendLine)
  next e => exact h.planLines.of_fst_eq e

theorem State.Sound.sendLines {s : State} {p va back rel ls} (h : s.Sound) : (s.sendLines p va back rel ls).Sound := h.sendOp

theorem lands_execRmap {sy n a p} {s : State} (h : s.Sound) : Lands (execRmap sy n a p s) := by
  unfold execRmap
  refine h.issue (fun hs => ?_)
  dsimp only
  split
  · trivial
  split
  · trivial
  · exact hs.startAll.andThen (fun hs' => hs'.sendLines)

theorem lands_execRflush {sy n a o p} {s : State} (h : s.Sound) : Lands (execRflush sy n a o p s) := by
  unfold execRflush
  refine h.issue (fun hs => ?_)
  dsimp only
  split
  · trivial
  split
  · trivial
  · exact hs.startAll.andThen (fun hs' => hs'.sendLines)

theorem lands_execRinv {sy n a} {s : State} (h : s.Sound) : Lands (execRinv sy n a s) := by
  unfold execRinv
  refine h.issue (fun hs => ?_)
  dsimp only
  split
  · trivial
  split
  · trivial
  · exact hs.setCur

theorem State.Sound.markEvictions {s : State} {first} (h : s.Sound) : (s.markEvictions first).Sound := h.same

theorem lands_execRcfgRegion {sy n a b} {s : State} (h : s.Sound) : Lands (execRcfgRegion sy n a b s) := by
  unfold execRcfgRegion
  refine h.issue (fun hs => ?_)
  dsimp only
  split
  · trivial
  split
  · exact hs
  split
  · trivial
  refine hs.startAll.andThen (fun ht => ?_)
  split
  · exact ht.markEvictions
  · exact ht.markEvictions.setCur

theorem State.Sound.lineDone {s : State} {c l back st} (h : s.Sound) : (s.lineDone c l back st).Sound := h.same

theorem State.Sound.failStream {s : State} {i l va st} (h : s.Sound) : (s.failStream i l va st).Sound := h.setStream.ite h

theorem State.Sound.wakeLine {s : State} {i l} (h : s.Sound) : (s.wakeLine i l).Sound := h.setStream.ite h

theorem lands_execMuFillComplete {core line} {s : State} (h : s.Sound) : Lands (execMuFillComplete core line s) := by
  unfold execMuFillComplete
  split
  · exact h
  split
  · exact h
  dsimp only
  split
  · exact (h.dropOp.setCore.foldl (fun _ hs => hs.wakeLine)).lineDone.settle
  · exact (h.dropOp.setCore.lineDone.foldl (fun _ hs => hs.failStream)).settle.andThen fun hs => hs.setDie hs.die.same

theorem lands_execMuWritebackComplete {core line} {s : State} (h : s.Sound) : Lands (execMuWritebackComplete core line s) := by
  unfold execMuWritebackComplete
  split
  · exact h
  split
  · exact h
  dsimp only
  split
  · exact h.dropOp.lineDone.settle.setCore
  · exact (h.dropOp.lineDone.settle.thenIf (·.setCore)).thenIf (·.takeFault)

/-! ## What the functions of Machine/Pool keep -/

theorem State.Sound.dropSeq {s : State} {obj} (h : s.Sound) : (s.dropSeq obj).Sound :=
  (h.setDie h.die0.same).andThen fun hs => hs.setDie hs.die1.same

theorem State.Sound.setLease {s : State} {d f l} (h : s.Sound) : (s.setLease d f l).Sound :=
  ((h.setDie h.die.same).thenIf (·.dropSeq)).thenIf (·.count)

theorem State.Sound.pumpFrom {d} {s : State} {left rs} (h : s.Sound) : (State.pumpFrom d s left rs).Sound := by
  induction rs generalizing s left with
  | nil => exact h.setDie h.die.same
  | cons r rs ih =>
    unfold State.pumpFrom
    dsimp only
    split
    · exact (ih h).ite (ih (h.setDie h.die.same))
    · exact ih h

theorem State.Sound.pumpPool {s : State} {d} (h : s.Sound) : (s.pumpPool d).Sound := h.pumpFrom

theorem State.Sound.poolSend {s : State} {d r} (h : s.Sound) : (s.poolSend d r).Sound := (h.setDie h.die.same).pumpPool

theorem State.Sound.setTask {s : State} {op k st} (h : s.Sound) : (s.setTask op k st).Sound := h.same

theorem State.Sound.endTask {s : State} {op st} (h : s.Sound) : (s.endTask op st).Sound := by
  unfold State.endTask
  split
  · exact h
  · exact h.setTask

theorem State.Sound.failPage {s : State} {obj pidx st starter} (h : s.Sound) : (s.failPage obj pidx st starter).Sound := h.same

theorem State.Sound.failSettled {s : State} {obj pidx st} (h : s.Sound) : (s.failSettled obj pidx st).Sound := h.same

theorem State.Sound.allocated {s : State} {obj pidx} (h : s.Sound) : (s.allocated obj pidx).Sound := h.same

/-- Unfolded as `walkWith` is: the search for a free frame does not evaluate. -/
theorem State.Sound.fillPage {s : State} {obj pidx leaf x cap op pf} (h : s.Sound) :
    MaybeSound (s.fillPage obj pidx leaf x cap op pf) := by
  generalize hf : @State.fillPage = f
  delta State.fillPage at hf
  subst hf
  beta_reduce
  extract_lets
  split
  · trivial
  · exact h.allocated.setLease.poolSend

theorem State.Sound.moveUpgrade {s : State} {d ch old} (h : s.Sound) : (s.moveUpgrade d ch old).Sound := by
  rw [State.moveUpgrade]
  split
  · exact h
  split
  · exact h
  · exact h.setLease.setDie h.setLease.die.same

theorem State.Sound.freeLease {s : State} {d f} (h : s.Sound) : (s.freeLease d f).Sound := h.setLease.thenIf (·.moveUpgrade)

theorem State.Sound.sendRelease {s : State} {d f l op} (h : s.Sound) : (s.sendRelease d f l op).Sound := h.poolSend

theorem State.Sound.drained {s : State} {d f} (h : s.Sound) : (s.drained d f).Sound := by
  unfold State.drained
  dsimp only
  split
  · exact h
  split
  · exact h.setLease
  · split
    · exact h.setTask.poolSend.setLease
    · exact h.setTask.sendRelease.setLease
    · exact h.sendRelease.setLease
  · exact h

theorem State.Sound.loseLease {s : State} {d f st} (h : s.Sound) : (s.loseLease d f st).Sound := by
  unfold State.loseLease
  dsimp only
  split
  · exact h.setLease.drained
  · refine State.Sound.drained (State.Sound.setLease ?_)
    split
    · exact h.setTask
    · exact h
  · exact h

theorem State.Sound.expire {s : State} {d f} (h : s.Sound) : (s.expire d f).Sound := by
  unfold State.expire
  dsimp only
  split
  · exact h
  split
  · exact h.freeLease.ite h.setLease
  · exact h.setLease.ite h
  · exact h

theorem State.Sound.expirePage {s : State} {obj pidx} (h : s.Sound) : (s.expirePage obj pidx).Sound := by
  unfold State.expirePage
  dsimp only
  split
  · exact h.expire
  · exact h

theorem State.Sound.fillFails {s : State} {d r st} (h : s.Sound) : (s.fillFails d r st).Sound := by
  unfold State.fillFails
  split
  · exact h.endTask
  · exact h.failPage.setLease.ite h

theorem State.Sound.lessPend {s : State} {d f fgen} (h : s.Sound) : (s.lessPend d f fgen).Sound := h.setLease.ite h

theorem State.Sound.dropUnsent {s : State} {d r st} (h : s.Sound) : (s.dropUnsent d r st).Sound :=
  (h.setDie h.die.same).foldl (fun _ hs => hs.endTask.lessPend)

theorem State.Sound.endInFlight {s : State} {d r st} (h : s.Sound) : (s.endInFlight d r st).Sound :=
  (h.setDie h.die.same).foldl (fun _ hs => hs.endTask)

theorem State.Sound.writeEnds {s : State} {d r st} (h : s.Sound) : (s.writeEnds d r st).Sound :=
  h.endTask.lessPend.thenUnless fun hs => hs.drained.ite (hs.dropUnsent.failSettled.thenUnless (·.endInFlight)).loseLease.drained

theorem State.Sound.renewFails {s : State} {d r st} (h : s.Sound) : (s.renewFails d r st).Sound := h.loseLease.ite h

theorem State.Sound.requestEnds {s : State} {d r st} (h : s.Sound) : (s.requestEnds d r st).Sound := by
  unfold State.requestEnds
  split
  · exact h.fillFails
  · exact h.fillFails
  · exact h.writeEnds
  · exact h.renewFails
  · exact h.endTask
  · exact h.endTask

theorem State.Sound.shutFrom {d fuel} {s : State} (h : s.Sound) : (State.shutFrom d fuel s).Sound := by
  induction fuel generalizing s with
  | zero => exact h
  | succ fuel ih =>
    unfold State.shutFrom
    dsimp only
    split
    · exact h
    split
    · exact h
    · exact ih (h.setDie h.die.same).requestEnds

theorem State.Sound.shut {s : State} (h : s.Sound) : s.shut.Sound := h.foldl (fun _ hs => hs.shutFrom)

theorem State.Sound.touch {s : State} {d f} (h : s.Sound) : (s.touch d f).Sound := h.setDie h.die.same

theorem State.Sound.frameRead {s : State} {d f off n} (h : s.Sound) : (s.frameRead d f off n).1.Sound := by
  rw [State.frameRead]
  split
  · exact h.touch
  · exact h.touch

theorem State.Sound.frameWrite {s : State} {d f off bs op} (h : s.Sound) : (s.frameWrite d f off bs op).1.Sound := by
  unfold State.frameWrite
  dsimp only
  split
  · exact h.setDie h.die.sliceWrite
  · exact (h.setDie h.die.sliceWrite).touch.setLease.poolSend

theorem State.Sound.refreshSeq {s : State} {d f obj} (h : s.Sound) : (s.refreshSeq d f obj).Sound :=
  (h.setDie h.die0.same).andThen fun hs => hs.setDie hs.die1.same

theorem State.Sound.demand {s : State} {o k t x} (h : s.Sound) : (s.demand o k t x).Sound := by
  unfold State.demand
  split
  · exact h.setTask
  · exact h.fillPage.getD h

theorem State.Sound.tryAbsent {s : State} {o k t} (h : s.Sound) : (s.tryAbsent o k t).Sound := by
  unfold State.tryAbsent
  split
  · exact h
  · exact h.demand
  · exact h.demand
  · exact h.demand
  · exact h.demand
  · exact h.demand
  · exact h.setTask
  · exact h.setTask
  · exact h.setTask
  · exact h.setTask

theorem State.Sound.tryRead {s : State} {o k t d f l} (h : s.Sound) : (s.tryRead o k t d f l).Sound := by
  unfold State.tryRead
  split
  · exact h.touch.setTask
  · exact h.setTask.ite h
  · exact h.setTask.ite h.touch.setLease.setTask
  · split
    · exact h.setTask
    split
    next e =>
      have hs := h.frameRead.of_eq e
      exact hs.setTask.ite hs.setTask.same
  · exact h

theorem State.Sound.tryValid {s : State} {o k t d f l} (h : s.Sound) : (s.tryValid o k t d f l).Sound := by
  rw [State.tryValid]
  split
  · refine State.Sound.ite h.setLease.setTask ?_
    refine State.Sound.ite h ?_
    split
    · exact h.setTask
    · exact h.poolSend
  · exact h.setLease.setTask.drained
  · exact h.setTask.ite h.setLease.setTask.drained
  · exact h.touch.setTask
  · refine State.Sound.ite h.setTask ?_
    refine State.Sound.ite h ?_
    split
    next e => exact (h.frameRead.of_eq e).setTask.thenIf (·.spadWrite)
  · refine State.Sound.ite h.setTask ?_
    split
    · exact h.setTask
    refine State.Sound.ite h.setTask ?_
    refine State.Sound.ite h ?_
    split
    next e =>
      have hs := h.frameWrite.of_eq e
      exact hs.setTask.ite (hs.refreshSeq.ite hs).setTask
  · exact h.tryRead

theorem State.Sound.clearPf {s : State} {d f l k} (h : s.Sound) : (s.clearPf d f l k).Sound := h.setLease.ite h

theorem State.Sound.tryTask {s : State} {op k} (h : s.Sound) : (s.tryTask op k).Sound := by
  unfold State.tryTask
  split
  · exact h
  split
  · exact h
  split
  · exact h
  dsimp only
  split
  · exact h.expirePage.tryAbsent
  split
  · exact h.expirePage.tryValid
  · split
    · exact h.expirePage.setTask
    · exact h.expirePage.setTask
    · exact h.expirePage.tryRead
  · split
    · exact h.expirePage.setTask
    · exact h.expirePage.clearPf
  · split
    · exact h.expirePage.setTask
    · exact h.expirePage

theorem State.Sound.tryGrow {op fuel k} {s : State} (h : s.Sound) : (State.tryGrow op fuel k s).Sound := by
  induction fuel generalizing s k with
  | zero => exact h
  | succ fuel ih =>
    unfold State.tryGrow
    split
    · exact h
    split
    · exact ih h
    split
    · exact ih h.setTask
    dsimp only
    split
    · exact h.tryTask.ite (ih h.tryTask)
    · exact h.tryTask

theorem State.Sound.tryOp {s : State} {op} (h : s.Sound) : (s.tryOp op).Sound := by
  unfold State.tryOp
  split
  · exact h
  · exact h.tryGrow.ite (h.foldl (fun _ hs => hs.tryTask))

theorem State.Sound.tryAll {s : State} (h : s.Sound) : s.tryAll.Sound := h.foldl (fun _ hs => hs.tryOp.ite hs)

theorem State.Sound.settlePool {s : State} (h : s.Sound) : s.settlePool.Sound := h.pumpPool.pumpPool.shut.tryAll.shut.tryAll

theorem State.Sound.poolReply {s t : State} {d tag gen} (h : s.Sound) (e : s.poolReply d tag gen = .inl t) : t.Sound := by
  unfold State.poolReply at e
  dsimp only at e
  split at e
  · split at e
    · cases e
    · cases e
      exact h.count
  · cases e
    exact h.count

theorem State.Sound.dropReq {s : State} {d tag} (h : s.Sound) : (s.dropReq d tag).Sound := h.setDie h.die.same

theorem Die.Sound.install {d : Die} {f bytes} (h : d.Sound) : (d.install f bytes).Sound :=
  ⟨Sparse.wf_setAll (Sparse.wf_clear h.mem), h.commons⟩

theorem State.Sound.grantArrives {s : State} {d r x epoch ticks bytes caps} (h : s.Sound) :
    (s.grantArrives d r x epoch ticks bytes caps).Sound :=
  h.count.ite (h.failPage.sendRelease.setLease.ite (h.count.sendRelease.setLease.ite (h.setDie h.die.install).setLease))

theorem State.Sound.upgradeArrives {s : State} {d r epoch ticks} (h : s.Sound) : (s.upgradeArrives d r epoch ticks).Sound :=
  h.count.ite (h.endTask.sendRelease.freeLease.ite (h.count.sendRelease.setLease.ite h.setLease))

theorem State.Sound.expireFor {s : State} {r} (h : s.Sound) : (s.expireFor r).Sound := by
  unfold State.expireFor
  split
  · exact h.ite h.expirePage
  · exact h.expirePage

theorem lands_execLeaseFillReply {die tag gen ans} {s : State} (h : s.Sound) : Lands (execLeaseFillReply die tag gen ans s) := by
  unfold execLeaseFillReply
  split
  next e => exact h.poolReply e
  dsimp only
  split
  · exact h.expireFor.dropReq.grantArrives.settlePool
  · exact h.expireFor.dropReq.upgradeArrives.settlePool
  · split
    · exact h
    · exact h.expireFor.dropReq.fillFails.settlePool
  · split
    · exact h
    · exact h.expireFor.dropReq.fillFails.settlePool
  · exact h

theorem lands_execPromotionReply {die tag gen epoch ticks} {s : State} (h : s.Sound) :
    Lands (execPromotionReply die tag gen epoch ticks s) := by
  unfold execPromotionReply
  split
  next e => exact h.poolReply e
  split
  · dsimp only
    split
    · exact h.count
    split
    · exact h.failPage.sendRelease.setLease.settlePool
    split
    · exact h.count.sendRelease.setLease.settlePool
    · exact (h.count.ite h).setLease.setDie (h.count.ite h).setLease.die.same
  · exact h

theorem lands_execLeaseRecall {die obj pidx} {s : State} (h : s.Sound) : Lands (execLeaseRecall die obj pidx s) := by
  unfold execLeaseRecall
  dsimp only
  split
  · exact h.note
  split
  · exact h.note
  split
  · split
    · exact h.note.freeLease.settlePool
    · exact h.note
  · split
    · exact h.note.setLease.settlePool
    · exact h.note
  · exact h.note

theorem lands_execLeaseExpiry {die frame} {s : State} (h : s.Sound) : Lands (execLeaseExpiry die frame s) := h.expire.settlePool

theorem lands_execLeaseRenewal {die frame} {s : State} (h : s.Sound) : Lands (execLeaseRenewal die frame s) := by
  unfold execLeaseRenewal
  dsimp only
  split
  · exact h.poolSend
  · exact h

theorem lands_execRenewalReply {die tag gen ans} {s : State} (h : s.Sound) : Lands (execRenewalReply die tag gen ans s) := by
  unfold execRenewalReply
  split
  next e => exact h.poolReply e
  split
  · exact h
  dsimp only
  split
  · split
    · exact h
    · exact h.expirePage.dropReq.renewFails.settlePool
  · split
    · exact h.expirePage.dropReq.sendRelease.settlePool
    split
    · exact h.expirePage.dropReq.sendRelease.renewFails.settlePool
    · exact h.expirePage.dropReq.setLease.settlePool

theorem lands_execWriteThroughReply {die tag gen st} {s : State} (h : s.Sound) : Lands (execWriteThroughReply die tag gen st s) := by
  unfold execWriteThroughReply
  split
  next e => exact h.poolReply e
  split
  · split
    · exact h
    · exact h.dropReq.writeEnds.settlePool
  · exact h

theorem lands_execReleaseReply {die tag gen st} {s : State} (h : s.Sound) : Lands (execReleaseReply die tag gen st s) := by
  unfold execReleaseReply
  split
  next e => exact h.poolReply e
  split
  · exact h.dropReq.endTask.settlePool
  · exact h

theorem lands_execHandoverReply {die tag gen st} {s : State} (h : s.Sound) : Lands (execHandoverReply die tag gen st s) := by
  unfold execHandoverReply
  split
  next e => exact h.poolReply e
  split
  · split
    · exact h
    · exact h.dropReq.endTask.settlePool
  · exact h

theorem State.Sound.poolTimeout {s : State} {d tag} (h : s.Sound) : (s.poolTimeout d tag).Sound := by
  unfold State.poolTimeout
  dsimp only
  split
  · exact h
  · exact (h.setDie h.die.same).dropReq.requestEnds

theorem lands_execPoolRequestTimeout {die tag} {s : State} (h : s.Sound) : Lands (execPoolRequestTimeout die tag s) := by
  unfold execPoolRequestTimeout
  split
  · split
    · exact h.poolTimeout.settlePool
    · exact h
  · exact h

theorem State.Sound.poolRestarts {s : State} {d} (h : s.Sound) : (s.poolRestarts d).Sound :=
  (((h.setDie h.die.same).foldl (fun _ hs => hs.failPage.endTask)).foldl (fun _ hs => hs.setLease)).same

theorem State.Sound.setSweeper {s : State} {d ch w} (h : s.Sound) : (s.setSweeper d ch w).Sound := h.setDie h.die.same

theorem State.Sound.takeVictim {s : State} {d ch} (h : s.Sound) : (s.takeVictim d ch).Sound := by
  unfold State.takeVictim
  dsimp only
  split
  · exact h.foldl (fun _ hs => hs.expire)
  split
  · exact (h.foldl (fun _ hs => hs.expire)).setSweeper
  · exact (h.foldl (fun _ hs => hs.expire)).setSweeper.count.sendRelease.freeLease

theorem lands_execSweeperAdvance {die ch} {s : State} (h : s.Sound) : Lands (execSweeperAdvance die ch s) := by
  unfold execSweeperAdvance
  dsimp only
  split
  · exact h
  · exact (h.setLease.ite h).same.setSweeper

theorem lands_execVictimAllocation {die ch} {s : State} (h : s.Sound) : Lands (execVictimAllocation die ch s) := by
  unfold execVictimAllocation
  split
  · exact h.takeVictim.settlePool
  · exact h

theorem lands_execAllocationRetry {die ch} {s : State} (h : s.Sound) : Lands (execAllocationRetry die ch s) := by
  unfold execAllocationRetry
  dsimp only
  split
  · exact h.same
  · exact h

theorem State.Sound.cancelPrefetch {s : State} {d} (h : s.Sound) : (s.cancelPrefetch d).Sound :=
  h.ite (h.foldl (fun _ hs => hs.foldl (fun _ hs' => hs'.expire.count.sendRelease.setLease.ite hs'.expire)))

theorem lands_execPfposWrite {die v} {s : State} (h : s.Sound) : Lands (execPfposWrite die v s) := h.setDieReg.cancelPrefetch.settlePool

/-- One page of a prefetch. The page's fill is put behind a name: nothing of it is to be computed. -/
theorem pairSound_prefetchPages_cons {s : State} {d cap stp lyr n p ps}
    {below : List.below (motive := fun _ => State → Nat → State × Nat) (p :: ps)}
    (hb : ∀ {s n}, s.Sound → PairSound (below.1 s n)) (h : s.Sound) :
    PairSound (State.prefetchPages._f d cap stp lyr (p :: ps) below s n) := by
  generalize hf : @State.prefetchPages._f = f
  delta State.prefetchPages._f at hf
  subst hf
  beta_reduce
  obtain ⟨fill, hfill⟩ : ∃ f, @State.fillPage = f := ⟨_, rfl⟩
  rw [hfill]
  dsimp only
  split
  · exact h
  · split
    · exact hb h.expirePage
    · split
      · next e =>
        subst hfill
        have hs : State.Sound _ := (State.Sound.fillPage (h.expirePage.thenUnless (·.takeVictim))).of_eq e
        exact hb hs.count.shut
      · exact hb (State.Sound.count (h.expirePage.thenUnless (·.takeVictim)))

theorem State.Sound.prefetchPages {d cap stp lyr} {s : State} {n ps} (h : s.Sound) :
    (State.prefetchPages d cap stp lyr s n ps).1.Sound := by
  change PairSound _
  delta State.prefetchPages
  exact PairSound.brecOn h id pairSound_prefetchPages_cons

theorem State.Sound.setPfAt {s : State} {d n} (h : s.Sound) : (s.setPfAt d n).Sound := h.setDie h.die.same

theorem lands_execPrefetchWalk {die} {s : State} (h : s.Sound) : Lands (execPrefetchWalk die s) := by
  unfold execPrefetchWalk
  dsimp only
  split
  · exact h
  split
  · exact h.count.setDieReg.setPfAt
  split
  · split
    · exact h
    split
    · exact h.count.setDieReg.setPfAt
    · exact (h.prefetchPages.setDieReg.setPfAt.ite h.prefetchPages.setPfAt).cancelPrefetch.settlePool
  · split
    · exact h
    split
    · exact h.count.setDieReg.setPfAt
    · exact (h.prefetchPages.setDieReg.setPfAt.ite h.prefetchPages.setPfAt).cancelPrefetch.settlePool

theorem State.Sound.startProbe {s : State} {cap ts} (h : s.Sound) : (s.startProbe cap ts).Sound := h.addOp.tryOp.shut

theorem State.Sound.afterProbe {s : State} {p addr} {go : State → Eff} (h : s.Sound)
    (hgo : ∀ {x0 : State}, x0.Sound → (go x0).Sound) : (s.afterProbe p addr go).Sound := by
  unfold State.afterProbe
  split
  · exact hgo h
  split
  · trivial
  split
  · exact hgo h.dropOp
  · exact h.dropOp.failWith

theorem State.Sound.sendTasks {s : State} {o} (h : s.Sound) : (s.sendTasks o).Sound := by
  unfold State.sendTasks
  split
  next e =>
    have hs := h.addOp.of_eq e
    dsimp only
    split
    · exact hs.setMe.tryOp.shut
    · exact hs.setMe.tryOp.shut

/-! ## What the functions of Machine/Cap keep -/

theorem State.Sound.poolLoad {s : State} {k p c off n cap acq acqSys rel} {use : State → List Byte → Eff} (h : s.Sound)
    (huse : ∀ {x0 : State} {x1 : List Byte}, x0.Sound → (use x0 x1).Sound) :
    (s.poolLoad k p c off n cap acq acqSys rel use).Sound := by
  unfold State.poolLoad
  extract_lets
  split
  · trivial
  refine h.afterProbe (fun hs => ?_)
  extract_lets
  split
  · exact hs.expirePage.startProbe
  split
  · exact hs.expirePage.startProbe
  split
  · exact hs.expirePage
  split
  · exact hs.expirePage.startProbe
  split
  next e =>
    have hs' := hs.expirePage.frameRead.of_eq e
    split
    · exact hs'.failWith
    · exact huse hs'

theorem lands_execPld {sy d k z o p} {s : State} (h : s.Sound) : Lands (execPld sy d k z o p s) := by
  unfold execPld
  refine h.issue (fun hs => ?_)
  dsimp only
  split
  · split
    · trivial
    split
    · trivial
    · exact hs.untransReady.andThen (fun hs' => hs'.poolLoad (fun hs'' => hs''.spadWrite.setP))
  · split
    · trivial
    · exact hs.poolLoad (fun hs' => hs'.setX.setP)

theorem lands_execKld {sy d k a o p} {s : State} (h : s.Sound) : Lands (execKld sy d k a o p s) := by
  unfold execKld
  refine h.issue (fun hs => ?_)
  dsimp only
  split
  · trivial
  · exact hs.poolLoad (fun hs' => hs'.setCap.setP)

/-- Unfolded as `walkWith` is: the reading of a frame does not evaluate. -/
theorem State.Sound.poolUpdate {s : State} {k p c off n acq acqSys rel dest upd} (h : s.Sound) :
    (s.poolUpdate k p c off n acq acqSys rel dest upd).Sound := by
  generalize hf : @State.poolUpdate = f
  delta State.poolUpdate at hf
  subst hf
  beta_reduce
  extract_lets -underBinder
  refine Eff.Sound.ite trivial ?_
  refine h.afterProbe (fun hs => ?_)
  extract_lets -underBinder
  split
  · exact hs.expirePage.failWith
  · refine Eff.Sound.ite trivial ?_
    refine Eff.Sound.ite hs.expirePage ?_
    refine Eff.Sound.ite hs.expirePage.failWith ?_
    refine Eff.Sound.ite trivial ?_
    refine Eff.Sound.ite hs.expirePage.startProbe ?_
    split
    next e =>
    have hs' := hs.expirePage.frameRead.of_eq e
    extract_lets -underBinder
    refine Eff.Sound.ite hs'.failWith ?_
    split
    · refine State.Sound.setP (s := match dest with | .x _ => _ | _ => _) ?_
      split
      · exact hs'.setX
      · exact hs'
    · split
      · exact hs'.failWith
      · split
        next e' =>
        have hs'' := hs'.frameWrite.of_eq e'
        exact Eff.Sound.ite hs''.failWith hs''.sendTasks

theorem lands_execPst {sy d k z o p} {s : State} (h : s.Sound) : Lands (execPst sy d k z o p s) := by
  unfold execPst
  refine h.issue (fun hs => ?_)
  dsimp only
  split
  · split
    · trivial
    split
    · trivial
    · exact hs.untransReady.andThen (fun hs' => hs'.poolUpdate)
  · split
    · trivial
    · exact hs.poolUpdate

theorem lands_execPamo {sy r k c z o p} {s : State} (h : s.Sound) : Lands (execPamo sy r k c z o p s) := by
  unfold execPamo
  refine h.issue (fun hs => ?_)
  dsimp only
  split
  · trivial
  split
  · exact hs.failWith
  · exact hs.poolUpdate

theorem lands_execPcas {sy r k n z o p} {s : State} (h : s.Sound) : Lands (execPcas sy r k n z o p s) := by
  unfold execPcas
  refine h.issue (fun hs => ?_)
  dsimp only
  split
  · trivial
  · exact hs.poolUpdate

theorem lands_execPget {sy a k b p} {s : State} (h : s.Sound) : Lands (execPget sy a k b p s) := by
  unfold execPget
  refine h.issue (fun hs => ?_)
  extract_lets -underBinder c off w sp
  split
  refine Eff.Sound.ite trivial (Eff.Sound.ite trivial ?_)
  split
  · trivial
  split
  · trivial
  refine Eff.Sound.ite trivial (Ready.Sound.andThen ?_ (fun hs' => hs'.sendTasks))
  split
  · exact hs.untransReady
  · exact hs

theorem lands_execKder {sy d k a b} {s : State} (h : s.Sound) : Lands (execKder sy d k a b s) := by
  unfold execKder
  refine h.issue (fun hs => ?_)
  dsimp only
  split
  · exact hs.setCap
  · trivial

theorem lands_execKchk {sy p k a b} {s : State} (h : s.Sound) : Lands (execKchk sy p k a b s) := h.issue (fun hs => hs.setP)

theorem lands_execKmov {sy d k} {s : State} (h : s.Sound) : Lands (execKmov sy d k s) := h.issue (fun hs => hs.setCap)

theorem sound_leaseBody {k a b p need kind} {s : State} (h : s.Sound) : (leaseBody k a b p need kind s).Sound := by
  unfold leaseBody
  dsimp only
  split
  · trivial
  split
  · trivial
  · exact h.sendTasks

theorem lands_execLacq {sy k a b p} {s : State} (h : s.Sound) : Lands (execLacq sy k a b p s) := h.issue (fun hs => sound_leaseBody hs)

theorem lands_execLrel {sy k a b p} {s : State} (h : s.Sound) : Lands (execLrel sy k a b p s) := h.issue (fun ht => sound_leaseBody ht)

theorem lands_execLhand {sy k a b p} {s : State} (h : s.Sound) : Lands (execLhand sy k a b p s) := h.issue (fun hs => sound_leaseBody hs)

/-! ## What the functions of Machine/Barrier keep -/

theorem State.Sound.setGang {s : State} {g} (h : s.Sound) : (s.setGang g).Sound := h.same

theorem State.Sound.flipRoutes {s : State} {g} (h : s.Sound) : (s.flipRoutes g).Sound := h.foldl (fun _ hs => hs.setDieReg.ite hs)

theorem State.Sound.completeBarrier {s : State} {g b} (h : s.Sound) : (s.completeBarrier g b).Sound :=
  (h.flipRoutes.ite h).setGang.foldl (fun _ hs => hs.resumeAfter)

theorem State.Sound.updateBarrier {s : State} {g old new} (h : s.Sound) : (s.updateBarrier g old new).Sound :=
  h.completeBarrier.ite h.setGang

theorem State.Sound.arriveHalted {s : State} {n} (h : s.Sound) : (s.arriveHalted n).Sound := by
  unfold State.arriveHalted
  split
  · exact h
  refine h.foldl (fun _ hs => ?_)
  split
  · exact hs.updateBarrier
  · exact hs

theorem lands_execBar {sy t l i} {s : State} (h : s.Sound) : Lands (execBar sy t l i s) := by
  unfold execBar
  refine h.issue (fun hs => ?_)
  split
  · trivial
  split
  · exact hs
  dsimp only
  split
  · trivial
  · exact hs.setMe.updateBarrier

/-! ## What the functions of Machine/Ring keep -/

theorem State.Sound.putRing {s : State} {c r} (h : s.Sound) : (s.putRing c r).Sound := h.same.untransWrite

theorem State.Sound.countRingWait {s : State} {mark} (h : s.Sound) : (s.countRingWait mark).Sound := h.ite h.setCur

theorem State.Sound.noteRead {s : State} {rg} (h : s.Sound) : (s.noteRead rg).Sound := h.setCur

/-! ## What the functions of Machine/Crossbar keep -/

theorem State.Sound.enqueueCopy {s : State} {c m} (h : s.Sound) : (s.enqueueCopy c m).Sound := h.setCore.same

theorem State.Sound.deferPulse {s : State} {c src} (h : s.Sound) : (s.deferPulse c src).Sound := h.setCore

theorem State.Sound.flagAdd {s : State} {c flag v} (h : s.Sound) : (s.flagAdd c flag v).Sound := by
  unfold State.flagAdd
  split
  · exact h
  · exact (h.setGang.foldl (fun _ hs => hs.deferPulse)).ite h.setGang

theorem State.Sound.publishSlot {s : State} {c r slot} (h : s.Sound) : (s.publishSlot c r slot).Sound :=
  h.putRing.ite (h.putRing.foldl (fun _ hs => hs.deferPulse))

theorem State.Sound.popSlot {s : State} {c r} (h : s.Sound) : (s.popSlot c r).Sound := h.putRing.foldl (fun _ hs => hs.deferPulse)

theorem State.Sound.exFault {s : State} {c t cause} (h : s.Sound) : (s.exFault c t cause).Sound := h.postNote.setCore

theorem State.Sound.exAct {s : State} {c t} (h : s.Sound) : MaybeSound (s.exAct c t) := by
  unfold State.exAct
  dsimp only
  split
  · split
    · trivial
    split
    · exact h.exFault
    split
    · exact h.exFault
    · exact h.enqueueCopy
  · split
    · split
      · trivial
      · exact h.setCore
    · split
      · trivial
      · exact h.setCore
  · exact h.flagAdd
  · split
    · exact h.exFault
    split
    · split
      · exact h.exFault
      split
      · exact h
      · exact h.setCore.publishSlot
    · split
      · exact h.exFault
      split
      · exact h
      · exact h.setCore.popSlot
  · exact h

theorem State.Sound.exFire {s : State} {c t} (h : s.Sound) : (s.exFire c t).Sound := by
  unfold State.exFire
  dsimp only
  split
  · split
    · next e => exact h.exAct.of_eq e
    · exact h.setCore
  · exact h.setCore.ite h.setCore

theorem State.Sound.exTerms {s : State} {c inputs terms} (h : s.Sound) : (s.exTerms c inputs terms).Sound :=
  h.setCore.foldl (fun _ hs => hs.exFire.ite hs)

theorem State.Sound.routePulse {s : State} {c src} (h : s.Sound) : (s.routePulse c src).Sound := by
  unfold State.routePulse
  exact h.setCore.exTerms

theorem State.Sound.pulse {s : State} {c src} (h : s.Sound) : (s.pulse c src).Sound := h.deferPulse.ite h.routePulse

theorem lands_execExDeferredPulse {core} {s : State} (h : s.Sound) : Lands (execExDeferredPulse core s) := by
  unfold execExDeferredPulse
  dsimp only
  split
  · exact h
  · exact h.setCore.routePulse

theorem lands_execExPendingTarget {core target} {s : State} (h : s.Sound) : Lands (execExPendingTarget core target s) := by
  unfold execExPendingTarget
  dsimp only
  split
  · exact h
  · split
    · next e => exact h.setCore.exAct.of_eq e
    · exact h

theorem lands_execEvcfg {sy a b} {s : State} (h : s.Sound) : Lands (execEvcfg sy a b s) := by
  unfold execEvcfg
  refine h.issue (fun hs => ?_)
  dsimp only
  split
  · trivial
  split
  · exact hs.pulse
  · exact hs.setCur.thenIf (·.exTerms)

theorem lands_execQpushRing {sy q a} {s : State} (h : s.Sound) : Lands (execQpushRing sy q a s) := by
  unfold execQpushRing
  refine h.issue (fun hs => ?_)
  extract_lets -underBinder c rg w
  split
  · trivial
  refine Eff.Sound.ite trivial (Eff.Sound.ite trivial ?_)
  extract_lets -underBinder s1
  have h1 : s1.Sound := by
    refine State.Sound.ite ?_ hs
    split
    · exact hs.setCur.publishSlot
    · exact hs
  refine Eff.Sound.ite h1 ?_
  split
  · trivial
  · exact Eff.Sound.ite (Eff.Sound.ite h1 trivial) h1.putRing.setCur.setX

theorem lands_execQpopRing {sy q a} {s : State} (h : s.Sound) : Lands (execQpopRing sy q a s) := by
  unfold execQpopRing
  refine h.issue (fun hs => ?_)
  extract_lets -underBinder c rg w
  split
  · trivial
  refine Eff.Sound.ite trivial (Eff.Sound.ite trivial ?_)
  extract_lets -underBinder u s1
  have h1 : s1.Sound := hs.setCur.popSlot.ite hs
  refine Eff.Sound.ite h1 ?_
  split
  · trivial
  · exact Eff.Sound.ite (Eff.Sound.ite h1.countRingWait h1.countRingWait) h1.noteRead.setX

theorem lands_execRcfgRing {sy n a} {s : State} (h : s.Sound) : Lands (execRcfgRing sy n a s) := h.issue (fun hs => hs.setCur)

theorem lands_execFlagadd {sy f a} {s : State} (h : s.Sound) : Lands (execFlagadd sy f a s) := by
  unfold execFlagadd
  refine h.issue (fun hs => ?_)
  split
  · trivial
  · exact hs.flagAdd

theorem lands_execFlagwait {sy f a t} {s : State} (h : s.Sound) : Lands (execFlagwait sy f a t s) := by
  unfold execFlagwait
  refine h.issue (fun hs => ?_)
  split
  · trivial
  split
  · exact hs
  · trivial

/-! ## What the functions of Machine/Copy keep -/

theorem lands_execBop {sy d r k o f} {s : State} (h : s.Sound) : Lands (execBop sy d r k o f s) := by
  unfold execBop
  refine h.issue (fun hs => ?_)
  dsimp only
  split
  · exact hs.untransFault
  split
  · trivial
  split
  · exact hs.untransWrite.setX
  split
  · exact hs.untransWrite
  split
  · split
    · exact hs.untransFault
    · exact hs.untransReady.andThen (fun hs' => hs'.untransWrite)
  · exact hs.setX

theorem sound_copyBody {d i c coll q l b o} {s : State} (h : s.Sound) : (copyBody d i c coll q l b o s).Sound := by
  unfold copyBody
  dsimp only
  split
  · exact h.untransFault
  split
  · trivial
  · exact h.enqueueCopy

theorem lands_execCpy {sy d i c q l o b} {s : State} (h : s.Sound) : Lands (execCpy sy d i c q l o b s) :=
  h.issue (fun ht => sound_copyBody ht)

theorem lands_execColl {sy d i c q l o b} {s : State} (h : s.Sound) : Lands (execColl sy d i c q l o b s) :=
  h.issue (fun ht => sound_copyBody ht)

theorem Die.Sound.setChannel {d : Die} {ch v} (h : d.Sound) : (d.setChannel ch v).Sound := h.same

theorem lands_execCpyw {sy p} {s : State} (h : s.Sound) : Lands (execCpyw sy p s) := by
  unfold execCpyw
  refine h.issue (fun hs => ?_)
  dsimp only
  split
  · trivial
  split
  · exact hs.setCur
  · exact hs

theorem lands_execCpyq {sy d} {s : State} (h : s.Sound) : Lands (execCpyq sy d s) := h.issue (fun hs => hs.setX)

theorem State.Sound.startCommand {s : State} {c slot st ring} (h : s.Sound) : (s.startCommand c slot st ring).Sound := by
  unfold State.startCommand
  dsimp only
  split
  · exact h
  refine State.Sound.setDie ?_ (Die.Sound.setChannel (State.Sound.die ?_))
  · split
    · exact h.setCore.putRing
    · exact h.setCore
  · split
    · exact h.setCore.putRing
    · exact h.setCore

theorem State.Sound.markRingWait {s : State} {c} (h : s.Sound) : (s.markRingWait c).Sound := by
  unfold State.markRingWait
  dsimp only
  split
  · exact h.ite h.setCore.count
  · exact h

theorem State.Sound.startHead {s : State} {die ch slot e} (h : s.Sound) : (s.startHead die ch slot e).Sound := by
  unfold State.startHead
  refine State.Sound.setDie ?_ (Die.Sound.setChannel (State.Sound.die ?_))
  · split
    · exact h.startCommand
    · exact h.startCommand
    · exact h
  · split
    · exact h.startCommand
    · exact h.startCommand
    · exact h

theorem lands_execCeCommandStart {die ch} {s : State} (h : s.Sound) : Lands (execCeCommandStart die ch s) := by
  unfold execCeCommandStart
  dsimp only
  split
  · exact h
  split
  · exact h.foldl (fun _ hs => hs.markRingWait.ite hs)
  · exact (h.foldl (fun _ hs => hs.markRingWait.ite hs)).startHead

theorem lands_execCeRingWaitEnd {core} {s : State} (h : s.Sound) : Lands (execCeRingWaitEnd core s) := by
  unfold execCeRingWaitEnd
  dsimp only
  split
  · split
    · exact h.startHead
    · exact h
  · exact h

theorem State.Sound.setSlotCmd {s : State} {d ch slot x} (h : s.Sound) : (s.setSlotCmd d ch slot x).Sound := h.setDie h.die.setChannel

theorem State.Sound.virtualPlaces {s t : State} {c who va n l} (h : s.Sound) (e : s.virtualPlaces c who va n l = .error t) : t.Sound := by
  induction l with
  | nil => cases e
  | cons i l ih =>
    unfold State.virtualPlaces at e
    dsimp only at e
    split at e
    · next e' =>
      cases e
      exact h.translate.of_eq e'
    · split at e
      · split at e <;> cases e
      · exact ih e

theorem State.Sound.srcPlaces {s t : State} {c x slot} (h : s.Sound) (e : s.srcPlaces c x slot = .error t) : t.Sound := by
  unfold State.srcPlaces at e
  dsimp only at e
  split at e
  · exact h.virtualPlaces e
  · cases e
  · cases e

theorem State.Sound.dstPlaces {s t : State} {c x slot n} (h : s.Sound) (e : s.dstPlaces c x slot n = .error t) : t.Sound := by
  unfold State.dstPlaces at e
  dsimp only at e
  split at e
  · exact h.virtualPlaces e
  · cases e
  · cases e
  · cases e

theorem State.Sound.overlapOf {s t : State} {c x slot n} (h : s.Sound) (e : s.overlapOf c x slot n = .error t) : t.Sound := by
  unfold State.overlapOf at e
  split at e
  · cases e
  · split at e
    · cases e
    · cases e
    · next hd =>
      cases e
      exact h.dstPlaces hd
    · next hp _ =>
      cases e
      exact h.srcPlaces hp

theorem State.Sound.startCopyOp {s : State} {o} (h : s.Sound) : (s.startCopyOp o).Sound := by
  unfold State.startCopyOp
  split
  next e =>
    have hs := h.addOp.of_eq e
    dsimp only
    split
    · split
      · split
        · exact hs.performOp.dropOp
        · exact hs.performOp.dropOp
      · exact hs.performOp
    · exact hs.performOp

theorem State.Sound.copySpad {s : State} {c x slot a n store} {f : State → Side} (h : s.Sound)
    (hf : ∀ {x0 : State}, x0.Sound → (f x0).Sound) :
    (s.copySpad c x slot a n store f).Sound := by
  unfold State.copySpad
  split
  · exact h
  split
  next e =>
    have hs : State.Sound _ := h.readyLines.of_eq e
    exact hf hs
  next e => exact h.readyLines.of_eq e
  next e => exact h.readyLines.of_eq e
  next e => exact h.readyLines.of_eq e
  next e => exact h.readyLines.of_eq e
  next e => exact h.readyLines.of_eq e

theorem State.Sound.copyRead {s : State} {c x slot n} (h : s.Sound) : (s.copyRead c x slot n).Sound := by
  unfold State.copyRead
  dsimp only
  split
  · split
    next e => exact h.plan.of_eq e
    next e => exact h.plan.of_eq e
    next e => exact (h.plan.of_eq e).startCopyOp
  · exact h.copySpad (fun hs => hs)
  · split
    · exact h
    split
    · exact h
    split
    · exact h
    · exact h.startCopyOp

theorem State.Sound.localLine {s : State} {c m t} {f : State → State} (h : s.Sound) (hf : ∀ {x0 : State}, x0.Sound → (f x0).Sound) :
    (s.localLine c m t f).Sound := by
  unfold State.localLine
  split
  · exact hf h
  split
  next e =>
    have hs := h.issueCounted.adopt.of_eq e
    split
    · exact (hf hs).countWrite
    · exact hs

theorem State.Sound.copyWrite {s : State} {c x slot bs} (h : s.Sound) : (s.copyWrite c x slot bs).Sound := by
  unfold State.copyWrite
  dsimp only
  split
  · split
    next e => exact h.plan.of_eq e
    next e => exact h.plan.of_eq e
    next e => exact (h.plan.of_eq e).startCopyOp
  · exact h.copySpad (fun hs => hs.localLine (fun hs' => hs'.spadWrite))
  · split
    · exact h
    split
    · exact h
    split
    · exact h.localLine (fun hs => hs.setDie ⟨hs.die.mem, wf_writeBytes hs.die.commons _ _⟩)
    · exact h.startCopyOp
  · split
    · exact h.copySpad (fun hs => hs.localLine (fun hs' => hs'.spadWrite))
    · exact h.localLine (fun hs => hs.untransWrite)

theorem State.Sound.lineEnd {s : State} {d ch slot x n} (h : s.Sound) : (s.lineEnd d ch slot x n).Sound := h.setSlotCmd.count

theorem State.Sound.lineFault {s : State} {d ch slot x kind cause addr} (h : s.Sound) : (s.lineFault d ch slot x kind cause addr).Sound :=
  (h.count.ite h).setSlotCmd.postNote

theorem State.Sound.lineWrite {s : State} {d ch slot x bs} (h : s.Sound) : (s.lineWrite d ch slot x bs).Sound := by
  unfold State.lineWrite
  dsimp only
  split
  next e => exact (h.overlapOf e).setSlotCmd
  split
  next e => exact (h.same.copyWrite.of_eq e : State.Sound _).setSlotCmd
  next e =>
    have hs : State.Sound _ := h.same.copyWrite.of_eq e
    refine State.Sound.lineEnd ?_
    split
    · exact hs.dropOp
    · exact hs
  next e =>
    have hs : State.Sound _ := h.same.copyWrite.of_eq e
    refine State.Sound.setSlotCmd ?_
    split
    · exact hs.dropOp
    · exact hs
  next e =>
    have hs : State.Sound _ := h.same.copyWrite.of_eq e
    refine State.Sound.setSlotCmd ?_
    split
    · exact hs.dropOp
    · exact hs
  next e =>
    have hs : State.Sound _ := h.same.copyWrite.of_eq e
    refine State.Sound.lineFault ?_
    split
    · exact hs.dropOp
    · exact hs
  next e => exact (h.same.copyWrite.of_eq e : State.Sound _).setSlotCmd

theorem State.Sound.chooseFabric {s : State} {d slot x} (h : s.Sound) : (s.chooseFabric d slot x).Sound := by
  unfold State.chooseFabric
  dsimp only
  split
  · exact h
  split
  · split
    · split
      next e => exact h.translate.of_eq e
      next e => exact h.translate.of_eq e
      next e => exact h.translate.of_eq e
    · exact h
    · exact h
  · exact h

theorem lands_execCeLineComplete {die ch slot} {s : State} (h : s.Sound) : Lands (execCeLineComplete die ch slot s) := by
  unfold execCeLineComplete
  split
  · exact h
  split
  · exact h
  split
  · split
    · exact h
    split
    · exact h
    dsimp only
    split
    · split
      · exact h.dropOp.setSlotCmd
      split
      · exact h.dropOp.lineEnd
      · exact h.lineWrite
    · exact h.dropOp.setSlotCmd
  · dsimp only
    split
    next e => exact h.chooseFabric.of_eq e
    next e => exact (h.chooseFabric.of_eq e : State.Sound _).lineFault
    next e =>
      have hs : State.Sound _ := h.chooseFabric.of_eq e
      split
      next e' => exact (hs.copyRead.of_eq e' : State.Sound _).lineWrite
      next e' => exact (hs.copyRead.of_eq e' : State.Sound _).setSlotCmd
      next e' => exact (hs.copyRead.of_eq e' : State.Sound _).setSlotCmd
      next e' => exact (hs.copyRead.of_eq e' : State.Sound _).setSlotCmd
      next e' => exact (hs.copyRead.of_eq e' : State.Sound _).lineFault
      next e' => exact (hs.copyRead.of_eq e' : State.Sound _).setSlotCmd

theorem State.Sound.copyStatus {s : State} {c m st} (h : s.Sound) : (s.copyStatus c m st).Sound := h.setCore.ite h.setCore

theorem State.Sound.copyActions {s : State} {c x} (h : s.Sound) : (s.copyActions c x).Sound := by
  unfold State.copyActions
  dsimp only
  split
  · refine State.Sound.pulse ?_
    split
    · refine State.Sound.flagAdd ?_
      split
      · exact h.publishSlot.ite h
      · exact h
    · split
      · exact h.publishSlot.ite h
      · exact h
  · refine State.Sound.pulse (State.Sound.pulse ?_)
    split
    · refine State.Sound.flagAdd ?_
      split
      · exact h.publishSlot.ite h
      · exact h
    · split
      · exact h.publishSlot.ite h
      · exact h

theorem lands_execCeCommandComplete {die ch slot} {s : State} (h : s.Sound) : Lands (execCeCommandComplete die ch slot s) := by
  unfold execCeCommandComplete
  split
  · exact h
  split
  · exact h
  · exact (h.setSlotCmd.thenIf (·.copyActions)).copyStatus

/-! ## What the functions of Machine/Network keep -/

theorem State.Sound.sendFlag {s : State} {id n} (h : s.Sound) : (s.sendFlag id n).Sound := by
  unfold State.sendFlag
  split
  · exact h
  dsimp only
  split
  · split
    · exact h.partDone
    split
    · exact h.count.partDone
    · exact h
    split
    · exact (h.ite h.countPart).takeTag.flagArrives
    · exact (h.ite h.countPart).takeTag.flagArrives
    · exact (h.ite h.countPart).takeTag.inject
  · exact h

theorem lands_execFlagw {sy f a b p} {s : State} (h : s.Sound) : Lands (execFlagw sy f a b p s) := by
  unfold execFlagw
  refine h.issue (fun hs => ?_)
  refine Eff.Sound.ite trivial ?_
  split
  next e => exact hs.plan.of_eq e
  next e => exact hs.plan.of_eq e
  next e =>
    have ht := hs.plan.of_eq e
    refine Eff.Sound.ite ht ?_
    refine Eff.Sound.ite ht.setSource.setMe.setP ?_
    refine Eff.Sound.ite ht ?_
    refine Eff.Sound.ite ht ?_
    refine Eff.Sound.ite ht ?_
    refine Eff.Sound.ite ht ?_
    refine Eff.Sound.ite ?_ ?_
    · exact (ht.flagCount.setSource.thenIf (·.setMe)).addOp.setMe.sendFlag
    · exact (ht.flagCount.setSource.thenIf (·.setMe)).addOp.setMe.sendFlag

theorem State.Sound.serve {s : State} {d p} (h : s.Sound) : (s.serve d p).1.Sound := by
  unfold State.serve
  dsimp only
  split
  · split
    · exact h
    split
    · exact h
    · exact h.setDie ⟨h.die.mem, wf_writeBytes h.die.commons _ _⟩
    · exact h.setDie ⟨h.die.mem, wf_writeBytes h.die.commons _ _⟩
    · exact h
  · split
    · exact h
    split
    · split
      · exact h
      · exact h.setDie h.die.atSlice
    · split
      · exact h
      · exact h.setDie h.die.atSlice

theorem State.Sound.requestArrives {s : State} {d p} (h : s.Sound) : (s.requestArrives d p).Sound := by
  unfold State.requestArrives
  refine h.ite (h.count.ite (h.flagArrives.ite (h.sendReply.ite (h.sendReply.ite ?_))))
  split
  next take t e =>
  have ht : t.Sound := by
    split at e
    · cases e
      exact h.adopt
    · cases e
      exact h
  refine ht.ite ?_
  split
  next e' => exact (ht.serve.of_eq e').sendReply.thenIf (·.countWrite)

theorem State.Sound.replyArrives {s : State} {d p} (h : s.Sound) : (s.replyArrives d p).Sound := h.ite (h.count.ite h.takeReply)

theorem State.Sound.pumpAll {s : State} (h : s.Sound) : s.pumpAll.Sound := h.pump.pump

theorem lands_execRemoteRequestArrival {die pkt} {s : State} (h : s.Sound) : Lands (execRemoteRequestArrival die pkt s) :=
  h.requestArrives.pumpAll

theorem lands_execRemoteReply {die pkt} {s : State} (h : s.Sound) : Lands (execRemoteReply die pkt s) := h.replyArrives.pumpAll

theorem lands_execFlagArrival {die pkt} {s : State} (h : s.Sound) : Lands (execFlagArrival die pkt s) := by
  unfold execFlagArrival
  dsimp only
  split
  · exact h
  split
  · exact h.count
  · exact h.flagArrives.pumpAll

theorem State.Sound.tagTimesOut {s : State} {d tag} (h : s.Sound) : (s.tagTimesOut d tag).Sound := by
  unfold State.tagTimesOut
  split
  · exact h
  · exact h.complete.setDie h.complete.die.same

theorem lands_execRemoteTimeout {die tag} {s : State} (h : s.Sound) : Lands (execRemoteTimeout die tag s) := by
  unfold execRemoteTimeout
  split
  · exact h
  split
  · exact h
  · exact h.tagTimesOut.pumpAll

theorem lands_execRemoteTagRelease {die tag} {s : State} (h : s.Sound) : Lands (execRemoteTagRelease die tag s) := by
  unfold execRemoteTagRelease
  split
  · exact h
  split
  · exact h
  · exact (h.setDie h.die.same).pumpAll

theorem State.Sound.deliverPacket {s : State} {d p} (h : s.Sound) : (s.deliverPacket d p).Sound := h.replyArrives.ite h.requestArrives

theorem State.Sound.forward {s : State} {d p} (h : s.Sound) : (s.forward d p).Sound := by
  unfold State.forward
  split
  · exact h.count
  split
  · exact h.deliverPacket
  · exact h.ite h.sendReply
  · exact h.inject

theorem lands_execPacketHop {die arrival} {s : State} (h : s.Sound) : Lands (execPacketHop die arrival s) := by
  unfold execPacketHop
  split
  · exact h.forward.pumpAll
  dsimp only
  split
  · exact h
  · exact (h.setDie h.die.same).forward.pumpAll

theorem State.Sound.setLink {s : State} {d l up} (h : s.Sound) : (s.setLink d l up).Sound :=
  ((h.count.ite h).setDieReg.count.ite (h.count.ite h).setDieReg).setDieReg.ite (h.count.ite h).setDieReg

theorem lands_execTlinksEnable {die v} {s : State} (h : s.Sound) : Lands (execTlinksEnable die v s) :=
  h.setDieReg.foldl (fun _ hs => hs.setLink.ite hs)

theorem lands_execLinkTrainingResult {die link far} {s : State} (h : s.Sound) : Lands (execLinkTrainingResult die link far s) := by
  unfold execLinkTrainingResult
  dsimp only
  split
  · exact h
  split
  · exact h
  split
  · exact h.setLink
  · exact h.count

theorem lands_execLinkFailure {die link} {s : State} (h : s.Sound) : Lands (execLinkFailure die link s) := by
  unfold execLinkFailure
  split
  · exact h.setLink
  · exact h

theorem State.Sound.setRoute {s : State} {d bank dest e} (h : s.Sound) : (s.setRoute d bank dest e).Sound := h.setDie h.die.same

theorem lands_execRtwWrite {die v} {s : State} (h : s.Sound) : Lands (execRtwWrite die v s) := by
  unfold execRtwWrite
  dsimp only
  split
  · exact h
  · exact h.setDieReg.setRoute

theorem lands_execFsrstWrite {die v} {s : State} (h : s.Sound) : Lands (execFsrstWrite die v s) := h.resetSource.setDieReg

/-! ## What the functions of Machine/Vector keep -/

theorem State.Sound.setVec {s : State} {n v} (h : s.Sound) : (s.setVec n v).Sound := h.setCur

theorem State.Sound.writeLanes {s : State} {d m f} (h : s.Sound) : (s.writeLanes d m f).Sound := h.setVec

theorem State.Sound.draws {s : State} {mode n} (h : s.Sound) : (s.draws mode n).1.Sound := by
  unfold State.draws
  dsimp only
  split
  · exact h.setMe
  · exact h

theorem State.Sound.fp3 {s : State} {d a b m e useC f} (h : s.Sound) : (s.fp3 d a b m e useC f).Sound := h.writeLanes

theorem lands_execVadd {sy d a b m e} {s : State} (h : s.Sound) : Lands (execVadd sy d a b m e s) := h.issue (fun hs => hs.fp3)

theorem lands_execVsub {sy d a b m e} {s : State} (h : s.Sound) : Lands (execVsub sy d a b m e s) := h.issue (fun hs => hs.fp3)

theorem lands_execVmul {sy d a b m e} {s : State} (h : s.Sound) : Lands (execVmul sy d a b m e s) := h.issue (fun hs => hs.fp3)

theorem lands_execVfma {sy d a b m e} {s : State} (h : s.Sound) : Lands (execVfma sy d a b m e s) := h.issue (fun hs => hs.fp3)

theorem lands_execVfms {sy d a b m e} {s : State} (h : s.Sound) : Lands (execVfms sy d a b m e s) := h.issue (fun hs => hs.fp3)

theorem lands_execVmax {sy d a b m e} {s : State} (h : s.Sound) : Lands (execVmax sy d a b m e s) := h.issue (fun hs => hs.fp3)

theorem lands_execVmin {sy d a b m e} {s : State} (h : s.Sound) : Lands (execVmin sy d a b m e s) := h.issue (fun hs => hs.fp3)

theorem State.Sound.fp2 {s : State} {d a m i o sat sr f} (h : s.Sound) : (s.fp2 d a m i o sat sr f).Sound := h.draws.writeLanes

theorem lands_execVabs {sy d a m i o} {s : State} (h : s.Sound) : Lands (execVabs sy d a m i o s) := h.issue (fun hs => hs.fp2)

theorem lands_execVneg {sy d a m i o} {s : State} (h : s.Sound) : Lands (execVneg sy d a m i o s) := h.issue (fun hs => hs.fp2)

theorem lands_execVrcp {sy d a m i o t r} {s : State} (h : s.Sound) : Lands (execVrcp sy d a m i o t r s) := h.issue (fun hs => hs.fp2)

theorem lands_execVrsq {sy d a m i o t r} {s : State} (h : s.Sound) : Lands (execVrsq sy d a m i o t r s) := h.issue (fun hs => hs.fp2)

theorem lands_execVexp2 {sy d a m i o} {s : State} (h : s.Sound) : Lands (execVexp2 sy d a m i o s) := h.issue (fun hs => hs.writeLanes)

theorem lands_execVlog2 {sy d a m i o} {s : State} (h : s.Sound) : Lands (execVlog2 sy d a m i o s) := h.issue (fun hs => hs.writeLanes)

theorem State.Sound.int3 {s : State} {d a b m f} (h : s.Sound) : (s.int3 d a b m f).Sound := h.writeLanes

theorem lands_execVand {sy d a b m} {s : State} (h : s.Sound) : Lands (execVand sy d a b m s) := h.issue (fun hs => hs.int3)

theorem lands_execVor {sy d a b m} {s : State} (h : s.Sound) : Lands (execVor sy d a b m s) := h.issue (fun hs => hs.int3)

theorem lands_execVxor {sy d a b m} {s : State} (h : s.Sound) : Lands (execVxor sy d a b m s) := h.issue (fun hs => hs.int3)

theorem lands_execVnot {sy d a m} {s : State} (h : s.Sound) : Lands (execVnot sy d a m s) := h.issue (fun hs => hs.writeLanes)

theorem lands_execVshl {sy d a b m} {s : State} (h : s.Sound) : Lands (execVshl sy d a b m s) := h.issue (fun hs => hs.int3)

theorem lands_execVshr {sy d a b m} {s : State} (h : s.Sound) : Lands (execVshr sy d a b m s) := h.issue (fun hs => hs.int3)

theorem lands_execVsar {sy d a b m} {s : State} (h : s.Sound) : Lands (execVsar sy d a b m s) := h.issue (fun hs => hs.int3)

theorem lands_execViadd {sy d a b m t} {s : State} (h : s.Sound) : Lands (execViadd sy d a b m t s) := h.issue (fun hs => hs.writeLanes)

theorem lands_execVimul {sy d a b m t} {s : State} (h : s.Sound) : Lands (execVimul sy d a b m t s) := h.issue (fun hs => hs.writeLanes)

theorem lands_execVcmp {sy d a b t m} {s : State} (h : s.Sound) : Lands (execVcmp sy d a b t m s) := h.issue (fun hs => hs.setMask)

theorem lands_execVsel {sy d a b m} {s : State} (h : s.Sound) : Lands (execVsel sy d a b m s) := h.issue (fun hs => hs.writeLanes)

theorem lands_execVperm {sy d a b m} {s : State} (h : s.Sound) : Lands (execVperm sy d a b m s) := h.issue (fun hs => hs.writeLanes)

theorem lands_execVred {sy d a m f} {s : State} (h : s.Sound) : Lands (execVred sy d a m f s) := h.issue (fun hs => hs.setVec)

theorem lands_execVcvtFromFp32 {sy d a f r t} {s : State} (h : s.Sound) : Lands (execVcvtFromFp32 sy d a f r t s) :=
  h.issue (fun hs => hs.draws.setVec)

theorem lands_execVcvtToFp32 {sy d a f} {s : State} (h : s.Sound) : Lands (execVcvtToFp32 sy d a f s) := h.issue (fun hs => hs.writeLanes)

theorem lands_execVquant {sy d a f r t} {s : State} (h : s.Sound) : Lands (execVquant sy d a f r t s) := by
  unfold execVquant
  refine h.issue (fun hs => ?_)
  split
  next e =>
    have ht := hs.draws.of_eq e
    dsimp only
    split
    · exact ht.setVec
    · exact ht.setVec

theorem lands_execVdeq {sy d a f} {s : State} (h : s.Sound) : Lands (execVdeq sy d a f s) := h.issue (fun hs => hs.writeLanes)

theorem lands_execVbcast {sy d a l} {s : State} (h : s.Sound) : Lands (execVbcast sy d a l s) := h.issue (fun hs => hs.writeLanes)

theorem lands_execVsplat {sy d i} {s : State} (h : s.Sound) : Lands (execVsplat sy d i s) := h.issue (fun hs => hs.writeLanes)

theorem lands_execViota {sy d x} {s : State} (h : s.Sound) : Lands (execViota sy d x s) := h.issue (fun hs => hs.writeLanes)

theorem lands_execVmov {sy d a} {s : State} (h : s.Sound) : Lands (execVmov sy d a s) := h.issue (fun hs => hs.setVec)

theorem State.Sound.setCursor {s : State} {n} (h : s.Sound) : (s.setCursor n).Sound := h.setCur

theorem sound_pushVec {a q n} {s : State} (h : s.Sound) : (pushVec a q n s).Sound := by
  induction n generalizing s with
  | zero => exact h
  | succ n ih =>
    unfold pushVec
    exact h.ite (ih h.setCur.setCursor)

theorem sound_popVec {d q n} {s : State} (h : s.Sound) : (popVec d q n s).Sound := by
  induction n generalizing s with
  | zero => exact h
  | succ n ih =>
    unfold popVec
    dsimp only
    split
    · exact ih h.setCur.setVec.setCursor
    · exact h

theorem lands_execVmovToQueue {sy a q} {s : State} (h : s.Sound) : Lands (execVmovToQueue sy a q s) := by
  unfold execVmovToQueue
  refine h.issue (fun hs => ?_)
  dsimp only
  split
  · exact (sound_pushVec hs).setCursor
  · exact sound_pushVec hs

theorem lands_execVmovFromQueue {sy d q} {s : State} (h : s.Sound) : Lands (execVmovFromQueue sy d q s) := by
  unfold execVmovFromQueue
  refine h.issue (fun hs => ?_)
  dsimp only
  split
  · exact (sound_popVec hs).setCursor
  · exact sound_popVec hs

theorem lands_execVmovToInteger {sy d a l} {s : State} (h : s.Sound) : Lands (execVmovToInteger sy d a l s) := h.issue (fun hs => hs.setX)

theorem State.Sound.vecAccess {s : State} {ls release o} (h : s.Sound) : (s.vecAccess ls release o).Sound := by
  unfold State.vecAccess
  dsimp only
  split
  · exact h.accessWith (fun ht => ht)
  split
  next e => exact h.plan.of_eq e
  next e => exact h.plan.of_eq e
  next e => exact h.plan.of_eq e

theorem State.Sound.vecUntrans {s : State} {w ls seq p o store vd} (h : s.Sound) : (s.vecUntrans w ls seq p o store vd).Sound := by
  unfold State.vecUntrans
  dsimp only
  split
  · trivial
  split
  · exact h.untransFault
  split
  · split
    · trivial
    refine h.focusLines.andThen (fun hs => ?_)
    split
    · exact (hs.foldl (fun _ ht => ht.untransWrite)).setP
    · exact hs.setVec.setP
  · split
    · trivial
    refine h.focusLines.andThen (fun hs => ?_)
    split
    · exact (hs.foldl (fun _ ht => ht.untransWrite)).setP
    · exact hs.setVec.setP

theorem State.Sound.vload {s : State} {w ls seq vd p o} (h : s.Sound) : (s.vload w ls seq vd p o).Sound := by
  unfold State.vload
  split
  · exact h.vecUntrans
  · exact h.vecAccess

theorem State.Sound.vstore {s : State} {w ls seq vs p o} (h : s.Sound) : (s.vstore w ls seq vs p o).Sound := by
  unfold State.vstore
  split
  · exact h.vecUntrans
  · exact h.vecAccess

theorem lands_execVld {sy d a m o p} {s : State} (h : s.Sound) : Lands (execVld sy d a m o p s) := h.issue (fun hs => hs.vload)

theorem lands_execVst {sy d a m o p} {s : State} (h : s.Sound) : Lands (execVst sy d a m o p s) := h.issue (fun hs => hs.vstore)

theorem lands_execVgath {sy d a b m p} {s : State} (h : s.Sound) : Lands (execVgath sy d a b m p s) := h.issue (fun hs => hs.vload)

theorem lands_execVscat {sy d a b m p} {s : State} (h : s.Sound) : Lands (execVscat sy d a b m p s) := h.issue (fun hs => hs.vstore)

theorem lands_execMand {sy d a b} {s : State} (h : s.Sound) : Lands (execMand sy d a b s) := h.issue (fun hs => hs.setMask)

theorem lands_execMor {sy d a b} {s : State} (h : s.Sound) : Lands (execMor sy d a b s) := h.issue (fun hs => hs.setMask)

theorem lands_execMnot {sy d a} {s : State} (h : s.Sound) : Lands (execMnot sy d a s) := h.issue (fun hs => hs.setMask)

theorem lands_execMpop {sy a r} {s : State} (h : s.Sound) : Lands (execMpop sy a r s) := h.issue (fun hs => hs.setX)

theorem lands_execMffs {sy a r} {s : State} (h : s.Sound) : Lands (execMffs sy a r s) := h.issue (fun hs => hs.setX)

/-! ## What the functions of Machine/Complete keep -/

theorem State.Sound.deliverData {s : State} {o} (h : s.Sound) : (s.deliverData o).Sound := by
  unfold State.deliverData
  dsimp only
  split
  · exact h.setStream
  · exact h.setCore
  · exact h.setCore
  · exact h.setCore
  · exact h.setCore
  · exact h.spadWrite
  · exact h

theorem State.Sound.undoIssue {s : State} {o} (h : s.Sound) : (s.undoIssue o).Sound := by
  unfold State.undoIssue
  dsimp only
  split
  · exact h.setStream.setCore
  · exact h.setStream

theorem State.Sound.releaseOp {s : State} {o} (h : s.Sound) : (s.releaseOp o).Sound := by
  unfold State.releaseOp
  dsimp only
  split
  · exact h.setStream.dropOp.settle.setSource
  · exact h.setStream.dropOp.settle

theorem State.Sound.completeOp {s : State} {o st} (h : s.Sound) : (s.completeOp o st).Sound := by
  unfold State.completeOp
  dsimp only
  split
  · exact (h.deliverData.releaseOp.setStream.thenIf (·.pulse)).thenIf (·.setStream.resumeAfter)
  split
  · exact h.releaseOp.undoIssue.takeFault
  refine State.Sound.setStream ?_
  split
  · exact h.releaseOp.setCore
  · exact h.releaseOp

theorem lands_execMemoryAccessComplete {op} {s : State} (h : s.Sound) : Lands (execMemoryAccessComplete op s) := by
  unfold execMemoryAccessComplete
  split
  · exact h
  split
  · exact h.tryOp.shut.performOp
  split
  · exact h
  split
  · exact h.completeOp
  split
  next e => exact (h.readyLines.of_eq e : State.Sound _).completeOp
  next e =>
    have hs : State.Sound _ := h.readyLines.of_eq e
    exact hs.setOp.ite hs
  next e => exact h.readyLines.of_eq e
  next e => exact (h.readyLines.of_eq e : State.Sound _).completeOp
  next e => exact (h.readyLines.of_eq e : State.Sound _).releaseOp.undoIssue.takeFault
  next e => exact h.readyLines.of_eq e

/-! ## What the functions of Machine/Matrix keep -/

theorem State.Sound.setTile {s : State} {n t} (h : s.Sound) : (s.setTile n t).Sound := h.setCur

theorem State.Sound.withWord {s : State} {ok} {f : Word → Eff} (h : s.Sound) (hf : ∀ {x0 : Word}, (f x0).Sound) :
    (s.withWord ok f).Sound := by
  unfold State.withWord
  split
  · split
    · exact h.setCur
    · trivial
  · split
    · exact hf
    · trivial

theorem State.Sound.popWord {s : State} (h : s.Sound) : s.popWord.Sound := h.setCur

theorem State.Sound.tileDone {s : State} {cs} (h : s.Sound) : (s.tileDone cs).Sound := h.pulse

theorem State.Sound.mulOperands {s : State} {w a b} {f : State → OperandData → OperandData → Eff} (h : s.Sound)
    (hf : ∀ {x0 : State} {x1 : OperandData} {x2 : OperandData}, x0.Sound → (f x0 x1 x2).Sound) :
    (s.mulOperands w a b f).Sound := by
  unfold State.mulOperands
  split
  · trivial
  · trivial
  split
  · trivial
  split
  · trivial
  dsimp only
  split
  · exact h.countRingWait
  split
  · exact h.countRingWait
  split
  · trivial
  refine h.focusLines.andThen (fun hs => hf ?_)
  split
  · exact hs.popWord.popSlot.popSlot
  · exact hs.popWord.popSlot

theorem sound_mulBody {dense d c a b} {s : State} (h : s.Sound) : (mulBody dense d c a b s).Sound :=
  h.withWord (h.mulOperands (fun hs => hs.setTile.tileDone))

theorem lands_execMma {sy d c a b} {s : State} (h : s.Sound) : Lands (execMma sy d c a b s) := h.issue (fun ht => sound_mulBody ht)

theorem lands_execMmas {sy d c a b} {s : State} (h : s.Sound) : Lands (execMmas sy d c a b s) := h.issue (fun ht => sound_mulBody ht)

theorem sound_mzeroBody {d m} {s : State} (h : s.Sound) : (mzeroBody d m s).Sound := h.setTile

theorem lands_execMzero {sy d m} {s : State} (h : s.Sound) : Lands (execMzero sy d m s) := h.issue (fun ht => sound_mzeroBody ht)

theorem sound_mtrBody {d a} {s : State} (h : s.Sound) : (mtrBody d a s).Sound := h.setTile

theorem lands_execMtr {sy d a} {s : State} (h : s.Sound) : Lands (execMtr sy d a s) := h.issue (fun ht => sound_mtrBody ht)

theorem sound_maddBody {d a b} {s : State} (h : s.Sound) : (maddBody d a b s).Sound := h.setTile

theorem lands_execMadd {sy d a b} {s : State} (h : s.Sound) : Lands (execMadd sy d a b s) := h.issue (fun ht => sound_maddBody ht)

theorem sound_mmovBody {d a} {s : State} (h : s.Sound) : (mmovBody d a s).Sound := h.setTile

theorem lands_execMmov {sy d a} {s : State} (h : s.Sound) : Lands (execMmov sy d a s) := h.issue (fun ht => sound_mmovBody ht)

theorem sound_mscBody {d a i} {s : State} (h : s.Sound) : (mscBody d a i s).Sound := h.setTile

theorem lands_execMsc {sy d a i} {s : State} (h : s.Sound) : Lands (execMsc sy d a i s) := h.issue (fun ht => sound_mscBody ht)

theorem lands_execMldz {sy z a} {s : State} (h : s.Sound) : Lands (execMldz sy z a s) := by
  unfold execMldz
  refine h.issue (fun hs => ?_)
  dsimp only
  split
  · split
    · exact hs.untransFault
    split
    · trivial
    · exact hs.untransReady.andThen (fun hs' => hs'.setTile)
  · split
    · trivial
    · exact hs.access

theorem lands_execMstz {sy z a} {s : State} (h : s.Sound) : Lands (execMstz sy z a s) := by
  unfold execMstz
  refine h.issue (fun hs => ?_)
  dsimp only
  split
  · split
    · exact hs.untransFault
    split
    · trivial
    · exact hs.untransReady.andThen (fun hs' => hs'.untransWrite.pulse)
  · split
    · trivial
    · exact hs.access

theorem sound_mcvtBody {z a t is} {s : State} (h : s.Sound) : (mcvtBody z a t is s).Sound := by
  unfold mcvtBody
  refine h.withWord (fun {_} => ?_)
  dsimp only
  split
  · exact h.untransFault
  split
  · trivial
  · exact h.untransReady.andThen (fun hs => hs.draws.popWord.untransWrite.tileDone)

theorem lands_execMcvt {sy z a t} {s : State} (h : s.Sound) : Lands (execMcvt sy z a t s) := h.issue (fun ht => sound_mcvtBody ht)

theorem State.Sound.setTwiddle {s : State} {n} (h : s.Sound) : (s.setTwiddle n).Sound := h.setCur

theorem sound_mtwBody {a} {s : State} (h : s.Sound) : (mtwBody a s).Sound := h.setTwiddle

theorem lands_execMtw {sy a} {s : State} (h : s.Sound) : Lands (execMtw sy a s) := h.issue (fun ht => sound_mtwBody ht)

theorem sound_mfftBody {r i} {s : State} (h : s.Sound) : (mfftBody r i s).Sound := h.withWord h.popWord.setTile.setTile.tileDone

theorem lands_execMfft {sy r i} {s : State} (h : s.Sound) : Lands (execMfft sy r i s) := h.issue (fun ht => sound_mfftBody ht)

/-! ## What the functions of Machine/Kv keep -/

theorem State.Sound.lookSeq {s : State} {d asid a counted} (h : s.Sound) : (s.lookSeq d asid a counted).1.Sound := by
  unfold State.lookSeq
  extract_lets judge s1 s2
  have h1 : s1.Sound := by
    dsimp only [s1]
    split
    · exact h.expirePage
    · exact h
  have h2 : s2.Sound := h1.ite h1.count
  split
  · exact h1
  split
  · exact h2
  extract_lets
  split
  · exact h2.expirePage
  split
  · exact h2.expirePage
  split
  next e =>
  have hs := h2.expirePage.frameRead.of_eq e
  split
  · exact hs
  · exact (hs.setDie hs.die.same).ite hs

theorem State.Sound.withRecord {s : State} {p a} {go : State → SeqEntry → Eff} (h : s.Sound)
    (hgo : ∀ {x0 : State} {x1 : SeqEntry}, x0.Sound → (go x0 x1).Sound) :
    (s.withRecord p a go).Sound := by
  unfold State.withRecord
  refine h.afterProbe (fun hs => ?_)
  split
  next e =>
    have hs' := hs.lookSeq.of_eq e
    exact hgo hs'
  next e => exact hs.lookSeq.of_eq e
  next e => exact (hs.lookSeq.of_eq e).failWith
  next e => exact (hs.lookSeq.of_eq e).startProbe

theorem State.Sound.setPair {s : State} {n a b} (h : s.Sound) : (s.setPair n a b).Sound := h.setDieReg.setDieReg.setDieReg.setDieReg

theorem State.Sound.kvWrite {d f obj pg op} {s : State} {k ls} (h : s.Sound) : (State.kvWrite d f obj pg op s k ls).1.Sound := by
  induction ls generalizing s k with
  | nil => exact h
  | cons l ls ih => exact ih h.frameWrite

theorem State.Sound.countFwd {s : State} {n} (h : s.Sound) : (s.countFwd n).Sound := h.ite h.count

theorem State.Sound.writeRows {e src op} {s : State} {k rs} (h : s.Sound) : (State.writeRows e src op s k rs).1.Sound := by
  induction rs generalizing s k with
  | nil => exact h
  | cons r rs ih =>
    unfold State.writeRows
    dsimp only
    split
    · exact ih h
    · exact ih h.kvWrite

theorem State.Sound.keepOld {s : State} {l} (h : s.Sound) : (s.keepOld l).Sound := h.setCur

theorem lands_execKvapp {sy a b c p} {s : State} (h : s.Sound) : Lands (execKvapp sy a b c p s) := by
  unfold execKvapp
  refine h.issue (fun hs => ?_)
  refine Eff.Sound.ite trivial ?_
  refine Eff.Sound.ite trivial ?_
  refine hs.withRecord (fun hs' => ?_)
  refine Eff.Sound.ite hs' ?_
  split
  · exact hs'
  refine Eff.Sound.ite hs' ?_
  refine Eff.Sound.ite hs' ?_
  refine Eff.Sound.ite hs'.setP ?_
  split
  · exact hs'
  · trivial
  refine Eff.Sound.ite (hs'.foldl (fun _ hs'' => hs''.expirePage)) ?_
  refine Eff.Sound.ite (hs'.foldl (fun _ hs'' => hs''.expirePage)) ?_
  refine Eff.Sound.ite (hs'.foldl (fun _ hs'' => hs''.expirePage)).startProbe ?_
  refine Eff.Sound.ite (hs'.foldl (fun _ hs'' => hs''.expirePage)) ?_
  refine Eff.Sound.ite trivial ?_
  refine Eff.Sound.ite trivial ?_
  split
  · exact (hs'.foldl (fun _ hs'' => hs''.expirePage)).failWith
  · exact (hs'.foldl (fun _ hs'' => hs''.expirePage)).focusLines.andThen (fun hs'' => hs''.keepOld.countFwd.writeRows.sendTasks)

theorem State.Sound.writeRecord {s : State} {p va e off v} (h : s.Sound) : (s.writeRecord p va e off v).Sound := by
  unfold State.writeRecord
  dsimp only
  split
  · exact h.expirePage
  split
  · split
    · exact h.expirePage.startProbe
    · exact h.expirePage
  · split
    · exact h.expirePage
    split
    · trivial
    split
    · exact h.expirePage.failWith
    split
    · exact h.expirePage.frameWrite.failWith
    · exact h.expirePage.frameWrite.refreshSeq.sendTasks

theorem lands_execKvcmt {sy a b c p} {s : State} (h : s.Sound) : Lands (execKvcmt sy a b c p s) := by
  unfold execKvcmt
  refine h.issue (fun hs => ?_)
  dsimp only
  split
  · trivial
  split
  · trivial
  split
  · trivial
  refine hs.withRecord (fun hs' => ?_)
  split
  · exact hs'.writeRecord
  split
  · exact hs'.setP
  · exact hs'

theorem lands_execKvld {sy d a w p} {s : State} (h : s.Sound) : Lands (execKvld sy d a w p s) := by
  rw [execKvld]
  refine h.issue (fun hs => ?_)
  refine Eff.Sound.ite trivial ?_
  refine Eff.Sound.ite trivial ?_
  refine hs.withRecord (fun hs' => ?_)
  refine Eff.Sound.ite ?_ ?_
  · split
    · exact hs'
    · exact hs'.setX.setP
  · refine Eff.Sound.ite hs' ?_
    split
    · exact hs'
    refine Eff.Sound.ite hs' ?_
    split
    · exact hs'
    · trivial
    refine Eff.Sound.ite hs'.expirePage ?_
    split
    · exact hs'.expirePage.startProbe
    refine Eff.Sound.ite hs'.expirePage.startProbe ?_
    refine Eff.Sound.ite hs'.expirePage ?_
    refine hs'.expirePage.focusLines.andThen (fun hs'' => ?_)
    split
    next e =>
      have hs''' := hs''.countFwd.frameRead.of_eq e
      exact Eff.Sound.ite hs'''.failWith hs'''.spadWrite.setP

theorem lands_execKvgrow {sy a b c p} {s : State} (h : s.Sound) : Lands (execKvgrow sy a b c p s) := by
  unfold execKvgrow
  refine h.issue (fun hs => ?_)
  dsimp only
  split
  · trivial
  refine hs.withRecord (fun hs' => ?_)
  split
  · exact hs'
  split
  · exact hs'
  split
  · split
    · exact hs'
    split
    · exact hs'
    · exact hs'.writeRecord
  · split
    · exact hs'
    split
    · trivial
    split
    · exact hs'
    split
    · exact hs'
    · exact hs'.sendTasks

theorem State.Sound.setGrow {s : State} {id g ts} (h : s.Sound) : (s.setGrow id g ts).Sound := h.same.tryOp.shut

theorem lands_execKvgrowPairInstall {op} {s : State} (h : s.Sound) : Lands (execKvgrowPairInstall op s) := by
  unfold execKvgrowPairInstall
  split
  · exact h
  split
  · exact h
  split
  · exact h
  · exact h.setPair.setGrow

theorem State.Sound.endGrow {s : State} {op g st} (h : s.Sound) : (s.endGrow op g st).Sound := h.setPair.setGrow

theorem lands_execKvgrowPageCopy {op} {s : State} (h : s.Sound) : Lands (execKvgrowPageCopy op s) := by
  unfold execKvgrowPageCopy
  split
  · exact h
  dsimp only
  split
  · exact h.tryOp.shut
  split
  · split
    · exact h.endGrow
    split
    · exact (h.setPair.ite h).setGrow
    · exact (h.setPair.ite h).setGrow
  · split
    · exact h.endGrow
    · exact h.setGrow
  · split
    · exact h.setGrow
    · exact h.endGrow
  · exact h

theorem lands_execKvinvWrite {die v} {s : State} (h : s.Sound) : Lands (execKvinvWrite die v s) := by
  unfold execKvinvWrite
  split
  · exact h
  dsimp only
  split
  · exact h.setDieReg
  · exact h.setDieReg.setDie h.setDieReg.die.same

theorem lands_execKvinvComplete {die} {s : State} (h : s.Sound) : Lands (execKvinvComplete die s) := by
  unfold execKvinvComplete
  dsimp only
  split
  · exact (h.setDie h.die.same).setDieReg
  · exact h

/-! ## What the functions of Machine/Attn keep -/

theorem State.Sound.setKvcur {s : State} {c act cur} (h : s.Sound) : (s.setKvcur c act cur).Sound := h.setCore

theorem State.Sound.unpin {s : State} {o} (h : s.Sound) : (s.unpin o).Sound := by
  unfold State.unpin
  refine h.foldl (fun _ hs => ?_)
  split
  · split
    · exact hs
    dsimp only
    split
    · exact hs.setLease
    · exact hs
  · exact hs

theorem State.Sound.setAttn {s : State} {o zd stage cap ts} (h : s.Sound) : (s.setAttn o zd stage cap ts).Sound := h.setOp.tryOp.shut

theorem State.Sound.emptyTriples {s : State} {c zd nq n} (h : s.Sound) : (s.emptyTriples c zd nq n).Sound := h.setCore.ite h

theorem State.Sound.nextRound {s : State} {c zd va rb counted} (h : s.Sound) : (s.nextRound c zd va rb counted).1.Sound := by
  unfold State.nextRound
  dsimp only
  split
  next e => exact h.lookSeq.of_eq e
  next e => exact h.lookSeq.of_eq e
  next e => exact h.lookSeq.of_eq e
  next e =>
    have hs := h.lookSeq.of_eq e
    split
    · exact hs.emptyTriples
    split
    · exact hs.emptyTriples
    split
    · exact hs.emptyTriples
    · exact hs.emptyTriples

theorem State.Sound.markRestart {s : State} {c b} (h : s.Sound) : (s.markRestart c b).Sound := h.setCore

theorem State.Sound.attnStops {s : State} {o f} (h : s.Sound) : (s.attnStops o f).Sound :=
  h.unpin.releaseOp.undoIssue.markRestart.takeFault

theorem State.Sound.attnRetires {s : State} {o st} (h : s.Sound) : (s.attnRetires o st).Sound :=
  h.releaseOp.setCore.setStream.postClasses.resumeAfter.pulse.pulse

theorem State.Sound.attnFails {s : State} {o va st} (h : s.Sound) : (s.attnFails o va st).Sound :=
  h.attnStops.ite (h.attnStops.ite h.unpin.attnRetires)

theorem State.Sound.attnGoes {s : State} {o zd va a} (h : s.Sound) : (s.attnGoes o zd va a).Sound := by
  unfold State.attnGoes
  split
  · exact h.unpin.setAttn
  · exact h.unpin.setKvcur.attnRetires
  · exact h.attnStops
  · exact h.attnFails
  · exact h.unpin.setAttn

theorem lands_execKvattn {sy d a b p} {s : State} (h : s.Sound) : Lands (execKvattn sy d a b p s) := by
  unfold execKvattn
  refine h.issue (fun hs => ?_)
  dsimp only
  split
  · split
    · trivial
    · exact hs.markRestart.addOp.setMe.setAttn
  · refine hs.withWord (fun {_} => ?_)
    split
    · trivial
    split
    · exact hs.popWord.setCur.addOp.setMe.setAttn
    · exact hs.popWord.setCur.setTile.setKvcur.setCur.addOp.setMe.setAttn

theorem State.Sound.mergeRound {s : State} {c zd e va rb ts} (h : s.Sound) : (s.mergeRound c zd e va rb ts).Sound := h.setCore

theorem State.Sound.roundDone {s : State} {o zd e va rb fwd} (h : s.Sound) : (s.roundDone o zd e va rb fwd).Sound :=
  (h.mergeRound.same.unpin.count.thenUnless (·.count)).setKvcur

theorem lands_execKvattnRound {core} {s : State} (h : s.Sound) : Lands (execKvattnRound core s) := by
  unfold execKvattnRound
  split
  · exact h
  split
  · split
    · exact h.tryOp.shut
    split
    · exact h.attnFails
    split
    next e =>
      have hs := h.nextRound.of_eq e
      split
      · exact hs.attnGoes
      split
      · exact hs.attnFails
      · exact hs.roundDone.nextRound.attnGoes
    next e => exact (h.nextRound.of_eq e).attnGoes
  · exact h

/-! ## What the functions of Machine/Control keep -/

theorem sound_header {s : State} {len n} (h : s.Sound) : (header s len n).Sound := by
  unfold header
  dsimp only
  split
  · trivial
  split
  · trivial
  split
  · split
    · trivial
    split
    · exact h
    · exact h
  · split
    · trivial
    split
    · exact h
    · exact h

theorem lands_execBlk {l c} {s : State} (h : s.Sound) : Lands (execBlk l c s) := h.issue (fun hs => sound_header hs)

theorem lands_execBlkr {l r} {s : State} (h : s.Sound) : Lands (execBlkr l r s) := h.issue (fun hs => sound_header hs)

theorem lands_execPrep {sy g t} {s : State} (h : s.Sound) : Lands (execPrep sy g t s) := h.issue (fun hs => hs.setSteer)

theorem sound_branchTo {s : State} {tv t} (h : s.Sound) : (branchTo s tv t).Sound := by
  unfold branchTo
  split
  · exact h
  · trivial

theorem lands_execBr {sy g} {s : State} (h : s.Sound) : Lands (execBr sy g s) := by
  unfold execBr
  refine h.issue (fun hs => ?_)
  dsimp only
  split
  · exact sound_branchTo hs
  · exact hs

theorem lands_execBrl {sy g} {s : State} (h : s.Sound) : Lands (execBrl sy g s) := by
  unfold execBrl
  refine h.issue (fun hs => ?_)
  dsimp only
  split
  · exact sound_branchTo hs.setSteer
  · exact hs

theorem lands_execRet {sy g} {s : State} (h : s.Sound) : Lands (execRet sy g s) := h.issue (fun hs => sound_branchTo hs)

theorem lands_execCmp {sy g a b c} {s : State} (h : s.Sound) : Lands (execCmp sy g a b c s) := h.issue (fun hs => hs.setCond)

theorem lands_execCmpi {sy g a c i} {s : State} (h : s.Sound) : Lands (execCmpi sy g a c i s) := h.issue (fun hs => hs.setCond)

theorem State.Sound.copyFault {s t : State} {p f} (h : s.Sound) (e : s.copyFault p = some (t, f)) : t.Sound := by
  unfold State.copyFault at e
  split at e
  · cases e
  · dsimp only at e
    split at e
    · cases e
      exact h.setCur
    · cases e

theorem lands_execTstp {sy g p v t} {s : State} (h : s.Sound) : Lands (execTstp sy g p v t s) := by
  unfold execTstp
  refine h.issue (fun hs => ?_)
  split
  next e => exact hs.copyFault e
  · exact hs.setCond

theorem lands_execTstq {sy g p v t} {s : State} (h : s.Sound) : Lands (execTstq sy g p v t s) := h.issue (fun hs => hs.setCond)

theorem lands_execTstm {sy g p v t} {s : State} (h : s.Sound) : Lands (execTstm sy g p v t s) := h.issue (fun hs => hs.setCond)

theorem State.Sound.setJoinSet {s : State} {j} (h : s.Sound) : (s.setJoinSet j).Sound := h.setCur

theorem lands_execFork {sy m} {s : State} (h : s.Sound) : Lands (execFork sy m s) := h.issue (fun hs => hs.setJoinSet)

theorem lands_execJoin {sy m} {s : State} (h : s.Sound) : Lands (execJoin sy m s) := h.issue (fun hs => hs.setJoinSet)

theorem lands_execNop {sy} {s : State} (h : s.Sound) : Lands (execNop sy s) := h.issue (fun hs => hs)

theorem sound_yieldBody {s : State} (h : s.Sound) : (yieldBody s).Sound := by
  unfold yieldBody
  split
  · exact h
  split
  · trivial
  · exact h

theorem lands_execYield {sy} {s : State} (h : s.Sound) : Lands (execYield sy s) := h.issue (fun ht => sound_yieldBody ht)

theorem lands_execHalt {sy} {s : State} (h : s.Sound) : Lands (execHalt sy s) := by
  unfold execHalt
  refine h.issue (fun hs => ?_)
  split
  · trivial
  · exact hs.setMe.setJoinSet.thenIf (·.arriveHalted)

theorem lands_execTfence {sy} {s : State} (h : s.Sound) : Lands (execTfence sy s) := by
  unfold execTfence
  refine h.issue (fun hs => ?_)
  dsimp only
  split
  · exact hs.setMe
  · exact hs

theorem lands_execTrap {sy c} {s : State} (h : s.Sound) : Lands (execTrap sy c s) := by
  unfold execTrap
  refine h.issue (fun hs => ?_)
  split
  · exact hs
  dsimp only
  split
  · exact hs.setCur
  · trivial

theorem lands_execEret {sy} {s : State} (h : s.Sound) : Lands (execEret sy s) := by
  unfold execEret
  refine h.issue (fun hs => ?_)
  split
  · trivial
  · exact hs.setCur

theorem lands_execSwap {sy} {s : State} (h : s.Sound) : Lands (execSwap sy s) := by
  unfold execSwap
  refine h.issue (fun hs => ?_)
  split
  · trivial
  · exact hs

theorem lands_execCompactNop {s : State} (h : s.Sound) : Lands (execCompactNop s) := h.issue (fun hs => hs)

theorem lands_execCompactBr {g} {s : State} (h : s.Sound) : Lands (execCompactBr g s) := by
  unfold execCompactBr
  refine h.issue (fun hs => ?_)
  dsimp only
  split
  · exact sound_branchTo hs
  · exact hs

theorem lands_execCompactYield {s : State} (h : s.Sound) : Lands (execCompactYield s) := h.issue (fun ht => sound_yieldBody ht)

theorem lands_execIllegalInstruction {cause} {s : State} (h : s.Sound) : Lands (execIllegalInstruction cause s) := h.takeFault

/-! ## What the functions of Machine/Swath keep -/

/-- An arm of `matchBody` gives its body or none. -/
theorem Eff.Sound.of_arm {s : State} {b g : State → Eff} {p : Prop} [Decidable p] (hb : (b s).Sound)
    (e : (if p then some b else none) = some g) : (g s).Sound := by
  split at e <;> cases e
  exact hb

theorem State.Sound.matchBody {s : State} {i f} (h : s.Sound) (e : Machine.matchBody i = some f) : (f s).Sound := by
  unfold Machine.matchBody at e
  split at e
  · exact Eff.Sound.of_arm (sound_mulBody h) e
  · exact Eff.Sound.of_arm (sound_mulBody h) e
  · exact Eff.Sound.of_arm (sound_mfftBody h) e
  · exact Eff.Sound.of_arm (sound_mtwBody h) e
  · exact Eff.Sound.of_arm (sound_mzeroBody h) e
  · exact Eff.Sound.of_arm (sound_mtrBody h) e
  · exact Eff.Sound.of_arm (sound_maddBody h) e
  · exact Eff.Sound.of_arm (sound_mmovBody h) e
  · exact Eff.Sound.of_arm (sound_mscBody h) e
  · exact Eff.Sound.of_arm (sound_mcvtBody h) e
  · cases e

theorem State.Sound.begin_ {s : State} (h : s.Sound) : s.begin_.Sound := h.ite h.setCur

theorem sound_chainBody {zA zC a1 b1 zB zD a2 b2} {s : State} (h : s.Sound) : (chainBody zA zC a1 b1 zB zD a2 b2 s).Sound :=
  h.withWord (h.mulOperands (fun hs => hs.withWord (hs.mulOperands (fun hs' => hs'.setTile.setTile.pulse.tileDone))))

theorem sound_runReps {rs cs} {s : State} (h : s.Sound) : (runReps rs cs s).Sound := by
  fun_induction runReps rs cs s with
  | case1 => exact h
  | case2 _ _ _ _ _ _ _ _ _ _ _ _ _ e ih => exact ih ((sound_chainBody h).of_eq e)
  | case3 => exact sound_chainBody h
  | case4 => exact h
  | case5 => exact h
  | case6 _ _ _ _ _ _ _ _ _ e ih => exact ih ((sound_mcvtBody h).of_eq e)
  | case7 => exact sound_mcvtBody h
  | case8 _ _ _ _ _ hf _ _ e ih => exact ih ((h.matchBody hf).of_eq e)
  | case9 _ _ _ _ _ hf => exact h.matchBody hf
  | case10 => exact h

theorem State.Sound.dropMatch {s : State} {m} (h : s.Sound) : (s.dropMatch m).Sound := h.setCur

theorem State.Sound.retireAs {s : State} {n cs} (h : s.Sound) : (s.retireAs n cs).Sound :=
  (h.awake.retireFlags.foldl (fun _ hs => hs.retireFlags)).setPc.setCur

theorem State.Sound.swathFault {s : State} {m f} (h : s.Sound) : (s.swathFault m f).Sound := (h.count.ite h).awake.takeFault

theorem State.Sound.applyMatch {s : State} {m} (h : s.Sound) : (s.applyMatch m).Sound := by
  unfold State.applyMatch
  dsimp only
  split
  · exact h.blocked
  split
  · exact h.dropMatch
  split
  next e =>
    have ht : State.Sound _ := (sound_runReps h).of_eq e
    split
    · exact h.blocked
    · exact ht.retireAs
  · split
    next e' => exact (h.focusLines.of_eq e' : State.Sound _).blocked
    next e' => exact (h.focusLines.of_eq e' : State.Sound _).blocked
    next e' => exact (h.focusLines.of_eq e' : State.Sound _).blocked
    next e' => exact (h.focusLines.of_eq e' : State.Sound _).blocked
    next e' => exact (h.focusLines.of_eq e' : State.Sound _).swathFault
    next e' => exact (h.focusLines.of_eq e' : State.Sound _).swathFault
  · exact h.blocked
  · exact h.swathFault
  · exact h.swathFault
  · exact h.swathFault
  · exact h

theorem State.Sound.swathTurn {s : State} (h : s.Sound) : s.swathTurn.Sound := by
  unfold State.swathTurn
  dsimp only
  split
  · exact h.setCur.takeFault
  split
  · exact h.setCur.ite (h.setCur.ite h)
  split
  · split
    · exact h.begin_
    · exact h.begin_.applyMatch
  · exact h.begin_

theorem lands_execSwathReplacement {core} {s : State} (h : s.Sound) : Lands (execSwathReplacement core s) := by
  unfold execSwathReplacement
  dsimp only
  split
  · split
    next e => exact (h.same.swathTurn.of_eq e : State.Sound _).same
    next e => exact (h.same.swathTurn.of_eq e : State.Sound _).same
  · exact h

theorem lands_execRwctl {sy a b} {s : State} (h : s.Sound) : Lands (execRwctl sy a b s) := by
  unfold execRwctl
  refine h.issue (fun hs => ?_)
  dsimp only
  split
  · exact hs.setCur
  · exact hs.setCur
  · exact hs.setCur
  · trivial

/-! ## What the functions of Machine/Launch keep -/

theorem State.Sound.setCtl {s : State} {c f} (h : s.Sound) : (s.setCtl c f).Sound := h.setCore

theorem State.Sound.tryLoad {s : State} {c} (h : s.Sound) : (s.tryLoad c).Sound := by
  unfold State.tryLoad
  split
  · exact h
  split
  · exact h
  split
  · exact h.setCtl
  dsimp only
  split
  next e => exact (h.plan.of_eq e).setCtl
  next e => exact h.plan.of_eq e
  next e => exact (h.plan.of_eq e).addOp.setCtl.performOp

theorem State.Sound.startLoad {s : State} {c va kind} (h : s.Sound) : (s.startLoad c va kind).Sound := h.setCtl.tryLoad

theorem State.Sound.dropLoad {s : State} {c} (h : s.Sound) : (s.dropLoad c).Sound := by
  unfold State.dropLoad
  refine State.Sound.setCtl ?_
  split
  · split
    · exact h.dropOp
    · exact h
  · exact h

theorem State.Sound.activate {s : State} {c} (h : s.Sound) : (s.activate c).Sound := h.setCore.spadWrite.setCtl

theorem State.Sound.freeCore {s : State} {c} (h : s.Sound) : (s.freeCore c).Sound := h.dropLoad.setCtl.setDie h.dropLoad.setCtl.die.same

theorem State.Sound.buildRings {s : State} {g} (h : s.Sound) : (s.buildRings g).Sound :=
  h.foldl (fun _ hs => hs.setDie ⟨hs.die.mem, wf_writeBytes hs.die.commons _ _⟩)

theorem State.Sound.enqueueStart {s : State} {c g} (h : s.Sound) : (s.enqueueStart c g).Sound := h.setDie h.die.same

theorem State.Sound.launchReady {s : State} {g} (h : s.Sound) : (s.launchReady g).Sound :=
  h.setGang.buildRings.foldl (fun _ hs => hs.setCore.activate.enqueueStart)

theorem State.Sound.setQueueRun {s : State} {q r} (h : s.Sound) : (s.setQueueRun q r).Sound := h.same

theorem State.Sound.setNode {s : State} {q n v} (h : s.Sound) : (s.setNode q n v).Sound := h.setQueueRun

theorem State.Sound.endGang {s : State} {g st} (h : s.Sound) : (s.endGang g st).Sound := (h.foldl (fun _ hs => hs.freeCore)).same.setNode

theorem State.Sound.seat {s : State} {g} (h : s.Sound) : (s.seat g).Sound := h.foldl (fun _ hs => hs.setCore.setCtl)

theorem State.Sound.loadPlanes {s : State} {g va} (h : s.Sound) : (s.loadPlanes g va).Sound := h.foldl (fun _ hs => hs.startLoad)

theorem State.Sound.addGang {s : State} {g} (h : s.Sound) : (s.addGang g).Sound := h.same

theorem lands_execLaunchAdmission {queue} {s : State} (h : s.Sound) : Lands (execLaunchAdmission queue s) := by
  unfold execLaunchAdmission
  split
  · exact h
  split
  · exact h
  split
  · dsimp only
    split
    · exact h.same.addGang.setNode.seat.loadPlanes
    · exact h.same
  · exact h

theorem State.Sound.wakeStream {s : State} {i} (h : s.Sound) : (s.wakeStream i).Sound := by
  unfold State.wakeStream
  split
  · exact h.setStream
  · exact h.resumeAfter
  · split
    · exact (h.setDie h.die.same).restart
    · exact h
  · exact h

theorem State.Sound.release {s : State} {c g} (h : s.Sound) : (s.release c g).Sound := by
  unfold State.release
  refine State.Sound.foldl ?_ (fun _ hs => hs.wakeStream)
  split
  · exact h.setCtl.setGang
  · exact h.setCtl

theorem lands_execCoreRelease {die} {s : State} (h : s.Sound) : Lands (execCoreRelease die s) := by
  unfold execCoreRelease
  dsimp only
  split
  · exact h
  split
  · exact h
  · exact (h.setDie h.die.same).release

theorem lands_execLaunchComplete {gang} {s : State} (h : s.Sound) : Lands (execLaunchComplete gang s) := by
  unfold execLaunchComplete
  split
  · exact h
  split
  · exact h.endGang
  · exact h

theorem lands_execStageGrowth {gang} {s : State} (h : s.Sound) : Lands (execStageGrowth gang s) := by
  unfold execStageGrowth
  split
  · exact h
  split
  · exact h
  split
  · exact h.setCore.setCtl.startLoad
  · exact h

theorem State.Sound.retireYields {s : State} {c} (h : s.Sound) : (s.retireYields c).Sound :=
  h.ite (h.foldl (fun _ hs => hs.resumeAfter.ite hs))

theorem State.Sound.cancelMove {s : State} {c} (h : s.Sound) : (s.cancelMove c).Sound := h.dropLoad.setCtl.count.retireYields

theorem State.Sound.loadFault {s : State} {c} (h : s.Sound) : (s.loadFault c).Sound :=
  ((h.setCtl.thenIf (·.count)).takeFault.ite (h.setCtl.thenIf (·.count))).retireYields

theorem lands_execDrainPoint {core} {s : State} (h : s.Sound) : Lands (execDrainPoint core s) := by
  unfold execDrainPoint
  dsimp only
  split
  · exact h
  split
  · exact h.retireYields
  split
  · split
    · exact h.cancelMove
    · exact h
  · split
    · exact h.loadFault
    split
    · split
      · exact h
      split
      · exact h.cancelMove
      · exact h.setCtl
    · exact h.retireYields

theorem State.Sound.swapPlanes {s : State} {c} (h : s.Sound) : (s.swapPlanes c).Sound := h.setCore.activate

theorem State.Sound.moveCore {s : State} {c t} (h : s.Sound) : (s.moveCore c t).Sound := by
  unfold State.moveCore
  split
  · exact h
  · exact h.setGang.setCtl.count

theorem State.Sound.chainCore {s : State} {c next} (h : s.Sound) : (s.chainCore c next).Sound := by
  unfold State.chainCore
  split
  · exact h.setGang.setGang.setCore.thenIf (·.endGang)
  · exact h

theorem lands_execPlaneSwap {core} {s : State} (h : s.Sound) : Lands (execPlaneSwap core s) := by
  unfold execPlaneSwap
  dsimp only
  split
  · split
    · exact h
    split
    · split
      · exact h
      split
      · exact h.cancelMove
      · exact h.moveCore.swapPlanes
    · exact h.swapPlanes.chainCore
    · exact h.swapPlanes
  · split
    · exact h
    split
    · split
      · exact h
      split
      · exact h.cancelMove
      · exact h.moveCore.swapPlanes
    · exact h.swapPlanes.chainCore
    · exact h.swapPlanes

theorem State.Sound.chainFails {s : State} {next} (h : s.Sound) : (s.chainFails next).Sound := by
  unfold State.chainFails
  split
  · exact h
  split
  · exact h
  refine State.Sound.endGang (State.Sound.same (h.foldl (fun _ hs => ?_)))
  dsimp only
  split
  · refine State.Sound.retireYields (State.Sound.setCtl ?_)
    split
    · exact hs.dropLoad.ite hs
    · exact hs
  · split
    · exact hs.dropLoad.ite hs
    · exact hs

/-! ## What the functions of Machine/Optical keep -/

theorem State.Sound.setPortRun {s : State} {d p r} (h : s.Sound) : (s.setPortRun d p r).Sound := h.setDie h.die.same

theorem State.Sound.setPort {s : State} {d p st} (h : s.Sound) : (s.setPort d p st).Sound :=
  (h.setDieReg.thenUnless (·.setDieReg)).settlePool

theorem State.Sound.portGate {s : State} {d p} (h : s.Sound) : (s.portGate d p).Sound := h.setPort.ite h

theorem State.Sound.portTrain {s : State} {d p} (h : s.Sound) : (s.portTrain d p).Sound := h.setPortRun.setPort.ite h

theorem State.Sound.portDrain {s : State} {d p} (h : s.Sound) : (s.portDrain d p).Sound := h.setPortRun.setPort.ite (h.setPort.ite h)

theorem State.Sound.portPowerOff {s : State} {d p} (h : s.Sound) : (s.portPowerOff d p).Sound := h.setPort.ite (h.setPort.ite h)

theorem lands_execGate {die port} {s : State} (h : s.Sound) : Lands (execGate die port s) := h.portGate

theorem lands_execTrain {die port} {s : State} (h : s.Sound) : Lands (execTrain die port s) := h.portTrain

theorem lands_execDrain {die port} {s : State} (h : s.Sound) : Lands (execDrain die port s) := h.portDrain

theorem lands_execOff {die port} {s : State} (h : s.Sound) : Lands (execOff die port s) := h.portPowerOff

theorem State.Sound.writeOport {s : State} {d p v} (h : s.Sound) : (s.writeOport d p v).Sound := by
  unfold State.writeOport
  dsimp only
  split
  · exact h
  split
  · exact h.setDieReg.portGate
  · exact h.setDieReg.portTrain
  · exact h.setDieReg.portDrain
  · exact h.setDieReg.portPowerOff
  · exact h.setDieReg

theorem State.Sound.markPort {s : State} {d p steps st gone} (h : s.Sound) : (s.markPort d p steps st gone).Sound := h.same

theorem State.Sound.portRemoved {s : State} {d p} (h : s.Sound) : (s.portRemoved d p).Sound := h.markPort.setPort

theorem lands_execLaserModuleRemoved {die m} {s : State} (h : s.Sound) : Lands (execLaserModuleRemoved die m s) := by
  unfold execLaserModuleRemoved
  split
  · exact h
  · exact (h.setDieReg.foldl (fun _ hs => hs.portRemoved)).setDieReg

theorem lands_execLaserModuleInserted {die m} {s : State} (h : s.Sound) : Lands (execLaserModuleInserted die m s) := by
  unfold execLaserModuleInserted
  split
  · exact h
  · exact h.setDieReg.foldl (fun _ hs => hs.setPort.ite hs)

theorem State.Sound.attemptFails {s : State} {d p} (h : s.Sound) : (s.attemptFails d p).Sound := h.setPort.ite h.setPortRun

theorem State.Sound.portUp {s : State} {d p lanes peer} (h : s.Sound) : (s.portUp d p lanes peer).Sound := h.setDieReg.setPortRun.setPort

theorem State.Sound.stepEnds {s : State} {d p} (h : s.Sound) : (s.stepEnds d p).Sound := h.attemptFails.ite h.setPortRun

theorem State.Sound.startFrames {s : State} {d} (h : s.Sound) : (s.startFrames d).Sound := h.ite (h.setDie h.die.same)

theorem State.Sound.poolReport {s : State} {d pid inc famo mmx jrnl tick} (h : s.Sound) :
    (s.poolReport d pid inc famo mmx jrnl tick).Sound :=
  (h.poolRestarts.ite h).setDieReg.setDieReg

theorem lands_execPortTrainingResult {die port res} {s : State} (h : s.Sound) : Lands (execPortTrainingResult die port res s) := by
  unfold execPortTrainingResult
  dsimp only
  split
  · exact h
  split
  · exact h.attemptFails
  · exact h.stepEnds
  · split
    · exact h.attemptFails
    split
    · exact h.setPort
    split
    · exact h.attemptFails
    · exact h.startFrames.poolReport.portUp
  · split
    · exact h.attemptFails
    · exact h.portUp

theorem lands_execPortTrainingTimeout {die port} {s : State} (h : s.Sound) : Lands (execPortTrainingTimeout die port s) := by
  unfold execPortTrainingTimeout
  dsimp only
  split
  · exact h.attemptFails
  · exact h

theorem lands_execPortDrainComplete {die port} {s : State} (h : s.Sound) : Lands (execPortDrainComplete die port s) := by
  unfold execPortDrainComplete
  split
  · exact h.setPort
  · exact h

theorem lands_execPortDrainTimeout {die port} {s : State} (h : s.Sound) : Lands (execPortDrainTimeout die port s) := by
  unfold execPortDrainTimeout
  dsimp only
  split
  · exact ((h.foldl (fun _ hs => hs.poolTimeout)).foldl (fun _ hs => hs.tagTimesOut)).markPort.setPort
  · exact h

theorem lands_execLaneCheck {die port counts} {s : State} (h : s.Sound) : Lands (execLaneCheck die port counts s) := by
  unfold execLaneCheck
  dsimp only
  split
  · split
    · exact h
    · exact h.setDieReg.setPortRun.thenIf (·.setPort)
  · split
    · exact h
    · exact h.setDieReg.setPortRun.thenIf (·.setPort)

theorem lands_execTsnapWrite {die v} {s : State} (h : s.Sound) : Lands (execTsnapWrite die v s) := by
  unfold execTsnapWrite
  dsimp only
  split
  · exact h.setDieReg
  · exact h.setDieReg.setDie h.setDieReg.die.same

theorem lands_execLatch {die lanes} {s : State} (h : s.Sound) : Lands (execLatch die lanes s) := by
  unfold execLatch
  dsimp only
  split
  · exact h
  · exact (h.setDie h.die.same).setDieReg.foldl (fun _ hs => hs.setDieReg)

theorem lands_execSnap {sy d b} {s : State} (h : s.Sound) : Lands (execSnap sy d b s) := by
  unfold execSnap
  refine h.issue (fun hs => ?_)
  dsimp only
  split
  · trivial
  split
  · exact hs.setDie hs.die.same
  split
  · trivial
  · exact (hs.setDie hs.die.same).setX

theorem lands_execOswackWrite {die v} {s : State} (h : s.Sound) : Lands (execOswackWrite die v s) := by
  unfold execOswackWrite
  split
  · exact h
  · exact h.setDieReg

theorem lands_execGovernorSettle {fixedDraw bids} {s : State} (h : s.Sound) : Lands (execGovernorSettle fixedDraw bids s) := by
  unfold execGovernorSettle
  split
  · exact h
  refine State.Sound.same (((h.foldl (fun _ hs => hs.setDieReg)).thenUnless (·.count)).foldl (fun _ hs => ?_))
  split
  · exact hs
  · exact hs.foldl (fun _ hs' => hs'.portDrain)

/-! ## What the functions of Machine/Switch keep -/

theorem State.Sound.quiesce {s : State} {c} (h : s.Sound) : (s.quiesce c).Sound :=
  (h.foldl (fun _ hs => hs.unpin.releaseOp.undoIssue.markRestart)).same.andThen fun hs => hs.setDie hs.die.same

theorem State.Sound.entriesAway {s : State} {c g place} (h : s.Sound) : (s.entriesAway c g place).Sound :=
  h.foldl (fun _ hs => hs.setDie hs.die.same)

theorem State.Sound.saveCore {s : State} {g base place off n stage} (h : s.Sound) : (s.saveCore g base place off n stage).1.Sound :=
  ((h.ite h.quiesce).andThen fun hs => (hs.setDie hs.die0.poke).entriesAway.foldl (fun _ hs => hs.count)).andThen fun hs =>
    (hs.setDie hs.die.setChannel).setCore.freeCore

theorem lands_execGangSwitch {gang} {s : State} (h : s.Sound) : Lands (execGangSwitch gang s) := by
  unfold execGangSwitch
  split
  · exact h
  split
  · exact h
  · extract_lets base cores extra s'
    have hs' : s'.Sound := h.foldl fun _ h => h.freeCore
    split
    next t _ _ e =>
    have ht : t.Sound := by
      refine State.Sound.of_eq (State.Sound.foldl_fst hs' fun _ hr => ?_) e
      split
      next e' => exact hr.saveCore.of_eq e'
    have hp {a bs} : (t.setDie 0 (t.die0.poke a bs)).Sound := ht.setDie ht.die0.poke
    exact State.Sound.setGang (State.Sound.ite hp hp.count)

theorem lands_execPreemptionDeadline {gang die} {s : State} (h : s.Sound) : Lands (execPreemptionDeadline gang die s) := by
  unfold execPreemptionDeadline
  split
  · exact h
  split
  · exact h
  split
  · exact h
  · exact h.setGang.count.note

theorem State.Sound.reopenStreams {s : State} {d cores} (h : s.Sound) : (s.reopenStreams d cores).Sound :=
  h.foldl (fun _ hs => hs.resetSource.ite hs)

theorem State.Sound.entriesBack {s : State} {c g place} (h : s.Sound) : (s.entriesBack c g place).Sound :=
  h.foldl (fun _ hs => hs.setDie hs.die.same)

theorem State.Sound.contextBytes {s : State} {a n} (h : s.Sound) : (s.contextBytes a n).1.Sound := by
  unfold State.contextBytes
  split
  · exact h
  · exact h.same

theorem State.Sound.restoreCore {s : State} {g base place n x} (h : s.Sound) : (s.restoreCore g base place n x).Sound :=
  h.setCore.activate.ite h.setCore.activate.contextBytes.setCore.entriesBack.same

theorem State.Sound.restoreReady {s : State} {g} (h : s.Sound) : (s.restoreReady g).Sound :=
  (h.contextBytes.foldl (fun _ hs => hs.restoreCore)).reopenStreams.reopenStreams.setGang.foldl (fun _ hs => hs.enqueueStart)

theorem lands_execGangRestore {gang} {s : State} (h : s.Sound) : Lands (execGangRestore gang s) := by
  unfold execGangRestore
  split
  · split
    · exact h
    dsimp only
    split
    · exact h.same
    · exact h.same.setGang.seat.same.loadPlanes
  · exact h

theorem State.Sound.planeStep {s : State} {id} (h : s.Sound) : (s.planeStep id).Sound := by
  unfold State.planeStep
  split
  · exact h
  split
  · exact h
  split
  · exact h.launchReady
  · exact h.restoreReady
  · exact h

theorem State.Sound.loadEnds {s : State} {c l p} (h : s.Sound) : (s.loadEnds c l p).Sound := by
  unfold State.loadEnds
  dsimp only
  split
  · exact h.dropLoad
  split
  · exact h.dropLoad.endGang
  · exact h.dropLoad.setCtl.startLoad.ite h.dropLoad.setCtl.planeStep
  · exact h.dropLoad.freeCore
  · exact h.dropLoad.freeCore.ite h.dropLoad.setCtl.setCore.activate.enqueueStart
  · refine State.Sound.planeStep ?_
    split
    · exact h.dropLoad.setCtl
    · exact h.dropLoad.setCtl
  · exact h.dropLoad.setCtl
  · exact h.dropLoad.setCtl
  · exact h.dropLoad.setCtl.chainFails
  · exact h.dropLoad.setCtl

theorem lands_execPlaneLoadComplete {core} {s : State} (h : s.Sound) : Lands (execPlaneLoadComplete core s) := by
  unfold execPlaneLoadComplete
  split
  · exact h
  split
  · exact h.loadEnds
  split
  · exact h.tryLoad
  split
  · exact h.performOp
  · exact h.loadEnds

/-! ## What the functions of Machine/Fault keep -/

theorem lands_execHeldEntryWrite {die} {s : State} (h : s.Sound) : Lands (execHeldEntryWrite die s) := by
  unfold execHeldEntryWrite
  dsimp only
  split
  · exact h
  split
  · exact h
  · exact (h.setDie h.die.same).writeEntry

theorem lands_execFackWrite {die v} {s : State} (h : s.Sound) : Lands (execFackWrite die v s) := h.setDieReg.acknowledge

theorem lands_execResume {sy d} {s : State} (h : s.Sound) : Lands (execResume sy d s) := h.issue (fun hs => hs.acknowledge)

theorem State.Sound.continueCommand {s : State} {d seq} (h : s.Sound) : (s.continueCommand d seq).Sound := h.setDie h.die.same

theorem State.Sound.forgetEntry {s : State} {d seq} (h : s.Sound) : (s.forgetEntry d seq).Sound := h.setDie h.die.same

theorem State.Sound.noteRestart {s : State} {d} (h : s.Sound) : (s.noteRestart d).Sound := h.setDie h.die.same

theorem State.Sound.restartFirst {d} {s : State} {qs} (h : s.Sound) : (State.restartFirst d s qs).1.Sound := by
  induction qs generalizing s with
  | nil => exact h
  | cons q qs ih =>
    unfold State.restartFirst
    split
    · exact ih h
    split
    · exact h.continueCommand.forgetEntry
    split
    · split
      · exact ih h
      split
      · split
        · exact h
        · exact h.restart.forgetEntry.noteRestart
      · exact ih h.forgetEntry
    · exact ih (h.ite h.forgetEntry)

theorem lands_execStreamRestart {die} {s : State} (h : s.Sound) : Lands (execStreamRestart die s) := by
  unfold execStreamRestart
  split
  · exact h
  · exact h.restartFirst.setDie h.restartFirst.die.same

/-! ## What the functions of Machine/Sched keep -/

theorem State.Sound.physPoke {s : State} {d pa bs} (h : s.Sound) : (s.physPoke d pa bs).Sound := by
  unfold State.physPoke
  split
  · exact h
  split
  · exact (h.setDie h.die.poke).ite h
  · exact h.addOp.performOp

theorem State.Sound.putQueue {s : State} {q r} (h : s.Sound) : (s.putQueue q r).Sound := (h.setDie h.die0.poke.poke.poke).setQueueRun

theorem lands_execCqdoorWrite {v} {s : State} (h : s.Sound) : Lands (execCqdoorWrite v s) := by
  unfold execCqdoorWrite
  dsimp only
  split
  · exact (h.setDieReg.setDie h.setDieReg.die0.poke).setQueueRun.note
  · exact h.setDieReg.setQueueRun.ite h.setDieReg.putQueue

theorem State.Sound.copySchedule {s : State} {d recs} (h : s.Sound) : (s.copySchedule d recs).Sound :=
  h.foldl (fun _ hs => hs.count.ite (hs.setDie hs.die.poke).setDieReg)

theorem State.Sound.publishSchedule {s : State} {number recs} (h : s.Sound) : (s.publishSchedule number recs).Sound :=
  (h.foldl (fun _ hs => hs.setDieReg.cancelPrefetch.copySchedule)).settlePool

theorem State.Sound.endStep {s : State} {q r st} (h : s.Sound) : (s.endStep q r st).Sound :=
  h.physPoke.putQueue.thenUnless (·.note)

theorem State.Sound.putNst {s : State} {d addr n v} (h : s.Sound) : (s.putNst d addr n v).Sound := h.physPoke

theorem State.Sound.dropStep {s : State} {q addr a} (h : s.Sound) : (s.dropStep q addr a).Sound :=
  (h.foldl (fun _ hs => hs.putNst)).endStep

theorem State.Sound.takeStep {s : State} {q addr a nodes image} (h : s.Sound) : (s.takeStep q addr a nodes image).Sound :=
  (h.foldl (fun _ hs => hs.putNst)).publishSchedule.setQueueRun.ite h.dropStep

theorem State.Sound.readStep {s : State} {q addr pa n got} (h : s.Sound) : (s.readStep q addr pa n got).Sound :=
  h.addOp.setQueueRun.performOp

theorem State.Sound.fetchNext {s : State} {q addr a} (h : s.Sound) : (s.fetchNext q addr a).Sound := by
  unfold State.fetchNext
  split
  · exact h.readStep
  · exact h.readStep.ite h.takeStep
  · exact h.takeStep
  · exact h

theorem State.Sound.fetchStep {q fuel} {s : State} (h : s.Sound) : (State.fetchStep q fuel s).Sound := by
  induction fuel generalizing s with
  | zero => exact h
  | succ fuel ih =>
    unfold State.fetchStep
    split
    · exact h
    split
    · exact h.performOp
    split
    · split
      · exact h.dropOp.endStep
      · exact h.dropOp.dropStep
    · exact ih h.dropOp.fetchNext

theorem State.Sound.endNode {s : State} {q n st} (h : s.Sound) : (s.endNode q n st).Sound := h.setNode

theorem State.Sound.sendNode {s : State} {q n o} (h : s.Sound) : (s.sendNode q n o).Sound := h.addOp.setNode.performOp

theorem State.Sound.readPhys {s : State} {q n pa len} (h : s.Sound) : (s.readPhys q n pa len).Sound := h.sendNode

theorem State.Sound.wordNode {s : State} {q n req data} (h : s.Sound) : (s.wordNode q n req data).Sound := by
  unfold State.wordNode
  dsimp only
  split
  · exact h.endNode
  split
  next e => exact (h.translateCp.of_eq e).endNode
  next e => exact (h.translateCp.of_eq e).setNode
  next e => exact (h.translateCp.of_eq e).sendNode

theorem State.Sound.driveNode {s : State} {q n kind} {start : State → State} {fin : Op → State → State} (h : s.Sound)
    (hstart : ∀ {x0 : State}, x0.Sound → (start x0).Sound) (hfin : ∀ {x0 : Op} {x1 : State}, x1.Sound → (fin x0 x1).Sound) :
    (s.driveNode q n kind start fin).Sound := by
  unfold State.driveNode
  extract_lets -underBinder s1
  have h1 : s1.Sound := by
    dsimp only [s1]
    split
    · exact (hstart h).ite h
    · exact (hstart h).ite h
    · exact h
  split
  · refine h1.ite ?_
    extract_lets -underBinder s2
    have h2 : s2.Sound := h1.performOp
    split
    · exact h2.ite (h2.dropOp.endNode.ite (hfin h2.dropOp))
    · exact h2
  · exact h1

theorem lands_execLaunchNode {queue node} {s : State} (h : s.Sound) : Lands (execLaunchNode queue node s) :=
  h.driveNode (fun hs => hs.endNode.ite hs.readPhys) (fun hs => hs.endNode.ite hs.setNode)

theorem State.Sound.pollNode {s : State} {q n} (h : s.Sound) : (s.pollNode q n).Sound :=
  h.driveNode (fun hs => hs.wordNode) (fun hs => hs.endNode.ite hs.setNode)

theorem lands_execFlagWaitNode {queue node} {s : State} (h : s.Sound) : Lands (execFlagWaitNode queue node s) := h.pollNode

theorem lands_execFlagWaitPoll {queue node} {s : State} (h : s.Sound) : Lands (execFlagWaitPoll queue node s) := by
  unfold execFlagWaitPoll
  split
  · exact h
  · exact h.pollNode

theorem lands_execSignalNode {queue node} {s : State} (h : s.Sound) : Lands (execSignalNode queue node s) :=
  h.driveNode (fun hs => hs.wordNode.ite hs.wordNode) (fun hs => hs.endNode)

theorem State.Sound.skipNodes {s : State} {q mask} (h : s.Sound) : (s.skipNodes q mask).Sound := by
  unfold State.skipNodes
  refine h.foldl (fun _ hs => ?_)
  split
  · split
    · exact hs.setNode.putNst
    · exact hs
  · exact hs

theorem State.Sound.readPredicates {s : State} {q} (h : s.Sound) : (s.readPredicates q).Sound := h.foldl (fun _ hs => hs.wordNode.ite hs)

theorem lands_execStepStart {queue} {s : State} (h : s.Sound) : Lands (execStepStart queue s) := by
  unfold execStepStart
  dsimp only
  split
  · exact h.fetchStep.readPredicates
  split
  · exact h
  split
  · split
    · exact h.putQueue.readStep.fetchStep.readPredicates
    · exact h.putQueue.endStep
  · exact h.putQueue.endStep

theorem lands_execConditionalNode {queue node} {s : State} (h : s.Sound) : Lands (execConditionalNode queue node s) :=
  h.driveNode (fun hs => hs.wordNode) (fun hs => (hs.ite hs.skipNodes.readPredicates).endNode)

theorem State.Sound.installRoutes {s : State} {m} (h : s.Sound) : (s.installRoutes m).Sound :=
  h.foldl (fun _ hs => hs.foldl (fun _ hs' => hs'.setRoute.ite hs'))

theorem lands_execRouteInstallNode {queue node} {s : State} (h : s.Sound) : Lands (execRouteInstallNode queue node s) :=
  h.driveNode (fun hs => hs.readPhys) (fun hs => hs.installRoutes.endNode)

theorem State.Sound.gatePort {s : State} {d p} (h : s.Sound) : (s.gatePort d p).Sound :=
  h.portDrain.ite (h.portPowerOff.portGate.ite h.portGate)

theorem State.Sound.circuitStep {s : State} {q n} (h : s.Sound) : (s.circuitStep q n).Sound := by
  unfold State.circuitStep
  dsimp only
  split
  · exact h.ite (h.foldl (fun _ hs => hs.gatePort)).setNode
  · exact h.ite h.note.setDieReg.setNode
  · exact (h.foldl (fun _ hs => hs.portTrain)).setNode.ite (h.endNode.ite h)
  · split
    · exact h
    split
    · exact h.readPhys.setNode
    · exact h.readPhys
  · split
    · exact h.performOp.ite (h.performOp.dropOp.endNode.ite h.performOp.dropOp.installRoutes.endNode)
    · exact h.performOp
  · exact h

theorem lands_execCircuitChangeNode {queue node} {s : State} (h : s.Sound) : Lands (execCircuitChangeNode queue node s) := h.circuitStep

theorem lands_execSwitchRequestTimeout {queue} {s : State} (h : s.Sound) : Lands (execSwitchRequestTimeout queue s) := by
  unfold execSwitchRequestTimeout
  split
  · exact h
  refine h.foldl (fun _ hs => ?_)
  split
  · exact hs.endNode.ite hs
  · exact hs

theorem lands_execLeaseHandoverNode {queue node} {s : State} (h : s.Sound) : Lands (execLeaseHandoverNode queue node s) := by
  unfold execLeaseHandoverNode
  dsimp only
  split
  · split
    · exact h
    split
    · exact h.endNode
    · exact h.addOp.setNode.tryOp.shut
  · split
    · split
      · exact h.dropOp.endNode
      · exact h.tryOp.shut
    · exact h
  · exact h

theorem lands_execNodeComplete {queue node} {s : State} (h : s.Sound) : Lands (execNodeComplete queue node s) := by
  unfold execNodeComplete
  dsimp only
  split
  · split
    · split
      · exact ((h.setNode.putNst.physPoke.thenIf (·.note)).thenUnless (·.skipNodes)).endStep
      · exact ((h.setNode.putNst.physPoke.thenIf (·.note)).thenUnless (·.skipNodes)).readPredicates
    · exact (h.setNode.putNst.physPoke.thenIf (·.note)).thenUnless (·.skipNodes)
  · exact h

theorem lands_execLotteryDraw {die} {s : State} (h : s.Sound) : Lands (execLotteryDraw die s) := by
  unfold execLotteryDraw
  dsimp only
  split
  · exact h
  split
  · exact h.setDieReg
  · exact (h.setDieReg.foldl (fun _ hs => hs.putQueue)).same

theorem State.Sound.raiseRequest {s : State} {d g} (h : s.Sound) : (s.raiseRequest d g).Sound := by
  unfold State.raiseRequest
  dsimp only
  split
  · exact h.count
  · exact h.setGang.foldl (fun _ hs => (hs.thenIf (·.cancelMove)).thenUnless fun hc => hc.freeCore.ite (hc.setDie hc.die.same))

theorem State.Sound.raiseUntil {d o} {s : State} {gs} (h : s.Sound) : (State.raiseUntil d o s gs).Sound := by
  induction gs generalizing s with
  | nil => exact h
  | cons g gs ih =>
    unfold State.raiseUntil
    split
    · exact h
    refine ih ?_
    split
    · exact h.raiseRequest
    · exact h

theorem lands_execPreemptionRequest {queue} {s : State} (h : s.Sound) : Lands (execPreemptionRequest queue s) := by
  unfold execPreemptionRequest
  split
  · exact h
  split
  · exact h
  · exact h.raiseUntil

theorem lands_execChainedLaunch {queue node} {s : State} (h : s.Sound) : Lands (execChainedLaunch queue node s) := by
  unfold execChainedLaunch
  dsimp only
  split
  · split
    · exact h
    split
    · split
      · exact h
      split
      · exact h.endNode
      split
      · exact h
      split
      · exact h
      · exact h.addGang.buildRings.setGang.setNode.foldl (fun _ hs => hs.startLoad)
    · exact h
  · exact h

theorem lands_execReassignmentEvaluation {gang} {s : State} (h : s.Sound) : Lands (execReassignmentEvaluation gang s) := by
  unfold execReassignmentEvaluation
  split
  · exact h
  split
  · exact h
  dsimp only
  split
  · exact h.setGang
  split
  · exact h.setGang
  split
  · exact h.setGang
  · exact h.setGang.setCtl.startLoad

/-! ## What the functions of Machine/System keep -/

theorem State.Sound.draw {s : State} (h : s.Sound) : s.draw.1.Sound := h.same

theorem State.Sound.absentPorts {s : State} {d} (h : s.Sound) : (s.absentPorts d).Sound := h.foldl (fun _ hs => hs.ite hs.setPort)

theorem State.Sound.zeroFloors {s : State} {d} (h : s.Sound) : (s.zeroFloors d).Sound := h.foldl (fun _ hs => hs.setDieReg)

theorem State.Sound.forgetRecords {s : State} {d} (h : s.Sound) : (s.forgetRecords d).Sound := h.setDie h.die.same

theorem State.Sound.clearDie {s : State} {d tinc} (h : s.Sound) : (s.clearDie d tinc).Sound := by
  unfold State.clearDie
  refine State.Sound.absentPorts (State.Sound.zeroFloors (State.Sound.forgetRecords ?_))
  split
  · exact State.Sound.same (State.Sound.setDie h.draw ⟨h.die.mem, rfl⟩)
  · exact State.Sound.setDie h.draw ⟨h.die.mem, rfl⟩

theorem State.Sound.sendProbe {s : State} {d n} (h : s.Sound) : (s.sendProbe d n).Sound := h.addOp.performOp

theorem State.Sound.probeAll {s : State} {d} (h : s.Sound) : (s.probeAll d).Sound := h.foldl (fun _ hs => hs.sendProbe)

theorem State.Sound.forgetDie {s : State} {d} (h : s.Sound) : (s.forgetDie d).Sound := (h.foldl (fun _ hs => hs.endGang)).same

theorem lands_execDieReset {die} {s : State} (h : s.Sound) : Lands (execDieReset die s) :=
  h.forgetDie.clearDie.thenUnless (·.probeAll)

theorem State.Sound.clearPackage {s : State} {inc keep} (h : s.Sound) : (s.clearPackage inc keep).Sound :=
  ((h.same.setDie h.same.die.same).clearDie.clearDie.setDieReg.andThen fun hs => hs.setDie hs.die0.same).andThen fun hs =>
    hs.setDie hs.die1.same

theorem lands_execColdPowerUp {s : State} (h : s.Sound) : Lands (execColdPowerUp s) := by
  unfold execColdPowerUp
  split
  next e =>
  have hs := h.draw.of_eq e
  split
  next e' =>
  have hs' := hs.draw.of_eq e'
  refine State.Sound.same (State.Sound.clearPackage (State.Sound.setDie (hs'.setDie ?_) ?_))
  · exact ⟨rfl, hs'.die0.commons⟩
  · exact ⟨rfl, hs'.die1.commons⟩

theorem State.Sound.setPower {s : State} {p} (h : s.Sound) : (s.setPower p).Sound := h.same

theorem State.Sound.endReset {s : State} (h : s.Sound) : s.endReset.Sound := h.same

theorem State.Sound.stopRow {s : State} (h : s.Sound) : s.stopRow.Sound := by
  unfold State.stopRow
  split
  · exact h.setPower.endReset.note
  · exact h

theorem Die.Sound.leaves {x : Die} {since} (h : x.Sound) : (x.leaves since).Sound := h.same

theorem State.Sound.leaveReset {s : State} (h : s.Sound) : s.leaveReset.Sound :=
  ((h.setDie h.die0.leaves).andThen fun hs => hs.setDie hs.die1.leaves).probeAll.probeAll

theorem lands_execPowerUpStageDone {s : State} (h : s.Sound) : Lands (execPowerUpStageDone s) := by
  unfold execPowerUpStageDone
  split
  · exact h.stopRow
  split
  · exact h.setDieReg.setDieReg.setPower
  · split
    · exact h.same.setPower
    · exact h.setPower.endReset
  · split
    · exact h.leaveReset
    split
    · exact h.setPower
    · exact h
  · exact h.absentPorts.absentPorts.setPower.endReset
  · exact h.setPower
  · exact h

theorem lands_execPowerUpStageTimeout {s : State} (h : s.Sound) : Lands (execPowerUpStageTimeout s) := h.stopRow.ite h

theorem lands_execCoreLeaveReset {die} {s : State} (h : s.Sound) : Lands (execCoreLeaveReset die s) := by
  unfold execCoreLeaveReset
  split
  · exact h
  split
  · exact h
  split
  · exact h
  · exact (h.setDie h.die.same).setCtl

theorem lands_execRecoveryImage {image} {s : State} (h : s.Sound) : Lands (execRecoveryImage image s) := by
  unfold execRecoveryImage
  split
  · exact h.same.setPower.ite h.same
  · exact h

theorem lands_execRollbackRaise {v} {s : State} (h : s.Sound) : Lands (execRollbackRaise v s) := by
  unfold execRollbackRaise
  split
  · exact h
  split
  · exact h.same
  · exact h

theorem lands_execAttestationRequest {nonce} {s : State} (h : s.Sound) : Lands (execAttestationRequest nonce s) := by
  unfold execAttestationRequest
  split
  · exact h.note
  split
  · exact h
  · exact h.same

/-- The signature is put behind a name: it is not to be computed. -/
theorem lands_execAttestationReportComplete {c extra} {s : State} (h : s.Sound) : Lands (execAttestationReportComplete c extra s) := by
  unfold execAttestationReportComplete
  obtain ⟨sign, hsign⟩ : ∃ f, ecdsaSign = f := ⟨_, rfl⟩
  rw [hsign]
  split
  · exact h
  · exact h.same.note
  · split
    · exact h.same.note
    · exact h

theorem State.Sound.packageReset {s : State} {keep} (h : s.Sound) : (s.packageReset keep).Sound := h.clearPackage.same.setPower

theorem lands_execSecurityAlarm {kind} {s : State} (h : s.Sound) : Lands (execSecurityAlarm kind s) := by
  unfold execSecurityAlarm
  dsimp only
  split
  · exact h
  split
  · exact h.setDieReg.thenIf (·.note)
  split
  · exact h.packageReset
  · exact h.same.packageReset

theorem State.Sound.reprovision {s : State} (h : s.Sound) : s.reprovision.Sound := h.same.setDieReg

theorem State.Sound.errorCorrected {s : State} {d} (h : s.Sound) : (s.errorCorrected d).Sound := h.count

theorem State.Sound.linePoisoned {s : State} {d line} (h : s.Sound) : (s.linePoisoned d line).Sound :=
  h.ite ((h.setDie h.die.same).count.ite (h.setDie h.die.same).count.loseLease.settlePool)

theorem State.Sound.moduleTemp {s : State} {d m t} (h : s.Sound) : (s.moduleTemp d m t).Sound := h.setDieReg

theorem State.Sound.frameIn {s : State} {f} (h : s.Sound) : (s.frameIn f).Sound := h.same

theorem State.Sound.frameTaken {s : State} (h : s.Sound) : s.frameTaken.Sound := h.same

theorem State.Sound.hartRead {s : State} {d a n} (h : s.Sound) : (s.hartRead d a n).1.Sound := by
  unfold State.hartRead
  dsimp only
  split
  · exact h
  · exact h.setDie h.die.sliceRead

theorem State.Sound.hartWrite {s : State} {d a bs} (h : s.Sound) : (s.hartWrite d a bs).Sound := (h.setDie h.die.sliceWrite).ite h

theorem State.Sound.hartRmw {s : State} {d a n op x} (h : s.Sound) : (s.hartRmw d a n op x).1.Sound := by
  unfold State.hartRmw
  dsimp only
  split
  · exact h.setDie h.die.sliceRmw
  · exact h.hartRead

theorem lands_execHostMemoryAccess {die addr what} {s : State} (h : s.Sound) : Lands (execHostMemoryAccess die addr what s) := by
  unfold execHostMemoryAccess
  split
  · split
    · exact h.note
    · split
      next e =>
      refine State.Sound.note (State.Sound.of_eq (State.Sound.foldl_fst h (fun _ hr => ?_)) e)
      split
      · next e => exact hr.hartRead.of_eq e
      · next e => exact hr.hartRead.of_eq e
  · split
    · exact h.note
    · exact h.foldl (fun _ hs => hs.hartWrite)
  · split
    · exact h.note
    · obtain ⟨r, hr, hs⟩ : ∃ r, s.hartRmw die addr _ _ _ = r ∧ r.1.Sound := ⟨_, rfl, h.hartRmw⟩
      rw [hr]
      exact hs.note

/-! ## What the functions of Machine/Tlb keep -/

theorem Die.Sound.invalidate {d : Die} {v} (h : d.Sound) : (d.invalidate v).Sound := h.same

theorem State.Sound.invalidate {s : State} {v} (h : s.Sound) : (s.invalidate v).Sound :=
  (h.foldl (fun _ hs => (hs.setDie hs.die.invalidate).ite hs)).same

theorem State.Sound.startInval {s : State} {v} (h : s.Sound) : (s.startInval v).Sound := h.same.invalidate

theorem lands_execTlbi {sy a b} {s : State} (h : s.Sound) : Lands (execTlbi sy a b s) := by
  unfold execTlbi
  refine h.issue (fun hs => ?_)
  dsimp only
  split
  · split
    · exact hs.same
    · trivial
  · split
    · trivial
    · exact hs.startInval

theorem State.Sound.writeTinvc {s : State} {d v} (h : s.Sound) : (s.writeTinvc d v).Sound :=
  h.ite (h.setDieReg.thenUnless (·.startInval))

theorem lands_execTinvcWrite {die v} {s : State} (h : s.Sound) : Lands (execTinvcWrite die v s) := h.writeTinvc

theorem State.Sound.joinInval {s : State} {o} (h : s.Sound) : (s.joinInval o).Sound := h.ite h.invalidate

theorem lands_execInvalidationComplete {id other} {s : State} (h : s.Sound) : Lands (execInvalidationComplete id other s) := by
  unfold execInvalidationComplete
  split
  · exact h.joinInval
  split
  · exact h
  split
  · exact h
  dsimp only
  split
  · exact h.invalidate.same
  · exact (h.invalidate.same.thenIf (·.setDieReg)).thenIf (·.note)

theorem lands_execAccessCounterWindow {die} {s : State} (h : s.Sound) : Lands (execAccessCounterWindow die s) := by
  unfold execAccessCounterWindow
  dsimp only
  split
  · exact h.setDie h.die.same
  · exact h

/-! ## What the functions of Machine/Csr keep -/

theorem sound_outcomeState {s : State} {r : Host.Outcome State Fault Refusal} (h : s.Sound) (hr : Lands r) :
    (outcomeState s r).Sound := by
  cases r with
  | next t => exact hr
  | fault _ => exact h
  | refused _ => exact h

theorem State.Sound.storeDieCsr {s : State} {d n v} (h : s.Sound) : (s.storeDieCsr d n v).Sound := by
  unfold State.storeDieCsr
  split
  · exact h
  · exact h.setDieReg.settlePool.ite (h.setDieReg.cancelPrefetch.settlePool.ite h.setDieReg)

theorem State.Sound.writeDieCsr {s : State} {d n v} (h : s.Sound) : (s.writeDieCsr d n v).Sound := by
  unfold State.writeDieCsr
  split
  · exact h.writeOport
  split
  · exact h.writeTinvc
  · exact sound_outcomeState h (lands_execKvinvWrite h)
  · exact sound_outcomeState h (lands_execTlinksEnable h)
  · exact sound_outcomeState h (lands_execRtwWrite h)
  · exact sound_outcomeState h (lands_execFsrstWrite h)
  · exact sound_outcomeState h (lands_execPfposWrite h)
  · exact sound_outcomeState h (lands_execOswackWrite h)
  · exact sound_outcomeState h (lands_execTsnapWrite h)
  · exact sound_outcomeState h (lands_execCqdoorWrite h)
  · exact sound_outcomeState h (lands_execFackWrite h)
  · exact h.storeDieCsr

theorem State.Sound.writeCsr {s : State} {i n v} (h : s.Sound) : (s.writeCsr i n v).Sound := by
  unfold State.writeCsr
  split
  · split
    · exact h.setStream
    · exact h
  · split
    · exact h.setCore
    · exact h
  · exact h.writeDieCsr
  · exact h

theorem lands_execCsrr {sy d c} {s : State} (h : s.Sound) : Lands (execCsrr sy d c s) := by
  unfold execCsrr
  refine h.issue (fun hs => ?_)
  split
  · exact hs.setX
  · trivial

theorem lands_execCsrw {sy a c} {s : State} (h : s.Sound) : Lands (execCsrw sy a c s) := by
  unfold execCsrw
  refine h.issue (fun hs => ?_)
  split
  · exact hs.writeCsr
  · trivial

theorem lands_execHostWindowWrite {die core cl n v} {s : State} (h : s.Sound) : Lands (execHostWindowWrite die core cl n v s) := by
  unfold execHostWindowWrite
  split
  · exact h.writeCsr
  · exact h.note

theorem State.Sound.hostWindowRead {s : State} {die core cl n} (h : s.Sound) : (s.hostWindowRead die core cl n).Sound := h.note

/-! ## What the functions of Machine/Int keep -/

theorem State.Sound.issueX {s : State} {i d f} (h : s.Sound) : Lands (s.issueX i d f) := h.issue (fun hs => hs.setX)

theorem State.Sound.issueDiv {s : State} {i d a b f} (h : s.Sound) : Lands (s.issueDiv i d a b f) := h.issue (fun hs => hs.setX)

theorem lands_execAdd {sy d a b} {s : State} (h : s.Sound) : Lands (execAdd sy d a b s) := h.issueX

theorem lands_execSub {sy d a b} {s : State} (h : s.Sound) : Lands (execSub sy d a b s) := h.issueX

theorem lands_execMul {sy d a b} {s : State} (h : s.Sound) : Lands (execMul sy d a b s) := h.issueX

theorem lands_execMulh {sy d a b} {s : State} (h : s.Sound) : Lands (execMulh sy d a b s) := h.issueX

theorem lands_execMulhu {sy d a b} {s : State} (h : s.Sound) : Lands (execMulhu sy d a b s) := h.issueX

theorem lands_execDiv {sy d a b} {s : State} (h : s.Sound) : Lands (execDiv sy d a b s) := h.issueDiv

theorem lands_execDivu {sy d a b} {s : State} (h : s.Sound) : Lands (execDivu sy d a b s) := h.issueDiv

theorem lands_execRem {sy d a b} {s : State} (h : s.Sound) : Lands (execRem sy d a b s) := h.issueDiv

theorem lands_execRemu {sy d a b} {s : State} (h : s.Sound) : Lands (execRemu sy d a b s) := h.issueDiv

theorem lands_execAnd {sy d a b} {s : State} (h : s.Sound) : Lands (execAnd sy d a b s) := h.issueX

theorem lands_execOr {sy d a b} {s : State} (h : s.Sound) : Lands (execOr sy d a b s) := h.issueX

theorem lands_execXor {sy d a b} {s : State} (h : s.Sound) : Lands (execXor sy d a b s) := h.issueX

theorem lands_execShl {sy d a b} {s : State} (h : s.Sound) : Lands (execShl sy d a b s) := h.issueX

theorem lands_execShr {sy d a b} {s : State} (h : s.Sound) : Lands (execShr sy d a b s) := h.issueX

theorem lands_execSar {sy d a b} {s : State} (h : s.Sound) : Lands (execSar sy d a b s) := h.issueX

theorem lands_execMin {sy d a b} {s : State} (h : s.Sound) : Lands (execMin sy d a b s) := h.issueX

theorem lands_execMax {sy d a b} {s : State} (h : s.Sound) : Lands (execMax sy d a b s) := h.issueX

theorem lands_execMinu {sy d a b} {s : State} (h : s.Sound) : Lands (execMinu sy d a b s) := h.issueX

theorem lands_execMaxu {sy d a b} {s : State} (h : s.Sound) : Lands (execMaxu sy d a b s) := h.issueX

theorem lands_execSel {sy d a b g} {s : State} (h : s.Sound) : Lands (execSel sy d a b g s) := h.issueX

theorem lands_execLea {sy d a b a'} {s : State} (h : s.Sound) : Lands (execLea sy d a b a' s) := h.issueX

theorem lands_execClz {sy d a} {s : State} (h : s.Sound) : Lands (execClz sy d a s) := h.issueX

theorem lands_execCtz {sy d a} {s : State} (h : s.Sound) : Lands (execCtz sy d a s) := h.issueX

theorem lands_execPopc {sy d a} {s : State} (h : s.Sound) : Lands (execPopc sy d a s) := h.issueX

theorem lands_execFfs {sy d a} {s : State} (h : s.Sound) : Lands (execFfs sy d a s) := h.issueX

theorem lands_execMov {sy d a} {s : State} (h : s.Sound) : Lands (execMov sy d a s) := h.issueX

theorem lands_execSext {sy d a n} {s : State} (h : s.Sound) : Lands (execSext sy d a n s) := h.issueX

theorem lands_execZext {sy d a n} {s : State} (h : s.Sound) : Lands (execZext sy d a n s) := h.issueX

theorem lands_execAddi {sy d a i} {s : State} (h : s.Sound) : Lands (execAddi sy d a i s) := h.issueX

theorem lands_execAndi {sy d a i} {s : State} (h : s.Sound) : Lands (execAndi sy d a i s) := h.issueX

theorem lands_execOri {sy d a i} {s : State} (h : s.Sound) : Lands (execOri sy d a i s) := h.issueX

theorem lands_execXori {sy d a i} {s : State} (h : s.Sound) : Lands (execXori sy d a i s) := h.issueX

theorem lands_execShli {sy d a a'} {s : State} (h : s.Sound) : Lands (execShli sy d a a' s) := h.issueX

theorem lands_execShri {sy d a a'} {s : State} (h : s.Sound) : Lands (execShri sy d a a' s) := h.issueX

theorem lands_execSari {sy d a a'} {s : State} (h : s.Sound) : Lands (execSari sy d a a' s) := h.issueX

theorem lands_execMovi {sy d i} {s : State} (h : s.Sound) : Lands (execMovi sy d i s) := h.issueX

theorem lands_execMovh {sy d i} {s : State} (h : s.Sound) : Lands (execMovh sy d i s) := h.issueX

theorem lands_execCompactMov {d a} {s : State} (h : s.Sound) : Lands (execCompactMov d a s) := h.issueX

theorem lands_execCompactAdd {d a} {s : State} (h : s.Sound) : Lands (execCompactAdd d a s) := h.issueX

theorem lands_execCompactSub {d a} {s : State} (h : s.Sound) : Lands (execCompactSub d a s) := h.issueX

theorem lands_execCompactAnd {d a} {s : State} (h : s.Sound) : Lands (execCompactAnd d a s) := h.issueX

theorem lands_execCompactAddi {d i} {s : State} (h : s.Sound) : Lands (execCompactAddi d i s) := h.issueX

theorem lands_execCompactShli {d i} {s : State} (h : s.Sound) : Lands (execCompactShli d i s) := h.issueX

theorem lands_execCompactShri {d i} {s : State} (h : s.Sound) : Lands (execCompactShri d i s) := h.issueX

theorem lands_execCompactMovi {d i} {s : State} (h : s.Sound) : Lands (execCompactMovi d i s) := h.issueX

/-! ## What the functions of Machine/Queue keep -/

theorem sound_pushBody {q a} {s : State} (h : s.Sound) : (pushBody q a s).Sound := by
  unfold pushBody
  dsimp only
  split
  · trivial
  · exact h.setCur

theorem sound_popBody {q d} {s : State} (h : s.Sound) : (popBody q d s).Sound := by
  unfold popBody
  split
  · exact h.setCur.setX
  · trivial

theorem lands_execQpush {sy q a} {s : State} (h : s.Sound) : Lands (execQpush sy q a s) := h.issue (fun ht => sound_pushBody ht)

theorem lands_execQpop {sy q a} {s : State} (h : s.Sound) : Lands (execQpop sy q a s) := h.issue (fun ht => sound_popBody ht)

theorem lands_execCompactQpush {q a} {s : State} (h : s.Sound) : Lands (execCompactQpush q a s) := h.issue (fun ht => sound_pushBody ht)

theorem lands_execCompactQpop {d q} {s : State} (h : s.Sound) : Lands (execCompactQpop d q s) := h.issue (fun ht => sound_popBody ht)

theorem lands_execQcnt {sy q d} {s : State} (h : s.Sound) : Lands (execQcnt sy q d s) := h.issue (fun hs => hs.setX)

theorem sound_fqBody {w} {s : State} (h : s.Sound) : (fqBody w s).Sound := by
  unfold fqBody
  dsimp only
  split
  · trivial
  split
  · trivial
  · exact h.setCur

theorem lands_execFqpush {sy a} {s : State} (h : s.Sound) : Lands (execFqpush sy a s) := h.issue (fun ht => sound_fqBody ht)

theorem lands_execFqpushT {sy a} {s : State} (h : s.Sound) : Lands (execFqpushT sy a s) := h.issue (fun ht => sound_fqBody ht)

theorem lands_execCompactFqpush {a} {s : State} (h : s.Sound) : Lands (execCompactFqpush a s) := h.issue (fun ht => sound_fqBody ht)

theorem lands_execFqclose {sy} {s : State} (h : s.Sound) : Lands (execFqclose sy s) := h.issue (fun hs => hs.setCur)

/-! ## Dispatch, turns and steps -/

theorem lands_exec {i} {s : State} (h : s.Sound) : Lands (exec i s) := by
  unfold exec
  split
  · exact lands_execBlk h
  · exact lands_execBlkr h
  · exact lands_execPrep h
  · exact lands_execBr h
  · exact lands_execBrl h
  · exact lands_execRet h
  · exact lands_execCmp h
  · exact lands_execCmpi h
  · exact lands_execTstp h
  · exact lands_execTstq h
  · exact lands_execTstm h
  · exact lands_execFork h
  · exact lands_execJoin h
  · exact lands_execNop h
  · exact lands_execYield h
  · exact lands_execHalt h
  · exact lands_execTfence h
  · exact lands_execTrap h
  · exact lands_execSwap h
  · exact lands_execEret h
  · exact lands_execAdd h
  · exact lands_execSub h
  · exact lands_execMul h
  · exact lands_execMulh h
  · exact lands_execMulhu h
  · exact lands_execDiv h
  · exact lands_execDivu h
  · exact lands_execRem h
  · exact lands_execRemu h
  · exact lands_execAnd h
  · exact lands_execOr h
  · exact lands_execXor h
  · exact lands_execShl h
  · exact lands_execShr h
  · exact lands_execSar h
  · exact lands_execMin h
  · exact lands_execMax h
  · exact lands_execMinu h
  · exact lands_execMaxu h
  · exact lands_execSel h
  · exact lands_execLea h
  · exact lands_execClz h
  · exact lands_execCtz h
  · exact lands_execPopc h
  · exact lands_execFfs h
  · exact lands_execMov h
  · exact lands_execSext h
  · exact lands_execZext h
  · exact lands_execAddi h
  · exact lands_execAndi h
  · exact lands_execOri h
  · exact lands_execXori h
  · exact lands_execShli h
  · exact lands_execShri h
  · exact lands_execSari h
  · exact lands_execMovi h
  · exact lands_execMovh h
  · exact lands_execCompactNop h
  · exact lands_execCompactMov h
  · exact lands_execCompactAdd h
  · exact lands_execCompactSub h
  · exact lands_execCompactAnd h
  · exact lands_execCompactAddi h
  · exact lands_execCompactShli h
  · exact lands_execCompactShri h
  · exact lands_execCompactMovi h
  · exact lands_execCompactLd h
  · exact lands_execCompactSt h
  · exact lands_execCompactQpush h
  · exact lands_execCompactQpop h
  · exact lands_execCompactBr h
  · exact lands_execCompactFqpush h
  · exact lands_execCompactYield h
  · exact lands_execLd h
  · exact lands_execLdS h
  · exact lands_execSt h
  · exact lands_execStS h
  · exact lands_execLdq h
  · exact lands_execAmo h
  · exact lands_execCas h
  · exact lands_execLds h
  · exact lands_execSts h
  · exact lands_execPld h
  · exact lands_execPst h
  · exact lands_execPamo h
  · exact lands_execPcas h
  · exact lands_execPget h
  · exact lands_execKld h
  · exact lands_execKder h
  · exact lands_execKchk h
  · exact lands_execKmov h
  · exact lands_execLacq h
  · exact lands_execLrel h
  · exact lands_execLhand h
  · exact lands_execQpush h
  · exact lands_execQpushRing h
  · exact lands_execQpop h
  · exact lands_execQpopRing h
  · exact lands_execQcnt h
  · exact lands_execFqpush h
  · exact lands_execFqpushT h
  · exact lands_execFqclose h
  · exact lands_execRmap h
  · exact lands_execRflush h
  · exact lands_execRinv h
  · exact lands_execRcfgRegion h
  · exact lands_execRcfgRing h
  · exact lands_execFence h
  · exact lands_execFlagw h
  · exact lands_execFlagadd h
  · exact lands_execFlagwait h
  · exact lands_execBar h
  · exact lands_execCpy h
  · exact lands_execCpyw h
  · exact lands_execCpyq h
  · exact lands_execBop h
  · exact lands_execColl h
  · exact lands_execVadd h
  · exact lands_execVsub h
  · exact lands_execVmul h
  · exact lands_execVfma h
  · exact lands_execVfms h
  · exact lands_execVmax h
  · exact lands_execVmin h
  · exact lands_execVabs h
  · exact lands_execVneg h
  · exact lands_execVrcp h
  · exact lands_execVrsq h
  · exact lands_execVexp2 h
  · exact lands_execVlog2 h
  · exact lands_execVcvtFromFp32 h
  · exact lands_execVcvtToFp32 h
  · exact lands_execVquant h
  · exact lands_execVdeq h
  · exact lands_execVcmp h
  · exact lands_execVsel h
  · exact lands_execVand h
  · exact lands_execVor h
  · exact lands_execVxor h
  · exact lands_execVnot h
  · exact lands_execVshl h
  · exact lands_execVshr h
  · exact lands_execVsar h
  · exact lands_execViadd h
  · exact lands_execVimul h
  · exact lands_execVred h
  · exact lands_execVperm h
  · exact lands_execVbcast h
  · exact lands_execVsplat h
  · exact lands_execViota h
  · exact lands_execVmov h
  · exact lands_execVmovToQueue h
  · exact lands_execVmovFromQueue h
  · exact lands_execVmovToInteger h
  · exact lands_execVld h
  · exact lands_execVst h
  · exact lands_execVgath h
  · exact lands_execVscat h
  · exact lands_execMand h
  · exact lands_execMor h
  · exact lands_execMnot h
  · exact lands_execMpop h
  · exact lands_execMffs h
  · exact lands_execMma h
  · exact lands_execMmas h
  · exact lands_execMfft h
  · exact lands_execMtw h
  · exact lands_execMzero h
  · exact lands_execMtr h
  · exact lands_execMadd h
  · exact lands_execMmov h
  · exact lands_execMsc h
  · exact lands_execMldz h
  · exact lands_execMstz h
  · exact lands_execMcvt h
  · exact lands_execKvattn h
  · exact lands_execKvapp h
  · exact lands_execKvgrow h
  · exact lands_execKvcmt h
  · exact lands_execKvld h
  · exact lands_execCsrr h
  · exact lands_execCsrw h
  · exact lands_execTlbi h
  · exact lands_execSnap h
  · exact lands_execEvcfg h
  · exact lands_execRwctl h
  · exact lands_execResume h
  · exact lands_execIllegalInstruction h
  · exact lands_execMemoryAccessComplete h
  · exact lands_execCoreRelease h
  · exact lands_execSweeperAdvance h
  · exact lands_execVictimAllocation h
  · exact lands_execAllocationRetry h
  · exact lands_execPrefetchWalk h
  · exact lands_execPageWalk h
  · exact lands_execInvalidationComplete h
  · exact lands_execKvinvComplete h
  · exact lands_execKvattnRound h
  · exact lands_execKvgrowPairInstall h
  · exact lands_execKvgrowPageCopy h
  · exact lands_execPacketHop h
  · exact lands_execCeCommandStart h
  · exact lands_execCeLineComplete h
  · exact lands_execCeCommandComplete h
  · exact lands_execCeRingWaitEnd h
  · exact lands_execMuFillComplete h
  · exact lands_execMuWritebackComplete h
  · exact lands_execLaunchAdmission h
  · exact lands_execStageGrowth h
  · exact lands_execLaunchComplete h
  · exact lands_execPlaneLoadComplete h
  · exact lands_execDrainPoint h
  · exact lands_execPlaneSwap h
  · exact lands_execExDeferredPulse h
  · exact lands_execExPendingTarget h
  · exact lands_execCqdoorWrite h
  · exact lands_execStepStart h
  · exact lands_execLaunchNode h
  · exact lands_execFlagWaitNode h
  · exact lands_execSignalNode h
  · exact lands_execConditionalNode h
  · exact lands_execCircuitChangeNode h
  · exact lands_execRouteInstallNode h
  · exact lands_execLeaseHandoverNode h
  · exact lands_execNodeComplete h
  · exact lands_execLotteryDraw h
  · exact lands_execChainedLaunch h
  · exact lands_execGangSwitch h
  · exact lands_execGangRestore h
  · exact lands_execHeldEntryWrite h
  · exact lands_execFackWrite h
  · exact lands_execStreamRestart h
  · exact lands_execHostWindowWrite h
  · exact lands_execColdPowerUp h
  · exact lands_execPowerUpStageDone h
  · exact lands_execPowerUpStageTimeout h
  · exact lands_execCoreLeaveReset h
  · exact lands_execRecoveryImage h
  · exact lands_execDieReset h
  · exact lands_execPoolRequestTimeout h
  · exact lands_execLeaseFillReply h
  · exact lands_execPromotionReply h
  · exact lands_execLeaseRecall h
  · exact lands_execLeaseExpiry h
  · exact lands_execLeaseRenewal h
  · exact lands_execRenewalReply h
  · exact lands_execWriteThroughReply h
  · exact lands_execReleaseReply h
  · exact lands_execHandoverReply h
  · exact lands_execPfposWrite h
  · exact lands_execTinvcWrite h
  · exact lands_execAccessCounterWindow h
  · exact lands_execKvinvWrite h
  · exact lands_execTlinksEnable h
  · exact lands_execLinkTrainingResult h
  · exact lands_execLinkFailure h
  · exact lands_execRemoteRequestArrival h
  · exact lands_execRemoteReply h
  · exact lands_execRemoteTimeout h
  · exact lands_execRemoteTagRelease h
  · exact lands_execFlagArrival h
  · exact lands_execFsrstWrite h
  · exact lands_execRtwWrite h
  · exact lands_execGate h
  · exact lands_execTrain h
  · exact lands_execDrain h
  · exact lands_execOff h
  · exact lands_execLaserModuleRemoved h
  · exact lands_execLaserModuleInserted h
  · exact lands_execPortTrainingResult h
  · exact lands_execPortTrainingTimeout h
  · exact lands_execPortDrainComplete h
  · exact lands_execPortDrainTimeout h
  · exact lands_execLaneCheck h
  · exact lands_execTsnapWrite h
  · exact lands_execLatch h
  · exact lands_execOswackWrite h
  · exact lands_execSwitchRequestTimeout h
  · exact lands_execGovernorSettle h
  · exact lands_execSwathReplacement h
  · exact lands_execReassignmentEvaluation h
  · exact lands_execFlagWaitPoll h
  · exact lands_execPreemptionRequest h
  · exact lands_execPreemptionDeadline h
  · exact lands_execAttestationRequest h
  · exact lands_execRollbackRaise h
  · exact lands_execSecurityAlarm h
  · exact lands_execHostMemoryAccess h
  · exact lands_execAttestationReportComplete h

theorem State.Sound.lands_hartAccess {s : State} {a what} (h : s.Sound) : Lands (s.hartAccess a what) := by
  unfold State.hartAccess
  split
  · exact h
  · exact h.note
  · exact lands_execHostMemoryAccess h
  · split
    · exact h.note
    · split
      · exact h.hostWindowRead
      · split
        · exact lands_execHostWindowWrite h
        · exact h.note
      · exact h.note

theorem State.Sound.passTime {s : State} {cycles ns} (h : s.Sound) : (s.passTime cycles ns).Sound := h.same.setDieReg.setDieReg

theorem State.Sound.seenBy {s : State} {k} (h : s.Sound) : (s.seenBy k).Sound := h.same

theorem State.Sound.lands_runMember {s : State} {e} (h : s.Sound) : Lands (s.runMember e) := lands_exec h.seenBy

theorem State.Sound.runMembers {l} {s t : State} (h : s.Sound) (e : State.runMembers l s = .ok t) : t.Sound := by
  induction l generalizing s with
  | nil =>
    cases e
    exact h
  | cons m l ih =>
    unfold State.runMembers at e
    split at e
    · next e' =>
      split at e
      · exact ih (h.lands_runMember.of_eq e') e
      · cases e
    · cases e

theorem State.Sound.forgetOld {s t : State} {i} (h : t.Sound) : (s.forgetOld i t).Sound := h.setCur.ite h

theorem State.Sound.forgetJoined {t : State} {l} (h : t.Sound) : (State.forgetJoined l t).Sound :=
  h.foldl fun _ ht => ht.same.forgetOld.same

theorem State.Sound.lands_runJoin {s : State} {l} (h : s.Sound) : Lands (s.runJoin l) := by
  unfold State.runJoin
  extract_lets
  split
  · split
    · next e =>
      have ht := h.setCur.runMembers e
      exact ht.same.forgetJoined
    · exact h.setStream
  · split
    · next e =>
      have ht : State.Sound _ := h.setCur.lands_runMember.of_eq e
      exact ht.setStream.same
    · exact h.setCur.lands_runMember

theorem State.Sound.lands_issueTurn {s : State} {i} (h : s.Sound) : Lands (s.issueTurn i) := by
  unfold State.issueTurn
  split
  · split
    · next e =>
      have ht : State.Sound _ := (lands_exec h).of_eq e
      exact ht.forgetOld
    · exact lands_exec h
  · exact h.lands_runJoin

theorem State.Sound.lands_streamTurn {s : State} (h : s.Sound) : Lands s.streamTurn := by
  unfold State.streamTurn
  split
  · exact h
  · split
    · split
      · next e =>
        have ht : State.Sound _ := h.swathTurn.of_eq e
        exact ht
      · next e =>
        have ht : State.Sound _ := h.swathTurn.of_eq e
        exact ht.lands_issueTurn
    · exact h.lands_issueTurn

theorem State.Sound.lands_turn {s : State} {t} (h : s.Sound) : Lands (s.turn t) := by
  cases t with
  | event i =>
    change Lands (if (encode i).isNone then exec i s else .next s)
    split
    · exact lands_exec h
    · exact h
  | stream f => exact h.same.lands_streamTurn
  | time => exact h.passTime
  | hart => exact h.lands_hartAccess
  | corrected => exact h.errorCorrected
  | poisoned => exact h.linePoisoned
  | moduleTemp => exact h.moduleTemp
  | otherSplit => exact h.otherSplit
  | frameIn => exact h.frameIn
  | frameOut => exact h.note
  | frameTaken => exact h.frameTaken
  | flashBegin => exact h.same
  | flashEnd => exact h.same
  | revokeKey => exact h.same
  | reprovision => exact h.reprovision

theorem lands_step {s : State} (h : s.Sound) : Lands (step s) := by
  unfold step
  split
  · exact h.same.lands_turn
  · split
    · exact lands_exec h
    · split
      · exact h.same.lands_streamTurn
      · exact h

/-- Settles O59: no byte of the package's memories is listed at reset. -/
theorem resetIsSafe : Obligations.ResetIsSafe := (State.safe_iff_sound _).2 State.Sound.reset

/-- Settles O60: every function of the model that changes a memory changes it by `writeBytes`, `Sparse.setAll` or `Sparse.clear`, which keep
the canonical form; the lemmas above carry that from the memory operations up to `step`. -/
theorem stepKeepsMemoryCanonical : Obligations.StepKeepsMemoryCanonical := by
  unfold Obligations.StepKeepsMemoryCanonical
  intro s t hs e
  exact (State.safe_iff_sound t).2 ((lands_step ((State.safe_iff_sound s).1 hs)).of_eq e)

end Sys2Proof.Machine

namespace Sys2Proof.Machine

/-! # Steps of the package: pipelines (18_execution.md, 19_scheduling.md, 20_faults.md), and a die's reset (06_torus.md R130)

First what the operations of Machine/Launch and Machine/Sched do to the control state of the cores and to the command processor; then one
lemma for each step. -/

/-! ## Cores by package index, and their control state -/

theorem CoreId.ofIndex_inj {i j : Nat} (hi : i < 256) (hj : j < 256) (h : CoreId.ofIndex i = CoreId.ofIndex j) : i = j := by
  simp only [CoreId.ofIndex, CoreId.mk.injEq, Fin.ext_iff, Fin.val_ofNat] at h
  omega

theorem State.core_setCtl (s : State) (c e : CoreId) (f : CoreCtl → CoreCtl) :
    (s.setCtl c f).core e = if e = c then { s.core c with ctl := f (s.core c).ctl } else s.core e := State.core_setCore ..

@[simp] theorem State.core_setCtl_same (s : State) (c : CoreId) (f : CoreCtl → CoreCtl) :
    (s.setCtl c f).core c = { s.core c with ctl := f (s.core c).ctl } := State.core_setCore_same ..

@[simp] theorem State.sched_setCtl (s : State) (c : CoreId) (f : CoreCtl → CoreCtl) : (s.setCtl c f).sched = s.sched := State.sched_setCore ..

@[simp] theorem State.stream_setCtl (s : State) (c : CoreId) (f : CoreCtl → CoreCtl) (i : StreamId) : (s.setCtl c f).stream i = s.stream i := by
  simp only [State.stream, State.core_setCtl]
  split
  · next h => rw [h]; cases i.cl <;> rfl
  · rfl

@[simp] theorem State.die_start_setCtl (s : State) (c : CoreId) (f : CoreCtl → CoreCtl) (d : DieId) :
    ((s.setCtl c f).die d).start = (s.die d).start := State.die_start_setCore ..

/-- Two states whose command processors, and the control states of whose cores, are the same. -/
structure State.SameControl (s t : State) : Prop where
  sched : t.sched = s.sched
  ctl : ∀ c, (t.core c).ctl = (s.core c).ctl

/-- From one state to the other no gang has changed, and no core has joined one. -/
structure State.OnlyLeave (s t : State) : Prop where
  sched : t.sched = s.sched
  gang : ∀ c, (t.core c).ctl.gang = (s.core c).ctl.gang ∨ (t.core c).ctl.gang = none

section
variable {s t u : State} {α : Type}

theorem State.SameControl.refl (s : State) : s.SameControl s := ⟨rfl, fun _ => rfl⟩

theorem State.SameControl.trans (h : s.SameControl t) (h' : t.SameControl u) : s.SameControl u :=
  ⟨h'.sched.trans h.sched, fun c => (h'.ctl c).trans (h.ctl c)⟩

/-- What one action keeps, its repetition over a list keeps. -/
theorem State.SameControl.foldl {f : State → α → State} {l : List α} (h : s.SameControl t) (hf : ∀ u a, State.SameControl u (f u a)) :
    s.SameControl (l.foldl f t) := by
  induction l generalizing t with
  | nil => exact h
  | cons a l ih => exact ih (h.trans (hf t a))

theorem State.SameControl.ite {c : Prop} [Decidable c] (ht : s.SameControl t) (hu : s.SameControl u) : s.SameControl (if c then t else u) := by
  split
  · exact ht
  · exact hu

theorem State.OnlyLeave.refl (s : State) : s.OnlyLeave s := ⟨rfl, fun _ => .inl rfl⟩

theorem State.OnlyLeave.trans (h : s.OnlyLeave t) (h' : t.OnlyLeave u) : s.OnlyLeave u := by
  refine ⟨h'.sched.trans h.sched, fun c => ?_⟩
  rcases h'.gang c with e | e
  · rw [e]; exact h.gang c
  · exact .inr e

theorem State.SameControl.onlyLeave (h : s.SameControl t) : s.OnlyLeave t := ⟨h.sched, fun c => .inl (by rw [h.ctl c])⟩

/-- A core that is in no gang stays in none. -/
theorem State.OnlyLeave.gang_none (h : s.OnlyLeave t) {c : CoreId} (hc : (s.core c).ctl.gang = none) : (t.core c).ctl.gang = none :=
  (h.gang c).elim (fun e => e.trans hc) id

end

section
variable {s t : State}

/-- A die replaced by one whose cores have the same control states. -/
theorem State.SameControl.setDie {d : DieId} {x : Die} (h : s.SameControl t) (hx : ∀ n, (x.core n).ctl = ((t.die d).core n).ctl) :
    s.SameControl (t.setDie d x) := by
  refine ⟨(State.sched_setDie ..).trans h.sched, fun c => .trans ?_ (h.ctl c)⟩
  simp only [State.core, State.die_setDie]
  split
  · next e => rw [e]; exact hx _
  · rfl

theorem State.SameControl.setCore {c : CoreId} {k : Core} (h : s.SameControl t) (hk : k.ctl = (t.core c).ctl) : s.SameControl (t.setCore c k) := by
  refine ⟨(State.sched_setCore ..).trans h.sched, fun e => .trans ?_ (h.ctl e)⟩
  rw [State.core_setCore]
  split
  · next e => rw [e]; exact hk
  · rfl

theorem State.SameControl.setStream {i : StreamId} {x : ClusterState} (h : s.SameControl t) : s.SameControl (t.setStream i x) :=
  h.trans ⟨by simp, by simp⟩

theorem State.SameControl.count {d : DieId} {n k : Nat} (h : s.SameControl t) : s.SameControl (t.count d n k) :=
  h.trans ⟨by simp [State.count], by simp [State.count]⟩

/-- The package's own units write bytes of a die's local memory. -/
theorem State.SameControl.poke {d : DieId} {a : Nat} {bs : List Byte} (h : s.SameControl t) : s.SameControl (t.setDie d ((t.die d).poke a bs)) :=
  h.setDie (Die.keeps_poke _ _ _).1.ctl

theorem State.SameControl.settle {i : StreamId} {op : Nat} (h : s.SameControl t) : s.SameControl (t.settle i op) :=
  h.setStream.foldl (fun _ _ => (State.SameControl.refl _).setCore (Core.ctl_deliver_core ..))

theorem State.SameControl.dropSeq {obj : Nat} (h : s.SameControl t) : s.SameControl (t.dropSeq obj) := by
  unfold State.dropSeq
  exact State.SameControl.setDie (h.setDie fun _ => rfl) fun _ => rfl

theorem State.SameControl.setLease {d : DieId} {f : Nat} {l : Lease} (h : s.SameControl t) : s.SameControl (t.setLease d f l) := by
  have hl (l' : Lease) : s.SameControl (t.setDie d
      { t.die d with pool := { (t.die d).pool with frames := Sparse.set (fun _ => Lease.free) (t.die d).pool.frames f l' } }) :=
    h.setDie fun _ => rfl
  exact .ite (.count (.ite (hl _).dropSeq (hl _))) (.ite (hl _).dropSeq (hl _))

theorem State.SameControl.unpin {o : Op} (h : s.SameControl t) : s.SameControl (t.unpin o) := by
  refine h.foldl fun u _ => ?_
  dsimp only
  split
  · refine .ite (.refl u) ?_
    split
    · exact (State.SameControl.refl u).setLease
    · exact .refl u
  · exact .refl u

theorem State.SameControl.dropOp {id : Nat} (h : s.SameControl t) : s.SameControl (t.dropOp id) := ⟨h.sched, h.ctl⟩

theorem State.SameControl.releaseOp {o : Op} (h : s.SameControl t) : s.SameControl (t.releaseOp o) := by
  unfold State.releaseOp
  dsimp only
  split
  · exact h.setStream.dropOp.settle.setDie fun _ => rfl
  · exact h.setStream.dropOp.settle

theorem State.SameControl.undoIssue {o : Op} (h : s.SameControl t) : s.SameControl (t.undoIssue o) := by
  unfold State.undoIssue
  dsimp only
  split
  · exact h.setStream.setCore rfl
  · exact h.setStream

theorem State.SameControl.markRestart {c : CoreId} {b : Bool} (h : s.SameControl t) : s.SameControl (t.markRestart c b) := h.setCore rfl

theorem State.SameControl.quiesce {c : CoreId} (h : s.SameControl t) : s.SameControl (t.quiesce c) := by
  have hf := h.foldl (f := fun s o => (((s.unpin o).releaseOp o).undoIssue o).markRestart c true)
    (l := t.ops.filter fun o => decide (o.owner.core = c) && (match o.dest with | .attn _ _ => true | _ => false))
    fun u _ => (State.SameControl.refl u).unpin.releaseOp.undoIssue.markRestart
  exact State.SameControl.setDie ⟨hf.sched, hf.ctl⟩ fun _ => rfl

theorem State.SameControl.entriesAway {c : CoreId} {g place : Nat} (h : s.SameControl t) : s.SameControl (t.entriesAway c g place) :=
  h.foldl fun _ _ => (State.SameControl.refl _).setDie fun _ => rfl

end

/-! ## Cores that leave their gang (R370, R409) -/

theorem State.ctl_dropLoad (s : State) (c e : CoreId) :
    ((s.dropLoad c).core e).ctl = if e = c then { (s.core c).ctl with load := none } else (s.core e).ctl := by
  have h (t : State) (ht : ∀ e, t.core e = s.core e) : ((t.setCtl c fun k => { k with load := none }).core e).ctl =
      if e = c then { (s.core c).ctl with load := none } else (s.core e).ctl := by
    rw [State.core_setCtl, ht, ht]; split <;> rfl
  unfold State.dropLoad
  dsimp only
  split
  · split
    · exact h _ fun _ => rfl
    · exact h _ fun _ => rfl
  · exact h _ fun _ => rfl

@[simp] theorem State.sched_dropLoad (s : State) (c : CoreId) : (s.dropLoad c).sched = s.sched := by
  unfold State.dropLoad
  dsimp only
  rw [State.sched_setCtl]
  split
  · split <;> rfl
  · rfl

@[simp] theorem State.sched_freeCore (s : State) (c : CoreId) : (s.freeCore c).sched = s.sched := by simp [State.freeCore]

theorem State.gang_freeCore (s : State) (c e : CoreId) :
    ((s.freeCore c).core e).ctl.gang = if e = c then none else (s.core e).ctl.gang := by
  have h (t : State) (x : StartSeq) : t.SameControl (t.setDie c.die { t.die c.die with start := x }) := (State.SameControl.refl t).setDie fun _ => rfl
  simp only [State.freeCore, (h _ _).ctl, State.core_setCtl]
  split
  · rfl
  · next he => rw [State.ctl_dropLoad, if_neg he]

theorem State.onlyLeave_freeCore (s : State) (c : CoreId) : s.OnlyLeave (s.freeCore c) := by
  refine ⟨s.sched_freeCore c, fun e => ?_⟩
  rw [State.gang_freeCore]
  split
  · exact .inr rfl
  · exact .inl rfl

/-- Where each step of a repetition puts one core into a gang, or into none, the cores named are there at the end, and the others where they
were. -/
theorem State.memberOf_foldl {α : Type} {f : State → α → State} (k : α → Nat) (v : Option Nat)
    (hf : ∀ s a c, ((f s a).core c).ctl.gang = if c = CoreId.ofIndex (k a) then v else (s.core c).ctl.gang)
    {l : List α} (hl : ∀ a ∈ l, k a < 256) (s : State) {i : Nat} (hi : i < 256) :
    (l.foldl f s).memberOf i = if ∃ a ∈ l, k a = i then v else s.memberOf i := by
  induction l generalizing s with
  | nil => simp
  | cons a l ih =>
    have h1 : (f s a).memberOf i = if k a = i then v else s.memberOf i := by
      have e : CoreId.ofIndex i = CoreId.ofIndex (k a) ↔ k a = i :=
        ⟨fun h => CoreId.ofIndex_inj (hl a (by simp)) hi h.symm, fun h => by rw [h]⟩
      simp only [State.memberOf, hf, e]
    simp only [List.foldl_cons, ih (fun b hb => hl b (by simp [hb])), h1, List.mem_cons, exists_eq_or_imp]
    by_cases ha : k a = i
    · simp [ha]
    · simp [ha]

@[simp] theorem State.sched_freeCores (l : List Nat) (s : State) : (l.foldl (fun s i => s.freeCore (CoreId.ofIndex i)) s).sched = s.sched :=
  foldl_keeps State.sched _ (fun s _ => s.sched_freeCore _) l s

theorem State.onlyLeave_freeCores (l : List Nat) (s : State) : s.OnlyLeave (l.foldl (fun s i => s.freeCore (CoreId.ofIndex i)) s) := by
  induction l generalizing s with
  | nil => exact .refl s
  | cons i l ih => exact (s.onlyLeave_freeCore _).trans (ih _)

/-- Cores freed one after another are in no gang. -/
theorem State.memberOf_freeCores {l : List Nat} (hl : ∀ j ∈ l, j < 256) (s : State) {i : Nat} (hi : i < 256) :
    (l.foldl (fun s i => s.freeCore (CoreId.ofIndex i)) s).memberOf i = if i ∈ l then none else s.memberOf i := by
  simpa using State.memberOf_foldl (f := fun s i => s.freeCore (CoreId.ofIndex i)) id none (fun s j c => s.gang_freeCore _ c) hl s hi

end Sys2Proof.Machine

namespace Sys2Proof.Machine

/-! ## Gangs, queues and nodes of the command processor -/

section
variable {s : State} {id q n : Nat} {g : Gang}

/-- A gang that is found by a number has it. -/
theorem State.id_of_gang? (h : s.gang? id = some g) : g.id = id := by simpa using List.find?_some h

theorem State.gang?_setGang (h : (s.gang? id).isSome) (hg : g.id = id) : (s.setGang g).gang? id = some g := by
  subst hg
  unfold State.gang? at h
  simp only [State.setGang, State.gang?]
  generalize s.sched.gangs = l at h
  induction l with
  | nil => simp at h
  | cons x l ih =>
    by_cases hx : x.id = g.id
    · simp [hx]
    · simp only [List.find?_cons, hx, decide_false, List.map_cons, if_false] at h ⊢
      exact ih h

@[simp] theorem State.queue_setQueueRun (s : State) (q p : Nat) (r : QueueRun) : (s.setQueueRun q r).queue p = if p = q then r else s.queue p :=
  Sparse.get_set

theorem State.node_setNode_same {v : NodeState} (w : NodeState) (h : s.node q n = some v) : (s.setNode q n w).node q n = some w := by
  obtain ⟨r, hr, hn⟩ := Option.bind_eq_some_iff.1 h
  simp [State.node, State.setNode, hr, hn]

@[simp] theorem State.gangs_setNode (s : State) (q n : Nat) (v : NodeState) : (s.setNode q n v).sched.gangs = s.sched.gangs := rfl

end

/-! ## `CORE_RELEASE` (R24, R25) -/

theorem State.wakeStream_idle {s : State} {i : StreamId} (h : (s.stream i).run = .idle) :
    s.wakeStream i = s.setStream i { s.stream i with run := .running } := by
  simp only [State.wakeStream, h]

/-- Idle clusters of a core begin, and nothing else of them changes. -/
theorem State.wakes_idle (c : CoreId) (l : List Cluster) (hl : l.Nodup) (s : State) (h : ∀ k ∈ l, (s.stream ⟨c, k⟩).run = .idle) :
    let t := l.foldl (fun s k => s.wakeStream ⟨c, k⟩) s
    (∀ k, t.stream ⟨c, k⟩ = if k ∈ l then { s.stream ⟨c, k⟩ with run := .running } else s.stream ⟨c, k⟩) ∧
      (∀ e, (t.core e).ctl = (s.core e).ctl) ∧ ∀ d, (t.die d).start = (s.die d).start := by
  induction l generalizing s with
  | nil => simp
  | cons j l ih =>
    obtain ⟨hj, hl⟩ := List.nodup_cons.1 hl
    have hs (k : Cluster) (hk : k ≠ j) (x : ClusterState) : (s.setStream ⟨c, j⟩ x).stream ⟨c, k⟩ = s.stream ⟨c, k⟩ :=
      State.stream_setStream_ne _ _ (by simpa using hk)
    have hne (k : Cluster) (hk : k ∈ l) : k ≠ j := fun e => hj (e ▸ hk)
    simp only [List.foldl_cons, State.wakeStream_idle (h j (by simp))]
    obtain ⟨h1, h2, h3⟩ := ih hl (s.setStream ⟨c, j⟩ { s.stream ⟨c, j⟩ with run := .running }) fun k hk => by
      rw [hs k (hne k hk)]; exact h k (by simp [hk])
    refine ⟨fun k => ?_, fun e => by simp [h2], fun d => by simp [h3]⟩
    by_cases hk : k = j
    · subst hk; simp [h1, hj]
    · simp [h1, hk, hs k hk]

/-- A core whose streams are idle is released: they run from where they are. -/
theorem State.release_idle (s : State) (c : CoreId) (g : Nat) (h : ∀ k, (s.stream ⟨c, k⟩).run = .idle) :
    (∀ k, (s.release c g).stream ⟨c, k⟩ = { s.stream ⟨c, k⟩ with run := .running }) ∧ ((s.release c g).core c).ctl.released = true ∧
      ∀ d, ((s.release c g).die d).start = (s.die d).start := by
  let t := s.setCtl c fun k => { k with released := true }
  have ht (u : State) (hu : u.die = t.die) : let v := [Cluster.a, .m, .v, .d].foldl (fun s k => s.wakeStream ⟨c, k⟩) u
      (∀ k, v.stream ⟨c, k⟩ = { s.stream ⟨c, k⟩ with run := .running }) ∧ (v.core c).ctl.released = true ∧ ∀ d, (v.die d).start = (s.die d).start := by
    have hc : u.core = t.core := by funext e; simp [State.core, hu]
    have hi (k : Cluster) : u.stream ⟨c, k⟩ = s.stream ⟨c, k⟩ := by simp [State.stream, hc, t]; cases k <;> rfl
    obtain ⟨h1, h2, h3⟩ := u.wakes_idle c [.a, .m, .v, .d] (by decide) fun k _ => (congrArg _ (hi k)).trans (h k)
    refine ⟨fun k => ?_, ?_, fun d => ?_⟩
    · rw [h1, hi, if_pos (by cases k <;> simp)]
    · rw [h2, hc]; simp [t]
    · rw [h3, hu]; simp [t]
  unfold State.release
  dsimp only
  split
  · exact ht _ rfl
  · exact ht _ rfl

theorem coreRelease_releases {s : State} {d : DieId} {n id asked : Nat} {rest : List StartReq}
    (hq : (s.die d).start.queue = ⟨n, id, asked⟩ :: rest) (hlast : (s.die d).start.last = 0 ∨ (s.die d).start.last + 64 ≤ s.cycle + 1)
    (hidle : ∀ cl, (s.stream ⟨⟨d, Fin.ofNat 128 n⟩, cl⟩).run = .idle) :
    ∃ t, exec (.coreRelease d) s = .next t ∧ (t.die d).start = { (s.die d).start with queue := rest, last := s.cycle + 1 } ∧
      (t.core ⟨d, Fin.ofNat 128 n⟩).ctl.released = true ∧
      ∀ cl, (t.stream ⟨⟨d, Fin.ofNat 128 n⟩, cl⟩).run = .running ∧
        (t.stream ⟨⟨d, Fin.ofNat 128 n⟩, cl⟩).pc = (s.stream ⟨⟨d, Fin.ofNat 128 n⟩, cl⟩).pc := by
  have hnot : ¬((s.die d).start.last ≠ 0 ∧ s.cycle + 1 < (s.die d).start.last + 64) := by omega
  let u := s.setDie d { s.die d with start := { (s.die d).start with queue := rest, last := s.cycle + 1 } }
  have hu (i : StreamId) : u.stream i = s.stream i := by
    simp only [u, State.stream, State.core, State.die_setDie]
    split
    · next e => rw [e]; rfl
    · rfl
  obtain ⟨h1, h2, h3⟩ := u.release_idle ⟨d, Fin.ofNat 128 n⟩ id fun cl => (congrArg _ (hu _)).trans (hidle cl)
  refine ⟨u.release ⟨d, Fin.ofNat 128 n⟩ id, ?_, ?_, h2, fun cl => ⟨by rw [h1], by rw [h1, hu]⟩⟩
  · simp only [exec_coreRelease, execCoreRelease, hq, if_neg hnot, u]
  · rw [h3, State.die_setDie_same]

end Sys2Proof.Machine

namespace Sys2Proof.Machine

/-! ## `LAUNCH_ADMISSION` (R368) -/

/-- The cores of a gang are the ones that its start order names, as far as they are cores of the package. -/
theorem Gang.mem_startOrder_iff (g : Gang) (i : Nat) : (∃ e ∈ g.startOrder, e.2 = i) ↔ i < 256 ∧ i ∈ g.cores := by
  simp only [Gang.startOrder, Gang.cores, List.mem_flatMap, List.mem_map, List.mem_filter, List.mem_range, List.contains_iff_mem,
    List.mem_flatten]
  constructor
  · rintro ⟨_, ⟨⟨x, t⟩, hx, j, ⟨hj, hm⟩, rfl⟩, rfl⟩
    exact ⟨hj, x.cores, ⟨x, List.fst_mem_of_mem_zipIdx hx, rfl⟩, hm⟩
  · rintro ⟨hi, _, ⟨x, hx, rfl⟩, hm⟩
    obtain ⟨t, ht⟩ := List.mem_iff_getElem?.1 hx
    exact ⟨(t, i), ⟨(x, t), List.mk_mem_zipIdx_iff_getElem?.2 ht, i, ⟨hi, hm⟩, rfl⟩, rfl⟩

theorem newGang_cores (id q n addr base : Nat) (r : List Byte) (cores : List (List Nat)) :
    (newGang id q n addr r base cores).cores = cores.flatten := by
  simp [newGang, Gang.cores, Function.comp_def]

@[simp] theorem State.sched_seat (s : State) (g : Gang) : (s.seat g).sched = s.sched :=
  foldl_keeps State.sched _ (fun s e => by simp) _ s

/-- The cores of a pick are in its gang, and the others where they were. -/
theorem State.memberOf_seat (s : State) (g : Gang) {i : Nat} (hi : i < 256) :
    (s.seat g).memberOf i = if i ∈ g.cores then some g.id else s.memberOf i := by
  have hl : ∀ e ∈ g.startOrder, e.2 < 256 := fun e he => ((g.mem_startOrder_iff e.2).1 ⟨e, he, rfl⟩).1
  refine (State.memberOf_foldl Prod.snd (some g.id) (fun s e c => ?_) hl s hi).trans ?_
  · simp only [State.core_setCtl, State.core_setCore]
    split
    · rfl
    · rfl
  · simp only [Gang.mem_startOrder_iff, hi, true_and]

theorem launchAdmission_admits {s : State} {q n base : Nat} {r : List Byte} {cores : List (List Nat)} (hwon : s.sched.won = some (q, n))
    (hnode : s.node q n = some (.candidate r)) (hpick : s.pick r (lrMins r) = some cores) (hrun : s.commonsRun (lrCmLen r) = some base) :
    let h := newGang s.sched.nextGang q n (s.nodeRecord q n) r base cores
    ∃ u : State, exec (.launchAdmission q) s = .next (u.loadPlanes h fun t _ => lrPlane r t) ∧ u.sched.won = none ∧
      u.sched.gangs = s.sched.gangs ++ [h] ∧ u.node q n = some (.running h.id) ∧
      ∀ i, i < 256 → u.memberOf i = if i ∈ cores.flatten then some h.id else s.memberOf i := by
  intro h
  let s' : State := { s with sched := { s.sched with won := none } }
  have hpick' : s'.pick r (lrMins r) = some cores := hpick
  have hrun' : s'.commonsRun (lrCmLen r) = some base := hrun
  let t := (s'.addGang h).setNode q n (.running h.id)
  have hseat : (t.seat h).sched = t.sched := State.sched_seat ..
  refine ⟨t.seat h, ?_, ?_, ?_, ?_, fun i hi => ?_⟩
  · simp only [exec_launchAdmission, execLaunchAdmission, hwon, hnode, ne_eq, not_true_eq_false, if_false]
    simp only [s'] at hpick' hrun'
    simp only [hpick', hrun']
    rfl
  · rw [hseat]; rfl
  · rw [hseat]; rfl
  · have e : (t.seat h).node q n = t.node q n := by simp only [State.node, State.queue, hseat]
    rw [e]
    exact State.node_setNode_same (s := s'.addGang h) _ hnode
  · rw [State.memberOf_seat _ _ hi, newGang_cores]
    rfl

/-! ## `STAGE_GROWTH` (R369) -/

section
variable {s : State} {id : Nat} {g : Gang}

theorem stageGrowth_grows {t i : Nat} (hg : s.gang? id = some g) (hrun : g.phase = .running) (hreq : g.request = none) (hchain : g.chain = none)
    (hwait : s.launchWaits g.prio = false)
    (ht : (List.range g.stages.length).find? (fun t => decide (s.stageCount g t + s.arriving g t < lrMax g.launch t)) = some t)
    (hi : (List.range 256).find? (fun i => s.coreFree i && lrDies g.launch / 2 ^ (i / 128) % 2 == 1) = some i) :
    ∃ u : State, exec (.stageGrowth id) s = .next (u.startLoad (CoreId.ofIndex i) (lrPlane g.launch t) (.growth t)) ∧
      u.memberOf i = some g.id ∧ (u.core (CoreId.ofIndex i)).ctl.stage = t := by
  have hnot : ¬(g.phase ≠ .running ∨ g.request.isSome ∨ g.chain.isSome ∨ s.launchWaits g.prio) := by simp [hrun, hreq, hchain, hwait]
  let u := s.setCore (CoreId.ofIndex i) ((s.core (CoreId.ofIndex i)).setReg 0x40 (BitVec.ofNat 64 g.asid))
  refine ⟨u.setCtl (CoreId.ofIndex i) fun k =>
    { k with gang := some g.id, stage := t, released := false, active := Plane.empty, shadow := Plane.empty }, ?_, ?_, ?_⟩
  · simp only [exec_stageGrowth, execStageGrowth, hg, if_neg hnot, ht, hi]
    rfl
  · rw [State.memberOf, State.core_setCtl_same]
  · rw [State.core_setCtl_same]

/-! ## `LAUNCH_COMPLETE` (R370) -/

theorem State.gangs_endGang (s : State) (g : Gang) (st : Status) :
    (s.endGang g st).sched.gangs = s.sched.gangs.filter fun x => decide (x.id ≠ g.id) := by
  simp [State.endGang]

theorem State.memberOf_endGang (s : State) (g : Gang) (st : Status) {i : Nat} (hi : i < 256) :
    (s.endGang g st).memberOf i = if s.memberOf i = some g.id then none else s.memberOf i := by
  have hmine : i ∈ (List.range 256).filter (fun i => decide ((s.core (CoreId.ofIndex i)).ctl.gang = some g.id)) ↔ s.memberOf i = some g.id := by
    simp [hi, State.memberOf]
  exact (State.memberOf_freeCores (fun j hj => List.mem_range.1 (List.mem_filter.1 hj).1) s hi).trans (if_congr hmine rfl rfl)

theorem launchComplete_completes (hg : s.gang? id = some g) (hrun : g.phase = .running) (hchain : g.chain = none)
    (hto : s.chainedTo g = false) (hcores : g.cores ≠ []) (hdone : ∀ i ∈ g.cores, s.coreDone (CoreId.ofIndex i) = true) :
    ∃ t, exec (.launchComplete id) s = .next t ∧ t.sched.gangs = s.sched.gangs.filter (fun h => decide (h.id ≠ id)) ∧
      ∀ i, i < 256 → t.memberOf i = if s.memberOf i = some id then none else s.memberOf i := by
  have hid := State.id_of_gang? hg
  refine ⟨s.endGang g Status.ok, ?_, ?_, fun i hi => ?_⟩
  · simp only [exec_launchComplete, execLaunchComplete, hg]
    rw [if_pos ⟨hrun, hchain, by simp [hto], by simpa using hcores, by simpa using hdone⟩]
  · rw [State.gangs_endGang, hid]
  · rw [State.memberOf_endGang s g _ hi, hid]

end

end Sys2Proof.Machine

namespace Sys2Proof.Machine

/-! ## `PLANE_LOAD_COMPLETE` (R374) -/

section
variable {s : State} {c : CoreId} {g : Gang} {l : PlaneLoad} {a : Nat} {o : Op}

theorem planeLoadComplete_ends (hl : (s.core c).ctl.load = some l) (hf : l.failed = false) (ha : l.op = some a) (ho : s.op? a = some o)
    (hp : o.performed = true) :
    exec (.planeLoadComplete c) s =
      .next (s.loadEnds c l (if o.status = Status.ok ∧ (⟨o.data, l.va, true⟩ : Plane).ok then some ⟨o.data, l.va, true⟩ else none)) := by
  simp [execPlaneLoadComplete, hl, hf, ha, ho, hp]

/-- The plane of a move becomes the shadow plane (R379). -/
theorem State.loadEnds_reassign {t : Nat} (p : Plane) (hk : l.kind = .reassign t) (hg : s.gangOf c = some g) :
    let u := s.loadEnds c l (some p)
    (u.core c).ctl.shadow = p ∧ (u.core c).ctl.shadowFor = some (.reassign t) ∧ (u.core c).ctl.load = none := by
  have hd : (s.dropLoad c).gangOf c = some g := by
    simpa only [State.gangOf, State.ctl_dropLoad, if_pos, State.sched_dropLoad] using hg
  intro u
  have hu : u = (s.dropLoad c).setCtl c fun k => { k with shadow := p, shadowFor := some (.reassign t) } := by
    simp only [u, State.loadEnds, hd, hk]
  rw [hu, State.core_setCtl_same]
  refine ⟨rfl, rfl, ?_⟩
  rw [State.ctl_dropLoad, if_pos rfl]

/-! ## `DRAIN_POINT` (R241, R379) -/

theorem drainPoint_token (hd : (s.core c).atDrain = true) (hg : s.gangOf c = some g) (hr : g.request = none)
    (hf : (s.core c).ctl.loadFailed = false) (hm : (s.core c).ctl.drain = true) (hl : (s.core c).ctl.load = none)
    (hb : g.counts c.index = false) : exec (.drainPoint c) s = .next (s.setCtl c fun k => { k with swapToken := true }) := by
  simp [execDrainPoint, hd, hg, hr, hf, hm, hl, hb]

theorem drainPoint_cancels (hd : (s.core c).atDrain = true) (hg : s.gangOf c = some g) (hr : g.request ≠ none)
    (hm : (s.core c).ctl.drain = true ∨ (s.core c).ctl.moveTo ≠ none) : exec (.drainPoint c) s = .next (s.cancelMove c) := by
  have hr' : g.request.isSome = true := Option.isSome_iff_ne_none.2 hr
  have hm' : ((s.core c).ctl.drain || (s.core c).ctl.moveTo.isSome) = true := by
    simpa only [Bool.or_eq_true, Option.isSome_iff_ne_none] using hm
  simp [execDrainPoint, hd, hg, hr', hm']

theorem drainPoint_noGang (hd : (s.core c).atDrain = true) (hg : s.gangOf c = none) :
    exec (.drainPoint c) s = .next (s.retireYields c) := by
  simp [execDrainPoint, hd, hg]

/-! ## `PLANE_SWAP` (R376, R251, R377) -/

theorem Core.cluster_setLine (k : Core) (n : Nat) (v : LineState) (j : Cluster) : (k.setLine n v).cluster j = k.cluster j := by
  cases j <;> rfl

theorem State.ctl_spadWrite (s : State) (c : CoreId) (a : Nat) (bs : List Byte) : ((s.spadWrite c a bs).core c).ctl = (s.core c).ctl := by
  simp only [State.spadWrite, State.core_setCore_same]
  exact foldl_keeps Core.ctl _ (fun k n => by split <;> rfl) _ _

theorem State.stream_spadWrite (s : State) (c : CoreId) (a : Nat) (bs : List Byte) (j : Cluster) :
    (s.spadWrite c a bs).stream ⟨c, j⟩ = s.stream ⟨c, j⟩ := by
  simp only [State.spadWrite, State.stream, State.core_setCore_same]
  refine (foldl_keeps (fun k : Core => k.cluster j) _ (fun k n => ?_) _ _).trans (by cases j <;> rfl)
  split
  · exact Core.cluster_setLine ..
  · rfl

/-- The crossbar of a core replaced. -/
theorem State.stream_setCore_ex (s : State) (c : CoreId) (x : Crossbar) (j : Cluster) :
    (s.setCore c { s.core c with ex := x }).stream ⟨c, j⟩ = s.stream ⟨c, j⟩ := by
  simp only [State.stream, State.core_setCore_same]
  cases j <;> rfl

/-- The activation of a plane checks its rules, and leaves the rest of the control state. -/
theorem State.ctl_activate (s : State) (c : CoreId) : ((s.activate c).core c).ctl = (s.core c).ctl.checkRules := by
  simp only [State.activate, State.core_setCtl_same, State.ctl_spadWrite, State.core_setCore_same]

theorem State.stream_activate (s : State) (c : CoreId) (j : Cluster) : (s.activate c).stream ⟨c, j⟩ = s.stream ⟨c, j⟩ := by
  simp only [State.activate, State.stream_setCtl, State.stream_spadWrite, State.stream_setCore_ex]

theorem State.swapPlanes_planes (s : State) (c : CoreId) :
    ((s.swapPlanes c).core c).ctl.active = (s.core c).ctl.shadow ∧
      ((s.swapPlanes c).core c).ctl.shadow = { (s.core c).ctl.active with loaded := false } ∧ ((s.swapPlanes c).core c).ctl.joinSet = 15 := by
  simp only [State.swapPlanes, State.ctl_activate, State.core_setCore_same]
  exact ⟨rfl, rfl, rfl⟩

theorem State.stream_swapPlanes (s : State) (c : CoreId) (j : Cluster) : (s.swapPlanes c).stream ⟨c, j⟩ = (s.stream ⟨c, j⟩).swapped := by
  simp only [State.swapPlanes, State.stream_activate]
  simp only [State.stream, State.core_setCore_same]
  cases j <;> rfl

theorem planeSwap_swaps (hd : (s.core c).atDrain = true) (hs : (s.core c).ctl.shadow.loaded = true)
    (hask : (s.core c).ca.run = .atSwap ∨ (s.core c).ctl.swapToken = true) (hreq : ∀ h, s.gangOf c = some h → h.request = none)
    (hdone : s.engineDone c = true) (hfor : (s.core c).ctl.shadowFor = none) :
    ∃ t, exec (.planeSwap c) s = .next t ∧ (t.core c).ctl.active = (s.core c).ctl.shadow ∧
      (t.core c).ctl.shadow = { (s.core c).ctl.active with loaded := false } ∧ (t.core c).ctl.joinSet = 15 ∧
      ∀ cl, (t.stream ⟨c, cl⟩).pc = 0 ∧ (t.stream ⟨c, cl⟩).run = .running ∧ (t.stream ⟨c, cl⟩).stack = [] ∧
        (∀ j, (t.stream ⟨c, cl⟩).x = (s.stream ⟨c, cl⟩).x ∧ Sparse.get (fun _ => Steer.reset) (t.stream ⟨c, cl⟩).g j = Steer.reset) := by
  obtain ⟨hactive, hshadow, hjoin⟩ := s.swapPlanes_planes c
  refine ⟨s.swapPlanes c, ?_, hactive, hshadow, hjoin, fun cl => ?_⟩
  · have hasked : ((s.core c).ca.run == .atSwap || (s.core c).ctl.swapToken) = true := by simpa using hask
    cases hg : s.gangOf c with
    | none => simp only [exec_planeSwap, execPlaneSwap, hd, hs, hasked, hdone, hfor, hg]; rfl
    | some g => simp only [exec_planeSwap, execPlaneSwap, hd, hs, hasked, hdone, hfor, hg, hreq g hg]; rfl
  · rw [State.stream_swapPlanes]
    exact ⟨rfl, rfl, rfl, fun _ => ⟨rfl, rfl⟩⟩

end

end Sys2Proof.Machine

namespace Sys2Proof.Machine

/-! ## `REASSIGNMENT_EVALUATION` (R378, R379) -/

section
variable {s : State} {id : Nat} {g : Gang}

theorem reassignmentEvaluation_early (hg : s.gang? id = some g) (hdue : s.evaluationDue g = false) :
    exec (.reassignmentEvaluation id) s = .next s := by
  simp [execReassignmentEvaluation, hg, hdue]

/-- A stage that is behind can gain a core (R378). -/
def State.canGain (u : State) (h : Gang) (t : Nat) : Bool := h.behind t && decide (u.stageCount h t + u.arriving h t < lrMax h.launch t)

/-- A hungry stage can give a core to another (R378, R385). -/
def State.canGive (u : State) (h : Gang) (t f : Nat) : Bool :=
  decide (f ≠ t) && h.hungry f && decide (lrMin h.launch f + u.leaving h f < h.size f)

theorem reassignmentEvaluation_noTarget (hg : s.gang? id = some g) (hrun : g.phase = .running)
    (hen : bit (s.dieReg (queueDie g.queue) 0x11E) 8 = true) (hdue : s.evaluationDue g = true)
    (hno : (List.range (s.sampleRings g).stages.length).find? ((s.setGang (s.sampleRings g)).canGain (s.sampleRings g)) = none) :
    exec (.reassignmentEvaluation id) s = .next (s.setGang (s.sampleRings g)) := by
  unfold State.canGain at hno
  simp [execReassignmentEvaluation, hg, hrun, hen, hdue, hno]

theorem reassignmentEvaluation_moves {t f i : Nat} (hg : s.gang? id = some g) (hrun : g.phase = .running)
    (hen : bit (s.dieReg (queueDie g.queue) 0x11E) 8 = true) (hdue : s.evaluationDue g = true) (hreq : g.request = none) (hchain : g.chain = none)
    (ht : (List.range (s.sampleRings g).stages.length).find? ((s.setGang (s.sampleRings g)).canGain (s.sampleRings g)) = some t)
    (hf : (List.range (s.sampleRings g).stages.length).find? ((s.setGang (s.sampleRings g)).canGive (s.sampleRings g) t) = some f)
    (hi : (s.setGang (s.sampleRings g)).donorCore (s.sampleRings g) f = some i) :
    exec (.reassignmentEvaluation id) s =
      .next (((s.setGang (s.sampleRings g)).setCtl (CoreId.ofIndex i) fun k => { k with drain := true }).startLoad (CoreId.ofIndex i)
        (lrPlane (s.sampleRings g).launch t) (.reassign t)) := by
  have hreq' : (s.sampleRings g).request = none := hreq
  have hchain' : (s.sampleRings g).chain = none := hchain
  unfold State.canGain at ht
  unfold State.canGive at hf
  simp only [exec_reassignmentEvaluation, execReassignmentEvaluation, hg, hrun, hen, hdue, hreq', hchain', ht, hf, hi, Option.bind_some]
  rfl

end

/-! ## `LOTTERY_DRAW` (R394, R395) -/

theorem floorWinner_mem {l : List Bidder} {w : Bidder} (h : floorWinner l = some w) : w ∈ l := by
  unfold floorWinner at h
  have key (m : List Bidder) (r : Option Bidder) (hw : m.foldl (fun r b => match r with
      | none => some b | some c => if c.miss < b.miss then some b else some c) r = some w) : w ∈ m ∨ r = some w := by
    induction m generalizing r with
    | nil => exact .inr hw
    | cons b m ih =>
      rcases ih _ hw with hm | hr
      · exact .inl (by simp [hm])
      · cases r with
        | none => exact .inl (by simp_all)
        | some c =>
          dsimp only at hr
          split at hr
          · exact .inl (by simp_all)
          · exact .inr hr
  rcases key _ _ h with hm | hn
  · exact (List.mem_filter.1 hm).1
  · cases hn

theorem ticketWinner_mem {l : List Bidder} {v : Nat} {w : Bidder} (h : ticketWinner l v = some w) : w ∈ l := by
  induction l generalizing v with
  | nil => cases h
  | cons b l ih =>
    unfold ticketWinner at h
    split at h
    · simp_all
    · exact List.mem_cons_of_mem _ (ih h)

/-- The winner of a draw takes part in it. -/
theorem drawWinner_mem {l : List Bidder} {out : Word} {w : Bidder} (h : drawWinner l out = some w) : w ∈ l := by
  unfold drawWinner at h
  split at h
  · next hb => exact floorWinner_mem (hb.trans h)
  · dsimp only at h
    split at h
    · exact List.mem_of_head? h
    · exact ticketWinner_mem h

/-- A die replaced by one of the same registers. -/
theorem State.dieReg_setDie {s : State} {d : DieId} {x : Die} (h : x.csr = (s.die d).csr) (e : DieId) (n : Nat) :
    (s.setDie d x).dieReg e n = s.dieReg e n := by
  have hr (e : DieId) : ((s.setDie d x).die e).csr = (s.die e).csr := by
    rw [State.die_setDie]
    split
    · next he => rw [he, h]
    · rfl
  unfold State.dieReg Die.reg
  rw [show (s.setDie d x).die0.csr = s.die0.csr from hr 0, hr]

section
variable (s : State) (q : Nat) (r : QueueRun)

theorem State.queue_putQueue (p : Nat) : (s.putQueue q r).queue p = if p = q then r else s.queue p := by
  simp only [State.putQueue, State.queue_setQueueRun]
  rfl

theorem State.dieReg_putQueue (d : DieId) (n : Nat) : (s.putQueue q r).dieReg d n = s.dieReg d n := by
  have h (x : Die) (a₁ a₂ a₃ : Nat) (b₁ b₂ b₃ : List Byte) : (((x.poke a₁ b₁).poke a₂ b₂).poke a₃ b₃).csr = x.csr := by
    rw [(Die.keeps_poke _ _ _).1.csr, (Die.keeps_poke _ _ _).1.csr, (Die.keeps_poke _ _ _).1.csr]
  exact State.dieReg_setDie (s := s) (h s.die0 ..) d n

end

/-- The queues of a draw whose winner is on queue `win`, as the command processor keeps them: the winner's misses are cleared, the others gain one
(R394). -/
def State.keepMisses (s : State) (win : Nat) (l : List Bidder) : State :=
  l.foldl (fun s b => s.putQueue b.q { s.queue b.q with miss := if b.q = win then 0 else min (b.miss + 1) 65535 }) s

/-- A queue that takes part in a draw has no misses after it where it has won, and some where it has not. -/
theorem State.miss_keepMisses {s : State} {win : Nat} {l : List Bidder} {b : Bidder} (hb : b ∈ l) :
    ((s.keepMisses win l).queue b.q).miss = 0 ↔ b.q = win := by
  induction l using List.reverseRecOn with
  | nil => cases hb
  | append_singleton l c ih =>
    simp only [State.keepMisses, List.foldl_append, List.foldl_cons, List.foldl_nil, State.queue_putQueue]
    by_cases hq : b.q = c.q
    · by_cases hw : c.q = win <;> simp [hq, hw]
    · have hl : b ∈ l := by
        rcases List.mem_append.1 hb with h | h
        · exact h
        · exact absurd (congrArg _ (List.mem_singleton.1 h)) hq
      rw [if_neg hq]
      exact ih hl

theorem State.dieReg_keepMisses (s : State) (win : Nat) (l : List Bidder) (d : DieId) (n : Nat) : (s.keepMisses win l).dieReg d n = s.dieReg d n :=
  foldl_keeps (fun s : State => s.dieReg d n) _ (fun s _ => s.dieReg_putQueue ..) l s

theorem lotteryDraw_draws {s : State} {d : DieId} {w : Bidder} (hwon : s.sched.won = none)
    (hne : (s.eligible d).filter (fun b => b.prio == ((s.eligible d).map (·.prio)).foldl max 0) ≠ [])
    (hw : drawWinner ((s.eligible d).filter fun b => b.prio == ((s.eligible d).map (·.prio)).foldl max 0)
      (seedOut (seedNext (s.dieReg d 0x11D))) = some w) :
    ∃ t, exec (.lotteryDraw d) s = .next t ∧ t.dieReg d 0x11D = seedNext (s.dieReg d 0x11D) ∧ t.sched.won = some (w.q, w.node) ∧
      (t.queue w.q).miss = 0 ∧
      ∀ b ∈ (s.eligible d).filter (fun b => b.prio == ((s.eligible d).map (·.prio)).foldl max 0), b.q ≠ w.q → (t.queue b.q).miss ≠ 0 := by
  generalize hl : (s.eligible d).filter (fun b => b.prio == ((s.eligible d).map (·.prio)).foldl max 0) = l at hne hw ⊢
  let u := (s.setDieReg d 0x11D (seedNext (s.dieReg d 0x11D))).keepMisses w.q l
  refine ⟨{ u with sched := { u.sched with won := some (w.q, w.node) } }, ?_, ?_, rfl, ?_, fun b hb hq => ?_⟩
  · have hnot : (s.sched.won.isSome || l.isEmpty) = false := by simp [hwon, hne]
    simp only [exec_lotteryDraw, execLotteryDraw, hl, hnot, hw]
    rfl
  · exact (State.dieReg_keepMisses ..).trans (State.dieReg_setDieReg_same ..)
  · exact (State.miss_keepMisses (drawWinner_mem hw)).2 rfl
  · exact fun h => hq ((State.miss_keepMisses hb).1 h)

/-! ## `CHAINED_LAUNCH` (R395) -/

theorem State.sched_buildRings (s : State) (g : Gang) : (s.buildRings g).sched = s.sched :=
  foldl_keeps State.sched _ (fun _ _ => State.sched_setDie ..) _ s

theorem chainedLaunch_chains {s : State} {q id base : Nat} {node : Fin 32} {g : Gang} {r : List Byte}
    (hnode : s.node q node.val = some (.candidate r)) (hpend : s.chainPending q node.val = true)
    (hearlier : s.node q (s.chainOf q node.val - 1) = some (.running id)) (hg : s.gang? id = some g) (hrun : g.phase = .running)
    (hreq : g.request = none) (hchain : g.chain = none) (hst : lrStages r = 1) (hst' : g.stages.length = 1) (hasid : lrAsid r = g.asid)
    (hmin : lrMin r 0 ≤ g.cores.length) (hof : (s.coresOf id).length = g.cores.length)
    (hidle : ∀ i ∈ g.cores, (s.core (CoreId.ofIndex i)).ctl.load = none ∧ (s.core (CoreId.ofIndex i)).ctl.shadow.loaded = false ∧
      (s.core (CoreId.ofIndex i)).ctl.drain = false)
    (hbase : s.commonsRun (lrCmLen r) = some base) (hnew : id ≠ s.sched.nextGang) :
    let y := { newGang s.sched.nextGang q node.val (s.nodeRecord q node.val) r base [[]] with
               phase := .running, ringDies := (List.range (lrRings r)).map fun _ => ringDieOf g.cores }
    ∃ u : State, exec (.chainedLaunch q node) s = .next (g.cores.foldl
        (fun s i => s.startLoad (CoreId.ofIndex i) (lrPlane r 0) (.chained y.id)) u) ∧ u.node q node.val = some (.running y.id) ∧
      u.sched.gangs = (s.sched.gangs.map fun h => if h.id = id then { g with chain := some y.id } else h) ++ [y] := by
  intro y
  have hid := State.id_of_gang? hg
  let t := ((s.addGang y).buildRings y).setGang { g with chain := some y.id }
  have hb : ((s.addGang y).buildRings y).sched = (s.addGang y).sched := State.sched_buildRings ..
  refine ⟨t.setNode q node.val (.running y.id), ?_, ?_, ?_⟩
  · have hshape : ¬(lrStages r ≠ 1 ∨ g.stages.length ≠ 1 ∨ lrAsid r ≠ g.asid ∨ g.cores.length < lrMin r 0) := by
      simp [hst, hst', hasid, hmin]
    have hquiet : ¬(g.phase ≠ .running ∨ g.chain.isSome ∨ g.request.isSome ∨ (s.coresOf id).length ≠ g.cores.length ∨
        !(g.cores.all fun i => (fun (k : CoreCtl) => k.load.isNone && !k.shadow.loaded && !k.drain) (s.core (CoreId.ofIndex i)).ctl)) := by
      simpa [hrun, hreq, hchain, hof, and_assoc] using hidle
    simp only [exec_chainedLaunch, execChainedLaunch, hnode, hpend, hearlier, hg, if_neg hshape, if_neg hquiet, hbase]
    rfl
  · refine State.node_setNode_same (v := .candidate r) _ ?_
    have ht : t.node q node.val = (s.addGang y).node q node.val := by
      simp only [State.node, State.queue, t, State.setGang, hb]
    exact ht.trans hnode
  · have hy : y.id ≠ id := Ne.symm hnew
    have ht : t.sched.gangs = ((s.addGang y).sched.gangs).map fun h => if h.id = id then { g with chain := some y.id } else h := by
      simp only [t, State.setGang, hb, hid]
    rw [State.gangs_setNode, ht]
    simp [State.addGang, hy]

end Sys2Proof.Machine

namespace Sys2Proof.Machine

/-! ## `GANG_SWITCH` (R409) -/

/-- A saved core keeps no place in its gang: what its save does before it is freed leaves every core's control state (R409, steps 4 and 5). -/
theorem State.saveCore_frees (s : State) (g : Gang) (base place off n stage : Nat) :
    ∃ u, s.SameControl u ∧ (s.saveCore g base place off n stage).1 = u.freeCore (CoreId.ofIndex n) := by
  unfold State.saveCore
  dsimp only
  refine ⟨_, ?_, rfl⟩
  refine State.SameControl.setCore ?_ rfl
  refine State.SameControl.setDie ?_ fun _ => rfl
  refine State.SameControl.foldl ?_ fun u _ => (State.SameControl.refl u).count
  refine State.SameControl.entriesAway ?_
  refine State.SameControl.poke (d := 0) ?_
  exact .ite (.refl s) (State.SameControl.refl s).quiesce

/-- One core of a gang's save: the state, the offset of the next record and the cores saved so far, with the core of index `e.2` in stage `e.1`
saved. -/
def Gang.saveStep (g : Gang) (base : Nat) (r : State × Nat × List SavedCore) (e : Nat × Nat) : State × Nat × List SavedCore :=
  let x := r.1.saveCore g base r.2.2.length r.2.1 e.2 e.1
  (x.1, r.2.1 + roundUp x.2.length 4096, r.2.2 ++ [x.2])

/-- The saves of a list of cores only take cores out of gangs, these among them, and give a record for each. -/
theorem Gang.saveSteps_free (g : Gang) (base : Nat) (l : List (Nat × Nat)) (r : State × Nat × List SavedCore) :
    let t := l.foldl (g.saveStep base) r
    r.1.OnlyLeave t.1 ∧ (∀ e ∈ l, t.1.memberOf e.2 = none) ∧ t.2.2.length = r.2.2.length + l.length := by
  induction l generalizing r with
  | nil => exact ⟨.refl _, by simp, rfl⟩
  | cons e l ih =>
    obtain ⟨hleave, hfree, hlen⟩ := ih (g.saveStep base r e)
    obtain ⟨u, hu, hs⟩ := r.1.saveCore_frees g base r.2.2.length r.2.1 e.2 e.1
    have hs' : (g.saveStep base r e).1 = u.freeCore (CoreId.ofIndex e.2) := hs
    refine ⟨(hu.onlyLeave.trans (hs' ▸ u.onlyLeave_freeCore _)).trans hleave, fun a ha => ?_, ?_⟩
    · rcases List.mem_cons.1 ha with rfl | ha
      · exact hleave.gang_none (by rw [hs', State.gang_freeCore, if_pos rfl])
      · exact hfree a ha
    · have hone : (g.saveStep base r e).2.2.length = r.2.2.length + 1 := by simp [Gang.saveStep]
      rw [List.foldl_cons, hlen, hone, List.length_cons]
      omega

/-- The cores of a gang with their stages, in the order of its record. -/
def Gang.staged (g : Gang) : List (Nat × Nat) := g.stages.zipIdx.flatMap fun t => t.1.cores.map fun n => (t.2, n)

theorem Gang.map_snd_staged (g : Gang) : g.staged.map (·.2) = g.cores := by
  have h : g.stages.zipIdx.flatMap (fun t => t.1.cores) = g.stages.flatMap (·.cores) := by
    conv_rhs => rw [← List.zipIdx_map_fst 0 g.stages, List.flatMap_map]
  simpa only [Gang.staged, List.map_flatMap, List.map_map, Function.comp_def, List.map_id', Gang.cores, ← List.flatMap_def] using h

theorem gangSwitch_saves {s : State} {id : Nat} {g : Gang} (hg : s.gang? id = some g) (hrun : g.phase = .running) (hreq : g.request ≠ none)
    (hctx : g.ctx.2 ≠ 0) (hsave : ∀ i ∈ g.cores, s.canSave g (CoreId.ofIndex i) = true) :
    ∃ (t : State) (h : Gang), exec (.gangSwitch id) s = .next t ∧ t.gang? id = some h ∧ h.phase = .saved ∧ h.request = none ∧
      h.saved.length = g.cores.length ∧ ∀ i, i < 256 → t.memberOf i ≠ some id := by
  have hid := State.id_of_gang? hg
  let extra := (List.range 256).filter fun i => decide ((s.core (CoreId.ofIndex i)).ctl.gang = some g.id) && !g.cores.contains i
  let s₁ := extra.foldl (fun s i => s.freeCore (CoreId.ofIndex i)) s
  let r := g.staged.foldl (g.saveStep (g.ctx.1 * 65536)) (s₁, 0x2000, [])
  let s₂ := r.1.setDie 0 (r.1.die0.poke (g.ctx.1 * 65536) (readBytes (g.fixedPart r.2.2) 0 0x2000))
  let s₃ := if g.forced then s₂ else s₂.count (queueDie g.queue) 0x1A4
  let h : Gang := { g with phase := .saved, request := none, forced := false, saved := r.2.2, ctx := (g.ctx.1, (r.2.1 + 65535) / 65536) }
  obtain ⟨hleave, hfree, hlen⟩ := g.saveSteps_free (g.ctx.1 * 65536) g.staged (s₁, 0x2000, [])
  have h₂ : r.1.SameControl s₂ := (State.SameControl.refl _).poke (d := 0)
  have hall : s.OnlyLeave s₃ := ((s.onlyLeave_freeCores extra).trans hleave).trans (State.SameControl.ite h₂ h₂.count).onlyLeave
  have hcore : s₁.OnlyLeave s₃ := hleave.trans (State.SameControl.ite h₂ h₂.count).onlyLeave
  refine ⟨s₃.setGang h, h, ?_, ?_, rfl, rfl, ?_, fun i hi => ?_⟩
  · have hnot : ¬(g.phase ≠ .running ∨ g.request.isNone ∨ g.ctx.2 = 0 ∨ !g.cores.all fun n => s.canSave g (CoreId.ofIndex n)) := by
      simpa [hrun, hctx, hreq] using hsave
    simp only [exec_gangSwitch, execGangSwitch, hg, if_neg hnot]
    rfl
  · refine State.gang?_setGang ?_ hid
    have e : s₃.gang? id = s.gang? id := by simp only [State.gang?, hall.sched]
    rw [e, hg]; rfl
  · have e := congrArg List.length g.map_snd_staged
    rw [List.length_map] at e
    simpa [e] using hlen
  · change s₃.memberOf i ≠ some id
    by_cases hc : i ∈ g.cores
    · rw [← g.map_snd_staged, List.mem_map] at hc
      obtain ⟨e, he, rfl⟩ := hc
      rw [State.memberOf, (State.SameControl.ite h₂ h₂.count).onlyLeave.gang_none (hfree e he)]
      exact nofun
    · by_cases hm : s.memberOf i = some id
      · have hx : i ∈ extra := by
          have hm' : (s.core (CoreId.ofIndex i)).ctl.gang = some g.id := hid ▸ hm
          simp [extra, hi, hm', hc]
        have hn : s₁.memberOf i = none := by
          rw [State.memberOf_freeCores (fun j hj => List.mem_range.1 (List.mem_filter.1 hj).1) s hi, if_pos hx]
        rw [State.memberOf, hcore.gang_none hn]
        exact nofun
      · rcases hall.gang (CoreId.ofIndex i) with e | e
        · rwa [State.memberOf, e]
        · rw [State.memberOf, e]; exact nofun

/-! ## `GANG_RESTORE` (R414) -/

/-- A pick has a list of cores for each count. -/
theorem length_of_pickFrom {r : List Byte} {counts : List Nat} {stage : Nat} {free : List Nat} {cores : List (List Nat)}
    (h : pickFrom r counts stage free = some cores) : cores.length = counts.length := by
  induction counts generalizing stage free cores with
  | nil => cases h; rfl
  | cons n l ih =>
    simp only [pickFrom, Option.ite_none_left_eq_some, Option.map_eq_some_iff] at h
    obtain ⟨-, x, hx, rfl⟩ := h
    simp [ih hx]

theorem State.length_of_pick {s : State} {r : List Byte} {counts : List Nat} {cores : List (List Nat)} (h : s.pick r counts = some cores) :
    cores.length = counts.length := by
  simp only [State.pick, pickWith, Option.ite_none_left_eq_some] at h
  exact length_of_pickFrom h.2

theorem gangRestore_restores {s : State} {id q n : Nat} {g : Gang} {cores : List (List Nat)} (hg : s.gang? id = some g) (hsaved : g.phase = .saved)
    (hwon : s.sched.won = some (q, n)) (hnode : s.node q n = some (.running id))
    (hpick : s.pick g.launch (g.stages.map fun t => t.cores.length) = some cores) :
    ∃ (u : State) (h : Gang) (va : Nat → Nat → Nat), exec (.gangRestore id) s = .next (u.loadPlanes h va) ∧ u.sched.won = none ∧
      u.gang? id = some h ∧ h.phase = .restoring ∧ h.stages.map (·.cores) = cores := by
  let s₁ : State := { s with sched := { s.sched with won := none } }
  let s₂ : State := { s₁ with sched := { s₁.sched with nextGang := s.sched.nextGang + 1 } }
  have hid := State.id_of_gang? hg
  let h : Gang := { g with phase := .restoring, order := s.sched.nextGang, stages := (g.stages.zip cores).map fun e => { e.1 with cores := e.2 } }
  let u : State := { (s₂.setGang h).seat h with fresh := s.fresh + g.saved.length }
  have hu : u.sched = (s₂.setGang h).sched := State.sched_seat ..
  let place (i : Nat) : Nat := ((h.cores.zipIdx.find? fun e => decide (e.1 = i)).map (·.2)).getD 0
  refine ⟨u, h, fun _ i => s₂.savedPlane h (place i) 0, ?_, ?_, ?_, rfl, ?_⟩
  · have hpick' : s₁.pick g.launch (g.stages.map fun t => t.cores.length) = some cores := hpick
    have hnot : ¬(g.phase ≠ .saved ∨ s.node q n ≠ some (.running id)) := by simp [hsaved, hnode]
    simp only [s₁] at hpick'
    simp only [exec_gangRestore, execGangRestore, hg, hwon, if_neg hnot, hpick']
    rfl
  · rw [hu]; rfl
  · have e : u.gang? id = (s₂.setGang h).gang? id := by simp only [State.gang?, hu]
    exact e.trans (State.gang?_setGang (Option.isSome_iff_exists.2 ⟨g, hg⟩) hid)
  · have hlen : cores.length ≤ g.stages.length := by simpa using (State.length_of_pick hpick).le
    simpa [h, Function.comp_def] using List.map_snd_zip hlen

/-! ## `PREEMPTION_REQUEST` and `PREEMPTION_DEADLINE` (R395, R406) -/

theorem preemptionRequest_raises {s : State} {q n : Nat} {o : Offer} (hen : field (s.dieReg 0 0x165) 0 16 ≠ 0)
    (ho : (s.offers q).find? (fun o => (s.pick o.2.launch o.2.counts).isNone && s.windowFree o.2) = some (n, o)) :
    exec (.preemptionRequest q) s = .next (State.raiseUntil (queueDie q) o s (s.victims (lrPrio o.launch))) := by
  simp only [exec_preemptionRequest, execPreemptionRequest, if_neg hen, ho]

theorem preemptionDeadline_forces {s : State} {d : DieId} {id t₀ i : Nat} {g : Gang} (hg : s.gang? id = some g) (hrun : g.phase = .running)
    (hreq : g.request = some t₀) (hforced : g.forced = false) (hdue : t₀ + g.pdl ≤ s.cycle) (hi : i ∈ g.cores) (hd : (CoreId.ofIndex i).die = d)
    (hat : (s.core (CoreId.ofIndex i)).atDrain = false) (hrel : (s.core (CoreId.ofIndex i)).ctl.released = true) :
    ∃ t, exec (.preemptionDeadline id d) s = .next t ∧ t.gang? id = some { g with forced := true } ∧
      t.sys.notes = s.sys.notes ++ [.interrupt d "pre-emption fall-back"] := by
  have hid := State.id_of_gang? hg
  let h : Gang := { g with forced := true }
  refine ⟨((s.setGang h).count d 0x1A3).note (.interrupt d "pre-emption fall-back"), ?_, ?_, ?_⟩
  · have hany : (g.cores.any fun n => decide ((CoreId.ofIndex n).die = d)) = true := List.any_eq_true.2 ⟨i, hi, by simpa using hd⟩
    have hall : (g.cores.all fun n => (s.core (CoreId.ofIndex n)).atDrain || !(s.core (CoreId.ofIndex n)).ctl.released) = false :=
      List.all_eq_false.2 ⟨i, hi, by simp [hat, hrel]⟩
    have hdue' : ¬s.cycle < t₀ + g.pdl := by omega
    simp only [exec_preemptionDeadline, execPreemptionDeadline, hg, hreq]
    rw [if_neg (by simp [hrun, hforced, hdue', hany, hall])]
    simp only [h, hreq]
  · have e : (((s.setGang h).count d 0x1A3).note (.interrupt d "pre-emption fall-back")).gang? id = (s.setGang h).gang? id := by
      simp [State.gang?, State.note, State.count]
    exact e.trans (State.gang?_setGang (Option.isSome_iff_exists.2 ⟨g, hg⟩) hid)
  · simp [State.note, State.count, State.setGang]

/-! ## The obligation -/

/-- Settles O55: each of its clauses is the lemma above for its step. -/
theorem pipelineSteps : Obligations.PipelineSteps := by
  unfold Obligations.PipelineSteps
  intro s d c id q n node g r x k live quiet
  refine ⟨?_, ?_, ?_, ?_, ?_, ?_, ?_, ?_, ?_, ?_, ?_, ?_, ?_, ?_, ?_, ?_, ?_⟩
  case refine_1 => exact fun rest asked hq _ hlast hidle => coreRelease_releases hq hlast hidle
  case refine_2 => exact fun cores base hwon hnode hpick hrun => launchAdmission_admits hwon hnode hpick hrun
  case refine_3 => exact fun t i ⟨hg, hrun⟩ ⟨hreq, hchain⟩ hwait ht hi => stageGrowth_grows hg hrun hreq hchain hwait ht hi
  case refine_4 => exact fun ⟨hg, hrun⟩ hchain hto hcores hdone => launchComplete_completes hg hrun hchain hto hcores hdone
  case refine_5 =>
    intro l a o h hl hf ha ho hp hg p
    have hend := planeLoadComplete_ends hl hf ha ho hp
    refine ⟨hend, fun t hst hok hk => ⟨_, hend, ?_⟩⟩
    rw [if_pos ⟨hst, hok⟩]
    exact State.loadEnds_reassign p hk hg
  case refine_6 => exact fun h hd hg hr hf hm hl hb => drainPoint_token hd hg hr hf hm hl hb
  case refine_7 => exact fun h hd hg hr hm => drainPoint_cancels hd hg hr hm
  case refine_8 => exact drainPoint_noGang
  case refine_9 => exact fun hd hs hask hreq hdone hfor => planeSwap_swaps hd hs hask hreq hdone hfor
  case refine_10 => exact fun ⟨hg, _⟩ hdue => reassignmentEvaluation_early hg hdue
  case refine_11 =>
    exact fun ⟨hg, hrun⟩ hen hdue => ⟨fun hno => reassignmentEvaluation_noTarget hg hrun hen hdue hno,
      fun t f i ⟨hreq, hchain⟩ ht hf hi => reassignmentEvaluation_moves hg hrun hen hdue hreq hchain ht hf hi⟩
  case refine_12 => exact fun w hwon hne hw => lotteryDraw_draws hwon hne hw
  case refine_13 =>
    exact fun base hnode hpend hearlier ⟨hg, hrun⟩ ⟨hreq, hchain⟩ hst hst' hasid hmin hof hidle hbase hnew =>
      chainedLaunch_chains hnode hpend hearlier hg hrun hreq hchain hst hst' hasid hmin hof hidle hbase hnew
  case refine_14 => exact fun ⟨hg, hrun⟩ hreq hctx hsave => gangSwitch_saves hg hrun hreq hctx hsave
  case refine_15 => exact fun cores hg hsaved hwon hnode hpick => gangRestore_restores hg hsaved hwon hnode hpick
  case refine_16 => exact fun o hen ho => preemptionRequest_raises hen ho
  case refine_17 =>
    exact fun t₀ i ⟨hg, hrun⟩ hreq hforced hdue hi hd hat hrel => preemptionDeadline_forces hg hrun hreq hforced hdue hi hd hat hrel

end Sys2Proof.Machine

namespace Sys2Proof.Machine

/-! # A die's reset with an operation's number in use (06_torus.md R130)

`DIE_RESET` ends with probes of the die's peers, and a probe is performed by its number, `nextOp`. The statement SystemSteps speaks of every
state, also of one where an operation of the other die has that number already: the reset then performs that operation in the probe's place, and
it can write the memory of the die that resets. -/

/-- A write of one byte at address 0 of die 0, under number 0, that the package's units have asked for on die 1 and that is still to be
performed. -/
def strayWrite : Op :=
  { Op.empty ⟨⟨1, 0⟩, .a⟩ with
    engine := true, dest := .apart, req := .write, data := [(0, 1)],
    parts := [{ die := 0, com := false, addr := 0, off := 0, len := 1, segs := [], order := 1, inc := 2, va := 0, rep := 0, fs := none,
                st := .todo }] }

/-- The package after reset with the in-package link of die 1 up and that write outstanding; the next operation's number is 0 too. -/
def strayState : State := { State.reset.setDieReg 1 0x10B 2 with ops := [strayWrite] }

/-- A write to a key gives one of two lists: of the value only whether it is the default is looked at. -/
theorem Sparse.eq_of_set {α : Type} [DecidableEq α] {d : Nat → α} {m r : Sparse α} {k : Nat} {v : α} (h : Sparse.set d m k v = r) :
    r = Sparse.drop m k ∨ r = Sparse.put (Sparse.drop m k) k v := by
  unfold Sparse.set at h
  split at h
  · exact .inl h.symm
  · exact .inr h.symm

/-- What die 0's memory holds in an outcome's next state. -/
def memOfNext : Host.Outcome State Fault Refusal → Memory
  | .next t => (t.die 0).mem
  | .fault _ => []
  | .refused _ => []

/-- The reset of die 0 performs the write. The die's seed comes from the random source (R395), whose value nothing here looks at: the model
is evaluated for each of the two forms that the CSRs can take with it. -/
theorem memOfNext_dieReset_strayState : memOfNext (exec (.dieReset 0) strayState) = [(0, 1)] := by
  simp only [exec_dieReset, execDieReset, State.clearDie, State.draw]
  generalize hc : Sparse.set (α := Word) _ _ 0x11D _ = csr
  rcases Sparse.eq_of_set hc with rfl | rfl
  · decide +kernel
  · decide +kernel

/-- Refutes O57: its clause for `DIE_RESET` has the die's memory stay where no operation has a task, and does not ask that the number
of the next operation be free. In `strayState` it is taken by a write of the other die, which the reset performs in the place of its probe. -/
theorem not_systemSteps : ¬ Obligations.SystemSteps := by
  unfold Obligations.SystemSteps
  intro h
  obtain ⟨-, -, -, -, -, -, -, -, -, -, -, ⟨t, ht, -, hmem, -⟩, -⟩ := h strayState 0 [] 0 0 0 0 .tamper 0
  have kept : (t.die 0).mem = (strayState.die 0).mem := (hmem (by decide)).1
  have written : (t.die 0).mem = [(0, 1)] := by
    have e := memOfNext_dieReset_strayState
    rwa [ht] at e
  have empty : (strayState.die 0).mem = [] := rfl
  simp [kept, empty] at written

end Sys2Proof.Machine

namespace Sys2Proof.Machine

/-! # The prefetch engine at a record that can no longer be read (02_pool.md R68)

Where `PREFETCH_WALK` finds the record at `tail` in a poisoned line it counts the record as skipped and ends there (log 81), also where the
engine has begun that record: the tasks that wait for pages are not tried. The statement PoolSteps has them tried after every walk of a record
that was begun. The two differ in a state where a hand-over waits, for a try always answers a hand-over (R61, R274). -/

/-! ## Operations that the steps at a frame leave as they are -/

@[simp] theorem State.ops_count (s : State) (d : DieId) (n k : Nat) : (s.count d n k).ops = s.ops := State.ops_setDieReg ..

@[simp] theorem State.ops_setPfAt (s : State) (d : DieId) (n : Option Nat) : (s.setPfAt d n).ops = s.ops := State.ops_setDie ..

@[simp] theorem State.ops_dropSeq (s : State) (obj : Nat) : (s.dropSeq obj).ops = s.ops := by simp [State.dropSeq]

@[simp] theorem State.ops_setLease (s : State) (d : DieId) (f : Nat) (l : Lease) : (s.setLease d f l).ops = s.ops := by
  simp only [State.setLease, apply_ite State.ops, State.ops_count, State.ops_dropSeq, State.ops_setDie, ite_self]

@[simp] theorem State.ops_pumpFrom (d : DieId) (s : State) (left rs : List PoolReq) : (State.pumpFrom d s left rs).ops = s.ops := by
  induction rs generalizing s left with
  | nil => simp [State.pumpFrom]
  | cons r rs ih =>
    unfold State.pumpFrom
    dsimp only
    split
    · split
      · exact ih ..
      · simp [ih]
    · exact ih ..

@[simp] theorem State.ops_poolSend (s : State) (d : DieId) (r : PoolReq) : (s.poolSend d r).ops = s.ops := by
  simp [State.poolSend, State.pumpPool]

@[simp] theorem State.ops_moveUpgrade (s : State) (d : DieId) (ch : Nat) (old : Lease) : (s.moveUpgrade d ch old).ops = s.ops := by
  rw [State.moveUpgrade]
  split
  · rfl
  split
  · rfl
  · simp

@[simp] theorem State.ops_freeLease (s : State) (d : DieId) (f : Nat) : (s.freeLease d f).ops = s.ops := by
  simp only [State.freeLease, apply_ite State.ops, State.ops_moveUpgrade, State.ops_setLease, ite_self]

@[simp] theorem State.ops_expire (s : State) (d : DieId) (f : Nat) : (s.expire d f).ops = s.ops := by
  rw [State.expire]
  split
  · rfl
  split
  · split
    · exact State.ops_freeLease ..
    · exact State.ops_setLease ..
  · split
    · exact State.ops_setLease ..
    · rfl
  · rfl

@[simp] theorem State.ops_expirePage (s : State) (obj pidx : Nat) : (s.expirePage obj pidx).ops = s.ops := by
  unfold State.expirePage
  dsimp only
  split
  · simp
  · rfl

@[simp] theorem State.ops_touch (s : State) (d : DieId) (f : Nat) : (s.touch d f).ops = s.ops := State.ops_setDie ..

theorem State.ops_frameRead (s : State) (d : DieId) (f off n : Nat) : (s.frameRead d f off n).1.ops = s.ops := by
  simp only [State.frameRead, apply_ite Prod.fst, State.ops_touch, ite_self]

theorem State.ops_frameWrite (s : State) (d : DieId) (f off : Nat) (bs : List Byte) (op : Option (Nat × Nat)) :
    (s.frameWrite d f off bs op).1.ops = s.ops := by
  unfold State.frameWrite
  dsimp only
  split <;> simp

@[simp] theorem State.ops_refreshSeq (s : State) (d : DieId) (f obj : Nat) : (s.refreshSeq d f obj).ops = s.ops := by
  simp [State.refreshSeq]

@[simp] theorem State.ops_spadWrite (s : State) (c : CoreId) (a : Nat) (bs : List Byte) : (s.spadWrite c a bs).ops = s.ops :=
  State.ops_setCore ..

@[simp] theorem State.ops_clearPf (s : State) (d : DieId) (f : Nat) (l : Lease) (k : TaskKind) : (s.clearPf d f l k).ops = s.ops := by
  simp only [State.clearPf, apply_ite State.ops, State.ops_setLease, ite_self]

/-! ## No try leaves a hand-over waiting -/

/-- A task is a hand-over that waits for its frame. -/
def Task.waitsToHandOver (t : Task) : Prop := t.st = .waiting ∧ ∃ succ, t.kind = .handover succ

/-- An operation other than a slab growth whose only task is a hand-over that waits for its frame. -/
def Op.waitsToHandOver (o : Op) : Prop := o.grow = none ∧ ∃ t, o.tasks = [t] ∧ t.waitsToHandOver

/-- The hand-over has been tried: the package is not left with one operation that waits to hand over. -/
def State.Tried (s : State) : Prop := ∀ o, s.ops = [o] → ¬ o.waitsToHandOver

section
variable {s t : State}

theorem State.Tried.same (h : s.Tried) (e : t.ops = s.ops) : t.Tried := by rwa [State.Tried, e]

theorem State.Tried.ite {c : Prop} [Decidable c] (hs : s.Tried) (ht : t.Tried) : (if c then s else t).Tried := by
  split
  · exact hs
  · exact ht

theorem State.Tried.foldl {α : Type} {f : State → α → State} {l : List α} (h : s.Tried) (hf : ∀ u a, State.Tried u → (f u a).Tried) :
    (l.foldl f s).Tried := by
  induction l generalizing s with
  | nil => exact h
  | cons a l ih => exact ih (hf s a h)

/-- A change of every operation makes none that waits to hand over. -/
theorem State.Tried.mapOps {f : Op → Op} (h : s.Tried) (hf : ∀ o, (f o).waitsToHandOver → o.waitsToHandOver) :
    State.Tried { s with ops := s.ops.map f } := by
  intro o ho hw
  obtain ⟨o', ho', rfl⟩ := List.map_eq_singleton_iff.1 ho
  exact h o' ho' (hf o' hw)

theorem State.Tried.setTask {op k st} (h : s.Tried) (hst : st ≠ .waiting) : (s.setTask op k st).Tried := by
  refine h.mapOps fun o hw => ?_
  split at hw
  · obtain ⟨hg, t, ht, hwait, hkind⟩ := hw
    obtain ⟨t', ht', e⟩ := List.mapIdx_eq_singleton_iff.1 ht
    refine ⟨hg, t', ht', ?_⟩
    subst e
    split at hwait
    · exact absurd hwait hst
    next hk => exact ⟨hwait, by rwa [if_neg hk] at hkind⟩
  · exact hw

theorem State.Tried.setDone {op k st} (h : s.Tried) : (s.setTask op k (.done st)).Tried := h.setTask nofun

theorem State.Tried.setRequested {op k n} (h : s.Tried) : (s.setTask op k (.requested n)).Tried := h.setTask nofun

theorem State.Tried.allocated {obj pidx} (h : s.Tried) : (s.allocated obj pidx).Tried := by
  refine h.mapOps fun o hw => ?_
  obtain ⟨hg, t, ht, hwait⟩ := hw
  obtain ⟨t', ht', e⟩ := List.map_eq_singleton_iff.1 ht
  refine ⟨hg, t', ht', ?_⟩
  subst e
  split at hwait
  · exact hwait
  · exact hwait

theorem State.Tried.setLease {d f l} (h : s.Tried) : (s.setLease d f l).Tried := h.same (State.ops_setLease ..)

theorem State.Tried.poolSend {d r} (h : s.Tried) : (s.poolSend d r).Tried := h.same (State.ops_poolSend ..)

theorem State.Tried.sendRelease {d f l op} (h : s.Tried) : (s.sendRelease d f l op).Tried := h.poolSend

theorem State.Tried.touch {d f} (h : s.Tried) : (s.touch d f).Tried := h.same (State.ops_touch ..)

theorem State.Tried.frameRead {d f off n st bs} (h : s.Tried) (e : s.frameRead d f off n = (t, st, bs)) : t.Tried :=
  h.same (by rw [← State.ops_frameRead s d f off n, e])

theorem State.Tried.frameWrite {d f off bs op st} (h : s.Tried) (e : s.frameWrite d f off bs op = (t, st)) : t.Tried :=
  h.same (by rw [← State.ops_frameWrite s d f off bs op, e])

theorem State.Tried.refreshSeq {d f obj} (h : s.Tried) : (s.refreshSeq d f obj).Tried := h.same (State.ops_refreshSeq ..)

theorem State.Tried.spadWrite {c a bs} (h : s.Tried) : (s.spadWrite c a bs).Tried := h.same (State.ops_spadWrite ..)

theorem State.Tried.clearPf {d f l k} (h : s.Tried) : (s.clearPf d f l k).Tried := h.same (State.ops_clearPf ..)

theorem State.Tried.drained {d f} (h : s.Tried) : (s.drained d f).Tried := by
  unfold State.drained
  dsimp only
  split
  · exact h
  split
  · exact h.setLease
  · split
    · exact h.setRequested.poolSend.setLease
    · exact h.setRequested.sendRelease.setLease
    · exact h.sendRelease.setLease
  · exact h

/-- Unfolded as a constant: the search for a free frame does not evaluate. -/
theorem State.Tried.fillPage {obj pidx leaf x cap op pf} (h : s.Tried) : ∀ u ∈ s.fillPage obj pidx leaf x cap op pf, State.Tried u := by
  generalize hf : @State.fillPage = f
  delta State.fillPage at hf
  subst hf
  beta_reduce
  extract_lets
  split
  · exact fun _ hu => absurd hu (Option.not_mem_none _)
  · intro u hu
    rw [← Option.mem_some_iff.1 hu]
    exact h.allocated.setLease.poolSend

theorem State.Tried.demand {o k t x} (h : s.Tried) : (s.demand o k t x).Tried := by
  unfold State.demand
  split
  · exact h.setDone
  · cases e : s.fillPage t.obj t.pidx t.leaf x o.cap (some (o.id, k)) none with
    | none => exact h
    | some u => exact h.fillPage u e

theorem State.Tried.tryAbsent {o k t} (h : s.Tried) : (s.tryAbsent o k t).Tried := by
  unfold State.tryAbsent
  split
  · exact h
  iterate 5 · exact h.demand
  iterate 4 · exact h.setDone

/-- The stores that copy a page are added to an operation that waits to hand over no page. -/
theorem State.Tried.addStores {id : Nat} {l : List (Nat × List Byte)} {obj p leaf} (h : s.Tried) :
    State.Tried { s with ops := s.ops.map fun y => if y.id = id then
      { y with tasks := y.tasks ++ l.map fun e => ({ obj := obj, pidx := p, kind := .store e.1 e.2, leaf := leaf, passed := 0, st := .waiting } : Task) }
      else y } := by
  refine h.mapOps fun o hw => ?_
  split at hw
  · obtain ⟨hg, t, ht, hwait, succ, hkind⟩ := hw
    rcases List.append_eq_singleton_iff.1 ht with ⟨-, hnew⟩ | ⟨hold, -⟩
    · obtain ⟨e, -, rfl⟩ := List.map_eq_singleton_iff.1 hnew
      cases hkind
    · exact ⟨hg, t, hold, hwait, succ, hkind⟩
  · exact hw

theorem State.Tried.tryRead {o k t d f l} (h : s.Tried) : (s.tryRead o k t d f l).Tried := by
  unfold State.tryRead
  split
  · exact h.touch.setDone
  · exact h.setDone.ite h
  · exact h.setDone.ite h.touch.setLease.setDone
  · split
    · exact h.setDone
    split
    next e => exact (h.frameRead e).setDone.ite (h.frameRead e).setDone.addStores
  · exact h

theorem State.Tried.tryValid {o k t d f l} (h : s.Tried) : (s.tryValid o k t d f l).Tried := by
  rw [State.tryValid]
  split
  · refine h.setLease.setDone.ite (h.ite ?_)
    split
    · exact h.setDone
    · exact h.poolSend
  · exact h.setLease.setRequested.drained
  · exact h.setDone.ite h.setLease.setRequested.drained
  · exact h.touch.setDone
  · refine h.setDone.ite (h.ite ?_)
    split
    next e => exact (h.frameRead e).setDone.spadWrite.ite (h.frameRead e).setDone
  · refine h.setDone.ite ?_
    split
    · exact h.setDone
    refine h.setDone.ite (h.ite ?_)
    split
    next e =>
      have hs := h.frameWrite e
      exact hs.setDone.ite (hs.refreshSeq.ite hs).setRequested
  · exact h.tryRead

theorem State.Tried.expirePage {obj pidx} (h : s.Tried) : (s.expirePage obj pidx).Tried := h.same (by simp)

theorem State.Tried.tryTask {op k} (h : s.Tried) : (s.tryTask op k).Tried := by
  unfold State.tryTask
  split
  · exact h
  split
  · exact h
  split
  · exact h
  dsimp only
  split
  · exact h.expirePage.tryAbsent
  split
  · exact h.expirePage.tryValid
  · split
    · exact h.expirePage.setDone
    · exact h.expirePage.setDone
    · exact h.expirePage.tryRead
  · split
    · exact h.expirePage.setDone
    · exact h.expirePage.clearPf
  · split
    · exact h.expirePage.setDone
    · exact h.expirePage

theorem State.Tried.tryGrow {op fuel k} (h : s.Tried) : (State.tryGrow op fuel k s).Tried := by
  induction fuel generalizing s k with
  | zero => exact h
  | succ fuel ih =>
    unfold State.tryGrow
    split
    · exact h
    split
    · exact ih h
    split
    · exact ih h.setDone
    dsimp only
    split
    · exact h.tryTask.ite (ih h.tryTask)
    · exact h.tryTask

theorem State.Tried.tryOp {op} (h : s.Tried) : (s.tryOp op).Tried := by
  unfold State.tryOp
  split
  · exact h
  · exact h.tryGrow.ite (h.foldl fun _ _ hs => hs.tryTask)

theorem State.Tried.tryAll (h : s.Tried) : s.tryAll.Tried := h.foldl fun _ _ hs => hs.tryOp.ite hs

/-- The only task of the only operation no longer waits once its state is another one. -/
theorem State.tried_setTask {o : Op} {t : Task} {st : TaskState} (ho : s.ops = [o]) (ht : o.tasks = [t]) (hst : st ≠ .waiting) :
    (s.setTask o.id 0 st).Tried := by
  intro o' ho' ⟨_, t', ht', hwait, _⟩
  obtain rfl : { o with tasks := [{ t with st := st }] } = o' := by simpa [State.setTask, ho, ht] using ho'
  obtain rfl : { t with st := st } = t' := by simpa using ht'
  exact hst hwait

/-- A try of the hand-over: whatever the state of its page's frame, it ends, or a request for it has been sent (R61, R274). -/
theorem State.tried_tryTask {o : Op} (ho : s.ops = [o]) (hw : o.waitsToHandOver) : (s.tryTask o.id 0).Tried := by
  obtain ⟨-, t, ht, hwait, succ, hkind⟩ := hw
  have hop : s.op? o.id = some o := by simp [State.op?, ho]
  have htask : o.tasks[0]? = some t := by simp [ht]
  have ends : ∀ {u : State} {st}, u.ops = s.ops → (u.setTask o.id 0 (.done st)).Tried := fun e => State.tried_setTask (e.trans ho) ht nofun
  have sent : ∀ {u : State} {n}, u.ops = s.ops → (u.setTask o.id 0 (.requested n)).Tried := fun e => State.tried_setTask (e.trans ho) ht nofun
  unfold State.tryTask
  simp only [hop, htask, hwait, hkind, TaskKind.isLine, ne_eq, not_true_eq_false, Bool.false_eq_true, or_self, if_false]
  split
  · simp only [State.tryAbsent, hkind]
    exact ends (by simp)
  split
  · simp only [State.tryValid, hkind]
    exact (ends (by simp)).ite (sent (by simp)).drained
  · exact ends (by simp)
  · exact ends (by simp)
  · exact ends (by simp)

/-- After every operation has been tried, the hand-over has been. -/
theorem State.tried_tryAll (s : State) : s.tryAll.Tried := by
  by_cases h : s.Tried
  · exact h.tryAll
  · obtain ⟨o, ho, hw⟩ : ∃ o, s.ops = [o] ∧ o.waitsToHandOver := by simpa [State.Tried] using h
    obtain ⟨hg, t, ht, hwait, -⟩ := id hw
    have hop : s.op? o.id = some o := by simp [State.op?, ho]
    have e : s.tryAll = s.tryTask o.id 0 := by simp [State.tryAll, State.tryOp, ho, ht, hwait, hop, hg]
    exact e ▸ State.tried_tryTask ho hw

theorem State.tried_settlePool (s : State) : s.settlePool.Tried := State.tried_tryAll _

end

/-! ## `PREFETCH_WALK` at an unreadable record -/

/-- The record at `tail` of a die's prefetch ring, where it can be read (R66). -/
def State.prefetchRecord? (s : State) (d : DieId) : Option (List Byte) :=
  (s.die d).peek? (field (s.dieReg d 0x116) 4 28 * 4096 + 32 * (field (s.dieReg d 0x116) 32 16 % 2 ^ field (s.dieReg d 0x116) 0 4)) 32

/-- A record that cannot be read is counted as skipped and passed (log 81), whether or not the engine has begun it; no more happens. -/
theorem prefetchWalk_unreadable {s : State} {d : DieId} (hon : bit (s.dieReg d 0x117) 16 = true)
    (hne : field (s.dieReg d 0x116) 48 16 ≠ field (s.dieReg d 0x116) 32 16) (hrec : s.prefetchRecord? d = none) :
    exec (.prefetchWalk d) s = .next (((s.count d 0x182).setDieReg d 0x116
      (setField ((s.count d 0x182).dieReg d 0x116) 32 16 (field (s.dieReg d 0x116) 32 16 + 1))).setPfAt d none) := by
  unfold State.prefetchRecord? at hrec
  simp [execPrefetchWalk, hon, hne, hrec]

/-- An operation that waits to hand over page 0 of object 0 to requester 0. -/
def waitingHandover : Op := { Op.empty ⟨⟨0, 0⟩, .a⟩ with tasks := [pageTask (.handover 0) 0 0 none] }

/-- The prefetch engine of die 0 is on and has begun the record at 0, whose line has been poisoned since; a hand-over waits. -/
def poisonedRecord : State :=
  let s := (State.reset.setDieReg 0 0x117 (BitVec.ofNat 64 (2 ^ 16))).setDieReg 0 0x116 (BitVec.ofNat 64 (2 ^ 48 + 4))
  { s.setDie 0 { s.die 0 with poison := [0], pool := { (s.die 0).pool with pfAt := some 0 } } with ops := [waitingHandover] }

/-- Refutes O52: its last clause has the waiting tasks tried after each walk of a record that the engine has begun, and does not ask that the
record can be read. In `poisonedRecord` the engine skips the record and the hand-over still waits. -/
theorem not_poolSteps : ¬ Obligations.PoolSteps := by
  unfold Obligations.PoolSteps
  intro h
  obtain ⟨-, -, -, -, -, -, -, -, -, -, -, -, -, -, walk⟩ := h poisonedRecord 0 0 0 (poolReq .renew 0 Lease.free 0 none) 0 0 0 0 [] [] 0 0
  have hon : bit (poisonedRecord.dieReg 0 0x117) 16 = true := by decide
  have hne : field (poisonedRecord.dieReg 0 0x116) 48 16 ≠ field (poisonedRecord.dieReg 0 0x116) 32 16 := by decide
  have begun : (poisonedRecord.die 0).pool.pfAt ≠ none := by decide
  obtain ⟨t, ht, -⟩ := (walk hon hne).2 _ _ (.inl begun) (Prod.eta _).symm
  rw [prefetchWalk_unreadable hon hne (by decide)] at ht
  injection ht with skipped
  have left : (t.cancelPrefetch 0).settlePool.ops = [waitingHandover] := by
    rw [← skipped]
    simp [poisonedRecord]
  exact State.tried_settlePool _ waitingHandover left ⟨rfl, _, rfl, rfl, 0, rfl⟩

end Sys2Proof.Machine

namespace Sys2Proof.Machine

/-! # Fences and unmapped addresses (04_translation.md R78, R79; 13_isa_memory.md R261)

A fault met at issue posts one entry, whatever state the body of its instruction saw; an access to an unmapped address meets its fault at its
first piece, before anything is asked of a unit. -/

/-! ## The fault queue after an entry (R400 to R402) -/

section
variable (s : State) (d : DieId) (e : FaultEntry)

/-- Two states of the same die registers read the same. -/
theorem State.dieReg_congr {s t : State} (h : ∀ d, (t.die d).csr = (s.die d).csr) (d : DieId) (n : Nat) : t.dieReg d n = s.dieReg d n := by
  unfold State.dieReg Die.reg
  rw [h d, show t.die0.csr = s.die0.csr from h 0]

theorem State.faults_writeEntry : ((s.writeEntry d e).die d).faults = (s.die d).faults.addPosted e := by
  have note (u : State) (n : HostNote) : (u.note n).die d = u.die d := rfl
  have poke : ((s.die d).poke (field (s.dieReg d 0x11F) 12 28 * 4096 + 64 * (field (s.dieReg d 0x1A0) 0 32 % 2 ^ field (s.dieReg d 0x11F) 4 5))
    e.bytes).faults = (s.die d).faults := (Die.keeps_poke _ _ _).1.faults
  unfold State.writeEntry
  dsimp only
  split <;> split <;> simp [note, State.setFaults, State.pokeDie, poke]

theorem State.dieReg_writeEntry :
    (s.writeEntry d e).dieReg d 0x1A0 = setField (s.dieReg d 0x1A0) 0 32 (field (s.dieReg d 0x1A0) 0 32 + 1) := by
  have note (u : State) (n : HostNote) (m : Nat) : (u.note n).dieReg d m = u.dieReg d m := rfl
  unfold State.writeEntry
  dsimp only
  split <;> split <;> simp only [note, State.dieReg_setDieReg_same]

/-- The queue after an entry that is no migration notice has been raised (R402). -/
def State.queueAfter (s : State) (d : DieId) (e : FaultEntry) : FaultQueue :=
  let q := (s.die d).faults
  let e := { e with seq := q.next }
  if s.faultRoom d && q.held.isEmpty then { q with next := q.next + 1, posted := q.posted ++ [e] }
  else { q with next := q.next + 1, held := q.held ++ [e] }

theorem State.faults_post (h : e.kind ≠ 14) : ((s.post d e).die d).faults = s.queueAfter d e := by
  unfold State.post State.queueAfter
  dsimp only
  rw [if_neg (by simp [h]), if_neg h]
  split
  · rw [State.faults_writeEntry]
    simp [State.setFaults, FaultQueue.addPosted]
  · simp [State.count, State.setFaults, FaultQueue.addHeld]

end

/-! ## Taking a fault (R399, R401) -/

section
variable {s t u : State} {f : FaultInfo}

theorem State.me_takeFault (s : State) (f : FaultInfo) : (s.takeFault s.focus f).me =
    { s.me with run := .parked s.here.faults.next, wait := none, join := .none, hold := none } := by
  rw [State.me, State.focus_takeFault, State.stream_takeFault]; rfl

/-- A fault that posts an entry parks its stream on the entry's number (R399). -/
theorem State.raised_takeFault (s : State) (h : f.kind ≠ 14) : s.raised (s.takeFault s.focus f) f := by
  have queue : ((s.takeFault s.focus f).die s.focus.core.die).faults = s.queueAfter s.focus.core.die (s.entryFor s.focus f true) := by
    unfold State.takeFault
    rw [State.faults_post _ _ _ h]
    have room (c : ClusterState) : (s.setStream s.focus c).faultRoom s.focus.core.die = s.faultRoom s.focus.core.die := by
      simp only [State.faultRoom, State.dieReg_congr (State.die_csr_setStream s s.focus c)]
    simp [State.queueAfter, room]
  unfold State.raised
  rw [State.me_takeFault, queue]
  refine ⟨rfl, rfl, rfl, ?_, { s.entryFor s.focus f true with seq := s.here.faults.next }, rfl, rfl, rfl, rfl, rfl, rfl, rfl, rfl, rfl, rfl, rfl,
    rfl, ?_⟩
  · unfold State.queueAfter; dsimp only; split <;> rfl
  · unfold State.queueAfter; dsimp only; split <;> exact ⟨rfl, rfl⟩

/-- What is posted depends on the faulting stream, its core's ASID and its die's fault queue alone. -/
theorem State.raised_congr (hf : u.focus = s.focus) (hm : u.me = s.me) (hq : ∀ d, (u.die d).faults = (s.die d).faults)
    (hc : u.cur.csr = s.cur.csr) (hr : ∀ d n, u.dieReg d n = s.dieReg d n) (h : u.raised t f) : s.raised t f := by
  have asid : (u.core s.focus.core).reg 0x40 = (s.core s.focus.core).reg 0x40 := by
    have : (u.core s.focus.core).csr = (s.core s.focus.core).csr := by rw [← hf]; simpa [State.cur, hf] using hc
    simp [Core.reg, this]
  have room : u.faultRoom s.focus.core.die = s.faultRoom s.focus.core.die := by simp only [State.faultRoom, hr]
  unfold State.raised at h
  rw [hf, hm, hq, asid, room] at h
  exact h

end

/-! ## A fault met while the body worked (R399) -/

section
variable {s u : State} {i : Instr} {f : FaultInfo} {body : State → Eff}

theorem State.Seen.die_rest (h : s.Seen u) (d : DieId) :
    (u.die d).csr = (s.die d).csr ∧ (u.die d).pool = (s.die d).pool ∧ (u.die d).faults = (s.die d).faults := by
  have hd := h.same .dies d
  simp only [Die.mk.injEq] at hd
  simp [hd]

theorem State.Seen.dieReg (h : s.Seen u) (d : DieId) (n : Nat) : u.dieReg d n = s.dieReg d n :=
  State.dieReg_congr (fun d => (h.die_rest d).1) d n

theorem State.Seen.pendingWrites (h : s.Seen u) : u.pendingWrites = s.pendingWrites := by
  have pool (d : DieId) : (u.die d).pool = (s.die d).pool := (h.die_rest d).2.1
  unfold State.pendingWrites
  rw [show u.die0.pool = s.die0.pool from pool 0, show u.die1.pool = s.die1.pool from pool 1]

/-- An instruction whose body ends in an exact fault after it has asked no unit for anything raises that fault at itself. -/
theorem State.Seen.raises (h : s.mayIssue i = true) (hf : f.kind ≠ 14) (hb : ∀ u, s.Seen u → body u = .abort u f) :
    ∃ t, s.issue i body = .next t ∧ s.raised t f ∧ (∀ n, t.x n = s.x n) ∧ (∀ n, t.steer n = s.steer n) ∧
      (t.core s.focus.core).regs = s.cur.regs := by
  have seen := State.seen_take s (syncBits i)
  simp only [State.mayIssue, Bool.and_eq_true, beq_iff_eq, Option.isNone_iff_eq_none] at h
  obtain ⟨⟨⟨legal, free⟩, ready⟩, -⟩ := h
  let v := (s.take (syncBits i)).setMe s.me
  have focus : v.focus = s.focus := by simp [v]
  have me : v.me = s.me := by simp [v]
  refine ⟨v.takeFault v.focus f, ?_, State.raised_congr focus me ?_ ?_ ?_ (State.raised_takeFault v hf), ?_, ?_, ?_⟩
  · simp [State.issue, legal, free, ready, hb _ seen, v]
  · intro d; simp [v]
  · simp [v, State.cur, State.setMe]
  · exact State.dieReg_congr fun d => by simp [v]
  · intro n; rw [State.x, State.me_takeFault, me]; rfl
  · intro n; rw [State.steer, State.me_takeFault, me]; rfl
  · simp [v, State.cur, State.setMe]

end

/-! ## Unmapped addresses (R78, R79) -/

/-- No page of a die translates the address: it is 2^48 or above, or the die's translation is off. -/
def State.unmapped (s : State) (d : DieId) (va : Nat) : Prop := 2 ^ 48 ≤ va ∨ bit (s.dieReg d 0x101) 0 = false

section
variable {s : State}

theorem State.Seen.unmapped {u : State} {d : DieId} {va : Nat} (h : s.Seen u) (hva : s.unmapped d va) : u.unmapped d va := by
  unfold State.unmapped
  rwa [h.dieReg]

theorem State.plan_unmapped {c : CoreId} {who : Asker} {asid va off n : Nat} {write program : Bool} {fs : Nat → Option Nat}
    {l : List (Nat × Nat × Nat)} (h : s.unmapped c.die va) :
    s.plan c who asid write program fs ((va, off, n) :: l) = (s, .fault causeNomap va) := by
  have off : 2 ^ 48 ≤ va ∨ (!bit (s.dieReg c.die 0x101) 0) = true := by simpa [State.unmapped] using h
  have nomap : s.translate c who asid va write program = (s, .fault causeNomap) := by
    unfold State.translate State.translateFor
    exact if_pos off
  simp only [State.plan, nomap]

/-- An access of some bytes begins with a piece at its address. -/
theorem pieces_cons {n : Nat} (va : Nat) (h : n ≠ 0) : ∃ k l, pieces va n = (va, 0, k) :: l := by
  simp [pieces, linePieces, h]

theorem State.access_unmapped {va n : Nat} {release : BitVec 3} {o : Op} (hn : n ≠ 0) (h : s.unmapped s.focus.core.die va) :
    s.access (pieces va n) release o = .abort s (.trans causeNomap va) := by
  obtain ⟨k, l, e⟩ := pieces_cons va hn
  simp only [State.access, State.accessWith, e, State.plan_unmapped h]

theorem loadBody_unmapped {d b z o off p : Nat} {plain : Bool} (h : s.unmapped s.focus.core.die (s.x b + BitVec.ofNat 64 (off * 2 ^ z)).toNat) :
    loadBody d b z o off p plain s = .abort s (.trans causeNomap (s.x b + BitVec.ofNat 64 (off * 2 ^ z)).toNat) :=
  State.access_unmapped (by simp) h

theorem storeBody_unmapped {d b z o off p : Nat} {plain : Bool} (h : s.unmapped s.focus.core.die (s.x b + BitVec.ofNat 64 (off * 2 ^ z)).toNat) :
    storeBody d b z o off p plain s = .abort s (.trans causeNomap (s.x b + BitVec.ofNat 64 (off * 2 ^ z)).toNat) :=
  State.access_unmapped (by simp) h

/-- A load or store of an unmapped address raises NOMAP at the instruction. -/
theorem raises_unmapped {i : Instr} {body : State → Eff} {b off z : Nat} (hexec : exec i s = s.issue i body)
    (hbody : ∀ u : State, u.unmapped u.focus.core.die (u.x b + BitVec.ofNat 64 (off * 2 ^ z)).toNat →
      body u = .abort u (.trans causeNomap (u.x b + BitVec.ofNat 64 (off * 2 ^ z)).toNat))
    (hi : s.mayIssue i = true) (h : s.unmapped s.focus.core.die (s.x b + BitVec.ofNat 64 (off * 2 ^ z)).toNat) :
    Raises s i { kind := 1, cause := 1, addr := (s.x b + BitVec.ofNat 64 (off * 2 ^ z)).toNat } := by
  unfold Raises
  rw [hexec]
  refine State.Seen.raises hi (by simp) fun u hu => ?_
  rw [hbody u (by rw [hu.focus, hu.x]; exact hu.unmapped h), hu.x]
  rfl

end

/-! ## Fences (R261) -/

/-- The earlier accesses of the stream in focus have been performed, and at `.sys` have completed with no write-through outstanding (log 21). -/
def State.fenceClear (s : State) (o : BitVec 3) : Prop :=
  if o = 7 then s.opsOf s.focus = [] ∧ s.pendingWrites = false else ∀ q ∈ s.opsOf s.focus, q.outstanding = false

theorem State.Seen.fenceClear {s u : State} {o : BitVec 3} (h : s.Seen u) : u.fenceClear o ↔ s.fenceClear o := by
  rw [State.fenceClear, State.fenceClear, h.focus, h.opsOf, h.pendingWrites]

/-- What a fence does at issue. -/
def fenceBody (o : BitVec 3) (s : State) : Eff :=
  if o = 7 then (if (s.opsOf s.focus).isEmpty && !s.pendingWrites then .retire s 0 else .block .access)
  else if (s.unperformed s.focus).isEmpty then .retire s 0 else .block .access

theorem execFence_eq (sy : Sync) (o : BitVec 3) (u : BitVec 1) (s : State) : execFence sy o u s = s.issue (.fence sy o u) (fenceBody o) := rfl

section
variable {s : State} {sy : Sync} {o : BitVec 3} {u : BitVec 1}

theorem fenceBody_clear (h : s.fenceClear o) : fenceBody o s = .retire s 0 := by
  unfold State.fenceClear at h
  unfold fenceBody
  split at h
  · next ho => simp [ho, h]
  · next ho => rw [if_neg ho, if_pos (by simpa [State.unperformed] using h)]

theorem fenceBody_waits (h : ¬ s.fenceClear o) : fenceBody o s = .block .access := by
  unfold State.fenceClear at h
  unfold fenceBody
  split at h
  · next ho => simpa [ho] using h
  · next ho => rw [if_neg ho, if_neg (by simpa [State.unperformed] using h)]

theorem fence_passes (hi : s.mayIssue (.fence sy o u) = true) (h : s.fenceClear o) :
    Flows s (.fence sy o u) [] (endcheck (s.me.pc + 2) s.me.stack).1 (endcheck (s.me.pc + 2) s.me.stack).2 := by
  unfold Flows
  rw [exec_fence, execFence_eq]
  exact State.Seen.passes hi fun v hv => fenceBody_clear (hv.fenceClear.2 h)

theorem fence_waits (hi : s.mayIssue (.fence sy o u) = true) (h : ¬ s.fenceClear o) :
    exec (.fence sy o u) s = .next (s.blocked .access) := by
  simp only [State.mayIssue, Bool.and_eq_true, beq_iff_eq, Option.isNone_iff_eq_none] at hi
  obtain ⟨⟨⟨legal, free⟩, ready⟩, -⟩ := hi
  rw [exec_fence, execFence_eq]
  exact State.issue_waits legal free ready (fenceBody_waits fun hc => h ((State.seen_take s _).fenceClear.1 hc))

end

/-- Settles O24: an unmapped address is met at the first piece of the access, before a walk, and a fence looks at its stream's operations
alone. -/
theorem fencesAndUnmappedAccesses : Obligations.FencesAndUnmappedAccesses := by
  unfold Obligations.FencesAndUnmappedAccesses
  refine ⟨fun s sy d b z o p f => ?_, fun s sy o u hi => ⟨fence_passes hi, fence_waits hi⟩⟩
  have base (n : Nat) : s.x b.toNat + BitVec.ofNat 64 (0 * 2 ^ n) = s.x b.toNat := by simp
  refine ⟨raises_unmapped rfl fun _ => loadBody_unmapped, raises_unmapped rfl fun _ => storeBody_unmapped, ?_, ?_, ?_, ?_⟩
  · exact base z.toNat ▸ raises_unmapped rfl fun _ => loadBody_unmapped
  · exact base z.toNat ▸ raises_unmapped rfl fun _ => storeBody_unmapped
  · exact base 3 ▸ raises_unmapped rfl fun _ => loadBody_unmapped
  · exact base 3 ▸ raises_unmapped rfl fun _ => storeBody_unmapped

end Sys2Proof.Machine

namespace Sys2Proof.Machine

/-! # Steps of the package: translation, KV space, fault queue, event crossbar (04_translation.md, 05_kv_space.md, 20_faults.md,
13_isa_memory.md, 16_swath.md)

Each clause of TranslationKvAndFaultSteps is a lemma about its step. The lemmas stand in the order of the clauses, under the facts about the
operations of the state that they share. -/

/-! ## Fields of registers -/

section
variable {m : Nat} (w : BitVec m)

theorem field_lt (lo n : Nat) : field w lo n < 2 ^ n := Nat.mod_lt _ (Nat.two_pow_pos n)

theorem testBit_field (lo n i : Nat) : (field w lo n).testBit i = (decide (i < n) && w.getLsbD (lo + i)) := by
  rw [field, Nat.testBit_mod_two_pow, Nat.testBit_div_two_pow, Nat.add_comm]; rfl

theorem field_setField_same {lo n : Nat} (v : Nat) (h : lo + n ≤ m) : field (setField w lo n v) lo n = v % 2 ^ n := by
  refine Nat.eq_of_testBit_eq fun i => ?_
  rw [testBit_field, getLsbD_setField, Nat.testBit_mod_two_pow]
  by_cases hi : i < n
  · have inside : lo + i < m ∧ lo + i < lo + n := by omega
    simp [hi, inside]
  · simp [hi]

theorem bit_setBit_same {i : Nat} (b : Bool) (h : i < m) : bit (setBit w i b) i = b := by
  rw [bit, setBit, getLsbD_setField]
  cases b <;> simp [h]

theorem bit_eq_decide (i : Nat) : bit w i = decide (w.toNat / 2 ^ i % 2 = 1) := Nat.testBit_eq_decide_div_mod_eq

end

/-! ## `PAGE_WALK` (R77, R82) -/

theorem mem_putTlb (l : List TlbEntry) {n : Nat} (e : TlbEntry) (h : n ≠ 0) : e ∈ putTlb l n e := by
  unfold putTlb
  dsimp only
  rw [List.drop_append_of_le_length (by omega)]
  simp

section
variable {s : State} {c : CoreId} {e : TlbEntry}

theorem State.core_setDie_tlb (s : State) (d : DieId) (l : List TlbEntry) (c : CoreId) : (s.setDie d { s.die d with tlb := l }).core c = s.core c := by
  unfold State.core
  rw [State.die_setDie]
  split
  · next h => rw [h]; rfl
  · rfl

theorem State.core_install (s : State) (c : CoreId) (e : TlbEntry) :
    (s.install c e).core c = { s.core c with store := { (s.core c).store with utlb := putTlb (s.core c).store.utlb 64 e } } := by
  simp [State.install, State.core_setDie_tlb]

theorem State.tlb_install (s : State) (c : CoreId) (e : TlbEntry) : ((s.install c e).die c.die).tlb = putTlb (s.die c.die).tlb 8192 e := by
  simp [State.install]

/-- What a walk of a core's access has found is kept for that access. -/
theorem State.core_putWalked {w : Walker} (s : State) (r : Walked) (h : w.who.isCp = false) : (s.putWalked w r).core w.core =
    { s.core w.core with store := { (s.core w.core).store with walked := (s.core w.core).store.walked ++ [r] } } := by
  simp [State.putWalked, h]

theorem State.tlb_putWalked {w : Walker} (s : State) (r : Walked) (h : w.who.isCp = false) (d : DieId) :
    ((s.putWalked w r).die d).tlb = (s.die d).tlb := by
  simp [State.putWalked, h]

end

/-- What a walk comes to with the answer of its request: a walk that an invalidation has met starts afresh. -/
def State.walkResult (s : State) (o : Op) (w : Walker) (again : Bool) (got : List WalkAnswer) : State × Xres :=
  if again then (s.dropOp o.id).walk w else (s.dropOp o.id).walkWith w (got ++ [⟨o.walkKey, o.status, readNat o.data 0 o.size⟩])

section
variable {s : State} {c : CoreId} {va asid : Nat}

theorem pageWalk_idle (h : s.ops.filter (fun o => o.walkDone c va asid) = []) : exec (.pageWalk c va asid) s = .next s := by
  simp [execPageWalk, h]

variable {o : Op} {a n : Nat} {who : Asker} {again : Bool} {got : List WalkAnswer}

theorem pageWalk_one (h : s.ops.filter (fun o => o.walkDone c va asid) = [o]) : o.owner.core = c ∧ exec (.pageWalk c va asid) s = .next (s.walkOn o) := by
  have mem : o ∈ s.ops.filter fun o => o.walkDone c va asid := by rw [h]; exact List.mem_singleton_self o
  have done : o.walkDone c va asid = true := (List.mem_filter.1 mem).2
  refine ⟨?_, by simp [execPageWalk, h]⟩
  simp only [Op.walkDone, Bool.and_eq_true, decide_eq_true_eq] at done
  exact done.1.2

/-- A walk that goes on holds what it finds. -/
theorem State.walkOn_eq (hd : o.dest = .walk a n who again got) :
    s.walkOn o = match State.held ⟨o.owner.core, who, a, n⟩ (s.walkResult o ⟨o.owner.core, who, a, n⟩ again got) with
      | (s, .need) => s
      | (s, .ok e) => s.putWalked ⟨o.owner.core, who, a, n⟩ ⟨who, a, n, 0, some e⟩
      | (s, .fault cause) => s.putWalked ⟨o.owner.core, who, a, n⟩ ⟨who, a, n, cause, none⟩ := by
  unfold State.walkOn
  rw [hd]
  rfl

theorem State.walkOn_need (hd : o.dest = .walk a n who again got) (hr : (s.walkResult o ⟨o.owner.core, who, a, n⟩ again got).2 = .need) :
    s.walkOn o = (s.walkResult o ⟨o.owner.core, who, a, n⟩ again got).1 := by
  rw [State.walkOn_eq hd, ← Prod.eta (s.walkResult ..), hr]
  rfl

theorem State.walkOn_fault {cause : Nat} (hd : o.dest = .walk a n who again got)
    (hr : (s.walkResult o ⟨o.owner.core, who, a, n⟩ again got).2 = .fault cause) :
    s.walkOn o = (s.walkResult o ⟨o.owner.core, who, a, n⟩ again got).1.putWalked ⟨o.owner.core, who, a, n⟩ ⟨who, a, n, cause, none⟩ := by
  rw [State.walkOn_eq hd, ← Prod.eta (s.walkResult ..), hr]
  rfl

theorem State.walkOn_ok {e : TlbEntry} (hd : o.dest = .walk a n who again got) (hcp : who.isCp = false)
    (hr : (s.walkResult o ⟨o.owner.core, who, a, n⟩ again got).2 = .ok e) :
    s.walkOn o = ((s.walkResult o ⟨o.owner.core, who, a, n⟩ again got).1.install o.owner.core e).putWalked ⟨o.owner.core, who, a, n⟩
      ⟨who, a, n, 0, some e⟩ := by
  rw [State.walkOn_eq hd, ← Prod.eta (s.walkResult ..), hr]
  simp [State.held, State.holdEntry, hcp]

theorem pageWalk_ok {e : TlbEntry} (h : s.ops.filter (fun o => o.walkDone c va asid) = [o]) (hd : o.dest = .walk a n who again got)
    (hcp : who.isCp = false) (hr : (s.walkResult o ⟨c, who, a, n⟩ again got).2 = .ok e) :
    ∃ u, exec (.pageWalk c va asid) s = .next u ∧ e ∈ (u.core c).store.utlb ∧ e ∈ (u.die c.die).tlb ∧
      (u.core c).store.walked = ((s.walkResult o ⟨c, who, a, n⟩ again got).1.core c).store.walked ++ [⟨who, a, n, 0, some e⟩] := by
  obtain ⟨rfl, hx⟩ := pageWalk_one h
  refine ⟨_, hx, ?_⟩
  rw [State.walkOn_ok hd hcp hr, State.core_putWalked (w := ⟨o.owner.core, who, a, n⟩) _ _ hcp, State.tlb_putWalked _ _ hcp, State.core_install,
    State.tlb_install]
  exact ⟨mem_putTlb _ _ (by decide), mem_putTlb _ _ (by decide), rfl⟩

theorem pageWalk_fault {cause : Nat} (h : s.ops.filter (fun o => o.walkDone c va asid) = [o]) (hd : o.dest = .walk a n who again got)
    (hcp : who.isCp = false) (hr : (s.walkResult o ⟨c, who, a, n⟩ again got).2 = .fault cause) :
    ∃ u, exec (.pageWalk c va asid) s = .next u ∧
      (u.core c).store.walked = ((s.walkResult o ⟨c, who, a, n⟩ again got).1.core c).store.walked ++ [⟨who, a, n, cause, none⟩] := by
  obtain ⟨rfl, hx⟩ := pageWalk_one h
  refine ⟨_, hx, ?_⟩
  rw [State.walkOn_fault hd hr, State.core_putWalked (w := ⟨o.owner.core, who, a, n⟩) _ _ hcp]

theorem pageWalk_need (h : s.ops.filter (fun o => o.walkDone c va asid) = [o]) (hd : o.dest = .walk a n who again got)
    (hr : (s.walkResult o ⟨c, who, a, n⟩ again got).2 = .need) :
    exec (.pageWalk c va asid) s = .next (s.walkResult o ⟨c, who, a, n⟩ again got).1 := by
  obtain ⟨rfl, hx⟩ := pageWalk_one h
  rw [hx, State.walkOn_need hd hr]

end

/-! ## `TINVC_WRITE` and `INVALIDATION_COMPLETE` (R85, R86) -/

section
variable {s : State} {d : DieId}

theorem State.die_invalidate (s : State) (v : Invalidation) (d : DieId) :
    (s.invalidate v).die d = if v.inScope d then (s.die d).invalidate v else s.die d := by
  have step (u : State) (e : DieId) : (if v.inScope e then u.setDie e ((u.die e).invalidate v) else u).die d =
      if v.inScope e ∧ d = e then (u.die d).invalidate v else u.die d := by
    by_cases hs : v.inScope e <;> simp only [hs, if_true, if_false, true_and, false_and, State.die_setDie, Bool.false_eq_true]
    split
    · next he => rw [he]
    · rfl
  show (if v.inScope 1 then (if v.inScope 0 then s.setDie 0 ((s.die 0).invalidate v) else s).setDie 1
    (((if v.inScope 0 then s.setDie 0 ((s.die 0).invalidate v) else s).die 1).invalidate v)
    else if v.inScope 0 then s.setDie 0 ((s.die 0).invalidate v) else s).die d = _
  rw [step, step]
  rcases DieId.cases d with rfl | rfl <;> simp

theorem State.csr_invalidate (s : State) (v : Invalidation) (d : DieId) : ((s.invalidate v).die d).csr = (s.die d).csr := by
  rw [State.die_invalidate]; split <;> rfl

/-- No entry that an invalidation matches is left on the dies of its scope (R85). -/
theorem State.tlb_invalidate (s : State) {v : Invalidation} (h : v.inScope d = true) : ∀ e ∈ ((s.invalidate v).die d).tlb, v.hits e = false := by
  intro e he
  rw [State.die_invalidate, if_pos h] at he
  simpa using (List.mem_filter.1 he).2

theorem State.invals_invalidate (s : State) (v : Invalidation) : (s.invalidate v).invals = s.invals := by
  simp only [State.invalidate, List.foldl_cons, List.foldl_nil]
  split <;> split <;> simp

theorem State.sys_invalidate (s : State) (v : Invalidation) : (s.invalidate v).sys = s.sys := by
  simp only [State.invalidate, List.foldl_cons, List.foldl_nil]
  split <;> split <;> simp

end

/-- The fields of a `tinvc` write that the register takes (R86). -/
def tinvcOk (v : Word) : Prop := field v 48 2 ≠ 3 ∧ field v 4 4 < 4 ∧ field v 0 3 < 5

theorem bit_tinvcMask (v : Word) : bit (tinvcMask v) 63 = bit v 63 := by
  have top : v.toNat / 2 ^ 63 % 2 = field v 62 2 / 2 := by have := v.isLt; unfold field; omega
  have b₁ := field_lt v 62 2
  have b₂ := field_lt v 32 18
  have b₃ := field_lt v 4 4
  have b₄ := field_lt v 0 3
  rw [bit_eq_decide, bit_eq_decide, top, tinvcMask, BitVec.toNat_ofNat]
  congr 2
  omega

/-- The invalidation that a write to `tinvc` starts. -/
def State.tinvcInval (s : State) (d : DieId) (v : Word) : Invalidation :=
  { id := s.nextOp, die := d, kind := field v 4 4, scope := field v 48 2, asid := field v 32 16, va := field (s.dieReg d 0x102) 12 36 * 4096,
    size := field v 0 3, host := true, stream := none, irq := bit v 62, finished := false }

section
variable {s : State} {d : DieId} {v : Word}

theorem tinvcWrite_ignored (h : bit (s.dieReg d 0x103) 63 = true ∨ ¬ tinvcOk v) : exec (.tinvcWrite d v) s = .next s := by
  have h' : bit (s.dieReg d 0x103) 63 = true ∨ field v 48 2 = 3 ∨ 4 ≤ field v 4 4 ∨ 5 ≤ field v 0 3 := by
    unfold tinvcOk at h; refine h.imp_right fun h => ?_; omega
  rw [exec_tinvcWrite, execTinvcWrite, State.writeTinvc, if_pos h']

theorem tinvcWrite_starts (hbusy : bit (s.dieReg d 0x103) 63 = false) (hok : tinvcOk v) (hgo : bit v 63 = true) :
    ∃ t, exec (.tinvcWrite d v) s = .next t ∧ bit (t.dieReg d 0x103) 63 = true ∧ t.invals = s.invals ++ [s.tinvcInval d v] ∧
      ∀ e ∈ (t.die d).tlb, (s.tinvcInval d v).hits e = false := by
  have h' : ¬ (bit (s.dieReg d 0x103) 63 = true ∨ field v 48 2 = 3 ∨ 4 ≤ field v 4 4 ∨ 5 ≤ field v 0 3) := by
    unfold tinvcOk at hok; rw [hbusy]; simp; omega
  let u := s.setDieReg d 0x103 (tinvcMask v)
  have va : u.dieReg d 0x102 = s.dieReg d 0x102 := by simp [u, State.dieReg_setDieReg]
  have inval : u.tinvcInval d v = s.tinvcInval d v := by rw [State.tinvcInval, va]; simp [State.tinvcInval, u]
  let t : State := { u with nextOp := u.nextOp + 1, invals := u.invals ++ [u.tinvcInval d v] }
  refine ⟨t.invalidate (u.tinvcInval d v), ?_, ?_, ?_, ?_⟩
  · rw [exec_tinvcWrite, execTinvcWrite, State.writeTinvc, if_neg h', hgo]
    rfl
  · rw [State.dieReg_congr (State.csr_invalidate t _), show t.dieReg d 0x103 = tinvcMask v from State.dieReg_setDieReg_same .., bit_tinvcMask, hgo]
  · rw [State.invals_invalidate]
    simp [t, inval, u]
  · rw [← inval]
    exact State.tlb_invalidate t (by simp [Invalidation.inScope, State.tinvcInval])

end

/-- What completing an invalidation that a die's `tinvc` or the host has asked for leaves (R85, R86). -/
def State.endInval (s : State) (n : Nat) (i : Invalidation) : State :=
  let s : State := { s with invals := s.invals.filter fun x => decide (x.id ≠ n) }
  let s := if i.host then s.setDieReg i.die 0x103 (setBit (s.dieReg i.die 0x103) 63 false) else s
  if i.irq then s.note (.interrupt i.die "invalidation complete") else s

section
variable {s : State} {n : Nat} {i : Invalidation}

theorem State.bit_endInval : bit ((s.endInval n i).dieReg i.die 0x103) 63 = (!i.host && bit (s.dieReg i.die 0x103) 63) := by
  have note (u : State) (x : HostNote) : (u.note x).dieReg i.die 0x103 = u.dieReg i.die 0x103 := rfl
  have invals (l : List Invalidation) : ({ s with invals := l } : State).dieReg i.die 0x103 = s.dieReg i.die 0x103 := rfl
  unfold State.endInval
  cases i.host <;> cases i.irq <;> simp [note, invals, State.dieReg_setDieReg_same, bit_setBit_same]

theorem State.invals_endInval : (s.endInval n i).invals = s.invals.filter fun x => decide (x.id ≠ n) := by
  unfold State.endInval
  cases i.host <;> cases i.irq <;> simp [State.note]

theorem State.notes_endInval : (s.endInval n i).sys.notes =
    if i.irq then s.sys.notes ++ [.interrupt i.die "invalidation complete"] else s.sys.notes := by
  unfold State.endInval
  cases i.host <;> cases i.irq <;> simp [State.note]

theorem State.tlb_endInval (d : DieId) : ((s.endInval n i).die d).tlb = (s.die d).tlb := by
  have note (u : State) (x : HostNote) : (u.note x).die d = u.die d := rfl
  have invals (l : List Invalidation) : ({ s with invals := l } : State).die d = s.die d := rfl
  unfold State.endInval
  cases i.host <;> cases i.irq <;> simp [note, invals]

theorem invalidationComplete_eq (hi : s.invals.find? (fun y => decide (y.id = n)) = some i) (hf : i.finished = false)
    (hc : ∀ o ∈ s.ops, i.covers o = false) : exec (.invalidationComplete n none) s = .next
      (if i.stream = none then (s.invalidate i).endInval n i
       else { s.invalidate i with invals := (s.invalidate i).invals.map fun x => if x.id = n then { x with finished := true } else x }) := by
  have left : (i.finished || s.ops.any i.covers) = false := by simpa [hf] using hc
  simp only [exec_invalidationComplete, execInvalidationComplete, hi, left, Bool.false_eq_true, if_false]
  cases i.stream with
  | none => simp [State.endInval]
  | some j => simp

theorem invalidationComplete_completes (hi : s.invals.find? (fun y => decide (y.id = n)) = some i) (hf : i.finished = false)
    (hc : ∀ o ∈ s.ops, i.covers o = false) :
    ∃ t, exec (.invalidationComplete n none) s = .next t ∧ (∀ y, i.inScope y = true → ∀ e ∈ (t.die y).tlb, i.hits e = false) ∧
      if i.stream = none then t.invals = s.invals.filter (fun y => decide (y.id ≠ n)) ∧
        bit (t.dieReg i.die 0x103) 63 = (!i.host && bit (s.dieReg i.die 0x103) 63) ∧
        t.sys.notes = (if i.irq then s.sys.notes ++ [.interrupt i.die "invalidation complete"] else s.sys.notes)
      else t.invals = s.invals.map fun y => if y.id = n then { y with finished := true } else y := by
  refine ⟨_, invalidationComplete_eq hi hf hc, ?_⟩
  by_cases hs : i.stream = none
  · rw [if_pos hs, if_pos hs]
    refine ⟨fun y hy e he => State.tlb_invalidate s hy e (by rwa [State.tlb_endInval] at he), ?_, ?_, ?_⟩
    · rw [State.invals_endInval, State.invals_invalidate]
    · rw [State.bit_endInval, State.dieReg_congr (State.csr_invalidate s i)]
    · rw [State.notes_endInval, State.sys_invalidate]
  · rw [if_neg hs, if_neg hs]
    exact ⟨fun y hy => State.tlb_invalidate s hy, by rw [State.invals_invalidate]⟩

end

/-! ## `ACCESS_COUNTER_WINDOW` (R89) -/

section
variable {s : State} {d : DieId}

theorem accessCounterWindow_ended (h : (s.die d).window + 2 ^ field (s.dieReg d 0x104) 24 5 ≤ s.cycle) :
    ∃ t, exec (.accessCounterWindow d) s = .next t ∧ (t.die d).window = s.cycle ∧
      (t.die d).counts = (s.die d).counts.map fun a => { a with count := a.count / 2, quiet := false } := by
  have ended : s.windowOver d = true := decide_eq_true h
  refine ⟨_, by rw [exec_accessCounterWindow, execAccessCounterWindow, if_pos ended], ?_, ?_⟩ <;> simp

theorem accessCounterWindow_open (h : s.cycle < (s.die d).window + 2 ^ field (s.dieReg d 0x104) 24 5) :
    exec (.accessCounterWindow d) s = .next s := by
  have ended : s.windowOver d = false := decide_eq_false (Nat.not_le.2 h)
  simp [execAccessCounterWindow, ended]

end

end Sys2Proof.Machine

namespace Sys2Proof.Machine

/-! ## `KVINV_WRITE` and `KVINV_COMPLETE` (R101) -/

/-- The fields that `kvinv` keeps (R101). -/
def kvinvMask (v : Word) : Word := BitVec.ofNat 64 (field v 62 2 * 2 ^ 62 + field v 36 16 * 2 ^ 36 + field v 0 20)

theorem toNat_kvinvMask (v : Word) : (kvinvMask v).toNat = field v 62 2 * 2 ^ 62 + field v 36 16 * 2 ^ 36 + field v 0 20 := by
  have b₁ := field_lt v 62 2
  have b₂ := field_lt v 36 16
  have b₃ := field_lt v 0 20
  rw [kvinvMask, BitVec.toNat_ofNat]
  omega

theorem bit_kvinvMask (v : Word) : bit (kvinvMask v) 63 = bit v 63 := by
  have top : v.toNat / 2 ^ 63 % 2 = field v 62 2 / 2 := by have := v.isLt; unfold field; omega
  have b₂ := field_lt v 36 16
  have b₃ := field_lt v 0 20
  rw [bit_eq_decide, bit_eq_decide, top, toNat_kvinvMask]
  congr 2
  omega

theorem kvinvHits_kvinvMask (v : Word) : kvinvHits (kvinvMask v) = kvinvHits v := by
  have b₁ := field_lt v 62 2
  have b₂ := field_lt v 36 16
  have b₃ := field_lt v 0 20
  have all : bit (kvinvMask v) 62 = bit v 62 := by
    have low : v.toNat / 2 ^ 62 % 2 = field v 62 2 % 2 := by unfold field; omega
    rw [bit_eq_decide, bit_eq_decide, low, toNat_kvinvMask]
    congr 2
    omega
  have asid : field (kvinvMask v) 36 16 = field v 36 16 := by rw [field, toNat_kvinvMask]; omega
  have seq : field (kvinvMask v) 0 20 = field v 0 20 := by rw [field, toNat_kvinvMask]; omega
  funext e
  rw [kvinvHits, kvinvHits, all, asid, seq]

section
variable {s : State} {d : DieId} {v : Word}

theorem kvinvWrite_busy (h : bit (s.dieReg d 0x106) 63 = true) : exec (.kvinvWrite d v) s = .next s := by
  simp [execKvinvWrite, h]

theorem kvinvWrite_starts (h : bit (s.dieReg d 0x106) 63 = false) (hgo : bit v 63 = true) :
    ∃ t, exec (.kvinvWrite d v) s = .next t ∧ bit (t.dieReg d 0x106) 63 = true ∧
      (t.die d).seqCache = (s.die d).seqCache.filter (fun e => !kvinvHits v e) ∧ (t.die d).kvinvOps = s.swardOps := by
  let u := s.setDieReg d 0x106 (kvinvMask v)
  let x : Die := { u.die d with seqCache := (u.die d).seqCache.filter fun e => !kvinvHits (kvinvMask v) e, kvinvOps := u.swardOps }
  refine ⟨u.setDie d x, ?_, ?_, ?_, ?_⟩
  · rw [exec_kvinvWrite, execKvinvWrite, h, hgo]
    rfl
  · rw [State.dieReg_setDie (show x.csr = (u.die d).csr from rfl), State.dieReg_setDieReg_same, bit_kvinvMask, hgo]
  · simp [x, u, kvinvHits_kvinvMask]
  · simp [x, u, State.swardOps]

theorem kvinvComplete_completes (h : bit (s.dieReg d 0x106) 63 = true) (hops : ∀ o ∈ s.ops, o.id ∉ (s.die d).kvinvOps) :
    ∃ t, exec (.kvinvComplete d) s = .next t ∧ bit (t.dieReg d 0x106) 63 = false ∧ (t.die d).kvinvOps = [] := by
  have done : (bit (s.dieReg d 0x106) 63 && !(s.ops.any fun o => (s.die d).kvinvOps.contains o.id)) = true := by simpa [h] using hops
  refine ⟨_, by rw [exec_kvinvComplete, execKvinvComplete]; exact if_pos done, ?_, ?_⟩
  · rw [State.dieReg_setDieReg_same, bit_setBit_same _ _ (by decide)]
  · simp

end

/-! ## `KVATTN_ROUND` (R116, R118)

The pins that a round gives back change leases alone: no core, and of a die's registers at most the count of lost leases (R71). -/

/-- From one state to the other no core has changed, and of a die's registers none but the count of lost leases. -/
structure State.KeepsCores (s t : State) : Prop where
  cores : ∀ d, (t.die d).cores = (s.die d).cores
  reg : ∀ d n, n ≠ 0x185 → t.dieReg d n = s.dieReg d n

section
variable {s t u : State}

theorem State.KeepsCores.refl (s : State) : s.KeepsCores s := ⟨fun _ => rfl, fun _ _ _ => rfl⟩

theorem State.KeepsCores.trans (h : s.KeepsCores t) (h' : t.KeepsCores u) : s.KeepsCores u :=
  ⟨fun d => (h'.cores d).trans (h.cores d), fun d n hn => (h'.reg d n hn).trans (h.reg d n hn)⟩

theorem State.KeepsCores.ite {c : Prop} [Decidable c] (ht : s.KeepsCores t) (hu : s.KeepsCores u) : s.KeepsCores (if c then t else u) := by
  split
  · exact ht
  · exact hu

theorem State.KeepsCores.core (h : s.KeepsCores t) (c : CoreId) : t.core c = s.core c := by
  rw [State.core, State.core, Die.core, Die.core, h.cores]

/-- A die replaced by one of the same cores and registers. -/
theorem State.KeepsCores.setDie {d : DieId} {x : Die} (h : s.KeepsCores t) (hc : x.cores = (t.die d).cores) (hr : x.csr = (t.die d).csr) :
    s.KeepsCores (t.setDie d x) := by
  refine h.trans ⟨fun e => ?_, fun e n _ => State.dieReg_setDie hr e n⟩
  rw [State.die_setDie]
  split
  · next he => rw [he, hc]
  · rfl

theorem State.KeepsCores.countLost {d : DieId} (h : s.KeepsCores t) : s.KeepsCores (t.count d 0x185) :=
  h.trans ⟨fun d' => State.die_cores_setDieReg _ _ d' _ _, fun e n hn => by simp [State.count, State.dieReg_setDieReg, hn]⟩

theorem State.KeepsCores.dropSeq {obj : Nat} (h : s.KeepsCores t) : s.KeepsCores (t.dropSeq obj) :=
  .setDie (h.setDie (d := 0) rfl rfl) rfl rfl

theorem State.KeepsCores.setLease {d : DieId} {f : Nat} {l : Lease} (h : s.KeepsCores t) : s.KeepsCores (t.setLease d f l) := by
  have put (l' : Lease) : s.KeepsCores (t.setDie d
      { t.die d with pool := { (t.die d).pool with frames := Sparse.set (fun _ => Lease.free) (t.die d).pool.frames f l' } }) :=
    h.setDie rfl rfl
  exact .ite (.countLost (.ite (put _).dropSeq (put _))) (.ite (put _).dropSeq (put _))

theorem State.KeepsCores.unpin {o : Op} (h : s.KeepsCores t) : s.KeepsCores (t.unpin o) := by
  refine h.trans ?_
  unfold State.unpin
  refine List.foldlRecOn o.tasks _ (State.KeepsCores.refl t) fun u hu k _ => ?_
  dsimp only
  split
  · refine .ite hu ?_
    split
    · exact hu.setLease
    · exact hu
  · exact hu

end

section
variable (s : State) (c : CoreId) (zd : Nat) (e : SeqEntry) (va rb : Word) (fwd : Nat)

theorem ClusterState.reg_raise_ne (k : ClusterState) (cs : Classes) {n : Nat} (h : n ≠ 0) : (k.raise cs).reg n = k.reg n := by
  unfold ClusterState.raise
  split
  · rfl
  · exact ClusterState.reg_setReg_ne _ _ h

/-- Merging a round writes the executing core alone, and leaves its cursor. -/
theorem State.mergeRound_core (ts : List Task) :
    ∃ k : Core, s.mergeRound c zd e va rb ts = s.setCore c k ∧ k.cm.reg 0x18 = (s.core c).cm.reg 0x18 := by
  refine ⟨_, rfl, ?_⟩
  dsimp only
  split
  · exact ClusterState.reg_raise_ne _ _ (by decide)
  · rfl

theorem State.dieReg_mergeRound (ts : List Task) (d : DieId) (n : Nat) : (s.mergeRound c zd e va rb ts).dieReg d n = s.dieReg d n := by
  obtain ⟨k, hk, -⟩ := s.mergeRound_core c zd e va rb ts
  rw [hk]
  exact State.dieReg_congr (State.die_csr_setCore s c k) d n

theorem State.kvcur_mergeRound (ts : List Task) : (s.mergeRound c zd e va rb ts).kvcur c = s.kvcur c := by
  obtain ⟨k, hk, hr⟩ := s.mergeRound_core c zd e va rb ts
  rw [hk, State.kvcur, State.core_setCore_same, hr, State.kvcur]

theorem State.field_setKvcur (act : Bool) (cur : Nat) : field ((s.setKvcur c act cur).kvcur c) 0 24 = cur % 2 ^ 24 := by
  have reg : (s.setKvcur c act cur).kvcur c = BitVec.ofNat 64 (ofBool act * 2 ^ 63 + cur % 2 ^ 24) := by
    simp [State.setKvcur, State.kvcur]
  rw [reg, field, BitVec.toNat_ofNat]
  omega

theorem State.dieReg_setKvcur (act : Bool) (cur : Nat) (d : DieId) (n : Nat) : (s.setKvcur c act cur).dieReg d n = s.dieReg d n :=
  State.dieReg_congr (State.die_csr_setCore s c _) d n

variable (o : Op)

/-- The state of a round that has been merged and whose pins have been given back, before it counts. -/
def State.roundMerged : State :=
  ({ s.mergeRound o.owner.core zd e va rb o.tasks with fresh := s.fresh + (s.core o.owner.core).store.old.length } : State).unpin o

theorem State.keepsCores_roundMerged : (s.mergeRound o.owner.core zd e va rb o.tasks).KeepsCores (s.roundMerged zd e va rb o) :=
  State.KeepsCores.unpin ⟨fun _ => rfl, fun _ _ _ => rfl⟩

/-- The state of a round that has counted, with the accesses that a pair forwarded. -/
def State.roundCounted : State :=
  if fwd = 0 then (s.roundMerged zd e va rb o).count o.owner.core.die 0x18D
  else ((s.roundMerged zd e va rb o).count o.owner.core.die 0x18D).count o.owner.core.die 0x18C fwd

theorem State.roundDone_eq : s.roundDone o zd e va rb fwd = (s.roundCounted zd e va rb fwd o).setKvcur o.owner.core true
    (field ((s.roundCounted zd e va rb fwd o).kvcur o.owner.core) 0 24 + 48) := rfl

theorem State.dieReg_count (d : DieId) (n k m : Nat) (h : packageScope n = false) :
    (s.count d n k).dieReg d m = if m = n then s.dieReg d n + BitVec.ofNat 64 k else s.dieReg d m := by
  simp [State.count, State.dieReg_setDieReg, h]

theorem State.core_roundCounted : (s.roundCounted zd e va rb fwd o).core o.owner.core = (s.mergeRound o.owner.core zd e va rb o.tasks).core o.owner.core := by
  rw [← (s.keepsCores_roundMerged zd e va rb o).core]
  unfold State.roundCounted
  split <;> simp [State.count]

/-- A round that is done counts, and so do the blocks of it that a pair forwarded (R119). -/
theorem State.dieReg_roundDone : (s.roundDone o zd e va rb fwd).dieReg o.owner.core.die 0x18D = s.dieReg o.owner.core.die 0x18D + 1 ∧
    (s.roundDone o zd e va rb fwd).dieReg o.owner.core.die 0x18C = s.dieReg o.owner.core.die 0x18C + BitVec.ofNat 64 fwd := by
  have merged (n : Nat) (hn : n ≠ 0x185) : (s.roundMerged zd e va rb o).dieReg o.owner.core.die n = s.dieReg o.owner.core.die n := by
    rw [(s.keepsCores_roundMerged zd e va rb o).reg _ _ hn, State.dieReg_mergeRound]
  rw [State.roundDone_eq, State.dieReg_setKvcur, State.dieReg_setKvcur, State.roundCounted]
  split
  · next h => simp [State.dieReg_count, packageScope, merged, h]
  · simp [State.dieReg_count, packageScope, merged]

theorem State.field_kvcur_roundDone : field ((s.roundDone o zd e va rb fwd).kvcur o.owner.core) 0 24 =
    (field (s.kvcur o.owner.core) 0 24 + 48) % 2 ^ 24 := by
  rw [State.roundDone_eq, State.field_setKvcur, State.kvcur, State.core_roundCounted]
  exact congrArg (fun w => (field w 0 24 + 48) % 2 ^ 24) (State.kvcur_mergeRound ..)

end

/-- The core's `kvattn` is the first operation of the package, at a stage, with its operands. -/
structure State.AtKvattn (s : State) (c : CoreId) (o : Op) (zd stage : Nat) (va rb : Word) : Prop where
  first : ∃ rest, s.ops = o :: rest
  owner : o.owner = ⟨c, .m⟩
  dest : o.dest = .attn zd stage
  args : s.attnArgs c = some (va, rb)

/-- The pages that a round reads now are those that its tasks have fetched, all of them there (R113). -/
def State.readsSame (u : State) (o : Op) (stage : Nat) (ts : List Task) : Prop :=
  stage ≠ 0 ∧ samePages o.tasks ts = true ∧ o.tasks.any u.pageGone = false

section
variable {s u : State} {c : CoreId} {o : Op} {zd stage : Nat} {va rb : Word}

/-- What follows a round that is done, by what the record and the pairs give now (R113). -/
def State.roundAnswer (u : State) (o : Op) (c : CoreId) (zd stage : Nat) (va rb : Word) : Round → Host.Outcome State Reason Event
  | .tasks cap 1 ts (some e) fwd =>
    if stage = 0 || !samePages o.tasks ts || o.tasks.any u.pageGone then .next (u.attnGoes o zd va (.tasks cap 1 ts none 0))
    else if u.roundPoisoned o.tasks then .next (u.attnFails o va Status.poison)
    else .next (((u.roundDone o zd e va rb fwd).nextRound c zd va rb false).1.attnGoes { o with tasks := [] } zd va
      ((u.roundDone o zd e va rb fwd).nextRound c zd va rb false).2)
  | z => .next (u.attnGoes o zd va z)

theorem kvattnRound_waits (h : s.AtKvattn c o zd stage va rb) (hp : o.performed = false) :
    exec (.kvattnRound c) s = .next (s.tryOp o.id).shut := by
  obtain ⟨rest, e⟩ := h.first
  rw [exec_kvattnRound, execKvattnRound, e, List.find?_cons_of_pos (by simp [h.owner, h.dest])]
  simp [h.dest, h.args, hp]

theorem kvattnRound_fails (h : s.AtKvattn c o zd stage va rb) (hp : o.performed = true) (hst : o.status ≠ Status.ok) :
    exec (.kvattnRound c) s = .next (s.attnFails o va o.status) := by
  obtain ⟨rest, e⟩ := h.first
  rw [exec_kvattnRound, execKvattnRound, e, List.find?_cons_of_pos (by simp [h.owner, h.dest])]
  simp [h.dest, h.args, hp, hst]

theorem kvattnRound_next {z : Round} (h : s.AtKvattn c o zd stage va rb) (hp : o.performed = true) (hst : o.status = Status.ok)
    (hz : s.nextRound c zd va rb (stage == 0 && !o.tasks.isEmpty) = (u, z)) :
    exec (.kvattnRound c) s = u.roundAnswer o c zd stage va rb z := by
  obtain ⟨rest, e⟩ := h.first
  rw [exec_kvattnRound, execKvattnRound, e, List.find?_cons_of_pos (by simp [h.owner, h.dest])]
  simp only [h.dest, h.args, hp, hst, hz, Bool.not_true, Bool.false_eq_true, if_false, ne_eq, not_true_eq_false]
  split
  · next same =>
      obtain ⟨rfl, rfl⟩ := Prod.mk.inj same
      simp only [State.roundAnswer, h.dest]
  · next other same =>
      obtain ⟨rfl, rfl⟩ := Prod.mk.inj same
      unfold State.roundAnswer
      split
      · exact (other _ _ _ _ rfl).elim
      · rfl

theorem kvattnRound_goes {z : Round} (h : s.AtKvattn c o zd stage va rb) (hp : o.performed = true) (hst : o.status = Status.ok)
    (hz : s.nextRound c zd va rb (stage == 0 && !o.tasks.isEmpty) = (u, z))
    (hk : z = .finished ∨ z = .wait ∨ (∃ f, z = .fault f) ∨ (∃ st, z = .failed st) ∨ (∃ cap ts, z = .tasks cap 0 ts none 0)) :
    exec (.kvattnRound c) s = .next (u.attnGoes o zd va z) := by
  rw [kvattnRound_next h hp hst hz]
  rcases hk with rfl | rfl | ⟨f, rfl⟩ | ⟨st, rfl⟩ | ⟨cap, ts, rfl⟩ <;> rfl

variable {cap : BitVec 128} {ts : List Task} {e : SeqEntry} {fwd : Nat}

theorem readsSame_iff : (stage = 0 || !samePages o.tasks ts || o.tasks.any u.pageGone) = false ↔ u.readsSame o stage ts := by
  simp [State.readsSame, and_assoc]

theorem kvattnRound_fetches (h : s.AtKvattn c o zd stage va rb) (hp : o.performed = true) (hst : o.status = Status.ok)
    (hz : s.nextRound c zd va rb (stage == 0 && !o.tasks.isEmpty) = (u, .tasks cap 1 ts (some e) fwd)) (hs : ¬ u.readsSame o stage ts) :
    exec (.kvattnRound c) s = .next (u.attnGoes o zd va (.tasks cap 1 ts none 0)) := by
  rw [kvattnRound_next h hp hst hz]
  exact if_pos (by rwa [← readsSame_iff, Bool.not_eq_false] at hs)

theorem kvattnRound_poisoned (h : s.AtKvattn c o zd stage va rb) (hp : o.performed = true) (hst : o.status = Status.ok)
    (hz : s.nextRound c zd va rb (stage == 0 && !o.tasks.isEmpty) = (u, .tasks cap 1 ts (some e) fwd)) (hs : u.readsSame o stage ts)
    (hpo : u.roundPoisoned o.tasks = true) : exec (.kvattnRound c) s = .next (u.attnFails o va Status.poison) := by
  rw [kvattnRound_next h hp hst hz]
  simp only [State.roundAnswer, readsSame_iff.2 hs, hpo, if_true, Bool.false_eq_true, if_false]

theorem kvattnRound_merges (h : s.AtKvattn c o zd stage va rb) (hp : o.performed = true) (hst : o.status = Status.ok)
    (hz : s.nextRound c zd va rb (stage == 0 && !o.tasks.isEmpty) = (u, .tasks cap 1 ts (some e) fwd)) (hs : u.readsSame o stage ts)
    (hpo : u.roundPoisoned o.tasks = false) {y : State} {m : Round}
    (hy : (u.roundDone o zd e va rb fwd).nextRound c zd va rb false = (y, m)) :
    exec (.kvattnRound c) s = .next (y.attnGoes { o with tasks := [] } zd va m) := by
  rw [kvattnRound_next h hp hst hz]
  simp only [State.roundAnswer, readsSame_iff.2 hs, hpo, hy, Bool.false_eq_true, if_false]

end

/-! ## `KVGROW_PAIR_INSTALL` and `KVGROW_PAGE_COPY` (R111) -/

section
variable {s : State} {n j : Nat} {o : Op} {g : Grow}

theorem State.bind_grow (ho : s.op? n = some o) (hg : o.grow = some g) : ((s.op? n).bind fun o => o.grow.map fun g => (o, g)) = some (o, g) := by
  simp [ho, hg]

theorem kvgrowPairInstall_installs {i : Nat} (ho : s.op? n = some o) (hg : o.grow = some g) (hph : g.phase = .pair)
    (hno : s.pairOf g.asid g.seq g.layer = none) (hi : (List.range 16).find? (fun j => !bit (s.dieReg 0 (0x140 + j)) 63) = some i) :
    exec (.kvgrowPairInstall n) s = .next ((s.setPair i (g.pairRegs 0).1 (g.pairRegs 0).2).setGrow n
      { g with pair := i, phase := .copy 0 } (s.copyTasks g o.cap 0)) := by
  simp [execKvgrowPairInstall, State.bind_grow ho hg, hph, hno, hi]

theorem kvgrowPageCopy_waits (ho : s.op? n = some o) (hg : o.grow = some g) (hp : o.performed = false) :
    exec (.kvgrowPageCopy n) s = .next (s.tryOp n).shut := by
  simp [execKvgrowPageCopy, State.bind_grow ho hg, hp]

/-- `bound` advances after every H pages (R111). -/
def State.boundAfter (s : State) (g : Grow) (j : Nat) : State :=
  if (j + 1) % g.heads = 0 then s.setPair g.pair (g.pairRegs ((j + 1) / g.heads * g.tokens)).1 (g.pairRegs ((j + 1) / g.heads * g.tokens)).2 else s

theorem kvgrowPageCopy_copied (ho : s.op? n = some o) (hg : o.grow = some g) (hp : o.performed = true) (hst : o.status = Status.ok)
    (hph : g.phase = .copy j) : exec (.kvgrowPageCopy n) s = .next (if j + 1 < 2 ^ g.lc then
        (s.boundAfter g j).setGrow n { g with phase := .copy (j + 1) } ((s.boundAfter g j).copyTasks g o.cap (j + 1))
      else (s.boundAfter g j).setGrow n { g with phase := .record } [(s.boundAfter g j).leaseTask o.cap 0 none,
        pageTask (.store (16 + 4 * g.layer) (bytesOf 4 (2 ^ 31 + g.rot * 2 ^ 25 + (g.lc + 1) * 2 ^ 20 + g.newBase))) (field o.cap 88 40) 0 none]) := by
  rw [exec_kvgrowPageCopy, execKvgrowPageCopy, State.bind_grow ho hg]
  simp only [hp, hst, hph, Bool.not_true, Bool.false_eq_true, if_false, ne_eq, not_true_eq_false]
  split <;> rfl

theorem kvgrowPageCopy_fails (ho : s.op? n = some o) (hg : o.grow = some g) (hp : o.performed = true) (hst : o.status ≠ Status.ok)
    (hph : g.phase = .copy j ∨ g.phase = .record) : exec (.kvgrowPageCopy n) s = .next (s.endGrow n g o.status) := by
  rcases hph with hph | hph <;> simp [execKvgrowPageCopy, State.bind_grow ho hg, hp, hst, hph]

theorem kvgrowPageCopy_recorded (ho : s.op? n = some o) (hg : o.grow = some g) (hp : o.performed = true) (hst : o.status = Status.ok)
    (hph : g.phase = .record) : exec (.kvgrowPageCopy n) s =
      .next (s.setGrow n { g with phase := .release 0 } [pageTask .release (field o.cap 88 40) g.oldBase none]) := by
  simp [execKvgrowPageCopy, State.bind_grow ho hg, hp, hst, hph]

theorem kvgrowPageCopy_released (ho : s.op? n = some o) (hg : o.grow = some g) (hp : o.performed = true) (hph : g.phase = .release j) :
    exec (.kvgrowPageCopy n) s = .next (if j + 1 < 2 ^ g.lc then
      s.setGrow n { g with phase := .release (j + 1) } [pageTask .release (field o.cap 88 40) (g.oldBase + j + 1) none]
      else s.endGrow n g Status.ok) := by
  simp only [exec_kvgrowPageCopy, execKvgrowPageCopy, State.bind_grow ho hg, hp, hph, Bool.not_true, Bool.false_eq_true, if_false]
  split <;> rfl

end

end Sys2Proof.Machine

namespace Sys2Proof.Machine

/-! ## `HELD_ENTRY_WRITE`, `FACK_WRITE` and `STREAM_RESTART` (R402 to R404) -/

section
variable {s : State} {d : DieId} {v : Word}

/-- An entry that was held is posted, and the head of the ring advances. -/
theorem heldEntryWrite_writes {e : FaultEntry} {rest : List FaultEntry} (h : (s.die d).faults.held = e :: rest) (hroom : s.faultRoom d = true) :
    ∃ t, exec (.heldEntryWrite d) s = .next t ∧ (t.die d).faults.held = rest ∧ (t.die d).faults.posted = (s.die d).faults.posted ++ [e] ∧
      field (t.dieReg d 0x1A0) 0 32 = (field (s.dieReg d 0x1A0) 0 32 + 1) % 2 ^ 32 := by
  let x : Die := { s.die d with faults := { (s.die d).faults with held := rest } }
  have reg : (s.setDie d x).dieReg d 0x1A0 = s.dieReg d 0x1A0 := State.dieReg_setDie (show x.csr = (s.die d).csr from rfl) d _
  refine ⟨(s.setDie d x).writeEntry d e, ?_, ?_, ?_, ?_⟩
  · rw [exec_heldEntryWrite, execHeldEntryWrite, h, hroom]
    rfl
  · rw [State.faults_writeEntry, State.die_setDie_same]
    rfl
  · rw [State.faults_writeEntry, State.die_setDie_same]
    rfl
  · rw [State.dieReg_writeEntry, reg, field_setField_same _ _ (by decide)]

/-- The entries of a die's queue that the host's acknowledgement `v` covers (R403). -/
def fackHits (v : Word) (e : FaultEntry) : Bool := !e.acked && decide ((e.seq.toNat + 2 ^ 32 - field v 0 32) % 2 ^ 32 < field v 32 16)

theorem State.dieReg_acknowledge (s : State) (d : DieId) (f n : Nat) (want : FaultEntry → Bool) (e : DieId) (m : Nat) :
    (s.acknowledge d f n want).dieReg e m = s.dieReg e m := by
  refine State.dieReg_setDie ?_ e m
  rfl

theorem fackWrite_acknowledges (s : State) (d : DieId) (v : Word) : ∃ t, exec (.fackWrite d v) s = .next t ∧
    (t.dieReg d 0x1A1).toNat = field v 0 48 ∧
    (t.die d).faults.posted = (s.die d).faults.posted.map (fun e => if fackHits v e then { e with acked := true } else e) ∧
    (t.die d).faults.batches = (if ((s.die d).faults.posted.filter (fackHits v)).isEmpty then (s.die d).faults.batches
      else (s.die d).faults.batches ++ [((s.die d).faults.posted.filter (fackHits v)).map (·.seq)]) := by
  have hits : (fun e : FaultEntry => !e.acked && true && decide ((e.seq.toNat + 2 ^ 32 - field v 0 32) % 2 ^ 32 < field v 32 16)) = fackHits v := by
    funext e
    rw [Bool.and_true, fackHits]
  refine ⟨_, exec_fackWrite .., ?_, ?_, ?_⟩
  · rw [State.dieReg_acknowledge, State.dieReg_setDieReg_same, BitVec.toNat_ofNat, Nat.mod_eq_of_lt]
    exact (field_lt v 0 48).trans (by decide)
  · simp [State.acknowledge, ← hits]
  · simp only [State.acknowledge, hits, State.die_setDie_same, State.die_faults_setDieReg, List.isEmpty_map]

/-- A die's fault queue replaced leaves every stream. -/
theorem State.stream_setFaults (s : State) (d : DieId) (q : FaultQueue) (i : StreamId) : (s.setFaults d q).stream i = s.stream i := by
  unfold State.setFaults State.stream State.core
  rw [State.die_setDie]
  split
  · next h => rw [h]; rfl
  · rfl

variable {i : StreamId} {e : FaultEntry}

/-- The state of a stream's core before the stream runs again: on an M stream the match begins afresh (R331). -/
def State.matchFresh (s : State) (i : StreamId) : State := if i.cl = .m then s.setCore i.core (s.core i.core).freshMatch else s

theorem State.pc_matchFresh (s : State) (i : StreamId) : ((s.matchFresh i).stream i).pc = (s.stream i).pc := by
  unfold State.matchFresh
  split
  · simp only [State.stream, State.core_setCore_same]
    cases i.cl <;> rfl
  · rfl

theorem State.restart_runs (hr : e.rwr.drop 4 = []) (hk : e.kind < 10) :
    s.restart i e = (s.matchFresh i).setStream i { (s.matchFresh i).stream i with run := .running, wait := none } := by
  have other : ¬ (e.kind = 10 ∨ e.kind = 11) := by omega
  unfold State.restart
  rw [hr]
  exact if_neg other

theorem State.faults_restart (hr : e.rwr.drop 4 = []) (hk : e.kind < 10) (d : DieId) : ((s.restart i e).die d).faults = (s.die d).faults := by
  rw [State.restart_runs hr hk, State.die_faults_setStream, State.matchFresh]
  split <;> simp

theorem State.cycle_restart (hr : e.rwr.drop 4 = []) (hk : e.kind < 10) : (s.restart i e).cycle = s.cycle := by
  rw [State.restart_runs hr hk, State.cycle_setStream, State.matchFresh]
  split <;> simp

/-- The first stream of a batch that waits for its acknowledgement restarts, once in a cycle (R404). -/
theorem streamRestart_restarts {q : BitVec 32} {rest : List (List (BitVec 32))} (hb : (s.die d).faults.batches = [q] :: rest)
    (hf : (s.die d).faults.posted.find? (fun e => decide (e.seq = q)) = some e) (hi : e.stream = some i) (hp : (s.stream i).run = .parked q)
    (hs : s.stopping i.core = false) (hr : e.rwr.drop 4 = []) (hk : e.kind < 10) (hc : (s.die d).faults.restarted ≠ s.cycle + 1) :
    ∃ t, exec (.streamRestart d) s = .next t ∧ (t.die d).faults.restarted = s.cycle + 1 ∧ (t.stream i).run = .running ∧
      (t.stream i).pc = (s.stream i).pc ∧ (t.stream i).wait = none ∧ (t.die d).faults.batches = rest := by
  let u := s.restart i e
  let w := (u.forgetEntry d q).noteRestart d
  have first : State.restartFirst d s [q] = (w, []) := by
    have notCommand : e.kind ≠ 12 := by omega
    simp [State.restartFirst, hf, notCommand, hi, hs, hp, State.restartedNow, hc, w, u]
  have streams : (w.setFaults d { (w.die d).faults with batches := rest }).stream i = u.stream i := by
    rw [State.stream_setFaults]
    exact (State.stream_setFaults _ d _ i).trans (State.stream_setFaults u d _ i)
  have runs : u.stream i = { (s.matchFresh i).stream i with run := .running, wait := none } :=
    (congrArg (State.stream · i) (State.restart_runs hr hk)).trans (State.stream_setStream_same ..)
  refine ⟨w.setFaults d { (w.die d).faults with batches := rest }, ?_, ?_, ?_, ?_, ?_, ?_⟩
  · rw [exec_streamRestart, execStreamRestart, hb]
    simp only [first]
    rfl
  · simp [State.setFaults, w, State.noteRestart, State.forgetEntry, u, State.cycle_restart hr hk]
  · rw [streams, runs]
  · rw [streams, runs]
    exact s.pc_matchFresh i
  · rw [streams, runs]
  · simp [State.setFaults]

end

/-! ## `HOST_WINDOW_WRITE` (R450) -/

theorem hostWindowWrite_writes (s : State) (d : DieId) (k : Fin 128) (cl : Cluster) (m : BitVec 12) (v : Word) :
    if csrScope m.toNat = some .core ∨ csrListed m.toNat cl = true then
      exec (.hostWindowWrite d k cl m v) s = .next (s.writeCsr ⟨⟨d, k⟩, cl⟩ m.toNat v)
    else exec (.hostWindowWrite d k cl m v) s = .next (s.note .accessFault) := by
  rw [exec_hostWindowWrite, execHostWindowWrite]
  split <;> rfl

/-! ## `EX_DEFERRED_PULSE` and `EX_PENDING_TARGET` (R381 to R383) -/

section
variable {s : State} {c : CoreId} {k : Core}

/-- A core whose crossbar has no entry set counts nothing. -/
theorem Core.exCount_clear (h : ∀ n, k.ev n = 0) (src : Nat) : k.exCount src = (k, 0) :=
  List.foldlRecOn (motive := (· = (k, 0))) (List.range 8) _ rfl fun _ hr _ _ => by simp [hr, h, field]

/-- A core whose terms have taken inputs, with those that fire. -/
def Core.latchTerms (k : Core) (inputs : BitVec 40) (terms : List Nat) : Core × List Nat :=
  terms.foldl (fun r n => let e := r.1.exTerm inputs n; (e.1, if e.2 then r.2 ++ [n] else r.2)) (k, [])

/-- Terms change latches alone: no entry, and no waiting pulse. -/
theorem Core.latchTerms_keeps (k : Core) (inputs : BitVec 40) (terms : List Nat) :
    (k.latchTerms inputs terms).1.ex.entry = k.ex.entry ∧ (k.latchTerms inputs terms).1.ex.deferred = k.ex.deferred :=
  List.foldlRecOn (motive := fun (r : Core × List Nat) => r.1.ex.entry = k.ex.entry ∧ r.1.ex.deferred = k.ex.deferred) terms _
    ⟨rfl, rfl⟩ fun _ hr _ _ => hr

/-- Where no target has a kind, terms change the core alone. -/
theorem State.exTerms_clear (h : ∀ n, (s.core c).ev n = 0) (inputs : BitVec 40) (terms : List Nat) :
    s.exTerms c inputs terms = s.setCore c ((s.core c).latchTerms inputs terms).1 := by
  have clear (n : Nat) : ((s.core c).latchTerms inputs terms).1.ev n = 0 := by
    rw [Core.ev, (Core.latchTerms_keeps ..).1]
    exact h n
  rw [State.exTerms]
  change List.foldl _ (s.setCore c ((s.core c).latchTerms inputs terms).1) (List.range 16) = _
  exact List.foldlRecOn (motive := (· = s.setCore c ((s.core c).latchTerms inputs terms).1)) (List.range 16) _ rfl
    fun _ hu _ _ => by simp [hu, clear, field]

theorem exDeferredPulse_routes {src : Nat} {rest : List Nat} (hd : (s.core c).ex.deferred = src :: rest) (h : ∀ n, (s.core c).ev n = 0) :
    ∃ t, exec (.exDeferredPulse c) s = .next t ∧ (t.core c).ex.deferred = rest := by
  let k : Core := { s.core c with ex := { (s.core c).ex with deferred := rest } }
  let u := (s.setCore c k).setCore c k
  have clear (n : Nat) : k.ev n = 0 := h n
  have routed := State.exTerms_clear (s := u) (c := c) (by simpa [u] using clear) (0 ||| BitVec.ofNat 40 (2 ^ src)) (List.range 8)
  refine ⟨u.setCore c ((u.core c).latchTerms (0 ||| BitVec.ofNat 40 (2 ^ src)) (List.range 8)).1, ?_, ?_⟩
  · rw [exec_exDeferredPulse, execExDeferredPulse, hd]
    simp only [State.routePulse, State.core_setCore_same]
    rw [Core.exCount_clear clear]
    exact congrArg _ routed
  · rw [State.core_setCore_same, (Core.latchTerms_keeps ..).2, State.core_setCore_same]

theorem State.gangOf_eq (s : State) (c : CoreId) : s.gangOf c = (s.core c).ctl.gang.bind s.gang? := by
  unfold State.gangOf
  cases (s.core c).ctl.gang <;> rfl

theorem State.SameControl.gangOf {t : State} (h : s.SameControl t) (c : CoreId) : t.gangOf c = s.gangOf c := by
  rw [State.gangOf_eq, State.gangOf_eq, h.ctl]
  unfold State.gang?
  rw [h.sched]

theorem State.gangOf_setGang {g g' : Gang} (h : s.gangOf c = some g) (hid : g'.id = g.id) : (s.setGang g').gangOf c = some g' := by
  rw [State.gangOf_eq] at h ⊢
  obtain ⟨id, member, found⟩ := Option.bind_eq_some_iff.1 h
  rw [show ((s.setGang g').core c).ctl.gang = some id from member]
  exact State.gang?_setGang (by rw [found]; rfl) (hid.trans (State.id_of_gang? found))

theorem State.SameControl.deferPulse {t : State} {src : Nat} (h : s.SameControl t) : s.SameControl (t.deferPulse c src) := h.setCore rfl

theorem State.pendingOf_deferPulse (s : State) (e c : CoreId) (src n : Nat) : ((s.deferPulse e src).core c).pendingOf n = (s.core c).pendingOf n := by
  rw [State.deferPulse, State.core_setCore]
  split
  · next h => rw [h]; rfl
  · rfl

/-- What an addition to a flag does (R383): the gang's flag alone changes, and pulses are put off. -/
theorem State.flagAdd_adds {g : Gang} (h : s.gangOf c = some g) (flag : Nat) (v : BitVec 32) :
    (s.flagAdd c flag v).gangOf c = some { g with flags := Sparse.set (fun _ => 0) g.flags flag (Sparse.get (fun _ => 0) g.flags flag + v) } ∧
      ∀ n, ((s.flagAdd c flag v).core c).pendingOf n = (s.core c).pendingOf n := by
  let g' : Gang := { g with flags := Sparse.set (fun _ => 0) g.flags flag (Sparse.get (fun _ => 0) g.flags flag + v) }
  have adds : s.flagAdd c flag v = if flag < 4 then g.cores.foldl (fun s n => s.deferPulse (CoreId.ofIndex n) (20 + flag)) (s.setGang g')
      else s.setGang g' := by
    rw [State.flagAdd, h]
  have control : (s.setGang g').SameControl (s.flagAdd c flag v) := by
    rw [adds]
    exact .ite (.foldl (.refl _) fun u _ => (State.SameControl.refl u).deferPulse) (.refl _)
  refine ⟨(control.gangOf c).trans (State.gangOf_setGang h rfl), fun n => ?_⟩
  rw [adds]
  split
  · exact List.foldlRecOn (motive := fun (u : State) => (u.core c).pendingOf n = (s.core c).pendingOf n) _ _ rfl
      fun u hu _ _ => (u.pendingOf_deferPulse _ c _ n).trans hu
  · rfl

/-- A pending target that adds to a flag acts, and one firing fewer is pending (R383). -/
theorem exPendingTarget_adds {target : Fin 16} {g : Gang} (hn : (s.core c).pendingOf target.val ≠ 0) (hs : s.stopping c = false)
    (hk : field ((s.core c).ev (0x20 + target.val)) 48 4 = 3) (hg : s.gangOf c = some g) :
    ∃ t h, exec (.exPendingTarget c target) s = .next t ∧ (t.core c).pendingOf target.val = (s.core c).pendingOf target.val - 1 ∧
      t.gangOf c = some h ∧ ∀ i, Sparse.get (fun _ => 0) h.flags i = Sparse.get (fun _ => 0) g.flags i +
        (if i = field ((s.core c).ev (0x20 + target.val)) 0 16 % 256 then 1 else 0) := by
  let k := (s.core c).setPending target.val ((s.core c).pendingOf target.val - 1)
  let flag := field ((s.core c).ev (0x20 + target.val)) 0 16 % 256
  have gang : (s.setCore c k).gangOf c = some g := (((State.SameControl.refl s).setCore (k := k) rfl).gangOf c).trans hg
  obtain ⟨added, pending⟩ := State.flagAdd_adds gang flag 1
  have acts : (s.setCore c k).exAct c target.val = some ((s.setCore c k).flagAdd c flag 1) := by
    have entry : k.ev (0x20 + target.val) = (s.core c).ev (0x20 + target.val) := rfl
    simp only [State.exAct, State.core_setCore_same, entry, hk, flag]
  refine ⟨_, _, ?_, ?_, added, fun i => ?_⟩
  · rw [exec_exPendingTarget, execExPendingTarget]
    simp only [hn, hs, Bool.false_eq_true, or_self, if_false]
    rw [show (s.setCore c _).exAct c target.val = _ from acts]
  · rw [pending, State.core_setCore_same]
    exact Sparse.get_set_same
  · simp only [Sparse.get_set]
    split
    · next h => rw [h]
    · simp

end

/-! ## `SWATH_REPLACEMENT` (R331) -/

theorem swathReplacement_turns {s u : State} {c : CoreId} (hr : ({ s with focus := ⟨c, .m⟩ } : State).me.run = .running)
    (hh : ({ s with focus := ⟨c, .m⟩ } : State).me.hold = none) (hc : ({ s with focus := ⟨c, .m⟩ } : State).cur.ctl.released = true)
    (hs : ({ s with focus := ⟨c, .m⟩ } : State).stopping c = false)
    (hu : ({ s with focus := ⟨c, .m⟩ } : State).swathTurn = .used u ∨ ({ s with focus := ⟨c, .m⟩ } : State).swathTurn = .issue u) :
    exec (.swathReplacement c) s = .next { u with focus := s.focus } := by
  rw [exec_swathReplacement, execSwathReplacement]
  rw [if_pos ⟨hr, hh, hc, hs⟩]
  rcases hu with e | e <;> rw [e]

end Sys2Proof.Machine

namespace Sys2Proof.Machine

/-! ## The steps together -/

/-- What a merged round counts, at the core whose `kvattn` it is (R116, R119). -/
theorem State.roundDone_counts {u : State} {o : Op} {c : CoreId} (h : o.owner = ⟨c, .m⟩) (zd : Nat) (e : SeqEntry) (va rb : Word) (fwd : Nat) :
    (u.roundDone o zd e va rb fwd).dieReg c.die 0x18D = u.dieReg c.die 0x18D + 1 ∧
      (u.roundDone o zd e va rb fwd).dieReg c.die 0x18C = u.dieReg c.die 0x18C + BitVec.ofNat 64 fwd ∧
      field ((u.roundDone o zd e va rb fwd).kvcur c) 0 24 = (field (u.kvcur c) 0 24 + 48) % 2 ^ 24 := by
  have core : c = o.owner.core := by rw [h]
  rw [core]
  obtain ⟨rounds, forwarded⟩ := u.dieReg_roundDone zd e va rb fwd o
  exact ⟨rounds, forwarded, u.field_kvcur_roundDone zd e va rb fwd o⟩

/-- Settles O53: each clause is the lemma about its step. -/
theorem translationKvAndFaultSteps : Obligations.TranslationKvAndFaultSteps := by
  intro s d c n a v target cl m k
  refine ⟨pageWalk_idle, ?walk, ?tinvc, ?invalidated, accessCounterWindow_ended, accessCounterWindow_open, kvinvWrite_busy,
    kvinvWrite_starts, kvinvComplete_completes, ?attn, ?grow, fun e rest => heldEntryWrite_writes, fackWrite_acknowledges s d v,
    fun q rest e i => streamRestart_restarts, hostWindowWrite_writes s d k cl m v, fun src rest => exDeferredPulse_routes,
    fun hn hs hk g => exPendingTarget_adds hn hs hk, fun hr hh hc hs u => swathReplacement_turns hr hh hc hs⟩
  case walk =>
    intro o asid va who again got ho hd hcp
    exact ⟨pageWalk_need ho hd, fun e => pageWalk_ok ho hd hcp, fun cause => pageWalk_fault ho hd hcp⟩
  case tinvc =>
    refine ⟨tinvcWrite_ignored, fun hbusy hok hgo => ?_⟩
    obtain ⟨t, ht, busy, started, dropped⟩ := tinvcWrite_starts hbusy hok hgo
    exact ⟨t, s.tinvcInval d v, ht, busy, started, rfl, rfl, rfl, rfl, rfl, rfl, rfl, dropped⟩
  case invalidated => exact fun i => invalidationComplete_completes
  case attn =>
    intro o rest zd stage va rb first owner dest args
    have at' : s.AtKvattn c o zd stage va rb := ⟨⟨rest, first⟩, owner, dest, args⟩
    refine ⟨kvattnRound_waits at', kvattnRound_fails at', fun u z hp hst hz => ⟨kvattnRound_goes at' hp hst hz, ?_⟩⟩
    rintro cap ts e fwd rfl
    refine ⟨kvattnRound_fetches at' hp hst hz, kvattnRound_poisoned at' hp hst hz, fun same clean => ?_⟩
    obtain ⟨rounds, forwarded, cursor⟩ := State.roundDone_counts (u := u) owner zd e va rb fwd
    exact ⟨rounds, forwarded, cursor, fun y m => kvattnRound_merges at' hp hst hz same clean⟩
  case grow =>
    intro o g ho hg
    exact ⟨fun i => kvgrowPairInstall_installs ho hg, kvgrowPageCopy_waits ho hg, fun j => kvgrowPageCopy_copied ho hg,
      fun j => kvgrowPageCopy_fails ho hg, kvgrowPageCopy_recorded ho hg, fun j => kvgrowPageCopy_released ho hg⟩

end Sys2Proof.Machine

namespace Sys2Proof.Machine

/-! # A frame table that lists a frame twice (05_kv_space.md R101, R109; 03_pool_cache.md R50, R58, R104)

An instruction that finds its record in the sequence cache first expires the frame of page 0 where its time has come (R59): `frameOf` finds the
frame by its page, and the expiry then reads the lease of that frame number. The two are one lease where the table lists each frame once.
KvForms asks of the lease that `frameOf` finds that it has not expired; it does not ask, as `holdsPage` does, that this be the frame's lease. -/

/-- The record of sequence 0 of ASID 0: a committed length of 2, under a capability for the first four bytes of object 0. -/
def lengthRecord : SeqEntry := ⟨0, 0, 4, [2, 0, 0, 0, 0, 0, 5, 0]⟩

/-- A lease on page 0 of object 0 that has not expired at time 0. -/
def runningLease : Lease := { Lease.free with st := .valid, dline := 1 }

/-- A lease on page 0 of object 1 that has expired at time 0. -/
def lapsedLease : Lease := { Lease.free with obj := 1, st := .valid }

/-- The M stream of core 0 runs with the record at hand, and die 0 lists frame 0 under the expired lease before it lists it under that of the
record's page. The keys of such a table do not rise, as those of canonical storage do (`Sparse.wf`); the statement speaks of every state. -/
def twiceListed : State :=
  let s : State := { State.reset with focus := ⟨⟨0, 0⟩, .m⟩ }
  let s := s.setMe { s.me with run := .running, stack := [⟨0, 8, 1⟩] }
  s.setDie 0 { s.die 0 with seqCache := [lengthRecord], pool := { (s.die 0).pool with frames := [(0, lapsedLease), (0, runningLease)] } }

/-- By its page, the table finds the lease that has not expired. -/
theorem eq_runningLease_of_frameOf {f : Nat} {l : Lease} (h : (twiceListed.die 0).frameOf 0 0 = some (f, l)) : l = runningLease := by
  have found : (twiceListed.die 0).frameOf 0 0 = some (0, runningLease) := by decide +kernel
  exact (congrArg Prod.snd (Option.some.inj (found.symm.trans h))).symm

/-- The record is at hand in `twiceListed` as KvForms asks: cached, well formed, and the lease found for its page not expired. -/
theorem record_twiceListed : twiceListed.here.seqEntry (twiceListed.cur.reg 0x40).toNat (kvSeq (twiceListed.x 0)) = some lengthRecord ∧
    lengthRecord.good = true ∧ ∀ f l, (twiceListed.die (pageDie lengthRecord.obj 0)).frameOf lengthRecord.obj 0 = some (f, l) →
      precedes (twiceListed.ltime (pageDie lengthRecord.obj 0)) l.dline = true := by
  refine ⟨by decide +kernel, by decide +kernel, fun f l hf => ?_⟩
  obtain rfl := eq_runningLease_of_frameOf hf
  decide +kernel

/-- The frames of die 0 in an outcome's next state. -/
def framesOfNext : Host.Outcome State Fault Refusal → Sparse Lease
  | .next t => (t.die 0).pool.frames
  | .fault _ => []
  | .refused _ => []

/-- `kvld` of the committed length expires the other lease of frame 0, which frees the frame. -/
theorem framesOfNext_kvld_twiceListed : framesOfNext (exec (.kvld 0 0 0 0 0) twiceListed) = [(0, { Lease.free with fgen := 1 })] := by
  decide +kernel

/-- Refutes O48: its clause for `kvld` of the committed length has all that the dies hold stay as it was. In `twiceListed`, which meets the
clause's hypotheses, the look-up of the record frees frame 0. -/
theorem not_kvForms : ¬ Obligations.KvForms := by
  unfold Obligations.KvForms
  intro h
  obtain ⟨-, -, forms, -⟩ := h twiceListed 0 0 0 0 0 0 0 lengthRecord
  obtain ⟨kvld, -⟩ := forms rfl record_twiceListed (by decide +kernel)
  have untyped : ∀ f l, (twiceListed.die 0).frameOf 0 0 = some (f, l) → l.hasType 0 4 true = false := fun f l hf => by
    obtain rfl := eq_runningLease_of_frameOf hf
    decide +kernel
  obtain ⟨t, ht, -, -, -, keeps, -⟩ := (kvld (by decide +kernel)).1 rfl (by decide +kernel) untyped
  have kept : (t.die 0).pool.frames = [(0, lapsedLease), (0, runningLease)] := congrArg (·.pool.frames) (keeps .dies (by decide) 0)
  have freed : (t.die 0).pool.frames = [(0, { Lease.free with fgen := 1 })] := by
    have e := framesOfNext_kvld_twiceListed
    rwa [ht] at e
  simp [kept] at freed

end Sys2Proof.Machine

namespace Sys2Proof.Machine

/-! # Steps of the package: the torus (06_torus.md)

Each clause of TorusSteps is a lemma about its step. First what the operations that the steps share do: accesses at a slice whose line no
core holds, what arrives at a die, the end of a request, flags, and links. -/

/-! ## Numbers as bytes -/

theorem length_bytesOf (n v : Nat) : (bytesOf n v).length = n := by
  induction n generalizing v with
  | zero => rfl
  | succ n ih => rw [bytesOf, List.length_cons, ih]

theorem ofBytes_bytesOf (n v : Nat) : ofBytes (bytesOf n v) = v % 256 ^ n := by
  induction n generalizing v with
  | zero => rw [pow_zero, Nat.mod_one]; rfl
  | succ n ih =>
    have low : (BitVec.ofNat 8 v).toNat = v % 256 := BitVec.toNat_ofNat v 8
    rw [bytesOf, ofBytes, ih, low, pow_succ', Nat.mod_mul]

theorem readBytes_writeNat (m : Memory) (a n v : Nat) : readBytes (writeNat m a n v) a n = bytesOf n v := by
  have h := readBytes_writeBytes m a (bytesOf n v)
  rwa [length_bytesOf] at h

theorem readByte_writeNat_ne (m : Memory) {a n c : Nat} (v : Nat) (h : c < a ∨ a + n ≤ c) : readByte (writeNat m a n v) c = readByte m c :=
  readByte_writeBytes_ne m _ (by rwa [length_bytesOf])

/-! ## A slice whose line no core holds (R149, R150, R172) -/

section
variable {x : Die} {line a n : Nat}

theorem Die.dropL1_absent {c : Nat} (h : (x.core c).l1Line line = ⟨0, 0, 0⟩) : x.dropL1 c line = x := by
  simp [Die.dropL1, h]

theorem Die.recall_unheld (h : x.unheld line) (keep : Option Nat) : x.recall line keep = x :=
  List.foldl_fixed' (fun c => by rw [Die.dropL1_absent (h.2 c), ite_self]) _

theorem Die.recallDirty_unheld (h : x.unheld line) (keep : Option Nat) : x.recallDirty line keep = x :=
  List.foldl_fixed' (fun c => by rw [Die.dropL1_absent (h.2 c), ite_self]) _

theorem Die.sliceRead_unheld (h : x.unheld (a / 128)) : x.sliceRead a n = (x, Status.ok, readBytes x.mem a n) := by
  simp [Die.sliceRead, Die.recallDirty_unheld h, h.1]

/-- A die with bytes written within one line of its local memory, which is not poisoned any more. -/
def Die.written (x : Die) (a : Nat) (bs : List Byte) : Die :=
  { x with mem := writeBytes x.mem a bs, poison := x.poison.filter fun l => decide (l ≠ a / 128) }

theorem Die.sliceWrite_unheld (h : x.unheld (a / 128)) (bs : List Byte) : x.sliceWrite a bs = (x.written a bs, Status.ok) := by
  simp [Die.sliceWrite, Die.recall_unheld h, h.1, Die.written]

theorem Die.sliceRmw_unheld (h : x.unheld (a / 128)) (f : Nat → Nat) : x.sliceRmw a n (fun v => some (f v)) =
    ({ x with mem := writeNat x.mem a n (f (readNat x.mem a n)) }, Status.ok, readNat x.mem a n) := by
  simp [Die.sliceRmw, Die.recall_unheld h, h.1]

/-- Local memory ends below the addresses that name the Commons (R16, log 14). -/
theorem Die.lt_commonsAddr_of_inLocal (h : x.inLocal a n = true) : a < commonsAddr := by
  have size : field (x.reg 0 0x100) 0 9 < 2 ^ 9 := field_lt ..
  have inside : a + n ≤ field (x.reg 0 0x100) 0 9 * 2 ^ 30 := of_decide_eq_true h
  unfold commonsAddr
  omega

end

/-! ## Registers of a die -/

theorem bit_setBit {m : Nat} (w : BitVec m) {i : Nat} (b : Bool) (j : Nat) (h : i < m) : bit (setBit w i b) j = if j = i then b else bit w j := by
  split
  · next e => rw [e, bit_setBit_same w b h]
  · next e =>
    have out : ¬ (i ≤ j ∧ j < i + 1) := by omega
    rw [bit, setBit, getLsbD_setField, if_neg out, bit]
    by_cases hj : j < m
    · simp [hj]
    · simp [hj, BitVec.getLsbD_of_ge w j (by omega)]

theorem field_setBit_of_lt {m : Nat} (w : BitVec m) {i lo : Nat} (b : Bool) (n : Nat) (h : i < lo) (hm : i < m) :
    field (setBit w i b) lo n = field w lo n := by
  refine Nat.eq_of_testBit_eq fun j => ?_
  have e := bit_setBit w b (lo + j) hm
  rw [if_neg (by omega)] at e
  rw [testBit_field, testBit_field]
  exact congrArg (decide (j < n) && ·) e

theorem State.dieReg_setDieReg_ne {s : State} {d e : DieId} {n m : Nat} {v : Word} (h : m ≠ n ∨ packageScope n = false ∧ e ≠ d) :
    (s.setDieReg d n v).dieReg e m = s.dieReg e m := by
  rw [State.dieReg_setDieReg, if_neg]
  rintro ⟨rfl, hp | rfl⟩
  · simp [hp] at h
  · simp at h

/-! ## Links (R121, R122, R125) -/

theorem DieId.other_ne (d : DieId) : DieId.other d ≠ d := by
  obtain rfl | rfl := DieId.cases d <;> decide

theorem xLink_lt (d : DieId) : xLink d < 64 := by
  obtain rfl | rfl := DieId.cases d <;> decide

/-- One end of a link comes up or goes down at its die (R134). -/
def State.setEnd (s : State) (d : DieId) (l : Nat) (up : Bool) : State :=
  let s := if s.linkUp d l && !up then s.count d 0x191 else s
  s.setDieReg d 0x10B (setBit (s.dieReg d 0x10B) l up)

theorem State.setLink_eq (s : State) (d : DieId) (l : Nat) (up : Bool) : s.setLink d l up =
    if l = xLink d then (s.setEnd d l up).setEnd (DieId.other d) (xLink (DieId.other d)) up else s.setEnd d l up := rfl

section
variable (s : State) (d : DieId) (l : Nat) (up : Bool)

theorem State.links_setEnd : (s.setEnd d l up).dieReg d 0x10B = setBit (s.dieReg d 0x10B) l up := by
  have counted : (s.count d 0x191).dieReg d 0x10B = s.dieReg d 0x10B := State.dieReg_setDieReg_ne (.inl (by decide))
  rw [State.setEnd, State.dieReg_setDieReg_same]
  split
  · rw [counted]
  · rfl

theorem State.dieReg_setEnd_other {e : DieId} (h : e ≠ d) (n : Nat) : (s.setEnd d l up).dieReg e n = s.dieReg e n := by
  rw [State.setEnd, State.dieReg_setDieReg_ne (.inr ⟨rfl, h⟩)]
  split
  · exact State.dieReg_setDieReg_ne (.inr ⟨rfl, h⟩)
  · rfl

theorem State.falls_setEnd (h : s.linkUp d l = true) : (s.setEnd d l false).dieReg d 0x191 = s.dieReg d 0x191 + 1 := by
  have falls : (s.linkUp d l && !false) = true := by simp [h]
  rw [State.setEnd, if_pos falls, State.dieReg_setDieReg_ne (.inl (by decide))]
  exact State.dieReg_setDieReg_same ..

theorem State.dieReg_setLink (n : Nat) : (s.setLink d l up).dieReg d n = (s.setEnd d l up).dieReg d n := by
  rw [State.setLink_eq]
  split
  · exact State.dieReg_setEnd_other _ _ _ _ (DieId.other_ne d).symm n
  · rfl

variable {l}

theorem State.linkUp_setLink (h : l < 64) (m : Nat) : (s.setLink d l up).linkUp d m = if m = l then up else s.linkUp d m := by
  rw [State.linkUp, State.dieReg_setLink, State.links_setEnd, bit_setBit _ _ _ h]
  rfl

/-- The in-package X link has an end at the other die (R18). -/
theorem State.linkUp_setLink_other (h : l = xLink d) : (s.setLink d l up).linkUp (DieId.other d) (xLink (DieId.other d)) = up := by
  rw [State.setLink_eq, if_pos h, State.linkUp, State.links_setEnd, bit_setBit_same _ _ (xLink_lt _)]

theorem State.enables_setLink (h : l < 8) : field ((s.setLink d l up).dieReg d 0x10B) 8 6 = field (s.dieReg d 0x10B) 8 6 := by
  rw [State.dieReg_setLink, State.links_setEnd, field_setBit_of_lt _ _ _ h (by omega)]

end

/-- A link whose enable bit in a value is 0 goes down. -/
def State.cutLink (s : State) (d : DieId) (v : Word) (l : Nat) : State :=
  if s.linkUp d l && !bit v (8 + l) then s.setLink d l false else s

section
variable (s : State) (d : DieId) (v : Word)

theorem State.linkUp_cutLink {l : Nat} (h : l < 64) (m : Nat) :
    (s.cutLink d v l).linkUp d m = (s.linkUp d m && (decide (m ≠ l) || bit v (8 + m))) := by
  unfold State.cutLink
  by_cases hm : m = l
  · subst hm
    split
    · next c =>
      have off : bit v (8 + m) = false := by simpa using (Bool.and_eq_true_iff.1 c).2
      rw [State.linkUp_setLink _ _ _ h, if_pos rfl, off]
      simp
    · next c =>
      have stays : s.linkUp d m = true → bit v (8 + m) = true := by simpa using c
      cases up : s.linkUp d m
      · rfl
      · simp [stays up]
  · split
    · rw [State.linkUp_setLink _ _ _ h, if_neg hm]
      simp [hm]
    · simp [hm]

theorem State.enables_cutLink {l : Nat} (h : l < 8) : field ((s.cutLink d v l).dieReg d 0x10B) 8 6 = field (s.dieReg d 0x10B) 8 6 := by
  unfold State.cutLink
  split
  · exact State.enables_setLink _ _ _ h
  · rfl

theorem State.linkUp_cutLinks {ls : List Nat} (h : ∀ l ∈ ls, l < 8) (m : Nat) :
    (ls.foldl (fun s l => s.cutLink d v l) s).linkUp d m = (s.linkUp d m && (decide (m ∉ ls) || bit v (8 + m))) := by
  induction ls generalizing s with
  | nil => simp
  | cons l ls ih =>
    have hl : l < 8 := h l List.mem_cons_self
    rw [List.foldl_cons, ih _ fun k hk => h k (List.mem_cons_of_mem l hk), State.linkUp_cutLink _ _ _ (by omega)]
    by_cases e : m = l
    · cases bit v (8 + m) <;> simp [e]
    · simp [e]

theorem State.enables_cutLinks {ls : List Nat} (h : ∀ l ∈ ls, l < 8) :
    field ((ls.foldl (fun s l => s.cutLink d v l) s).dieReg d 0x10B) 8 6 = field (s.dieReg d 0x10B) 8 6 := by
  induction ls generalizing s with
  | nil => rfl
  | cons l ls ih =>
    rw [List.foldl_cons, ih _ fun k hk => h k (List.mem_cons_of_mem l hk), State.enables_cutLink _ _ _ (h l List.mem_cons_self)]

/-- A write of the enable bits takes down the links whose bit it clears (R122). -/
theorem tlinksEnable_cuts : ∃ t, exec (.tlinksEnable d v) s = .next t ∧ field (t.dieReg d 0x10B) 8 6 = field v 8 6 ∧
    ∀ n, n < 6 → t.linkUp d n = (s.linkUp d n && bit v (8 + n)) := by
  have links : ∀ l ∈ List.range 6, l < 8 := fun l hl => by have := List.mem_range.1 hl; omega
  refine ⟨(List.range 6).foldl (fun s l => s.cutLink d v l) (s.setDieReg d 0x10B (setField (s.dieReg d 0x10B) 8 6 (field v 8 6))), rfl, ?_, ?_⟩
  · rw [State.enables_cutLinks _ _ _ links, State.dieReg_setDieReg_same, field_setField_same _ _ (by omega)]
    exact Nat.mod_eq_of_lt (field_lt ..)
  · intro n hn
    have kept : (s.setDieReg d 0x10B (setField (s.dieReg d 0x10B) 8 6 (field v 8 6))).linkUp d n = s.linkUp d n := by
      have below : ¬ (8 ≤ n ∧ n < 8 + 6) := by omega
      have width : n < 64 := by omega
      rw [State.linkUp, State.dieReg_setDieReg_same, bit, getLsbD_setField, if_neg below]
      simp only [width, decide_true, Bool.true_and]
      rfl
    rw [State.linkUp_cutLinks _ _ _ links, kept]
    simp [hn]

end

section
variable {s : State} {d : DieId} {l : Fin 6} {far : Option FarEnd}

/-- A link of a die is enabled, down, and used in its domain: it trains (R121, R122). -/
def State.trains (s : State) (d : DieId) (l : Nat) : Prop :=
  bit (s.dieReg d 0x10B) (8 + l) = true ∧ s.linkUp d l = false ∧ (s.coord d).usesLink d l = true

/-- The coordinates at the far end of a link: the other die's for the in-package X link, where that has it enabled (R122). -/
def State.farEnd (s : State) (d : DieId) (l : Nat) (far : Option FarEnd) : Option FarEnd :=
  let o := DieId.other d
  let k := s.coord o
  if l = xLink d then (if bit (s.dieReg o 0x10B) (8 + xLink o) = true then some ⟨k.x, k.y, k.z, k.nx, k.ny, k.nz⟩ else none) else far

theorem linkTrainingResult_untrained (h : ¬ s.trains d l.val) : exec (.linkTrainingResult d l far) s = .next s := by
  rw [exec_linkTrainingResult, execLinkTrainingResult, if_pos]
  simp only [State.trains, not_and_or, Bool.not_eq_true, Bool.not_eq_false] at h
  simpa using h

theorem linkTrainingResult_silent (h : s.farEnd d l.val far = none) : exec (.linkTrainingResult d l far) s = .next s := by
  by_cases ht : s.trains d l.val
  · obtain ⟨enabled, down, used⟩ := ht
    rw [exec_linkTrainingResult, execLinkTrainingResult, if_neg (by simp [enabled, down, used])]
    unfold State.farEnd at h
    dsimp only at h ⊢
    rw [h]
  · exact linkTrainingResult_untrained ht

theorem linkTrainingResult_trained {f : FarEnd} (ht : s.trains d l.val) (hf : s.farEnd d l.val far = some f) :
    exec (.linkTrainingResult d l far) s = .next (if f = (s.coord d).farOf d l.val then s.setLink d l.val true else s.count d 0x18F) := by
  obtain ⟨enabled, down, used⟩ := ht
  rw [exec_linkTrainingResult, execLinkTrainingResult, if_neg (by simp [enabled, down, used])]
  unfold State.farEnd at hf
  dsimp only at hf ⊢
  rw [hf, apply_ite Host.Outcome.next]

theorem linkTrainingResult_up (ht : s.trains d l.val) (hf : s.farEnd d l.val far = some ((s.coord d).farOf d l.val)) :
    ∃ t, exec (.linkTrainingResult d l far) s = .next t ∧ t.linkUp d l.val = true ∧
      (∀ m, m < 6 → m ≠ l.val → t.linkUp d m = s.linkUp d m) ∧ (l.val = xLink d → t.linkUp (DieId.other d) (xLink (DieId.other d)) = true) := by
  have width : l.val < 64 := by omega
  refine ⟨s.setLink d l.val true, ?_, ?_, fun m _ hne => ?_, State.linkUp_setLink_other s d true⟩
  · rw [linkTrainingResult_trained ht hf, if_pos rfl]
  · rw [State.linkUp_setLink _ _ _ width, if_pos rfl]
  · rw [State.linkUp_setLink _ _ _ width, if_neg hne]

theorem linkTrainingResult_miswired {f : FarEnd} (ht : s.trains d l.val) (hf : s.farEnd d l.val far = some f)
    (hne : f ≠ (s.coord d).farOf d l.val) : exec (.linkTrainingResult d l far) s = .next (s.count d 0x18F) := by
  rw [linkTrainingResult_trained ht hf, if_neg hne]

theorem linkFailure_falls (h : s.linkUp d l.val = true) : ∃ t, exec (.linkFailure d l) s = .next t ∧ t.linkUp d l.val = false ∧
    (∀ m, m < 6 → m ≠ l.val → t.linkUp d m = s.linkUp d m) ∧ t.dieReg d 0x191 = s.dieReg d 0x191 + 1 := by
  have width : l.val < 64 := by omega
  refine ⟨s.setLink d l.val false, ?_, ?_, fun m _ hne => ?_, ?_⟩
  · rw [exec_linkFailure, execLinkFailure, if_pos h]
  · rw [State.linkUp_setLink _ _ _ width, if_pos rfl]
  · rw [State.linkUp_setLink _ _ _ width, if_neg hne]
  · rw [State.dieReg_setLink, State.falls_setEnd _ _ _ h]

theorem linkFailure_down (h : s.linkUp d l.val = false) : exec (.linkFailure d l) s = .next s := by
  rw [exec_linkFailure, execLinkFailure, if_neg (by simp [h])]

end

/-! ## Route entries and stream resets (R123, R133) -/

section
variable {s : State} {d : DieId} {v : Word}

theorem State.source_setSource (s : State) (d : DieId) (n : Nat) (w : SourceStream) (m : Nat) :
    (s.setSource d n w).source d m = if m = n then w else s.source d m := by
  simp only [State.source, State.setSource, State.die_setDie_same]
  exact Sparse.get_set

theorem fsrstWrite_resets (s : State) (d : DieId) (v : Word) : ∃ t, exec (.fsrstWrite d v) s = .next t ∧ ∀ n, t.source d n =
    if n = field v 0 6 then { s.source d n with gen := (s.source d n).gen + 1, phase := false, count := 0, broken := false }
    else s.source d n := by
  refine ⟨_, rfl, fun n => ?_⟩
  have reset : ((s.resetSource d (field v 0 6)).setDieReg d 0x10F (BitVec.ofNat 64 (field v 0 6))).source d n =
      (s.resetSource d (field v 0 6)).source d n := by
    rw [State.source, State.die_torus_setDieReg]; rfl
  rw [reset, State.resetSource, State.source_setSource]
  split
  · next e => rw [e]
  · rfl

/-- A write of `rtw` names a bank that is not the active one, a die, and no reserved direction (R123). -/
def State.rtwLegal (s : State) (d : DieId) (v : Word) : Prop :=
  field v 24 1 ≠ s.bank d ∧ field v 8 9 ≤ 383 ∧ routeLegal (field v 0 8) = true

theorem rtwWrite_ignored (h : ¬ s.rtwLegal d v) : exec (.rtwWrite d v) s = .next s := by
  rw [exec_rtwWrite, execRtwWrite, if_pos]
  rw [State.rtwLegal] at h
  by_contra stored
  simp only [not_or] at stored
  obtain ⟨bank, dest, legal⟩ := stored
  exact h ⟨bank, by omega, by simpa using legal⟩

theorem State.routeEntry_setRoute (s : State) (d : DieId) {b c n m : Nat} (e : Byte) (hn : n < 512) (hm : m < 512) :
    (s.setRoute d b n e).routeEntry d c m = if c = b ∧ m = n then e &&& 0xBF else s.routeEntry d c m := by
  have key : 512 * c + m = 512 * b + n ↔ c = b ∧ m = n := by omega
  simp only [State.routeEntry, State.setRoute, State.die_setDie_same]
  rw [Sparse.get_set]
  simp only [key]

theorem rtwWrite_stores (h : s.rtwLegal d v) : ∃ t, exec (.rtwWrite d v) s = .next t ∧ ∀ m, m ≤ 383 →
    t.routeEntry d (field v 24 1) m = (if m = field v 8 9 then BitVec.ofNat 8 (field v 0 8) &&& 0xBF else s.routeEntry d (field v 24 1) m) ∧
      t.routeEntry d (s.bank d) m = s.routeEntry d (s.bank d) m := by
  obtain ⟨bank, dest, legal⟩ := h
  have stored : ¬ (field v 24 1 = s.bank d ∨ 383 < field v 8 9 ∨ (!routeLegal (field v 0 8)) = true) := by
    simp [bank, dest, legal]
  have same (w : Word) (c m : Nat) : (s.setDieReg d 0x10C w).routeEntry d c m = s.routeEntry d c m := by
    rw [State.routeEntry, State.die_torus_setDieReg]; rfl
  refine ⟨_, by rw [exec_rtwWrite, execRtwWrite, if_neg stored], fun m hm => ⟨?_, ?_⟩⟩
  · rw [State.routeEntry_setRoute _ _ _ (by omega) (by omega), same]
    simp
  · rw [State.routeEntry_setRoute _ _ _ (by omega) (by omega), same, if_neg fun e => bank e.1.symm]

end

end Sys2Proof.Machine

namespace Sys2Proof.Machine

/-! ## Routers (R124, R127) -/

section
variable {s : State} {d : DieId} {p : Packet}

theorem State.routed_forward (s : State) (d : DieId) (p : Packet) : s.routed (s.forward d p) d p := by
  unfold State.routed State.forward
  by_cases bad : p.bad = true
  · rw [if_pos bad, if_pos bad]
  · rw [if_neg bad, if_neg bad]
    cases h : s.hop d p with
    | deliver => rfl
    | down => rfl
    | cross q => simp only [State.inject, h]
    | leave l q => simp only [State.inject, h]

theorem packetHop_oldest {w : Packet} {rest : List Packet} (h : (s.die d).torus.router = w :: rest) :
    PumpsTo (.packetHop d none) s
      ((s.setDie d { s.die d with torus := { (s.die d).torus with router := rest } }).forward d w) := by
  simp only [PumpsTo, exec_packetHop, execPacketHop, h]

theorem packetHop_empty (h : (s.die d).torus.router = []) : exec (.packetHop d none) s = .next s := by
  simp only [exec_packetHop, execPacketHop, h]

end

/-! ## Requests that arrive (R127, R130) -/

section
variable {s : State} {d : DieId} {p : Packet}

theorem State.requestArrives_inReset (h : (s.die d).inReset = true) : s.requestArrives d p = s := by
  rw [State.requestArrives, if_pos h]

theorem State.requestArrives_bad (hr : (s.die d).inReset = false) (hb : p.bad = true) : s.requestArrives d p = s.count d 0x190 := by
  rw [State.requestArrives, if_neg (by simp [hr]), if_pos (.inl hb)]

theorem State.requestArrives_probe (hr : (s.die d).inReset = false) (hb : p.bad = false) (hk : p.kind = 4) :
    s.requestArrives d p = s.sendReply d p Status.ok [] := by
  simp [State.requestArrives, hr, hb, hk]

theorem State.requestArrives_stale (hr : (s.die d).inReset = false) (hb : p.bad = false) (hk : p.kind < 3) (hi : p.inc ≠ s.inc d) :
    s.requestArrives d p = s.sendReply d p Status.targetGone [] := by
  have known : ¬ (p.bad = true ∨ 4 < p.kind) := by simp [hb]; omega
  rw [State.requestArrives, if_neg (by simp [hr]), if_neg known, if_neg (by omega), if_neg (by omega), if_pos hi]

/-- A request that counts in no stream is performed and answered. -/
theorem State.requestArrives_served (hr : (s.die d).inReset = false) (hb : p.bad = false) (hk : p.kind < 3) (hc : p.counted = false)
    (hi : p.inc = s.inc d) : s.requestArrives d p = (s.serve d p).1.sendReply d p (s.serve d p).2.1 (s.serve d p).2.2 := by
  have known : ¬ (p.bad = true ∨ 4 < p.kind) := by simp [hb]; omega
  rw [State.requestArrives, if_neg (by simp [hr]), if_neg known, if_neg (by omega), if_neg (by omega), if_neg (by simp [hi])]
  simp [hc]

theorem State.serve_read (hk : p.kind = 0) (hin : (s.die d).inLocal p.addr (p.size + 1) = true) (hu : (s.die d).unheld (p.addr / 128)) :
    s.serve d p = (s, Status.ok, readBytes (s.die d).mem p.addr (p.size + 1)) := by
  have below : ¬ commonsAddr ≤ p.addr := by have := Die.lt_commonsAddr_of_inLocal hin; omega
  rw [State.serve, if_neg below]
  simp [hk, hin, Die.atSlice, Die.sliceRead_unheld hu]

theorem State.serve_write (hk : p.kind = 1) (hin : (s.die d).inLocal p.addr (p.size + 1) = true) (hu : (s.die d).unheld (p.addr / 128)) :
    s.serve d p = (s.setDie d ((s.die d).written p.addr p.data), Status.ok, []) := by
  have below : ¬ commonsAddr ≤ p.addr := by have := Die.lt_commonsAddr_of_inLocal hin; omega
  rw [State.serve, if_neg below]
  simp [hk, hin, Die.atSlice, Die.sliceWrite_unheld hu]

theorem State.requestArrives_read (hr : (s.die d).inReset = false) (hb : p.bad = false) (hk : p.kind = 0) (hc : p.counted = false)
    (hi : p.inc = s.inc d) (hin : (s.die d).inLocal p.addr (p.size + 1) = true) (hu : (s.die d).unheld (p.addr / 128)) :
    s.requestArrives d p = s.sendReply d p Status.ok (readBytes (s.die d).mem p.addr (p.size + 1)) := by
  rw [State.requestArrives_served hr hb (by omega) hc hi, State.serve_read hk hin hu]

theorem State.requestArrives_write (hr : (s.die d).inReset = false) (hb : p.bad = false) (hk : p.kind = 1) (hc : p.counted = false)
    (hi : p.inc = s.inc d) (hl : p.data.length = p.size + 1) (hin : (s.die d).inLocal p.addr (p.size + 1) = true)
    (hu : (s.die d).unheld (p.addr / 128)) :
    ∃ u : State, s.requestArrives d p = u.sendReply d p Status.ok [] ∧ readBytes (u.die d).mem p.addr (p.size + 1) = p.data ∧
      (∀ a, a < p.addr ∨ p.addr + p.size + 1 ≤ a → readByte (u.die d).mem a = readByte (s.die d).mem a) ∧ u.ops = s.ops := by
  refine ⟨s.setDie d ((s.die d).written p.addr p.data), ?_, ?_, fun a ha => ?_, State.ops_setDie ..⟩
  · rw [State.requestArrives_served hr hb (by omega) hc hi, State.serve_write hk hin hu]
  · rw [State.die_setDie_same, ← hl]
    exact readBytes_writeBytes ..
  · rw [State.die_setDie_same]
    exact readByte_writeBytes_ne _ _ (by omega)

end

section
variable {s : State} {d : DieId} {bs : List Byte}

/-- A packet that reaches a die in reset is lost (R130). -/
theorem arrival_inReset (h : (s.die d).inReset = true) (i : Instr) (hi : i = .remoteRequestArrival d bs ∨ i = .remoteReply d bs) :
    PumpsTo i s s := by
  rcases hi with rfl | rfl
  · rw [PumpsTo, exec_remoteRequestArrival, execRemoteRequestArrival, State.requestArrives_inReset h]
  · rw [PumpsTo, exec_remoteReply, execRemoteReply, State.replyArrives, if_pos h]

/-- A packet with a reserved field set is counted (R127). -/
theorem arrival_bad (hr : (s.die d).inReset = false) (hb : (Packet.parse bs).bad = true) (i : Instr)
    (hi : i = .remoteRequestArrival d bs ∨ i = .remoteReply d bs) : PumpsTo i s (s.count d 0x190) := by
  rcases hi with rfl | rfl
  · rw [PumpsTo, exec_remoteRequestArrival, execRemoteRequestArrival, State.requestArrives_bad hr hb]
  · rw [PumpsTo, exec_remoteReply, execRemoteReply, State.replyArrives, if_neg (by simp [hr]), if_pos (.inl hb)]

theorem remoteRequestArrival_pumpsTo {u : State} (h : s.requestArrives d (Packet.parse bs) = u) : PumpsTo (.remoteRequestArrival d bs) s u := by
  rw [PumpsTo, exec_remoteRequestArrival, execRemoteRequestArrival, h]

theorem remoteReply_pumpsTo (hr : (s.die d).inReset = false) (hb : (Packet.parse bs).bad = false) (hk : (Packet.parse bs).kind = 8) :
    PumpsTo (.remoteReply d bs) s (s.takeReply d (Packet.parse bs)) := by
  rw [PumpsTo, exec_remoteReply, execRemoteReply, State.replyArrives, if_neg (by simp [hr]), if_neg (by simp [hb, hk])]

theorem flagArrival_pumpsTo {u : State} (hr : (s.die d).inReset = false) (hb : (Packet.parse bs).bad = false)
    (hk : (Packet.parse bs).kind = 3) (h : s.flagArrives d (Packet.parse bs) = u) : PumpsTo (.flagArrival d bs) s u := by
  rw [PumpsTo, exec_flagArrival, execFlagArrival, if_neg (by simp [hr]), if_neg (by simp [hb, hk]), h]

end

/-! ## Remote tags (R128) -/

section
variable (t : Torus) (n : Nat)

theorem Torus.tag?_dropTag : (t.dropTag n).tag? n = none := by
  simp [Torus.tag?, Torus.dropTag, List.find?_filter]

theorem Torus.tag?_putTag (r : RemoteTag) : (t.putTag n r).tag? n = some r := by
  have below : (t.tags.filter fun e => decide (e.1 < n)).find? (fun e => decide (e.1 = n)) = none := by
    rw [List.find?_eq_none]
    intro e he
    have := (List.mem_filter.1 he).2
    simp only [decide_eq_true_eq] at this ⊢
    omega
  simp [Torus.tag?, Torus.putTag, List.find?_append, below]

end

/-- A step leaves a die's remote tags with their generations, and the time, as they are. -/
structure State.KeepsTags (s t : State) (d : DieId) : Prop where
  tags : (t.die d).torus.tags = (s.die d).torus.tags
  gens : (t.die d).torus.gens = (s.die d).torus.gens
  cycle : t.cycle = s.cycle

namespace State.KeepsTags
variable {s t u : State} {d : DieId}

theorem refl (s : State) (d : DieId) : s.KeepsTags s d := ⟨rfl, rfl, rfl⟩

theorem trans (h : s.KeepsTags t d) (h' : t.KeepsTags u d) : s.KeepsTags u d :=
  ⟨h'.tags.trans h.tags, h'.gens.trans h.gens, h'.cycle.trans h.cycle⟩

theorem ite {c : Prop} [Decidable c] (ht : s.KeepsTags t d) (hu : s.KeepsTags u d) : s.KeepsTags (if c then t else u) d := by
  split
  · exact ht
  · exact hu

theorem setDie {e : DieId} {x : Die} (ht : x.torus.tags = (s.die e).torus.tags) (hg : x.torus.gens = (s.die e).torus.gens) :
    s.KeepsTags (s.setDie e x) d := by
  refine ⟨?_, ?_, State.cycle_setDie ..⟩ <;> rw [State.die_setDie]
  · split
    · next h => rw [h, ht]
    · rfl
  · split
    · next h => rw [h, hg]
    · rfl

theorem count (e : DieId) (n : Nat) : s.KeepsTags (s.count e n) d :=
  ⟨congrArg Torus.tags (State.die_torus_setDieReg ..), congrArg Torus.gens (State.die_torus_setDieReg ..), State.cycle_setDieReg ..⟩

theorem oweReset (op part : Nat) : s.KeepsTags (s.oweReset op part) d := by
  unfold State.oweReset
  split
  · exact refl s d
  · split
    · exact setDie rfl rfl
    · exact refl s d

theorem partData (op part : Nat) (bs : List Byte) : s.KeepsTags (s.partData op part bs) d := ⟨rfl, rfl, rfl⟩

theorem partDone (op part : Nat) (st : Status) : s.KeepsTags (s.partDone op part st) d :=
  have owed : s.KeepsTags (if st = Status.ok then s else s.oweReset op part) d := ite (refl s d) (oweReset op part)
  ⟨owed.tags, owed.gens, owed.cycle⟩

theorem tag? (h : s.KeepsTags t d) (n : Nat) : (t.die d).torus.tag? n = (s.die d).torus.tag? n := by
  rw [Torus.tag?, h.tags]; rfl

theorem gen (h : s.KeepsTags t d) (n : Nat) : (t.die d).torus.gen n = (s.die d).torus.gen n := by
  rw [Torus.gen, h.gens]; rfl

end State.KeepsTags

/-! ## The end of a request (R128, R130) -/

section
variable {s t : State} {d : DieId} {op part tag : Nat} {st : Status} {bs : List Byte} {r : RemoteTag}

theorem State.ops_oweReset (s : State) (op part : Nat) : (s.oweReset op part).ops = s.ops := by
  unfold State.oweReset
  split
  · rfl
  · split
    · exact State.ops_setDie ..
    · rfl

/-- The status of a part is recorded by what the operations are alone. -/
theorem State.ops_partDone_congr (h : t.ops = s.ops) : (t.partDone op part st).ops = (s.partDone op part st).ops := by
  simp only [State.partDone, apply_ite State.ops, State.ops_oweReset, ite_self, h]

theorem State.ops_partData_congr (h : t.ops = s.ops) : (t.partData op part bs).ops = (s.partData op part bs).ops := by
  simp only [State.partData, h]

/-- A die with a remote tag free again. -/
def State.freeTag (s : State) (d : DieId) (tag : Nat) : State :=
  s.setDie d { s.die d with torus := (s.die d).torus.dropTag tag }

theorem State.tag?_freeTag : ((s.freeTag d tag).die d).torus.tag? tag = none := by
  rw [State.freeTag, State.die_setDie_same]
  exact Torus.tag?_dropTag ..

theorem State.gens_freeTag : ((s.freeTag d tag).die d).torus.gens = (s.die d).torus.gens := by
  rw [State.freeTag, State.die_setDie_same]; rfl

/-- A request under a tag has been answered, before its part is marked: the tag is free, and what was read is in the buffer. -/
def State.answerTag (s : State) (d : DieId) (tag : Nat) (r : RemoteTag) (st : Status) (bs : List Byte) : State :=
  let s := if st = Status.ok then (s.freeTag d tag).partData r.op r.part bs else s.freeTag d tag
  if st = Status.linkDown then s.count d 0x192 else s

theorem State.complete_eq (h : (s.die d).torus.tag? tag = some r) :
    s.complete d tag st bs = (s.answerTag d tag r st bs).partDone r.op r.part st := by
  rw [State.complete, h]; rfl

theorem State.ops_answerTag : (s.answerTag d tag r st bs).ops = (if st = Status.ok then s.partData r.op r.part bs else s).ops := by
  have freed : (s.freeTag d tag).ops = s.ops := State.ops_setDie ..
  simp only [State.answerTag, apply_ite State.ops, State.ops_count, ite_self, freed, State.ops_partData_congr freed]

theorem State.ops_complete (h : (s.die d).torus.tag? tag = some r) :
    (s.complete d tag st bs).ops = ((if st = Status.ok then s.partData r.op r.part bs else s).partDone r.op r.part st).ops := by
  rw [State.complete_eq h]
  exact State.ops_partDone_congr State.ops_answerTag

theorem State.keepsTags_complete (h : (s.die d).torus.tag? tag = some r) : (s.freeTag d tag).KeepsTags (s.complete d tag st bs) d := by
  have read : (s.freeTag d tag).KeepsTags (if st = Status.ok then (s.freeTag d tag).partData r.op r.part bs else s.freeTag d tag) d :=
    (State.KeepsTags.partData ..).ite (.refl ..)
  have answered : (s.freeTag d tag).KeepsTags (s.answerTag d tag r st bs) d := (read.trans (.count ..)).ite read
  rw [State.complete_eq h]
  exact answered.trans (.partDone ..)

end

/-! ## Replies (R128, R130) -/

section
variable {s : State} {d : DieId} {p : Packet} {r : RemoteTag}

theorem State.keepsTags_setPeer (n : Nat) (v : BitVec 16) : s.KeepsTags (s.setPeer d n v) d := State.KeepsTags.setDie rfl rfl

/-- A reply to a tag that is unused, rests, or has another generation is counted. -/
theorem State.takeReply_late
    (h : ∀ r, (s.die d).torus.tag? p.tag = some r → r.resting = true ∨ (s.die d).torus.gen p.tag ≠ p.gen) :
    s.takeReply d p = (s.setPeer d p.src p.inc).count d 0x18E := by
  have heard : s.KeepsTags (s.setPeer d p.src p.inc) d := State.keepsTags_setPeer p.src p.inc
  unfold State.takeReply
  dsimp only
  rw [heard.tag?, heard.gen]
  cases e : (s.die d).torus.tag? p.tag with
  | none => rfl
  | some r => exact if_pos (h r e)

/-- A die that has heard a reply to a request: the incarnation is recorded, and TARGET_GONE has dropped the translations with the one that
the request carried. -/
def State.heardReply (s : State) (d : DieId) (p : Packet) (r : RemoteTag) : State :=
  let s := s.setPeer d p.src p.inc
  let old := ((s.ops.find? fun o => decide (o.id = r.op)).bind fun o => (o.parts[r.part]?).map (·.inc)).getD 0
  if (p.op.setWidth 4 : Status) = Status.targetGone then s.dropStale d r.target old else s

theorem State.keepsTags_heardReply : s.KeepsTags (s.heardReply d p r) d := by
  have heard : s.KeepsTags (s.setPeer d p.src p.inc) d := State.keepsTags_setPeer p.src p.inc
  exact State.KeepsTags.ite (heard.trans (State.KeepsTags.setDie rfl rfl)) heard

theorem State.ops_heardReply : (s.heardReply d p r).ops = s.ops := by
  simp [State.heardReply, State.setPeer, State.dropStale, apply_ite State.ops]

theorem State.takeReply_ends (h : (s.die d).torus.tag? p.tag = some r) (hr : r.resting = false) (hg : (s.die d).torus.gen p.tag = p.gen) :
    s.takeReply d p = (s.heardReply d p r).complete d p.tag (p.op.setWidth 4) p.data := by
  have heard : s.KeepsTags (s.setPeer d p.src p.inc) d := State.keepsTags_setPeer p.src p.inc
  have current : ¬ (r.resting = true ∨ (s.die d).torus.gen p.tag ≠ p.gen) := by simp [hr, hg]
  unfold State.takeReply
  dsimp only
  rw [heard.tag?, heard.gen, h]
  exact if_neg current

theorem State.takeReply_answers (h : (s.die d).torus.tag? p.tag = some r) (hr : r.resting = false) (hg : (s.die d).torus.gen p.tag = p.gen) :
    ((s.takeReply d p).die d).torus.tag? p.tag = none ∧ (s.takeReply d p).ops =
      ((if (p.op.setWidth 4 : Status) = Status.ok then s.partData r.op r.part p.data else s).partDone r.op r.part (p.op.setWidth 4)).ops := by
  have heard : s.KeepsTags (s.heardReply d p r) d := State.keepsTags_heardReply
  have tagged : ((s.heardReply d p r).die d).torus.tag? p.tag = some r := by rw [heard.tag?, h]
  rw [State.takeReply_ends h hr hg]
  constructor
  · rw [(State.keepsTags_complete tagged).tag?, State.tag?_freeTag]
  · rw [State.ops_complete tagged]
    refine State.ops_partDone_congr ?_
    rw [apply_ite State.ops, apply_ite State.ops, State.ops_heardReply, State.ops_partData_congr State.ops_heardReply]

end

/-! ## Time-outs (R128) -/

section
variable {s : State} {d : DieId} {tag : Nat} {r : RemoteTag}

theorem State.tagTimesOut_rests (h : (s.die d).torus.tag? tag = some r) :
    ((s.tagTimesOut d tag).die d).torus.gen tag = (s.die d).torus.gen tag + 1 ∧
      ((s.tagTimesOut d tag).die d).torus.tag? tag = some { r with resting := true, sent := s.cycle } ∧
      (s.tagTimesOut d tag).ops = (s.partDone r.op r.part Status.timeout).ops := by
  have ended : (s.freeTag d tag).KeepsTags (s.complete d tag Status.timeout []) d := State.keepsTags_complete h
  have cycle : (s.complete d tag Status.timeout []).cycle = s.cycle := ended.cycle.trans (State.cycle_setDie ..)
  rw [State.tagTimesOut, h]
  simp only [State.die_setDie_same, State.ops_setDie, State.ops_complete h, cycle]
  refine ⟨?_, Torus.tag?_putTag .., rfl⟩
  rw [Torus.gen, Sparse.get_set_same, Torus.gen, Torus.putTag, ended.gens, State.gens_freeTag]
  rfl

theorem remoteTimeout_ends (h : (s.die d).torus.tag? tag = some r) (hr : r.resting = false) (hd : s.remoteDue d r.sent = true) :
    ∃ u : State, PumpsTo (.remoteTimeout d tag) s u ∧ (u.die d).torus.gen tag = (s.die d).torus.gen tag + 1 ∧
      (u.die d).torus.tag? tag = some { r with resting := true, sent := s.cycle } ∧
      u.ops = (s.partDone r.op r.part Status.timeout).ops :=
  ⟨s.tagTimesOut d tag, by simp [PumpsTo, execRemoteTimeout, h, hr, hd], State.tagTimesOut_rests h⟩

theorem remoteTagRelease_frees (h : (s.die d).torus.tag? tag = some r) (hr : r.resting = true) (hd : s.remoteDue d r.sent = true) :
    PumpsTo (.remoteTagRelease d tag) s (s.setDie d { s.die d with torus := (s.die d).torus.dropTag tag }) := by
  simp [PumpsTo, execRemoteTagRelease, h, hr, hd]

/-- Before 2^n cycles of `rtmo` have passed nothing of a tag changes. -/
theorem tag_notDue (h : ∀ r, (s.die d).torus.tag? tag = some r → s.remoteDue d r.sent = false) (i : Instr)
    (hi : i = .remoteTimeout d tag ∨ i = .remoteTagRelease d tag) : exec i s = .next s := by
  cases e : (s.die d).torus.tag? tag with
  | none => rcases hi with rfl | rfl <;> simp [execRemoteTimeout, execRemoteTagRelease, e]
  | some r => rcases hi with rfl | rfl <;> simp [execRemoteTimeout, execRemoteTagRelease, e, h r e]

end

/-! ## Flags (R132, R133) -/

section
variable {s : State} {d : DieId} {p : Packet}

theorem State.dest_setDest_same (s : State) (d : DieId) (src n : Nat) (v : DestStream) : (s.setDest d src n v).dest d src n = v := by
  simp only [State.dest, State.setDest, State.die_setDie_same]
  exact Sparse.get_set_same

theorem State.flagArrives_stale (h : p.inc ≠ s.inc d) : s.flagArrives d p = s.sendReply d p Status.targetGone [] := by
  rw [State.flagArrives, if_pos h]

theorem State.adopt_late (h : 8 ≤ (p.fsg - (s.dest d p.src p.fs).gen).toNat) : s.adopt d p.src p.fs p.fsg = (s.count d 0x18E, false) := by
  rw [State.adopt, if_neg (by omega), if_neg (by omega)]

theorem State.adopt_current (h : p.fsg = (s.dest d p.src p.fs).gen) : s.adopt d p.src p.fs p.fsg = (s, true) := by
  simp [State.adopt, h]

/-- A flag of a generation that is past is discarded and counted. -/
theorem State.flagArrives_late (hi : p.inc = s.inc d) (h : 8 ≤ (p.fsg - (s.dest d p.src p.fs).gen).toNat) :
    s.flagArrives d p = s.count d 0x18E := by
  simp [State.flagArrives, hi, State.adopt_late h]

theorem State.flagArrives_current (hi : p.inc = s.inc d) (h : p.fsg = (s.dest d p.src p.fs).gen) : s.flagArrives d p =
    if p.fcnt ≤ (s.dest d p.src p.fs).counter p.phase then s.performFlag d p
    else s.setDest d p.src p.fs { s.dest d p.src p.fs with withheld := (s.dest d p.src p.fs).withheld ++ [p] } := by
  simp [State.flagArrives, hi, State.adopt_current h]

/-- The state in which a flag has been performed: the counter of its phase is cleared, and its word has gained what it adds. -/
def State.flagged (s : State) (d : DieId) (p : Packet) : State :=
  let s := s.setDest d p.src p.fs ((s.dest d p.src p.fs).setCounter p.phase 0)
  let m := (s.die d).mem
  s.setDie d { s.die d with mem := writeNat m p.addr 4 ((readNat m p.addr 4 + ofBytes (p.data.take 4)) % 2 ^ 32) }

theorem State.performFlag_eq (hin : (s.die d).inLocal p.addr 4 = true) (hu : (s.die d).unheld (p.addr / 128)) :
    s.performFlag d p = (s.flagged d p).sendReply d p Status.ok [] := by
  let u := s.setDest d p.src p.fs ((s.dest d p.src p.fs).setCounter p.phase 0)
  have die : u.die d = { s.die d with torus := (u.die d).torus } := by simp [u, State.setDest]
  have local' : (u.die d).inLocal p.addr 4 = true := by rw [die]; exact hin
  have unheld : (u.die d).unheld (p.addr / 128) := by rw [die]; exact hu
  have added := Die.sliceRmw_unheld (n := 4) unheld fun v => (v + ofBytes (p.data.take 4)) % 2 ^ 32
  unfold State.performFlag
  dsimp only
  rw [if_neg (by simpa using local'), added]
  rfl

theorem State.flagArrives_withheld (hi : p.inc = s.inc d) (hg : p.fsg = (s.dest d p.src p.fs).gen)
    (hc : (s.dest d p.src p.fs).counter p.phase < p.fcnt) : s.flagArrives d p =
      s.setDest d p.src p.fs { s.dest d p.src p.fs with withheld := (s.dest d p.src p.fs).withheld ++ [p] } := by
  rw [State.flagArrives_current hi hg, if_neg (by omega)]

theorem State.flagArrives_performed (hi : p.inc = s.inc d) (hg : p.fsg = (s.dest d p.src p.fs).gen)
    (hc : p.fcnt ≤ (s.dest d p.src p.fs).counter p.phase) (hin : (s.die d).inLocal p.addr 4 = true) (hu : (s.die d).unheld (p.addr / 128)) :
    s.flagArrives d p = (s.flagged d p).sendReply d p Status.ok [] := by
  rw [State.flagArrives_current hi hg, if_pos hc, State.performFlag_eq hin hu]

theorem State.mem_flagged : ((s.flagged d p).die d).mem =
    writeNat (s.die d).mem p.addr 4 ((readNat (s.die d).mem p.addr 4 + ofBytes (p.data.take 4)) % 2 ^ 32) := by
  simp [State.flagged, State.setDest]

theorem State.word_flagged : ofBytes (readBytes ((s.flagged d p).die d).mem p.addr 4) =
    (ofBytes (readBytes (s.die d).mem p.addr 4) + ofBytes (p.data.take 4)) % 2 ^ 32 := by
  rw [State.mem_flagged, readBytes_writeNat, ofBytes_bytesOf]
  exact Nat.mod_mod ..

theorem State.readByte_flagged_ne {a : Nat} (h : a < p.addr ∨ p.addr + 4 ≤ a) :
    readByte ((s.flagged d p).die d).mem a = readByte (s.die d).mem a := by
  rw [State.mem_flagged, readByte_writeNat_ne _ _ h]

theorem State.dest_flagged : (s.flagged d p).dest d p.src p.fs = (s.dest d p.src p.fs).setCounter p.phase 0 := by
  rw [State.flagged, State.dest, State.die_setDie_same]
  exact State.dest_setDest_same ..

theorem State.ops_flagged : (s.flagged d p).ops = s.ops := by simp [State.flagged, State.setDest]

end

/-! ## The steps together -/

/-- Settles O51: each clause is the lemma about its step. -/
theorem torusSteps : Obligations.TorusSteps := by
  intro s d bs tag v l far p x o good fits
  refine ⟨⟨_, State.routed_forward s d p, rfl⟩, fun w rest h => ⟨_, State.routed_forward _ d w, packetHop_oldest h⟩, packetHop_empty,
    arrival_inReset, arrival_bad, ?stale, ?read, ?write, ?probe, ?reply, fun r => remoteTimeout_ends, fun r => remoteTagRelease_frees,
    fun i hi h => tag_notDue h i hi, ?flag, fsrstWrite_resets s d v, ⟨rtwWrite_ignored, rtwWrite_stores⟩, tlinksEnable_cuts s d v, ?train,
    linkFailure_falls, linkFailure_down⟩
  case stale => exact fun ⟨hr, hb⟩ hk hi => remoteRequestArrival_pumpsTo (State.requestArrives_stale hr hb hk hi)
  case read => exact fun ⟨hr, hb⟩ hk hc hi ⟨_, hin, hu⟩ => remoteRequestArrival_pumpsTo (State.requestArrives_read hr hb hk hc hi hin hu)
  case write =>
    rintro ⟨hr, hb⟩ hk hc hi hl ⟨-, hin, hu⟩
    obtain ⟨u, served, memory⟩ := State.requestArrives_write hr hb hk hc hi hl hin hu
    exact ⟨u, remoteRequestArrival_pumpsTo served, memory⟩
  case probe => exact fun ⟨hr, hb⟩ hk => remoteRequestArrival_pumpsTo (State.requestArrives_probe hr hb hk)
  case reply =>
    rintro ⟨hr, hb⟩ hk
    have taken : PumpsTo (.remoteReply d bs) s (s.takeReply d p) := remoteReply_pumpsTo hr hb hk
    exact ⟨fun h => State.takeReply_late h ▸ taken, fun r h hrest hg => ⟨_, taken, State.takeReply_answers h hrest hg⟩⟩
  case flag =>
    rintro ⟨hr, hb⟩ hk
    have arrives {u : State} (h : s.flagArrives d p = u) : PumpsTo (.flagArrival d bs) s u := flagArrival_pumpsTo hr hb hk h
    exact ⟨fun hi => arrives (State.flagArrives_stale hi), fun hi hg => arrives (State.flagArrives_late hi hg), fun hi hg =>
      ⟨fun hc => ⟨_, arrives (State.flagArrives_withheld hi hg hc), State.dest_setDest_same ..⟩, fun hc _ hin hu =>
        ⟨s.flagged d p, arrives (State.flagArrives_performed hi hg hc hin hu), State.word_flagged, fun a ha => State.readByte_flagged_ne ha,
          State.dest_flagged, State.ops_flagged⟩⟩⟩
  case train =>
    refine ⟨linkTrainingResult_up, fun ht e => linkTrainingResult_miswired ht, ?_⟩
    exact fun h => h.elim linkTrainingResult_untrained linkTrainingResult_silent

end Sys2Proof.Machine

namespace Sys2Proof.Machine

/-! # Steps of the package: optical ports, telemetry and power (07_optical.md)

Each clause of OpticalSteps is a lemma about its step. First what the steps share: fields of registers, what follows a step at a port, the
writes of a port's state, and the end of a training attempt. -/

/-! ## Fields and bits -/

section
variable {m : Nat} (w : BitVec m)

/-- A write of one field leaves the fields below and above it. -/
theorem field_setField_of_disjoint {a k lo n : Nat} (v : Nat) (h : lo + n ≤ a ∨ a + k ≤ lo) :
    field (setField w a k v) lo n = field w lo n := by
  refine Nat.eq_of_testBit_eq fun i => ?_
  rw [testBit_field, testBit_field, getLsbD_setField]
  by_cases hi : i < n
  · have out : ¬ (a ≤ lo + i ∧ lo + i < a + k) := by omega
    by_cases hm : lo + i < m
    · simp [out, hm]
    · simp [hm, BitVec.getLsbD_of_ge w (lo + i) (by omega)]
  · simp [hi]

theorem field_ofNat {lo n : Nat} (x : Nat) (h : lo + n ≤ 64) : field (BitVec.ofNat 64 x) lo n = x / 2 ^ lo % 2 ^ n := by
  refine Nat.eq_of_testBit_eq fun i => ?_
  rw [testBit_field, BitVec.getLsbD_ofNat, Nat.testBit_mod_two_pow, Nat.testBit_div_two_pow]
  by_cases hi : i < n
  · have inside : lo + i < 64 := by omega
    simp [hi, inside, Nat.add_comm]
  · simp [hi]

end

/-- A bit that is set is taken away by subtraction, and no other bit changes. -/
theorem testBit_sub_two_pow {x i : Nat} (h : x.testBit i = true) (j : Nat) : (x - 2 ^ i).testBit j = (x.testBit j && decide (j ≠ i)) := by
  induction i generalizing x j with
  | zero =>
    have odd : x % 2 = 1 := by simpa [Nat.testBit_zero] using h
    cases j with
    | zero => simp [Nat.testBit_zero]; omega
    | succ j =>
      have half : (x - 2 ^ 0) / 2 = x / 2 := by omega
      rw [Nat.testBit_succ, Nat.testBit_succ, half]
      simp
  | succ i ih =>
    have high : (x / 2).testBit i = true := by rwa [← Nat.testBit_succ]
    have large : 2 ^ (i + 1) ≤ x := Nat.ge_two_pow_of_testBit h
    cases j with
    | zero =>
      have parity : (x - 2 ^ (i + 1)) % 2 = x % 2 := by omega
      simp [Nat.testBit_zero, parity]
    | succ j =>
      have half : (x - 2 ^ (i + 1)) / 2 = x / 2 - 2 ^ i := by omega
      rw [Nat.testBit_succ, Nat.testBit_succ, half, ih high]
      simp

theorem testBit_foldl_sub_two_pow {bs : List Nat} {x : Nat} (hn : bs.Nodup) (h : ∀ i ∈ bs, x.testBit i = true) (j : Nat) :
    (bs.foldl (fun l i => l - 2 ^ i) x).testBit j = (x.testBit j && decide (j ∉ bs)) := by
  induction bs generalizing x with
  | nil => simp
  | cons i bs ih =>
    obtain ⟨hi, hn⟩ := List.nodup_cons.1 hn
    have cleared := testBit_sub_two_pow (h i List.mem_cons_self)
    have rest : ∀ k ∈ bs, (x - 2 ^ i).testBit k = true := fun k hk => by
      have ne : k ≠ i := fun e => hi (e ▸ hk)
      simp [cleared, h k (List.mem_cons_of_mem i hk), ne]
    rw [List.foldl_cons, ih hn rest, cleared]
    by_cases e : j = i <;> simp [e]

theorem foldl_sub_two_pow_le (bs : List Nat) (x : Nat) : bs.foldl (fun l i => l - 2 ^ i) x ≤ x := by
  induction bs generalizing x with
  | nil => exact le_rfl
  | cons i bs ih => exact (ih _).trans (Nat.sub_le ..)

/-! ## Registers written one after another -/

theorem State.dieReg_foldl_setDieReg (d : DieId) (k : Nat) (w : Nat → Word) (l : List Nat) (s : State) (n : Nat) :
    (l.foldl (fun s i => s.setDieReg d (k + i) (w i)) s).dieReg d n = if k ≤ n ∧ n - k ∈ l then w (n - k) else s.dieReg d n := by
  induction l generalizing s with
  | nil => simp
  | cons i l ih =>
    rw [List.foldl_cons, ih]
    by_cases later : k ≤ n ∧ n - k ∈ l
    · rw [if_pos later, if_pos ⟨later.1, List.mem_cons_of_mem i later.2⟩]
    · rw [if_neg later, State.dieReg_setDieReg]
      by_cases e : n = k + i
      · have here : n - k = i := by omega
        simp [e]
      · have there : n - k ≠ i ∨ ¬ k ≤ n := by omega
        have none : ¬ (k ≤ n ∧ n - k ∈ i :: l) := by
          rintro ⟨hk, hm⟩
          rcases List.mem_cons.1 hm with hm | hm
          · omega
          · exact later ⟨hk, hm⟩
        rw [if_neg none, if_neg fun h => e h.1]

/-! ## What follows a step at a port, where nothing is in flight -/

section
variable {s t : State} {d : DieId}

/-- What `calm` says is said of the operations and the pool side of the dies alone. -/
theorem State.calm.congr (h : s.calm) (ops : t.ops = s.ops) (pool : ∀ e, (t.die e).pool = (s.die e).pool) : t.calm :=
  ⟨ops.trans h.1, fun e => by rw [pool]; exact h.2 e⟩

theorem State.calm.setDieReg (h : s.calm) (n : Nat) (v : Word) : (s.setDieReg d n v).calm :=
  h.congr (State.ops_setDieReg ..) fun _ => State.die_pool_setDieReg ..

theorem State.calm.setDie (h : s.calm) {x : Die} (hx : x.pool.waiting = []) : (s.setDie d x).calm := by
  refine ⟨(State.ops_setDie ..).trans h.1, fun e => ?_⟩
  rw [State.die_setDie]
  split
  · exact hx
  · exact h.2 e

theorem State.calm.foldl {α : Type} {f : State → α → State} (hf : ∀ s a, s.calm → (f s a).calm) (h : s.calm) (l : List α) :
    (l.foldl f s).calm := by
  induction l generalizing s with
  | nil => exact h
  | cons a l ih => exact ih (hf s a h)

theorem State.pumpPool_calm (h : s.calm) (d : DieId) : s.pumpPool d = s := by
  have same : { s.die d with pool := { (s.die d).pool with waiting := [] } } = s.die d := by
    rw [← h.2 d]
  rw [State.pumpPool, h.2 d, State.pumpFrom, List.reverse_nil]
  dsimp only
  rw [same, State.setDie_die]

theorem State.shutFrom_calm (h : s.calm) (d : DieId) (fuel : Nat) : State.shutFrom d fuel s = s := by
  cases fuel with
  | zero => rfl
  | succ fuel =>
    rw [State.shutFrom]
    dsimp only
    rw [h.2 d]

theorem State.shut_calm (h : s.calm) : s.shut = s := by
  simp only [State.shut, List.foldl_cons, List.foldl_nil, State.shutFrom_calm h]

theorem State.tryAll_idle (h : s.ops = []) : s.tryAll = s := by
  rw [State.tryAll, h, List.foldl_nil]

/-- With no request waiting and no operation in flight nothing goes on. -/
theorem State.settlePool_calm (h : s.calm) : s.settlePool = s := by
  rw [State.settlePool, State.pumpPool_calm h, State.pumpPool_calm h, State.shut_calm h, State.tryAll_idle h.1, State.shut_calm h,
    State.tryAll_idle h.1]

end

end Sys2Proof.Machine

namespace Sys2Proof.Machine

/-! ## The registers of ports and bidders -/

theorem packageScope_port {p : Nat} (h : p < 16) : packageScope (0x120 + p) = false := by
  simp [packageScope]; omega

theorem packageScope_bidder {b : Nat} (h : b < 10) : packageScope (0x170 + b) = true := by
  simp [packageScope]; omega

theorem portBidder_lt (d : DieId) {p : Nat} (h : p < 16) : portBidder d p < 10 := by
  unfold portBidder; omega

/-- The grant of a bidder (R146). -/
def State.grant (s : State) (b : Nat) : Nat := field (s.dieReg 0 (0x170 + b)) 48 16

/-- A step at the ports of an idle package leaves it idle, with the registers of its dies other than the ports' own and the grants as they
are. -/
structure State.KeepsGrants (s t : State) : Prop where
  calm : t.calm
  reg : ∀ e n, packageScope n = false → n < 0x120 ∨ 0x130 ≤ n → t.dieReg e n = s.dieReg e n
  grant : ∀ b, t.grant b = s.grant b

namespace State.KeepsGrants
variable {s t u : State}

theorem refl (h : s.calm) : s.KeepsGrants s := ⟨h, fun _ _ _ _ => rfl, fun _ => rfl⟩

theorem trans (h : s.KeepsGrants t) (h' : t.KeepsGrants u) : s.KeepsGrants u :=
  ⟨h'.calm, fun e n hn hp => (h'.reg e n hn hp).trans (h.reg e n hn hp), fun b => (h'.grant b).trans (h.grant b)⟩

theorem ite {c : Prop} [Decidable c] (ht : s.KeepsGrants t) (hu : s.KeepsGrants u) : s.KeepsGrants (if c then t else u) := by
  split
  · exact ht
  · exact hu

theorem foldl {α : Type} {f : State → α → State} {l : List α} (hf : ∀ s : State, ∀ a ∈ l, s.calm → s.KeepsGrants (f s a))
    (h : s.calm) : s.KeepsGrants (l.foldl f s) := by
  induction l generalizing s with
  | nil => exact refl h
  | cons a l ih =>
    have first := hf s a List.mem_cons_self h
    exact first.trans (ih (fun s b hb => hf s b (List.mem_cons_of_mem a hb)) first.calm)

end State.KeepsGrants

/-! ## A port enters a state (R135, R146) -/

section
variable (s : State) (d : DieId) (p st : Nat)

/-- A port's register has its new state, and the floor of a module of which no port is busy is 0. -/
def State.turnPort : State :=
  let s := s.setDieReg d (0x120 + p) (setField (s.oport d p) 20 4 st)
  let b := 0x170 + portBidder d p
  if s.moduleBusy d (p / 4) then s else s.setDieReg 0 b (setField (s.dieReg 0 b) 16 16 0)

theorem State.setPort_eq : s.setPort d p st = (s.turnPort d p st).settlePool := rfl

theorem State.ops_turnPort : (s.turnPort d p st).ops = s.ops := by
  simp only [State.turnPort, apply_ite State.ops, State.ops_setDieReg, ite_self]

theorem State.die_pool_turnPort (e : DieId) : ((s.turnPort d p st).die e).pool = (s.die e).pool := by
  unfold State.turnPort
  dsimp only
  split <;> simp

theorem State.die_optical_turnPort (e : DieId) : ((s.turnPort d p st).die e).optical = (s.die e).optical := by
  unfold State.turnPort
  dsimp only
  split <;> simp

end

section
variable {s : State} {d : DieId} {p : Nat} (st : Nat) (hs : s.calm)
include hs

theorem State.setPort_calm : s.setPort d p st = s.turnPort d p st :=
  State.settlePool_calm (hs.congr (s.ops_turnPort d p st) (s.die_pool_turnPort d p st))

theorem State.portRun_setPort (e : DieId) (q : Nat) : (s.setPort d p st).portRun e q = s.portRun e q := by
  rw [State.setPort_calm st hs, State.portRun, State.die_optical_turnPort]; rfl

end

section
variable (s : State) (d : DieId) {p : Nat} (st : Nat) (hp : p < 16)
include hp

theorem State.dieReg_turnPort (e : DieId) {n : Nat} (hn : packageScope n = false) :
    (s.turnPort d p st).dieReg e n = if n = 0x120 + p ∧ e = d then setField (s.oport d p) 20 4 st else s.dieReg e n := by
  have bidder : n ≠ 0x170 + portBidder d p := fun h => by
    rw [h, packageScope_bidder (portBidder_lt d hp)] at hn
    cases hn
  have written : (s.setDieReg d (0x120 + p) (setField (s.oport d p) 20 4 st)).dieReg e n =
      if n = 0x120 + p ∧ e = d then setField (s.oport d p) 20 4 st else s.dieReg e n := by
    simp [State.dieReg_setDieReg, packageScope_port hp]
  unfold State.turnPort
  dsimp only
  split
  · exact written
  · rw [State.dieReg_setDieReg_ne (.inl bidder), written]

theorem State.grant_turnPort (b : Nat) : (s.turnPort d p st).grant b = s.grant b := by
  have other (v : Word) : (s.setDieReg d (0x120 + p) v).grant b = s.grant b := by
    rw [State.grant, State.dieReg_setDieReg_ne (.inl (by omega))]; rfl
  unfold State.turnPort
  dsimp only
  split
  · exact other _
  · rw [State.grant, State.dieReg_setDieReg]
    split
    · next h =>
      rw [field_setField_of_disjoint _ _ (.inr (by decide)), ← h.1]
      exact other _
    · exact other _

variable {s d} (hs : s.calm)
include hs

theorem State.keepsGrants_setPort : s.KeepsGrants (s.setPort d p st) := by
  rw [State.setPort_calm st hs]
  refine ⟨hs.congr (s.ops_turnPort d p st) (s.die_pool_turnPort d p st), fun e n hn out => ?_, s.grant_turnPort d st hp⟩
  rw [State.dieReg_turnPort s d st hp e hn, if_neg fun h => by omega]

/-- Only bits [23:20] of the port's own register change. -/
theorem State.oport_setPort (e : DieId) {q : Nat} (hq : q < 16) :
    (s.setPort d p st).oport e q = if q = p ∧ e = d then setField (s.oport d p) 20 4 st else s.oport e q := by
  rw [State.setPort_calm st hs, State.oport, State.dieReg_turnPort s d st hp e (packageScope_port hq)]
  simp only [Nat.add_left_cancel_iff]
  rfl

theorem State.portSt_setPort (hst : st < 16) (e : DieId) {q : Nat} (hq : q < 16) :
    (s.setPort d p st).portSt e q = if q = p ∧ e = d then st else s.portSt e q := by
  rw [State.portSt, State.oport_setPort st hp hs e hq]
  split
  · rw [field_setField_same _ _ (by decide)]
    exact Nat.mod_eq_of_lt hst
  · rfl

end

/-! ## A port's run -/

section
variable {s : State} {d : DieId} {p : Nat} {r : PortRun}

theorem State.dieReg_setPortRun (e : DieId) (n : Nat) : (s.setPortRun d p r).dieReg e n = s.dieReg e n  :=
  State.dieReg_setDie (by rfl) e n

theorem State.portSt_setPortRun (e : DieId) (q : Nat) : (s.setPortRun d p r).portSt e q = s.portSt e q :=
  congrArg (field · 20 4) (State.dieReg_setPortRun e (0x120 + q))

theorem State.portRun_setPortRun_same : (s.setPortRun d p r).portRun d p = r := by
  simp only [State.portRun, State.setPortRun, State.die_setDie_same]
  exact Sparse.get_set_same

theorem State.calm.setPortRun (h : s.calm) : (s.setPortRun d p r).calm := h.setDie (h.2 d)

theorem State.keepsGrants_setPortRun (h : s.calm) : s.KeepsGrants (s.setPortRun d p r) :=
  ⟨h.setPortRun, fun e n _ _ => State.dieReg_setPortRun e n, fun b => congrArg (field · 48 16) (State.dieReg_setPortRun 0 (0x170 + b))⟩

end

/-! ## Commands of a port (R136) -/

/-- A port has entered a state, and the other ports of its die and the rest of the package are as they were. -/
def State.enters (s t : State) (d : DieId) (p st : Nat) : Prop :=
  t.portSt d p = st ∧ t.calm ∧ ∀ q, q < 16 → q ≠ p → t.portSt d q = s.portSt d q

section
variable {s u : State} {d : DieId}

theorem State.enters_setPort {p st : Nat} (hp : p < 16) (hst : st < 16) (hu : u.calm)
    (others : ∀ q, q < 16 → q ≠ p → u.portSt d q = s.portSt d q) : s.enters (u.setPort d p st) d p st := by
  refine ⟨?_, (State.keepsGrants_setPort st hp hu).calm, fun q hq hne => ?_⟩
  · rw [State.portSt_setPort st hp hu hst d hp, if_pos ⟨rfl, rfl⟩]
  · rw [State.portSt_setPort st hp hu hst d hq, if_neg fun h => hne h.1, others q hq hne]

variable {p : Fin 16}

theorem gate_off (hs : s.calm) (h : s.portSt d p.val = 0) : ∃ t, exec (.gate d p) s = .next t ∧ s.enters t d p.val 1 :=
  ⟨s.setPort d p.val portGated, congrArg Host.Outcome.next (if_pos h), State.enters_setPort p.isLt (by decide) hs fun _ _ _ => rfl⟩

theorem gate_other (h : s.portSt d p.val ≠ 0) : exec (.gate d p) s = .next s := congrArg Host.Outcome.next (if_neg h)

/-- The run of a port whose training starts now, after a number of attempts that failed (R137). -/
def State.attempt (s : State) (d : DieId) (tries : Nat) : PortRun := ⟨tries, (s.dieReg d 0x114).toNat, 1, (s.dieReg d 0x114).toNat⟩

theorem train_gated (hs : s.calm) (h : s.portSt d p.val = 1) : ∃ t, exec (.train d p) s = .next t ∧ s.enters t d p.val 2 ∧
    t.portRun d p.val = s.attempt d 0 := by
  refine ⟨(s.setPortRun d p.val (s.attempt d 0)).setPort d p.val portTraining, congrArg Host.Outcome.next (if_pos h),
    State.enters_setPort p.isLt (by decide) hs.setPortRun fun q _ _ => State.portSt_setPortRun d q, ?_⟩
  rw [State.portRun_setPort _ hs.setPortRun, State.portRun_setPortRun_same]

theorem train_other (h : s.portSt d p.val ≠ 1) : exec (.train d p) s = .next s := congrArg Host.Outcome.next (if_neg h)

theorem drain_active (hs : s.calm) (h : s.portSt d p.val = 3) : ∃ t, exec (.drain d p) s = .next t ∧ s.enters t d p.val 4 :=
  ⟨(s.setPortRun d p.val ⟨0, s.cycle, 1, 0⟩).setPort d p.val portDraining, congrArg Host.Outcome.next (if_pos h),
    State.enters_setPort p.isLt (by decide) hs.setPortRun fun q _ _ => State.portSt_setPortRun d q⟩

theorem drain_training (hs : s.calm) (h : s.portSt d p.val = 2) : ∃ t, exec (.drain d p) s = .next t ∧ s.enters t d p.val 1 := by
  refine ⟨s.setPort d p.val portGated, ?_, State.enters_setPort p.isLt (by decide) hs fun _ _ _ => rfl⟩
  rw [exec_drain, execDrain, State.portDrain, h]
  rfl

theorem drain_other (h2 : s.portSt d p.val ≠ 2) (h3 : s.portSt d p.val ≠ 3) : exec (.drain d p) s = .next s := by
  have active : s.portSt d p.val ≠ portActive := h3
  have training : s.portSt d p.val ≠ portTraining := h2
  rw [exec_drain, execDrain, State.portDrain, if_neg active, if_neg training]

theorem off_training (hs : s.calm) (h : s.portSt d p.val = 2) : ∃ t, exec (.off d p) s = .next t ∧ s.enters t d p.val 1 :=
  ⟨s.setPort d p.val portGated, congrArg Host.Outcome.next (if_pos h), State.enters_setPort p.isLt (by decide) hs fun _ _ _ => rfl⟩

theorem off_gatedOrFailed (hs : s.calm) (h : s.portSt d p.val = 1 ∨ s.portSt d p.val = 6) :
    ∃ t, exec (.off d p) s = .next t ∧ s.enters t d p.val 0 := by
  have training : s.portSt d p.val ≠ portTraining := by unfold portTraining; omega
  refine ⟨s.setPort d p.val portOff, ?_, State.enters_setPort p.isLt (by decide) hs fun _ _ _ => rfl⟩
  rw [exec_off, execOff, State.portPowerOff, if_neg training]
  exact congrArg Host.Outcome.next (if_pos h)

theorem off_other (h : s.portSt d p.val = 0 ∨ 3 ≤ s.portSt d p.val ∧ s.portSt d p.val ≠ 6) : exec (.off d p) s = .next s := by
  have training : s.portSt d p.val ≠ portTraining := by unfold portTraining; omega
  have stays : ¬ (s.portSt d p.val = portGated ∨ s.portSt d p.val = portFailed) := by unfold portGated portFailed; omega
  rw [exec_off, execOff, State.portPowerOff, if_neg training, if_neg stays]

theorem State.keepsGrants_portDrain (hs : s.calm) {q : Nat} (hq : q < 16) : s.KeepsGrants (s.portDrain d q) := by
  have run : s.KeepsGrants (s.setPortRun d q ⟨0, s.cycle, 1, 0⟩) := State.keepsGrants_setPortRun hs
  exact (run.trans (State.keepsGrants_setPort _ hq run.calm)).ite ((State.keepsGrants_setPort _ hq hs).ite (.refl hs))

end

/-! ## Laser modules (R136, R143) -/

section
variable {s : State} {d : DieId} {m : Fin 4}

/-- A step at one port of a module after another: where each changes the state of its own port alone, as φ says, each port that is named has
changed so. -/
theorem State.portSt_foldl {f : State → Nat → State} {φ : Nat → Nat} (idem : ∀ x, φ (φ x) = φ x)
    (hf : ∀ s i, i < 4 → s.calm → s.KeepsGrants (f s i) ∧
      ∀ j, j < 4 → (f s i).portSt d (4 * m.val + j) = if j = i then φ (s.portSt d (4 * m.val + j)) else s.portSt d (4 * m.val + j))
    (hs : s.calm) {l : List Nat} (hl : ∀ i ∈ l, i < 4) : s.KeepsGrants (l.foldl f s) ∧
      ∀ j, j < 4 → (l.foldl f s).portSt d (4 * m.val + j) = if j ∈ l then φ (s.portSt d (4 * m.val + j)) else s.portSt d (4 * m.val + j) := by
  induction l generalizing s with
  | nil => exact ⟨.refl hs, fun _ _ => rfl⟩
  | cons i l ih =>
    obtain ⟨kept, one⟩ := hf s i (hl i List.mem_cons_self) hs
    obtain ⟨kept', rest⟩ := ih kept.calm fun j hj => hl j (List.mem_cons_of_mem i hj)
    refine ⟨kept.trans kept', fun j hj => ?_⟩
    rw [List.foldl_cons, rest j hj, one j hj]
    by_cases e : j = i <;> simp [e, idem]

theorem State.portSt_setPort_module {st : Nat} (hst : st < 16) (hs : s.calm) {i j : Nat} (hi : i < 4) (hj : j < 4) :
    (s.setPort d (4 * m.val + i) st).portSt d (4 * m.val + j) = if j = i then st else s.portSt d (4 * m.val + j) := by
  rw [State.portSt_setPort st (by omega) hs hst d (by omega)]
  simp only [Nat.add_left_cancel_iff, and_true]

theorem State.keepsGrants_portRemoved (hs : s.calm) {p : Nat} (hp : p < 16) : s.KeepsGrants (s.portRemoved d p) :=
  let u := s.markPort d p (fun _ => true) Status.linkDown true
  have marked : s.KeepsGrants u := ⟨hs, fun _ _ _ _ => rfl, fun _ => rfl⟩
  marked.trans (State.keepsGrants_setPort _ hp marked.calm)

theorem State.portSt_portRemoved (hs : s.calm) {i j : Nat} (hi : i < 4) (hj : j < 4) :
    (s.portRemoved d (4 * m.val + i)).portSt d (4 * m.val + j) = if j = i then 5 else s.portSt d (4 * m.val + j) :=
  State.portSt_setPort_module (s := s.markPort d (4 * m.val + i) (fun _ => true) Status.linkDown true) (by decide) hs hi hj

theorem laserModuleRemoved_absent (hs : s.calm) (h : bit (s.dieReg d (0x130 + m.val)) 8 = true) :
    ∃ t, exec (.laserModuleRemoved d m) s = .next t ∧ (∀ i, i < 4 → t.portSt d (4 * m.val + i) = 5) ∧
      field (t.dieReg 0 (0x172 + 4 * d.val + m.val)) 48 16 = 0 := by
  have bidder : packageScope (0x172 + 4 * d.val + m.val) = true := by simp [packageScope]; omega
  obtain ⟨-, absent⟩ := State.portSt_foldl (d := d) (m := m) (f := fun s i => s.portRemoved d (4 * m.val + i)) (φ := fun _ => 5) (fun _ => rfl)
    (fun s i hi hs => ⟨State.keepsGrants_portRemoved hs (by omega), fun j hj => State.portSt_portRemoved hs hi hj⟩)
    (hs.setDieReg (d := d) (0x130 + m.val) (setBit (s.dieReg d (0x130 + m.val)) 8 false)) (l := List.range 4) (fun _ => List.mem_range.1)
  refine ⟨_, by rw [exec_laserModuleRemoved, execLaserModuleRemoved, if_neg (by simp [h])], fun i hi => ?_, ?_⟩
  · rw [State.portSt, State.oport, State.dieReg_setDieReg_ne (.inl (by omega))]
    exact (absent i hi).trans (if_pos (List.mem_range.2 hi))
  · rw [State.dieReg_setDieReg_same, field_setField_same _ _ (by decide)]
    rfl

/-- A port of a module that is present again: from ABSENT it goes to OFF (R136). -/
def State.portInserted (s : State) (d : DieId) (p : Nat) : State := if s.portSt d p = portAbsent then s.setPort d p portOff else s

theorem State.keepsGrants_portInserted (hs : s.calm) {p : Nat} (hp : p < 16) : s.KeepsGrants (s.portInserted d p) :=
  (State.keepsGrants_setPort _ hp hs).ite (.refl hs)

theorem State.portSt_portInserted (hs : s.calm) {i j : Nat} (hi : i < 4) (hj : j < 4) :
    (s.portInserted d (4 * m.val + i)).portSt d (4 * m.val + j) =
      if j = i then (if s.portSt d (4 * m.val + j) = 5 then 0 else s.portSt d (4 * m.val + j)) else s.portSt d (4 * m.val + j) := by
  unfold State.portInserted portAbsent portOff
  split
  · next absent =>
    rw [State.portSt_setPort_module (by decide) hs hi hj]
    by_cases e : j = i <;> simp [e, absent]
  · next other => by_cases e : j = i <;> simp [e, other]

theorem laserModuleInserted_present (hs : s.calm) (h : bit (s.dieReg d (0x130 + m.val)) 8 = false) :
    ∃ t, exec (.laserModuleInserted d m) s = .next t ∧
      (∀ i, i < 4 → t.portSt d (4 * m.val + i) = if s.portSt d (4 * m.val + i) = 5 then 0 else s.portSt d (4 * m.val + i)) ∧
      bit (t.dieReg d (0x130 + m.val)) 8 = true := by
  let u := s.setDieReg d (0x130 + m.val) (setBit (s.dieReg d (0x130 + m.val)) 8 true)
  have own : packageScope (0x130 + m.val) = false := by simp [packageScope]; omega
  have before (i : Nat) (hi : i < 4) : u.portSt d (4 * m.val + i) = s.portSt d (4 * m.val + i) := by
    rw [State.portSt, State.oport, State.dieReg_setDieReg_ne (.inl (by omega))]; rfl
  obtain ⟨kept, off⟩ := State.portSt_foldl (d := d) (m := m) (f := fun s i => s.portInserted d (4 * m.val + i))
    (φ := fun x => if x = 5 then 0 else x) (fun x => by by_cases e : x = 5 <;> simp [e])
    (fun s i hi hs => ⟨State.keepsGrants_portInserted hs (by omega), fun j hj => State.portSt_portInserted hs hi hj⟩)
    (show u.calm from hs.setDieReg ..) (l := List.range 4) (fun _ => List.mem_range.1)
  refine ⟨_, by rw [exec_laserModuleInserted, execLaserModuleInserted, if_neg (by simp [h])], fun i hi => ?_, ?_⟩
  · refine (off i hi).trans ?_
    rw [if_pos (List.mem_range.2 hi), before i hi]
  · refine (congrArg (bit · 8) (kept.reg d (0x130 + m.val) own (.inr (by omega)))).trans ?_
    rw [State.dieReg_setDieReg_same]
    exact bit_setBit_same _ _ (by decide)

end

end Sys2Proof.Machine

namespace Sys2Proof.Machine

/-! ## Training (R46, R137) -/

/-- An attempt at a port has failed: the port is FAILED after `octl.tries`, and otherwise its next attempt starts. -/
def State.failsAttempt (s t : State) (d : DieId) (p : Nat) : Prop :=
  if field (s.dieReg d 0x11A) 0 4 ≤ (s.portRun d p).tries + 1 then t.portSt d p = 6
  else t.portSt d p = 2 ∧ t.portRun d p = s.attempt d ((s.portRun d p).tries + 1)

/-- The step of an attempt has taken longer than its limit, or the attempt longer than 1 ms. -/
def State.stepLate (s : State) (d : DieId) (p : Nat) : Prop := stepLimit (s.portRun d p).step < s.stepTime d p ∨ 1000000 < s.attemptTime d p

theorem trainedLanes_lt (counts : List Nat) : trainedLanes counts < 2 ^ 8 := by
  have bound : trainedLanes counts ≤ ((List.range 8).map fun i => 2 ^ i).sum :=
    List.sum_le_sum fun i _ => by split <;> simp
  exact lt_of_le_of_lt bound (by decide)

section
variable {s : State} {d : DieId} {p : Fin 16}

theorem State.failsAttempt_attemptFails (hs : s.calm) (h : s.portSt d p.val = 2) : s.failsAttempt (s.attemptFails d p.val) d p.val := by
  unfold State.failsAttempt State.attemptFails
  dsimp only
  split
  · rw [State.portSt_setPort _ p.isLt hs (by decide) d p.isLt, if_pos ⟨rfl, rfl⟩]
    rfl
  · exact ⟨(State.portSt_setPortRun d p.val).trans h, State.portRun_setPortRun_same⟩

theorem portTrainingResult_failed_eq (h : s.portSt d p.val = 2) :
    exec (.portTrainingResult d p .failed) s = .next (s.attemptFails d p.val) := if_neg (not_not.2 h)

theorem portTrainingResult_stepDone_eq (h : s.portSt d p.val = 2) :
    exec (.portTrainingResult d p .stepDone) s = .next (s.stepEnds d p.val) := if_neg (not_not.2 h)

theorem portTrainingResult_failed (hs : s.calm) (h : s.portSt d p.val = 2) :
    ∃ t, exec (.portTrainingResult d p .failed) s = .next t ∧ s.failsAttempt t d p.val :=
  ⟨_, portTrainingResult_failed_eq h, State.failsAttempt_attemptFails hs h⟩

theorem portTrainingResult_stepDone_late (hs : s.calm) (h : s.portSt d p.val = 2) (late : s.stepLate d p.val) :
    ∃ t, exec (.portTrainingResult d p .stepDone) s = .next t ∧ s.failsAttempt t d p.val :=
  ⟨_, (portTrainingResult_stepDone_eq h).trans (congrArg Host.Outcome.next (if_pos late)), State.failsAttempt_attemptFails hs h⟩

theorem portTrainingTimeout_late (hs : s.calm) (h : s.portSt d p.val = 2) (late : s.stepLate d p.val) :
    ∃ t, exec (.portTrainingTimeout d p) s = .next t ∧ s.failsAttempt t d p.val :=
  ⟨s.attemptFails d p.val, if_pos ⟨h, late⟩, State.failsAttempt_attemptFails hs h⟩

theorem portTrainingTimeout_early (early : ¬ s.stepLate d p.val) : exec (.portTrainingTimeout d p) s = .next s := if_neg fun h => early h.2

theorem portTrainingResult_stepDone_early (h : s.portSt d p.val = 2) (early : ¬ s.stepLate d p.val) :
    ∃ t, exec (.portTrainingResult d p .stepDone) s = .next t ∧ t.portSt d p.val = 2 ∧ t.portRun d p.val =
      { s.portRun d p.val with
        step := if (s.portRun d p.val).step = 3 then 5 else min ((s.portRun d p.val).step + 1) 6, stepSince := (s.dieReg d 0x114).toNat } :=
  ⟨_, (portTrainingResult_stepDone_eq h).trans (congrArg Host.Outcome.next (if_neg early)),
    (State.portSt_setPortRun d p.val).trans h, State.portRun_setPortRun_same⟩

/-! ## A port comes up (R46, R50, R56, R137) -/

/-- A state for a port to come up in: idle, with the port registers of another. -/
def State.readyFor (s u : State) : Prop := u.calm ∧ ∀ e q, q < 16 → u.dieReg e (0x120 + q) = s.dieReg e (0x120 + q)

/-- The registers that a port which comes up is written in. -/
theorem State.dieReg_portUp {u : State} (hu : u.calm) (lanes peer : Nat) (e : DieId) {n : Nat} (hn : packageScope n = false)
    (out : n < 0x120 ∨ 0x130 ≤ n) : (u.portUp d p.val lanes peer).dieReg e n = u.dieReg e n := by
  have written := hu.setDieReg (d := d) (0x120 + p.val) (setField (setField (u.oport d p.val) 40 8 lanes) 48 9 peer)
  rw [State.portUp, (State.keepsGrants_setPort _ p.isLt written.setPortRun).reg e n hn out, State.dieReg_setPortRun,
    State.dieReg_setDieReg_ne (.inl (by omega))]

theorem State.oport_portUp {u : State} (hu : u.calm) (lanes peer : Nat) : (u.portUp d p.val lanes peer).oport d p.val =
    setField (setField (setField (u.oport d p.val) 40 8 lanes) 48 9 peer) 20 4 3 := by
  have written := hu.setDieReg (d := d) (0x120 + p.val) (setField (setField (u.oport d p.val) 40 8 lanes) 48 9 peer)
  rw [State.portUp, State.oport_setPort _ p.isLt written.setPortRun d p.isLt, if_pos ⟨rfl, rfl⟩, State.oport, State.dieReg_setPortRun,
    State.dieReg_setDieReg_same]
  rfl

theorem State.enters_portUp {u : State} (hu : s.readyFor u) (lanes peer : Nat) :
    s.enters (u.portUp d p.val lanes peer) d p.val 3 := by
  obtain ⟨calm, ports⟩ := hu
  refine State.enters_setPort p.isLt (by decide) (calm.setDieReg _ _).setPortRun fun q hq hne => ?_
  rw [State.portSt_setPortRun, State.portSt, State.oport, State.dieReg_setDieReg_ne (.inl (by omega)), ports d q hq]
  rfl

theorem State.lanes_portUp {u : State} (hu : u.calm) (counts : List Nat) (peer : Nat) :
    field ((u.portUp d p.val (trainedLanes counts) peer).oport d p.val) 40 8 = trainedLanes counts := by
  rw [State.oport_portUp hu, field_setField_of_disjoint _ _ (.inr (by decide)), field_setField_of_disjoint _ _ (.inl (by decide)),
    field_setField_same _ _ (by decide)]
  exact Nat.mod_eq_of_lt (trainedLanes_lt counts)

theorem State.peer_portUp {u : State} (hu : u.calm) (lanes peer : Nat) :
    field ((u.portUp d p.val lanes peer).oport d p.val) 48 9 = peer % 512 := by
  rw [State.oport_portUp hu, field_setField_of_disjoint _ _ (.inr (by decide)), field_setField_same _ _ (by decide)]
  rfl

/-! ## The pool at the far end (R46, R47, R56) -/

/-- The word that records a pool's report (R46). -/
def reportWord (pid : BitVec 8) (inc : BitVec 32) (famo mmx jrnl : Bool) : Word :=
  BitVec.ofNat 64 (inc.toNat * 2 ^ 32 + ofBool jrnl * 2 ^ 18 + ofBool mmx * 2 ^ 17 + ofBool famo * 2 ^ 16 + pid.toNat * 2 ^ 8 + 1)

theorem fields_reportWord (pid : BitVec 8) (inc : BitVec 32) (famo mmx jrnl : Bool) :
    field (reportWord pid inc famo mmx jrnl) 8 8 = pid.toNat ∧ field (reportWord pid inc famo mmx jrnl) 32 32 = inc.toNat := by
  have pidRange := pid.isLt
  have incRange := inc.isLt
  have flag (b : Bool) : ofBool b ≤ 1 := by cases b <;> decide
  have hj := flag jrnl
  have hm := flag mmx
  have hf := flag famo
  unfold reportWord
  constructor
  · rw [field_ofNat _ (by decide)]; omega
  · rw [field_ofNat _ (by decide)]; omega

theorem State.calm.startFrames (hs : s.calm) : (s.startFrames d).calm := by
  unfold State.startFrames
  dsimp only
  split
  · exact hs
  · exact hs.setDie (hs.2 d)

theorem State.dieReg_startFrames (e : DieId) (n : Nat) : (s.startFrames d).dieReg e n = s.dieReg e n := by
  unfold State.startFrames
  dsimp only
  split
  · rfl
  · exact State.dieReg_setDie (by rfl) e n

/-- The report of a pool of the incarnation that the die knows is recorded, and nothing restarts. -/
theorem State.poolReport_known {inc : BitVec 32} (h : field (s.dieReg d 0x111) 32 32 = inc.toNat) (pid : BitVec 8) (famo mmx jrnl : Bool)
    (tick : Nat) : s.poolReport d pid inc famo mmx jrnl tick = (s.setDieReg d 0x111 (reportWord pid inc famo mmx jrnl)).setDieReg d 0x113
      (setField ((s.setDieReg d 0x111 (reportWord pid inc famo mmx jrnl)).dieReg d 0x113) 32 20 tick) := by
  have rest : (s.setDieReg d 0x111 (reportWord pid inc famo mmx jrnl)).dieReg d 0x113 = s.dieReg d 0x113 :=
    State.dieReg_setDieReg_ne (.inl (by decide))
  rw [State.poolReport, rest, if_neg (not_not.2 h)]
  rfl

end

section
variable {s : State} {d : DieId} {p : Fin 16} {counts : List Nat} {rev pid : BitVec 8} {inc : BitVec 32} {famo mmx jrnl : Bool} {tick : Nat}

/-- An attempt has trained enough lanes in time (R137). -/
def State.trained (s : State) (d : DieId) (p : Nat) (counts : List Nat) : Prop :=
  s.attemptLate d p = false ∧ 6 ≤ popCount 8 (trainedLanes counts)

/-- A die that has recorded what a pool of the incarnation that it knows reports. -/
def State.heardPool (s : State) (d : DieId) (pid : BitVec 8) (inc : BitVec 32) (famo mmx jrnl : Bool) (tick : Nat) : State :=
  (s.startFrames d).poolReport d pid inc famo mmx jrnl tick

/-- What a port of the pool role does with what it has heard of the far end. -/
theorem portTrainingResult_pool (h : s.portSt d p.val = 2) (role : bit (s.oport d p.val) 8 = false) :
    exec (.portTrainingResult d p (.pool counts rev pid inc famo mmx jrnl tick)) s =
      if s.attemptLate d p.val || decide (popCount 8 (trainedLanes counts) < 6) then .next (s.attemptFails d p.val)
      else if rev = 0 then .next (s.setPort d p.val portFailed)
      else if s.otherPool pid then .next (s.attemptFails d p.val)
      else .next ((s.heardPool d pid inc famo mmx jrnl tick).portUp d p.val (trainedLanes counts) 0) := by
  refine (if_neg (not_not.2 h)).trans ?_
  rw [role, Bool.false_or]
  rfl

theorem State.not_trained_iff : ¬ s.trained d p.val counts ↔ (s.attemptLate d p.val || decide (popCount 8 (trainedLanes counts) < 6)) = true := by
  rw [State.trained, not_and_or, Bool.or_eq_true, decide_eq_true_eq, Bool.not_eq_false, not_le]

theorem portTrainingResult_pool_untrained (hs : s.calm) (h : s.portSt d p.val = 2) (role : bit (s.oport d p.val) 8 = false)
    (failed : ¬ s.trained d p.val counts) :
    ∃ t, exec (.portTrainingResult d p (.pool counts rev pid inc famo mmx jrnl tick)) s = .next t ∧ s.failsAttempt t d p.val :=
  ⟨_, (portTrainingResult_pool h role).trans (if_pos (State.not_trained_iff.1 failed)), State.failsAttempt_attemptFails hs h⟩

theorem portTrainingResult_pool_trained (h : s.portSt d p.val = 2) (role : bit (s.oport d p.val) 8 = false)
    (ready : s.trained d p.val counts) : exec (.portTrainingResult d p (.pool counts rev pid inc famo mmx jrnl tick)) s =
      if rev = 0 then .next (s.setPort d p.val portFailed)
      else if s.otherPool pid then .next (s.attemptFails d p.val)
      else .next ((s.heardPool d pid inc famo mmx jrnl tick).portUp d p.val (trainedLanes counts) 0) :=
  (portTrainingResult_pool h role).trans (if_neg fun failed => State.not_trained_iff.2 failed ready)

theorem portTrainingResult_pool_revision0 (hs : s.calm) (h : s.portSt d p.val = 2) (role : bit (s.oport d p.val) 8 = false)
    (ready : s.trained d p.val counts) (none : rev = 0) :
    ∃ t, exec (.portTrainingResult d p (.pool counts rev pid inc famo mmx jrnl tick)) s = .next t ∧ s.enters t d p.val 6 :=
  ⟨_, (portTrainingResult_pool_trained h role ready).trans (if_pos none), State.enters_setPort p.isLt (by decide) hs fun _ _ _ => rfl⟩

theorem portTrainingResult_pool_other (hs : s.calm) (h : s.portSt d p.val = 2) (role : bit (s.oport d p.val) 8 = false)
    (ready : s.trained d p.val counts) (known : rev ≠ 0) (other : s.otherPool pid = true) :
    ∃ t, exec (.portTrainingResult d p (.pool counts rev pid inc famo mmx jrnl tick)) s = .next t ∧ s.failsAttempt t d p.val :=
  ⟨_, (portTrainingResult_pool_trained h role ready).trans ((if_neg known).trans (if_pos other)), State.failsAttempt_attemptFails hs h⟩

theorem State.readyFor_heardPool (hs : s.calm) (same : field (s.dieReg d 0x111) 32 32 = inc.toNat) :
    s.readyFor (s.heardPool d pid inc famo mmx jrnl tick) := by
  have started : field ((s.startFrames d).dieReg d 0x111) 32 32 = inc.toNat := by rwa [State.dieReg_startFrames]
  rw [State.heardPool, State.poolReport_known started]
  refine ⟨((hs.startFrames).setDieReg ..).setDieReg .., fun e q hq => ?_⟩
  rw [State.dieReg_setDieReg_ne (.inl (by omega)), State.dieReg_setDieReg_ne (.inl (by omega)), State.dieReg_startFrames]

theorem State.report_heardPool (same : field (s.dieReg d 0x111) 32 32 = inc.toNat) :
    (s.heardPool d pid inc famo mmx jrnl tick).dieReg d 0x111 = reportWord pid inc famo mmx jrnl := by
  have started : field ((s.startFrames d).dieReg d 0x111) 32 32 = inc.toNat := by rwa [State.dieReg_startFrames]
  rw [State.heardPool, State.poolReport_known started, State.dieReg_setDieReg_ne (.inl (by decide)), State.dieReg_setDieReg_same]

theorem State.tick_heardPool (same : field (s.dieReg d 0x111) 32 32 = inc.toNat) :
    field ((s.heardPool d pid inc famo mmx jrnl tick).dieReg d 0x113) 32 20 = tick % 2 ^ 20 := by
  have started : field ((s.startFrames d).dieReg d 0x111) 32 32 = inc.toNat := by rwa [State.dieReg_startFrames]
  rw [State.heardPool, State.poolReport_known started, State.dieReg_setDieReg_same, field_setField_same _ _ (by decide)]

theorem portTrainingResult_pool_up (hs : s.calm) (h : s.portSt d p.val = 2) (role : bit (s.oport d p.val) 8 = false)
    (ready : s.trained d p.val counts) (known : rev ≠ 0) (other : s.otherPool pid = false)
    (same : field (s.dieReg d 0x111) 32 32 = inc.toNat) :
    ∃ t, exec (.portTrainingResult d p (.pool counts rev pid inc famo mmx jrnl tick)) s = .next t ∧ s.enters t d p.val 3 ∧
      field (t.oport d p.val) 40 8 = trainedLanes counts ∧ field (t.dieReg d 0x111) 8 8 = pid.toNat ∧
      field (t.dieReg d 0x111) 32 32 = inc.toNat ∧ field (t.dieReg d 0x113) 32 20 = tick % 2 ^ 20 := by
  have heard : s.readyFor (s.heardPool d pid inc famo mmx jrnl tick) := State.readyFor_heardPool hs same
  have kept (n : Nat) (hn : packageScope n = false) (out : n < 0x120) :=
    State.dieReg_portUp (d := d) (p := p) heard.1 (trainedLanes counts) 0 d hn (.inl out)
  obtain ⟨pidField, incField⟩ := fields_reportWord pid inc famo mmx jrnl
  refine ⟨_, (portTrainingResult_pool_trained h role ready).trans ((if_neg known).trans (if_neg (by simp [other]))), State.enters_portUp heard ..,
    State.lanes_portUp heard.1 .., ?_, ?_, ?_⟩
  · rw [kept _ rfl (by decide), State.report_heardPool same, pidField]
  · rw [kept _ rfl (by decide), State.report_heardPool same, incField]
  · rw [kept _ rfl (by decide), State.tick_heardPool same]

end

/-! ## A circuit's far end (R137) -/

section
variable {s : State} {d : DieId} {p : Fin 16} {counts : List Nat} {peer nx ny nz : Nat} {far : Bool}

/-- An attempt at a circuit port has trained, and its far end is a package of the same domain (R137). -/
def State.trainedCircuit (s : State) (d : DieId) (p : Nat) (counts : List Nat) (nx ny nz : Nat) (far : Bool) : Prop :=
  s.attemptLate d p = false ∧ 6 ≤ popCount 8 (trainedLanes counts) ∧ far = false ∧ (s.coord d).nx = nx ∧ (s.coord d).ny = ny ∧
    (s.coord d).nz = nz

theorem portTrainingResult_circuit (h : s.portSt d p.val = 2) (role : bit (s.oport d p.val) 8 = true)
    [Decidable (s.trainedCircuit d p.val counts nx ny nz far)] :
    exec (.portTrainingResult d p (.circuit counts peer nx ny nz far)) s =
      .next (if s.trainedCircuit d p.val counts nx ny nz far then s.portUp d p.val (trainedLanes counts) peer else s.attemptFails d p.val) := by
  have test : (!true || s.attemptLate d p.val || decide (popCount 8 (trainedLanes counts) < 6) || far ||
      decide (nx ≠ (s.coord d).nx ∨ ny ≠ (s.coord d).ny ∨ nz ≠ (s.coord d).nz)) =
        decide (¬ s.trainedCircuit d p.val counts nx ny nz far) := by
    rw [Bool.eq_iff_iff]
    simp only [State.trainedCircuit, Bool.not_true, Bool.false_or, Bool.or_eq_true, decide_eq_true_eq, not_and_or, Bool.not_eq_false, not_le,
      ne_eq, @eq_comm _ nx, @eq_comm _ ny, @eq_comm _ nz, or_assoc]
  refine (if_neg (not_not.2 h)).trans ?_
  rw [role, test]
  by_cases ready : s.trainedCircuit d p.val counts nx ny nz far <;> simp [ready]

theorem portTrainingResult_circuit_untrained (hs : s.calm) (h : s.portSt d p.val = 2) (role : bit (s.oport d p.val) 8 = true)
    (failed : ¬ s.trainedCircuit d p.val counts nx ny nz far) :
    ∃ t, exec (.portTrainingResult d p (.circuit counts peer nx ny nz far)) s = .next t ∧ s.failsAttempt t d p.val := by
  classical
  exact ⟨_, (portTrainingResult_circuit h role).trans (congrArg Host.Outcome.next (if_neg failed)), State.failsAttempt_attemptFails hs h⟩

theorem portTrainingResult_circuit_up (hs : s.calm) (h : s.portSt d p.val = 2) (role : bit (s.oport d p.val) 8 = true)
    (ready : s.trainedCircuit d p.val counts nx ny nz far) :
    ∃ t, exec (.portTrainingResult d p (.circuit counts peer nx ny nz far)) s = .next t ∧ s.enters t d p.val 3 ∧
      field (t.oport d p.val) 40 8 = trainedLanes counts ∧ field (t.oport d p.val) 48 9 = peer % 512 := by
  classical
  exact ⟨_, (portTrainingResult_circuit h role).trans (congrArg Host.Outcome.next (if_pos ready)),
    State.enters_portUp ⟨hs, fun _ _ _ => rfl⟩ .., State.lanes_portUp hs .., State.peer_portUp hs ..⟩

end

end Sys2Proof.Machine

namespace Sys2Proof.Machine

/-! ## What the ends of requests leave as it is (R43, R45, R136) -/

/-- No operation is in flight in either state, and the registers below those of package scope are the same. -/
structure State.KeepsRegs (s t : State) : Prop where
  idle : t.ops = []
  reg : ∀ e n, n < 0x160 → t.dieReg e n = s.dieReg e n

/-- So are the generations of the pool tags. -/
structure State.KeepsGens (s t : State) : Prop extends s.KeepsRegs t where
  gens : ∀ e, (t.die e).pool.gens = (s.die e).pool.gens

theorem State.KeepsRegs.trans {s t u : State} (h : s.KeepsRegs t) (h' : t.KeepsRegs u) : s.KeepsRegs u :=
  ⟨h'.idle, fun e n hn => (h'.reg e n hn).trans (h.reg e n hn)⟩

namespace State.KeepsGens
variable {s t u : State} {d : DieId} {st : Status}

theorem refl (h : s.ops = []) : s.KeepsGens s := ⟨⟨h, fun _ _ _ => rfl⟩, fun _ => rfl⟩

theorem trans (h : s.KeepsGens t) (h' : t.KeepsGens u) : s.KeepsGens u :=
  ⟨h.toKeepsRegs.trans h'.toKeepsRegs, fun e => (h'.gens e).trans (h.gens e)⟩

theorem ite {c : Prop} [Decidable c] (ht : s.KeepsGens t) (hu : s.KeepsGens u) : s.KeepsGens (if c then t else u) := by
  split
  · exact ht
  · exact hu

theorem foldl {α : Type} {f : State → α → State} (hf : ∀ t a, s.KeepsGens t → s.KeepsGens (f t a)) (h : s.KeepsGens t) (l : List α) :
    s.KeepsGens (l.foldl f t) := by
  induction l generalizing t with
  | nil => exact h
  | cons a l ih => exact ih (hf t a h)

theorem setDie (h : s.KeepsGens t) {x : Die} (csr : x.csr = (t.die d).csr := by rfl)
    (gens : x.pool.gens = (t.die d).pool.gens := by rfl) :
    s.KeepsGens (t.setDie d x) := by
  refine h.trans ⟨⟨(State.ops_setDie ..).trans h.idle, fun e n _ => State.dieReg_setDie csr e n⟩, fun e => ?_⟩
  rw [State.die_setDie]
  split
  · next he => rw [he, gens]
  · rfl

theorem count (h : s.KeepsGens t) {n : Nat} (k : Nat) (hn : 0x160 ≤ n) : s.KeepsGens (t.count d n k) :=
  h.trans ⟨⟨(State.ops_count ..).trans h.idle, fun _ _ hm => State.dieReg_setDieReg_ne (.inl (by omega))⟩,
    fun _ => congrArg Pool.gens (State.die_pool_setDieReg ..)⟩

/-- A step that changes the operations alone finds none. -/
theorem mapOps (h : s.KeepsGens t) (f : Op → Op) : s.KeepsGens { t with ops := t.ops.map f } :=
  h.trans ⟨⟨by simp [h.idle], fun _ _ _ => rfl⟩, fun _ => rfl⟩

theorem setTask (h : s.KeepsGens t) (op k : Nat) (v : TaskState) : s.KeepsGens (t.setTask op k v) := h.mapOps _

theorem endTask (h : s.KeepsGens t) (op : Option (Nat × Nat)) : s.KeepsGens (t.endTask op st) := by
  unfold State.endTask
  split
  · exact h
  · exact h.setTask _ _ _

theorem dropSeq (h : s.KeepsGens t) (obj : Nat) : s.KeepsGens (t.dropSeq obj) :=
  (h.setDie (d := 0)).setDie (d := 1)

theorem setLease (h : s.KeepsGens t) (f : Nat) (l : Lease) : s.KeepsGens (t.setLease d f l) := by
  unfold State.setLease
  refine ite (count ?_ _ (by decide)) ?_ <;> exact ite (h.setDie.dropSeq _) h.setDie

theorem pumpFrom (h : s.KeepsGens t) (left rs : List PoolReq) : s.KeepsGens (State.pumpFrom d t left rs) := by
  induction rs generalizing t left with
  | nil => exact h.setDie
  | cons r rs ih =>
    unfold State.pumpFrom
    dsimp only
    split
    · exact (ih h _).ite (ih h.setDie _)
    · exact ih h _

theorem poolSend (h : s.KeepsGens t) (r : PoolReq) : s.KeepsGens (t.poolSend d r) :=
  (h.setDie (d := d)).pumpFrom _ _

/-- With no operation in flight none has put a page into DRAINING, so the release has no task to end. -/
theorem drained (h : s.KeepsGens t) (f : Nat) : s.KeepsGens (t.drained d f) := by
  have nobody (obj pidx : Nat) : t.drainer obj pidx = none := by simp [State.drainer, h.idle]
  unfold State.drained
  dsimp only
  rw [nobody]
  split
  · exact h
  split
  · exact h.setLease _ _
  · exact (h.poolSend _).setLease _ _
  · exact h

theorem loseLease (h : s.KeepsGens t) (f : Nat) : s.KeepsGens (t.loseLease d f st) := by
  have nobody (obj pidx : Nat) : t.drainer obj pidx = none := by simp [State.drainer, h.idle]
  unfold State.loseLease
  dsimp only
  rw [nobody]
  split
  · exact (h.setLease _ _).drained _
  · exact (h.setLease _ _).drained _
  · exact h

theorem fillFails (h : s.KeepsGens t) (r : PoolReq) : s.KeepsGens (t.fillFails d r st) := by
  unfold State.fillFails
  split
  · exact h.endTask _
  · exact ((h.mapOps _).setLease _ _).ite h

theorem lessPend (h : s.KeepsGens t) (f : Nat) (g : BitVec 8) : s.KeepsGens (t.lessPend d f g) := (h.setLease _ _).ite h

theorem dropUnsent (h : s.KeepsGens t) (r : PoolReq) : s.KeepsGens (t.dropUnsent d r st) :=
  foldl (fun _ _ h => (h.endTask _).lessPend _ _) h.setDie _

theorem endInFlight (h : s.KeepsGens t) (r : PoolReq) : s.KeepsGens (t.endInFlight d r st) :=
  foldl (fun _ _ h => h.endTask _) h.setDie _

theorem writeEnds (h : s.KeepsGens t) (r : PoolReq) : s.KeepsGens (t.writeEnds d r st) := by
  have ended := (h.endTask (st := st) r.op).lessPend (d := d) r.frame r.fgen
  unfold State.writeEnds
  dsimp only
  refine ended.ite ((ended.drained _).ite ?_)
  have dropped := (ended.dropUnsent (d := d) (st := if st = Status.timeout then Status.noLease else st) r).mapOps
  exact (((dropped _).ite ((dropped _).endInFlight _)).loseLease _).drained _

theorem requestEnds (h : s.KeepsGens t) (r : PoolReq) : s.KeepsGens (t.requestEnds d r st) := by
  unfold State.requestEnds
  split
  · exact h.fillFails r
  · exact h.fillFails r
  · exact h.writeEnds r
  · exact (h.loseLease _).ite h
  · exact h.endTask _
  · exact h.endTask _

theorem shutFrom (h : s.KeepsGens t) (fuel : Nat) : s.KeepsGens (State.shutFrom d fuel t) := by
  induction fuel generalizing t with
  | zero => exact h
  | succ fuel ih =>
    unfold State.shutFrom
    dsimp only
    split
    · exact h
    split
    · exact h
    · exact ih (h.setDie.requestEnds _)

theorem shut (h : s.KeepsGens t) : s.KeepsGens t.shut := foldl (fun _ _ h => h.shutFrom _) h _

theorem tryAll (h : s.KeepsGens t) : s.KeepsGens t.tryAll := by rwa [State.tryAll_idle h.idle]

theorem settlePool (h : s.KeepsGens t) : s.KeepsGens t.settlePool :=
  ((h.pumpFrom (d := 0) _ _).pumpFrom (d := 1) _ _).shut.tryAll.shut.tryAll

theorem oweReset (h : s.KeepsGens t) (op part : Nat) : s.KeepsGens (t.oweReset op part) := by
  unfold State.oweReset
  rw [h.idle]
  exact h

theorem partDone (h : s.KeepsGens t) (op part : Nat) : s.KeepsGens (t.partDone op part st) :=
  (h.ite (h.oweReset op part)).mapOps _

theorem complete (h : s.KeepsGens t) (tag : Nat) (bs : List Byte) : s.KeepsGens (t.complete d tag st bs) := by
  unfold State.complete
  split
  · exact h
  · have freed : s.KeepsGens (t.setDie d { t.die d with torus := (t.die d).torus.dropTag tag }) := h.setDie
    refine partDone (ite (count ?_ _ (by decide)) ?_) _ _ <;> exact (freed.mapOps _).ite freed

theorem tagTimesOut (h : s.KeepsGens t) (tag : Nat) : s.KeepsGens (t.tagTimesOut d tag) := by
  unfold State.tagTimesOut
  split
  · exact h
  · exact (h.complete tag []).setDie

theorem markPort (h : s.KeepsGens t) (p : Nat) (steps : Nat → Bool) (gone : Bool) : s.KeepsGens (t.markPort d p steps st gone) :=
  ⟨⟨h.idle, h.reg⟩, h.gens⟩

end State.KeepsGens

/-! ## Draining (R136) -/

section
variable {s : State} {d : DieId}

/-- A pool tag has ended, and its request has not yet: the generation has advanced, and the tag is free (R45). -/
def State.endTag (s : State) (d : DieId) (tag : Nat) : State :=
  let x := s.die d
  (s.setDie d { x with pool := { x.pool with
    gens := Sparse.set (fun _ => 0) x.pool.gens tag (Sparse.get (fun _ => (0 : BitVec 4)) x.pool.gens tag + 1) } }).dropReq d tag

theorem State.keepsRegs_endTag (h : s.ops = []) (tag : Nat) : s.KeepsRegs (s.endTag d tag) where
  idle := by simpa [State.endTag, State.dropReq] using h
  reg e n _ := (State.dieReg_setDie (by rfl) e n).trans (State.dieReg_setDie (by rfl) e n)

theorem State.gens_endTag (tag : Nat) : ((s.endTag d tag).die d).pool.gens =
    Sparse.set (fun _ => 0) (s.die d).pool.gens tag (Sparse.get (fun _ => 0) (s.die d).pool.gens tag + 1) := by
  simp [State.endTag, State.dropReq]

theorem State.keepsGens_poolTimeout (h : s.ops = []) {tag : Nat} (used : ∃ e ∈ (s.die d).pool.reqs, e.1 = tag) :
    (s.endTag d tag).KeepsGens (s.poolTimeout d tag) := by
  obtain ⟨e, he, rfl⟩ := used
  obtain ⟨⟨k, r⟩, hr⟩ := Option.isSome_iff_exists.1
    (List.find?_isSome (p := fun x : Nat × PoolReq => decide (x.1 = e.1)).2 ⟨e, he, by simp⟩)
  have started := State.KeepsGens.refl (State.keepsRegs_endTag (d := d) h e.1).idle
  unfold State.poolTimeout
  dsimp only
  rw [hr]
  exact started.requestEnds r

theorem State.keepsRegs_poolTimeout (h : s.ops = []) (tag : Nat) : s.KeepsRegs (s.poolTimeout d tag) := by
  by_cases used : ∃ e ∈ (s.die d).pool.reqs, e.1 = tag
  · exact (State.keepsRegs_endTag h tag).trans (State.keepsGens_poolTimeout h used).toKeepsRegs
  · have free : (s.die d).pool.reqs.find? (fun e => decide (e.1 = tag)) = none :=
      List.find?_eq_none.2 fun e he => by simpa using fun here => used ⟨e, he, here⟩
    rw [State.poolTimeout, free]
    exact (State.KeepsGens.refl h).toKeepsRegs

theorem State.keepsRegs_poolTimeouts (h : s.ops = []) (l : List (DieId × Nat)) :
    s.KeepsRegs (l.foldl (fun s e => s.poolTimeout e.1 e.2) s) := by
  induction l generalizing s with
  | nil => exact (State.KeepsGens.refl h).toKeepsRegs
  | cons e l ih =>
    have first := State.keepsRegs_poolTimeout (d := e.1) h e.2
    exact first.trans (ih first.idle)

/-- An outstanding tag of a port is in use at its die. -/
theorem State.used_of_mem_portPoolTags {p : Nat} {e : DieId × Nat} (h : e ∈ s.portPoolTags d p) : ∃ r ∈ (s.die e.1).pool.reqs, r.1 = e.2 := by
  simp only [State.portPoolTags, List.mem_flatMap, List.mem_filterMap, Option.ite_none_right_eq_some, Option.some.injEq] at h
  obtain ⟨x, -, r, hr, -, rfl⟩ := h
  exact ⟨r, hr, rfl⟩

/-- The requests of a port have timed out, those of the pool and then those of circuits, and the circuit changes that wait for it know. -/
def State.drainExpired (s : State) (d : DieId) (p : Nat) : State :=
  let t := (s.portPoolTags d p).foldl (fun s e => s.poolTimeout e.1 e.2) s
  ((t.portCircuitTags d p).foldl (fun s e => s.tagTimesOut d e) t).markPort d p (· == 1) Status.timeout false

theorem State.keepsGens_drainExpired (h : s.ops = []) (p : Nat) :
    ((s.portPoolTags d p).foldl (fun s e => s.poolTimeout e.1 e.2) s).KeepsGens (s.drainExpired d p) :=
  (State.KeepsGens.foldl (fun _ _ ht => ht.tagTimesOut _) (.refl (State.keepsRegs_poolTimeouts h _).idle) _).markPort _ _ _

theorem State.keepsRegs_drainExpired (h : s.ops = []) (p : Nat) : s.KeepsRegs (s.drainExpired d p) :=
  (State.keepsRegs_poolTimeouts h _).trans (State.keepsGens_drainExpired h p).toKeepsRegs

variable {p : Fin 16}

/-- Where no operation is in flight, a port enters a state though requests wait. -/
theorem State.portSt_setPort_idle {u : State} (h : u.ops = []) {st : Nat} (hst : st < 16) : (u.setPort d p.val st).portSt d p.val = st := by
  have settled := (State.KeepsGens.refl ((u.ops_turnPort d p.val st).trans h)).settlePool
  rw [State.setPort_eq, State.portSt, State.oport, settled.reg d _ (by omega), State.dieReg_turnPort u d st p.isLt d (packageScope_port p.isLt),
    if_pos ⟨rfl, rfl⟩, field_setField_same _ _ (by decide)]
  exact Nat.mod_eq_of_lt hst

theorem State.gens_setPort_idle {u : State} (h : u.ops = []) (st : Nat) (e : DieId) :
    ((u.setPort d p.val st).die e).pool.gens = (u.die e).pool.gens := by
  have settled := (State.KeepsGens.refl ((u.ops_turnPort d p.val st).trans h)).settlePool
  rw [State.setPort_eq, settled.gens e, State.die_pool_turnPort]

theorem portDrainComplete_drained (hs : s.calm) (h : s.portSt d p.val = 4) (pool : s.portPoolTags d p.val = [])
    (circuit : s.portCircuitTags d p.val = []) : ∃ t, exec (.portDrainComplete d p) s = .next t ∧ s.enters t d p.val 1 :=
  ⟨_, if_pos ⟨h, pool, circuit⟩, State.enters_setPort p.isLt (by decide) hs fun _ _ _ => rfl⟩

/-- A drain has outstanding requests, and its time is over (R136). -/
def State.drainOverdue (s : State) (d : DieId) (p : Nat) : Prop :=
  s.portSt d p = 4 ∧ (s.portPoolTags d p ≠ [] ∨ s.portCircuitTags d p ≠ []) ∧
    (s.portRun d p).since + 2 ^ field (s.dieReg d 0x11A) 8 6 ≤ s.cycle

theorem portDrainTimeout_early (h : ¬ s.drainOverdue d p.val) : exec (.portDrainTimeout d p) s = .next s := if_neg h

theorem portDrainTimeout_overdue (hs : s.calm) (h : s.drainOverdue d p.val) : ∃ t, exec (.portDrainTimeout d p) s = .next t ∧
    t.portSt d p.val = 1 ∧ ∀ x tag, s.portPoolTags d p.val = [(x, tag)] →
      Sparse.get (fun _ => 0) (t.die x).pool.gens tag = Sparse.get (fun _ => 0) (s.die x).pool.gens tag + 1 := by
  have expired := State.keepsRegs_drainExpired (d := d) hs.1 p.val
  refine ⟨(s.drainExpired d p.val).setPort d p.val portGated, if_pos h, State.portSt_setPort_idle expired.idle (by decide), fun x tag only => ?_⟩
  have used : ∃ r ∈ (s.die x).pool.reqs, r.1 = tag :=
    State.used_of_mem_portPoolTags (d := d) (p := p.val) (e := (x, tag)) (only ▸ List.mem_singleton_self _)
  have kept := State.keepsGens_drainExpired (d := d) hs.1 p.val
  rw [only, List.foldl_cons, List.foldl_nil] at kept
  rw [State.gens_setPort_idle expired.idle, kept.gens, (State.keepsGens_poolTimeout hs.1 used).gens, State.gens_endTag]
  exact Sparse.get_set_same

end

end Sys2Proof.Machine

namespace Sys2Proof.Machine

/-! ## The lane check (R144) -/

section
variable {s : State} {d : DieId} {p : Fin 16} {counts : List Nat}

/-- A latch of the port is in progress (R144, R145). -/
def State.latches (s : State) (d : DieId) (p : Nat) : Prop :=
  ∃ l, (s.die d).optical.latches.find? (fun l => l.result.isNone) = some l ∧ l.port = p

/-- The lanes in use that have corrected more than 2^14 symbols (R144). -/
def State.badLanes (s : State) (d : DieId) (p : Nat) (counts : List Nat) : List Nat :=
  (List.range 8).filter fun i => bit (s.oport d p) (40 + i) && decide (2 ^ 14 < counts.getD i 0)

/-- The lanes that a check leaves in use. -/
def State.goodLanes (s : State) (d : DieId) (p : Nat) (counts : List Nat) : Nat :=
  (s.badLanes d p counts).foldl (fun l i => l - 2 ^ i) (field (s.oport d p) 40 8)

/-- A lane check is to be made: the port is ACTIVE, the period has passed and no latch is in progress. -/
def State.laneCheckDue (s : State) (d : DieId) (p : Nat) : Prop :=
  s.portSt d p = 3 ∧ (s.portRun d p).since + 2 ^ 24 ≤ s.cycle ∧ ¬ s.latches d p

/-- The port's bad lanes are out of use, `rgen` has counted them, and the next period begins. -/
def State.remapped (s : State) (d : DieId) (p : Nat) (counts : List Nat) : State :=
  (s.setDieReg d (0x120 + p) (setField (setField (s.oport d p) 40 8 (s.goodLanes d p counts)) 32 8
    (field (s.oport d p) 32 8 + (s.badLanes d p counts).length))).setPortRun d p ⟨0, s.cycle, 1, 0⟩

theorem State.testBit_goodLanes {i : Nat} (hi : i < 8) :
    (s.goodLanes d p.val counts).testBit i = (bit (s.oport d p.val) (40 + i) && decide (i ∉ s.badLanes d p.val counts)) := by
  have used (i : Nat) (hi : i < 8) : (field (s.oport d p.val) 40 8).testBit i = bit (s.oport d p.val) (40 + i) := by
    rw [testBit_field, decide_eq_true hi, Bool.true_and, bit]
  have bad : ∀ i ∈ s.badLanes d p.val counts, (field (s.oport d p.val) 40 8).testBit i = true := fun i h => by
    obtain ⟨range, on⟩ := List.mem_filter.1 h
    rw [used i (List.mem_range.1 range)]
    exact (Bool.and_eq_true_iff.1 on).1
  have distinct : (s.badLanes d p.val counts).Nodup := List.nodup_range.filter _
  rw [State.goodLanes, testBit_foldl_sub_two_pow distinct bad, used i hi]

theorem State.goodLanes_lt : s.goodLanes d p.val counts < 2 ^ 8 := lt_of_le_of_lt (foldl_sub_two_pow_le ..) (field_lt ..)

theorem State.oport_remapped : (s.remapped d p.val counts).oport d p.val =
    setField (setField (s.oport d p.val) 40 8 (s.goodLanes d p.val counts)) 32 8
      (field (s.oport d p.val) 32 8 + (s.badLanes d p.val counts).length) := by
  rw [State.oport, State.remapped, State.dieReg_setPortRun, State.dieReg_setDieReg_same]

theorem State.calm.remapped (hs : s.calm) : (s.remapped d p.val counts).calm := (hs.setDieReg ..).setPortRun

theorem laneCheck_idle (h : ¬ s.laneCheckDue d p.val) : exec (.laneCheck d p counts) s = .next s := by
  rw [exec_laneCheck, execLaneCheck, if_pos]
  by_contra due
  simp only [not_or, not_not, not_lt] at due
  obtain ⟨active, period, free⟩ := due
  refine h ⟨active, period, ?_⟩
  rintro ⟨l, hl, port⟩
  rw [hl] at free
  exact free (beq_iff_eq.2 port)

theorem laneCheck_due (h : s.laneCheckDue d p.val) : exec (.laneCheck d p counts) s = .next
    (if popCount 8 (s.goodLanes d p.val counts) < 6 then (s.remapped d p.val counts).setPort d p.val portFailed else s.remapped d p.val counts) := by
  obtain ⟨active, period, free⟩ := h
  rw [exec_laneCheck, execLaneCheck, if_neg]
  · rfl
  rintro (other | early | latching)
  · exact other active
  · omega
  · cases found : (s.die d).optical.latches.find? (fun l => l.result.isNone) with
    | none => rw [found] at latching; cases latching
    | some l =>
      rw [found] at latching
      exact free ⟨l, found, beq_iff_eq.1 latching⟩

/-- The fields of a port's register beside its state, after a lane check. -/
theorem State.fields_remapped {w : Word} (h : w = (s.remapped d p.val counts).oport d p.val ∨
      ∃ st, w = setField ((s.remapped d p.val counts).oport d p.val) 20 4 st) :
    (∀ i, i < 8 → bit w (40 + i) = (bit (s.oport d p.val) (40 + i) && decide (i ∉ s.badLanes d p.val counts))) ∧
      field w 40 8 = s.goodLanes d p.val counts ∧ field w 32 8 = (field (s.oport d p.val) 32 8 + (s.badLanes d p.val counts).length) % 256 := by
  have lanes : field w 40 8 = s.goodLanes d p.val counts := by
    have written : field ((s.remapped d p.val counts).oport d p.val) 40 8 = s.goodLanes d p.val counts := by
      rw [State.oport_remapped, field_setField_of_disjoint _ _ (.inr (by decide)), field_setField_same _ _ (by decide)]
      exact Nat.mod_eq_of_lt State.goodLanes_lt
    obtain rfl | ⟨st, rfl⟩ := h
    · exact written
    · rwa [field_setField_of_disjoint _ _ (.inr (by decide))]
  have rgen : field ((s.remapped d p.val counts).oport d p.val) 32 8 =
      (field (s.oport d p.val) 32 8 + (s.badLanes d p.val counts).length) % 256 := by
    rw [State.oport_remapped, field_setField_same _ _ (by decide)]
    rfl
  refine ⟨fun i hi => ?_, lanes, ?_⟩
  · have same : bit w (40 + i) = (field w 40 8).testBit i := by rw [testBit_field, decide_eq_true hi, Bool.true_and, bit]
    rw [same, lanes, State.testBit_goodLanes hi]
  · obtain rfl | ⟨st, rfl⟩ := h
    · exact rgen
    · rwa [field_setField_of_disjoint _ _ (.inr (by decide))]

theorem laneCheck_remaps (hs : s.calm) (h : s.laneCheckDue d p.val) : ∃ t, exec (.laneCheck d p counts) s = .next t ∧
    (∀ i, i < 8 → bit (t.oport d p.val) (40 + i) = (bit (s.oport d p.val) (40 + i) && decide (i ∉ s.badLanes d p.val counts))) ∧
    field (t.oport d p.val) 32 8 = (field (s.oport d p.val) 32 8 + (s.badLanes d p.val counts).length) % 256 ∧
    t.portSt d p.val = if popCount 8 (field (t.oport d p.val) 40 8) < 6 then 6 else 3 := by
  refine ⟨_, laneCheck_due h, ?_⟩
  have calm : (s.remapped d p.val counts).calm := hs.remapped
  by_cases few : popCount 8 (s.goodLanes d p.val counts) < 6
  · have reg : ((s.remapped d p.val counts).setPort d p.val portFailed).oport d p.val =
        setField ((s.remapped d p.val counts).oport d p.val) 20 4 6 := by
      rw [State.oport_setPort _ p.isLt calm d p.isLt, if_pos ⟨rfl, rfl⟩]
      rfl
    obtain ⟨bits, lanes, rgen⟩ := State.fields_remapped (.inr ⟨6, reg⟩)
    rw [if_pos few]
    refine ⟨bits, rgen, ?_⟩
    rw [lanes, if_pos few, State.portSt_setPort _ p.isLt calm (by decide) d p.isLt, if_pos ⟨rfl, rfl⟩]
    rfl
  · obtain ⟨bits, lanes, rgen⟩ := State.fields_remapped (s := s) (d := d) (p := p) (counts := counts) (.inl rfl)
    have active : (s.remapped d p.val counts).portSt d p.val = s.portSt d p.val := by
      rw [State.portSt, State.oport_remapped, field_setField_of_disjoint _ _ (.inl (by decide)), field_setField_of_disjoint _ _ (.inl (by decide))]
      rfl
    rw [if_neg few]
    refine ⟨bits, rgen, ?_⟩
    rw [lanes, if_neg few, active, h.1]

end

/-! ## Telemetry (R145) -/

section
variable {s : State} {d : DieId} {v : Word}

/-- Replace the latches requested of a die. -/
def State.setLatches (s : State) (d : DieId) (l : List LatchReq) : State :=
  s.setDie d { s.die d with optical := { (s.die d).optical with latches := l } }

theorem State.latches_setLatches (l : List LatchReq) : ((s.setLatches d l).die d).optical.latches = l := by
  rw [State.setLatches, State.die_setDie_same]

theorem State.dieReg_setLatches (l : List LatchReq) (e : DieId) (n : Nat) : (s.setLatches d l).dieReg e n = s.dieReg e n :=
  State.dieReg_setDie (by rfl) e n

theorem tsnapWrite_latches (go : bit v 63 = true) : ∃ t, exec (.tsnapWrite d v) s = .next t ∧ bit (t.dieReg d 0x11C) 63 = true ∧
    field (t.dieReg d 0x11C) 0 4 = field v 0 4 ∧ (t.die d).optical.latches = (s.die d).optical.latches ++ [⟨field v 0 4, none, none⟩] := by
  let u := s.setDieReg d 0x11C (setBit (setField (s.dieReg d 0x11C) 0 4 (field v 0 4)) 63 (bit v 63 || bit (s.dieReg d 0x11C) 63))
  refine ⟨u.setLatches d ((u.die d).optical.latches ++ [⟨field v 0 4, none, none⟩]), ?_, ?_, ?_, ?_⟩
  · rw [exec_tsnapWrite, execTsnapWrite, if_neg (by simp [go])]
    rfl
  · rw [State.dieReg_setLatches, State.dieReg_setDieReg_same, bit_setBit_same _ _ (by decide), go]
    rfl
  · rw [State.dieReg_setLatches, State.dieReg_setDieReg_same, setBit, field_setField_of_disjoint _ _ (.inl (by decide)),
      field_setField_same _ _ (by decide)]
    exact Nat.mod_eq_of_lt (field_lt ..)
  · rw [State.latches_setLatches, State.die_optical_setDieReg]

/-- What a lane's reading is recorded as. -/
def laneWord (w : Word) (lanes : List LaneReading) (i : Nat) : Word :=
  let r := lanes.getD i ⟨0, 0, 0⟩
  BitVec.ofNat 64 (ofBool (!bit w (40 + i)) * 2 ^ 56 + r.rxp.toNat * 2 ^ 40 + r.temp.toNat * 2 ^ 32 + r.cerr.toNat)

theorem fields_laneWord (w : Word) (lanes : List LaneReading) (i : Nat) :
    field (laneWord w lanes i) 0 32 = (lanes.getD i ⟨0, 0, 0⟩).cerr.toNat ∧
      field (laneWord w lanes i) 40 16 = (lanes.getD i ⟨0, 0, 0⟩).rxp.toNat := by
  have cerr := (lanes.getD i ⟨0, 0, 0⟩).cerr.isLt
  have rxp := (lanes.getD i ⟨0, 0, 0⟩).rxp.isLt
  have temp := (lanes.getD i ⟨0, 0, 0⟩).temp.isLt
  unfold laneWord
  dsimp only
  constructor
  · rw [field_ofNat _ (by decide)]; omega
  · rw [field_ofNat _ (by decide)]; omega

/-- The value of `tsnap` after a latch. -/
def snapWord (go : Bool) (rgen port : Nat) : Word := BitVec.ofNat 64 (ofBool go * 2 ^ 63 + rgen * 2 ^ 8 + port)

theorem fields_snapWord (go : Bool) {rgen port : Nat} (hr : rgen < 2 ^ 8) (hp : port < 16) :
    field (snapWord go rgen port) 0 4 = port ∧ field (snapWord go rgen port) 8 8 = rgen := by
  unfold snapWord
  constructor
  · rw [field_ofNat _ (by decide)]; omega
  · rw [field_ofNat _ (by decide)]; omega

/-- `tsnap` after the oldest latch, l, has been made. -/
def State.snap (s : State) (d : DieId) (l : LatchReq) : Word :=
  snapWord (((s.die d).optical.latches.erase l).any fun r => r.result.isNone && r.stream.isNone) (field (s.oport d l.port) 32 8) l.port

/-- The latches of a die after its oldest one, l, has been made. -/
def State.latched (s : State) (d : DieId) (l : LatchReq) : List LatchReq :=
  if l.stream.isSome then (s.die d).optical.latches.erase l ++ [{ l with result := some (s.snap d l) }] else (s.die d).optical.latches.erase l

theorem State.optical_foldl_setDieReg (k : Nat) (w : Nat → Word) (l : List Nat) (s : State) :
    ((l.foldl (fun s i => s.setDieReg d (k + i) (w i)) s).die d).optical = (s.die d).optical := by
  induction l generalizing s with
  | nil => rfl
  | cons i l ih => rw [List.foldl_cons, ih, State.die_optical_setDieReg]

theorem latch_oldest {l : LatchReq} {lanes : List LaneReading} (h : (s.die d).optical.latches.find? (fun l => l.result.isNone) = some l) :
    ∃ t, exec (.latch d lanes) s = .next t ∧ t.dieReg d 0x11C = s.snap d l ∧ (t.die d).optical.latches = s.latched d l ∧
      ∀ i, i < 8 → t.dieReg d (0x138 + i) = laneWord (s.oport d l.port) lanes i := by
  refine ⟨(List.range 8).foldl (fun t i => t.setDieReg d (0x138 + i) (laneWord (s.oport d l.port) lanes i))
    ((s.setLatches d (s.latched d l)).setDieReg d 0x11C (s.snap d l)), ?_, ?_, ?_, fun i hi => ?_⟩
  · rw [exec_latch, execLatch, h]
    rfl
  · rw [State.dieReg_foldl_setDieReg, if_neg (by omega), State.dieReg_setDieReg_same]
  · rw [State.optical_foldl_setDieReg, State.die_optical_setDieReg, State.latches_setLatches]
  · have lane : 0x138 ≤ 0x138 + i ∧ 0x138 + i - 0x138 ∈ List.range 8 := ⟨by omega, List.mem_range.2 (by omega)⟩
    rw [State.dieReg_foldl_setDieReg, if_pos lane, Nat.add_sub_cancel_left]

theorem oswackWrite_reserved (h : field v 0 2 = 3) : exec (.oswackWrite d v) s = .next s := if_pos h

theorem oswackWrite_stores (h : field v 0 2 ≠ 3) : ∃ t, exec (.oswackWrite d v) s = .next t ∧ (t.dieReg d 0x11B).toNat = field v 0 2 := by
  refine ⟨_, if_neg h, ?_⟩
  have small : field v 0 2 < 2 ^ 2 := field_lt ..
  rw [State.dieReg_setDieReg_same, BitVec.toNat_ofNat]
  omega

end

/-! ## The time-out of a switch request (R141) -/

theorem switchRequestTimeout_ends {s : State} {q since : Nat} {r : StepRun} {x : Status} {ports : List (DieId × Nat)}
    (run : (s.queue q).run = some r) (nodes : r.nodes = [.circuit 2 since x none ports])
    (due : since + 2 ^ field (s.dieReg (queueDie q) 0x11A) 8 6 ≤ s.cycle) (silent : field (s.dieReg (queueDie q) 0x11B) 0 2 = 0) :
    ∃ t, exec (.switchRequestTimeout q) s = .next t ∧ t.node q 0 = some (.ended (firstBad x Status.timeout)) := by
  have waiting : s.node q 0 = some (.circuit 2 since x none ports) := by simp [State.node, run, nodes]
  refine ⟨s.endNode q 0 (firstBad x Status.timeout), ?_, State.node_setNode_same _ waiting⟩
  rw [exec_switchRequestTimeout, execSwitchRequestTimeout, run]
  dsimp only
  rw [nodes]
  exact congrArg Host.Outcome.next (if_pos ⟨due, silent⟩)

end Sys2Proof.Machine

namespace Sys2Proof.Machine

/-! ## A settlement of the governor (R146, R147) -/

section
variable {need : Nat → Nat → Nat}

/-- What a settlement has granted a bidder so far. -/
def granted (g : Sparse Nat) (b : Nat) : Nat := Sparse.get (fun _ => 0) g b

/-- What a bidder takes of the tokens left. -/
def taken (need : Nat → Nat → Nat) (g : Sparse Nat) (a b : Nat) : Nat := min (need b (granted g b)) a

theorem settlePass_cons (b : Nat) (l : List Nat) (a : Nat) (g : Sparse Nat) : settlePass need (b :: l) a g =
    settlePass need l (a - taken need g a b) (Sparse.set (fun _ => 0) g b (granted g b + taken need g a b)) := rfl

theorem granted_set (g : Sparse Nat) (b x c : Nat) :
    granted (Sparse.set (fun _ => 0) g b (granted g b + x)) c = granted g c + if c = b then x else 0 := by
  rw [granted, Sparse.get_set]
  split
  · next e => rw [e]
  · rfl

/-- The tokens left and those granted are together what they were. -/
theorem settlePass_total {n : Nat} (l : List Nat) (hl : ∀ b ∈ l, b < n) (a : Nat) (g : Sparse Nat) :
    (settlePass need l a g).1 + ∑ b ∈ Finset.range n, granted (settlePass need l a g).2 b = a + ∑ b ∈ Finset.range n, granted g b := by
  induction l generalizing a g with
  | nil => rfl
  | cons b l ih =>
    have hb : b ∈ Finset.range n := Finset.mem_range.2 (hl b List.mem_cons_self)
    have enough : taken need g a b ≤ a := min_le_right ..
    rw [settlePass_cons, ih fun c hc => hl c (List.mem_cons_of_mem b hc)]
    simp only [granted_set, Finset.sum_add_distrib, Finset.sum_ite_eq', hb, if_true]
    omega

/-- In a pass that comes to each bidder at most once, none is granted more than it needs. -/
theorem granted_settlePass_le {l : List Nat} (hl : l.Nodup) (a : Nat) (g : Sparse Nat) (b : Nat) :
    granted (settlePass need l a g).2 b ≤ granted g b + if b ∈ l then need b (granted g b) else 0 := by
  induction l generalizing a g with
  | nil => exact Nat.le_add_right ..
  | cons c l ih =>
    obtain ⟨hc, hl⟩ := List.nodup_cons.1 hl
    have later := ih hl (a - taken need g a c) (Sparse.set (fun _ => 0) g c (granted g c + taken need g a c))
    have part : taken need g a c ≤ need c (granted g c) := min_le_left ..
    rw [settlePass_cons]
    rw [granted_set] at later
    by_cases e : b = c
    · subst e
      simp only [hc, if_true, if_false, List.mem_cons_self] at later ⊢
      omega
    · simpa [e] using later

end

theorem nodup_bidOrder (prio : Nat → Nat) : (bidOrder prio).Nodup := by
  refine List.nodup_flatMap.2 ⟨fun p _ => List.nodup_range.filter _, ?_⟩
  refine List.Pairwise.imp (R := (· ≠ ·)) (fun {p q} hne => ?_) (by decide)
  refine List.disjoint_left.2 fun b hp hq => hne ?_
  rw [← beq_iff_eq.1 (List.mem_filter.1 hp).2, beq_iff_eq.1 (List.mem_filter.1 hq).2]

theorem lt_of_mem_bidOrder {prio : Nat → Nat} {b : Nat} (h : b ∈ bidOrder prio) : b < 10 := by
  obtain ⟨p, -, hb⟩ := List.mem_flatMap.1 h
  exact List.mem_range.1 (List.mem_filter.1 hb).1

section
variable (s : State) (fixedDraw : Nat) (bids : List Bid)

/-- A bidder has a floor: it is no laser module, or a port that its module feeds is TRAINING, ACTIVE or DRAINING (R146). -/
def State.bidderBusy (b : Nat) : Bool :=
  match bidderModule b with
  | none => true
  | some (d, m) => s.moduleBusy d m

/-- The floor of a bidder. -/
def State.bidFloor (b : Nat) : Nat := if s.bidderBusy b then min ((bids.getD b ⟨0, 0⟩).floor) 65535 else 0

/-- What a bidder wants. -/
def State.bidWant (b : Nat) : Nat := min (field (s.dieReg 0 (0x170 + b)) 32 16) ((bids.getD b ⟨0, 0⟩).top)

/-- The pass of the floors. -/
def State.floorsSettled : Nat × Sparse Nat :=
  settlePass (fun b _ => s.bidFloor bids b) floorOrder (field (s.dieReg 0 0x160) 0 16 - fixedDraw) []

/-- The grants of a settlement. -/
def State.settled : Sparse Nat :=
  (settlePass (fun b h => max (s.bidWant bids b) (s.bidFloor bids b) - h) (bidOrder fun b => field (s.dieReg 0 (0x170 + b)) 0 3)
    (s.floorsSettled fixedDraw bids).1 (s.floorsSettled fixedDraw bids).2).2

theorem State.sum_settled_le : ∑ b ∈ Finset.range 10, granted (s.settled fixedDraw bids) b ≤ field (s.dieReg 0 0x160) 0 16 - fixedDraw := by
  have floors := settlePass_total (need := fun b _ => s.bidFloor bids b) (n := 10) floorOrder (by decide)
    (field (s.dieReg 0 0x160) 0 16 - fixedDraw) []
  have wants := settlePass_total (need := fun b h => max (s.bidWant bids b) (s.bidFloor bids b) - h) (n := 10)
    (bidOrder fun b => field (s.dieReg 0 (0x170 + b)) 0 3) (fun _ => lt_of_mem_bidOrder) (s.floorsSettled fixedDraw bids).1
    (s.floorsSettled fixedDraw bids).2
  have nothing : ∑ b ∈ Finset.range 10, granted [] b = 0 := Finset.sum_eq_zero fun _ _ => rfl
  rw [nothing] at floors
  unfold State.settled
  unfold State.floorsSettled at wants ⊢
  omega

theorem State.granted_settled_le (b : Nat) : granted (s.settled fixedDraw bids) b ≤ max (s.bidWant bids b) (s.bidFloor bids b) := by
  have first := granted_settlePass_le (need := fun b _ => s.bidFloor bids b) (l := floorOrder) (by decide)
    (field (s.dieReg 0 0x160) 0 16 - fixedDraw) [] b
  have floor : granted (s.floorsSettled fixedDraw bids).2 b ≤ s.bidFloor bids b := by
    refine first.trans ?_
    split <;> simp [granted]
  have second := granted_settlePass_le (need := fun b h => max (s.bidWant bids b) (s.bidFloor bids b) - h)
    (nodup_bidOrder fun b => field (s.dieReg 0 (0x170 + b)) 0 3) (s.floorsSettled fixedDraw bids).1 (s.floorsSettled fixedDraw bids).2 b
  refine second.trans ?_
  have bound : s.bidFloor bids b ≤ max (s.bidWant bids b) (s.bidFloor bids b) := le_max_right ..
  split <;> omega

theorem State.bidFloor_le (b : Nat) : s.bidFloor bids b ≤ min ((bids.getD b ⟨0, 0⟩).floor) 65535 := by
  unfold State.bidFloor
  split
  · exact le_rfl
  · exact Nat.zero_le _

theorem State.granted_settled_lt (b : Nat) : granted (s.settled fixedDraw bids) b < 2 ^ 16 := by
  have bound := s.granted_settled_le fixedDraw bids b
  have want : s.bidWant bids b < 2 ^ 16 := lt_of_le_of_lt (min_le_left ..) (field_lt ..)
  have floor := s.bidFloor_le bids b
  omega

/-- The registers of the bidders have their floors and grants. -/
def State.granting : State :=
  (List.range 10).foldl (fun t b => t.setDieReg 0 (0x170 + b) (setField (setField (s.dieReg 0 (0x170 + b)) 16 16 (s.bidFloor bids b)) 48 16
    (granted (s.settled fixedDraw bids) b))) s

/-- The bidders that were granted less than their floors. -/
def State.shortBidders : List Nat := (List.range 10).filter fun b => decide (granted (s.settled fixedDraw bids) b < s.bidFloor bids b)

/-- The ports of a laser module that is short of its floor are drained (R147). -/
def State.drainBidder (s : State) (b : Nat) : State :=
  match bidderModule b with
  | none => s
  | some (d, m) => (List.range 4).foldl (fun s i => s.portDrain d (4 * m + i)) s

/-- The bidders below their floors are counted, and their ports drained. -/
def State.shortDrained : State :=
  let t := s.granting fixedDraw bids
  let short := s.shortBidders fixedDraw bids
  short.foldl State.drainBidder (if short.isEmpty then t else t.count 0 0x162 short.length)

theorem governorSettle_due (h : s.settleDue = true) : exec (.governorSettle fixedDraw bids) s = .next
    { s.shortDrained fixedDraw bids with
      sys := { (s.shortDrained fixedDraw bids).sys with settled := ((s.shortDrained fixedDraw bids).dieReg 0 0x114).toNat } } := by
  rw [exec_governorSettle, execGovernorSettle, if_neg (by simp [h])]
  rfl

theorem governorSettle_early (h : s.settleDue = false) : exec (.governorSettle fixedDraw bids) s = .next s := by
  rw [exec_governorSettle, execGovernorSettle, if_pos (by simp [h])]

variable {s} (hs : s.calm)
include hs

theorem State.keepsGrants_drainBidder {b : Nat} (hb : b < 10) : s.KeepsGrants (s.drainBidder b) := by
  have drains (d : DieId) (m : Nat) (hm : m < 4) : s.KeepsGrants ((List.range 4).foldl (fun s i => s.portDrain d (4 * m + i)) s) :=
    State.KeepsGrants.foldl (fun s i hi hs => State.keepsGrants_portDrain hs (by have := List.mem_range.1 hi; omega)) hs
  unfold State.drainBidder bidderModule
  split_ifs
  · exact .refl hs
  · exact drains 0 _ (by omega)
  · exact drains 1 _ (by omega)

theorem State.calm.granting : (s.granting fixedDraw bids).calm := State.calm.foldl (fun _ _ h => h.setDieReg ..) hs _

omit hs in
theorem State.grant_granting {b : Nat} (hb : b < 10) : (s.granting fixedDraw bids).grant b = granted (s.settled fixedDraw bids) b := by
  have listed : 0x170 ≤ 0x170 + b ∧ 0x170 + b - 0x170 ∈ List.range 10 := ⟨by omega, List.mem_range.2 (by omega)⟩
  rw [State.grant, State.granting, State.dieReg_foldl_setDieReg, if_pos listed, Nat.add_sub_cancel_left, field_setField_same _ _ (by decide)]
  exact Nat.mod_eq_of_lt (s.granted_settled_lt fixedDraw bids b)

omit hs in
theorem State.ltime_granting : (s.granting fixedDraw bids).dieReg 0 0x114 = s.dieReg 0 0x114 := by
  rw [State.granting, State.dieReg_foldl_setDieReg, if_neg (by omega)]

theorem State.keepsGrants_shortDrained : (s.granting fixedDraw bids).KeepsGrants (s.shortDrained fixedDraw bids) := by
  have calm := hs.granting fixedDraw bids
  have counted (k : Nat) : (s.granting fixedDraw bids).KeepsGrants ((s.granting fixedDraw bids).count 0 0x162 k) := by
    refine ⟨calm.setDieReg .., fun e n hn _ => State.dieReg_setDieReg_ne (.inl ?_), fun b => ?_⟩
    · rintro rfl; cases hn
    · exact congrArg (field · 48 16) (State.dieReg_setDieReg_ne (.inl (by omega)))
  have noted := (State.KeepsGrants.refl calm).ite (counted (s.shortBidders fixedDraw bids).length)
    (c := (s.shortBidders fixedDraw bids).isEmpty = true)
  exact noted.trans (State.KeepsGrants.foldl
    (fun s b hb hs => State.keepsGrants_drainBidder hs (List.mem_range.1 (List.mem_filter.1 hb).1)) noted.calm)

theorem governorSettle_grants (h : s.settleDue = true) : ∃ t, exec (.governorSettle fixedDraw bids) s = .next t ∧
    t.sys.settled = (s.dieReg 0 0x114).toNat ∧ ((List.range 10).map t.grant).sum ≤ field (s.dieReg 0 0x160) 0 16 - fixedDraw ∧
    ∀ b, b < 10 → t.grant b ≤ max (min (field (s.dieReg 0 (0x170 + b)) 32 16) (bids.getD b ⟨0, 0⟩).top)
      (min (bids.getD b ⟨0, 0⟩).floor 65535) := by
  have kept := State.keepsGrants_shortDrained fixedDraw bids hs
  have grant (b : Nat) (hb : b < 10) : (s.shortDrained fixedDraw bids).grant b = granted (s.settled fixedDraw bids) b := by
    rw [kept.grant, State.grant_granting fixedDraw bids hb]
  refine ⟨_, governorSettle_due s fixedDraw bids h, ?_, ?_, fun b hb => ?_⟩
  · exact congrArg BitVec.toNat ((kept.reg 0 0x114 rfl (.inl (by decide))).trans (State.ltime_granting fixedDraw bids))
  · have same : ((List.range 10).map (s.shortDrained fixedDraw bids).grant).sum =
        ∑ b ∈ Finset.range 10, granted (s.settled fixedDraw bids) b := by
      rw [Finset.sum_congr rfl fun b hb => (grant b (Finset.mem_range.1 hb)).symm]
      rfl
    exact same.trans_le (s.sum_settled_le fixedDraw bids)
  · refine (grant b hb).trans_le ((s.granted_settled_le fixedDraw bids b).trans ?_)
    exact max_le_max le_rfl (s.bidFloor_le bids b)

end

/-! ## The steps together -/

/-- Settles O54: each clause is the lemma about its step. -/
theorem opticalSteps : Obligations.OpticalSteps := by
  unfold Obligations.OpticalSteps
  intro s d p m v hs st time run late enters fails circuit
  refine ⟨gate_off hs, gate_other, fun h => ?_, train_other, drain_active hs, drain_training hs, drain_other, off_training hs,
    off_gatedOrFailed hs, off_other, laserModuleRemoved_absent hs, laserModuleInserted_present hs, portTrainingResult_failed hs,
    fun h late => ⟨portTrainingResult_stepDone_late hs h late, portTrainingTimeout_late hs h late⟩,
    fun h early => ⟨portTrainingTimeout_early early, portTrainingResult_stepDone_early h early⟩, ?_, ?_, portDrainComplete_drained hs,
    ?_, ?_, tsnapWrite_latches, ?_, ?_, fun q r since x ports => switchRequestTimeout_ends, fun fixedDraw bids =>
      ⟨governorSettle_early s fixedDraw bids, governorSettle_grants fixedDraw bids hs⟩⟩
  · obtain ⟨t, ht, entered, run⟩ := train_gated hs h
    exact ⟨⟨t, ht, entered⟩, t, ht, run⟩
  · intro counts rev pid inc famo mmx jrnl tick h role
    refine ⟨portTrainingResult_pool_untrained hs h role, portTrainingResult_pool_revision0 hs h role, portTrainingResult_pool_other hs h role,
      fun ready known other same => ?_⟩
    obtain ⟨t, ht, entered, fields⟩ :=
      portTrainingResult_pool_up (famo := famo) (mmx := mmx) (jrnl := jrnl) (tick := tick) hs h role ready known other same
    exact ⟨⟨t, ht, entered⟩, t, ht, fields⟩
  · intro counts peer nx ny nz far h role
    refine ⟨portTrainingResult_circuit_untrained hs h role, fun ready => ?_⟩
    obtain ⟨t, ht, entered, fields⟩ := portTrainingResult_circuit_up (peer := peer) hs h role ready
    exact ⟨⟨t, ht, entered⟩, t, ht, fields⟩
  · refine ⟨fun h => portDrainTimeout_early fun ⟨draining, owes, due⟩ => ?_,
      fun h owes due => portDrainTimeout_overdue hs ⟨h, owes, due⟩⟩
    rcases h with h | h | h
    · exact h draining
    · exact h owes
    · exact h due
  · intro counts bad latching
    have latches : latching ↔ s.latches d p.val := by
      unfold latching State.latches
      split
      · next l hl => simp [hl]
      · next hl => simp [hl]
    refine ⟨fun h => laneCheck_idle fun ⟨active, period, free⟩ => ?_,
      fun active period free => laneCheck_remaps hs ⟨active, period, fun h => free (latches.2 h)⟩⟩
    rcases h with h | h | h
    · exact h active
    · exact absurd h (Nat.not_lt.2 period)
    · exact free (latches.1 h)
  · intro lanes l found port
    obtain ⟨t, ht, snap, latched, words⟩ := latch_oldest (lanes := lanes) found
    obtain ⟨portField, rgenField⟩ := fields_snapWord
      (((s.die d).optical.latches.erase l).any fun r => r.result.isNone && r.stream.isNone) (field_lt (s.oport d l.port) 32 8) port
    refine ⟨t, ht, (congrArg (field · 0 4) snap).trans portField, (congrArg (field · 8 8) snap).trans rgenField, fun h => ?_, fun h => ?_,
      fun i hi => ?_⟩
    · rw [latched, State.latched, h]
      rfl
    · rw [latched, State.latched, if_pos (Option.isSome_iff_ne_none.2 h), snap]
    · rw [words i hi]
      exact fields_laneWord ..
  · split
    · next h => exact oswackWrite_reserved h
    · next h => exact oswackWrite_stores h

end Sys2Proof.Machine

namespace Sys2Proof.Machine

/-! # Steps of the package: the copy engine (08_die_memory.md R157 to R162, 13_isa_memory.md R284)

Each clause of CopyEngineSteps is a lemma about its step. First what the operations that the steps share do: channels and their slots, writes
at untranslated addresses, and the actions of a command that has completed. -/

/-! ## Channels and their slots (R157) -/

section
variable (s : State) (d e : DieId) (ch slot : Nat) (v : Channel)

@[simp] theorem Die.channel_setChannel_same (x : Die) : (x.setChannel ch v).channel ch = v := Sparse.get_set_same

theorem Die.setChannel_setChannel (x : Die) (w : Channel) : (x.setChannel ch v).setChannel ch w = x.setChannel ch w :=
  congrArg (fun l => { x with channels := l }) Sparse.set_set

@[simp] theorem Channel.slot_setSlot_same (x : Option SlotCmd) : (v.setSlot slot x).slot slot = x := Sparse.get_set_same

theorem Channel.slot_setNext (n : Nat) : ({ v with next := n } : Channel).slot slot = v.slot slot := rfl

@[simp] theorem State.core_setChannel (c : CoreId) : (s.setDie d ((s.die d).setChannel ch v)).core c = s.core c := by
  unfold State.core
  rw [State.die_setDie]
  split
  · next h => rw [h]; rfl
  · rfl

@[simp] theorem State.mem_setChannel : ((s.setDie d ((s.die d).setChannel ch v)).die e).mem = (s.die e).mem := by
  rw [State.die_setDie]
  split
  · next h => rw [h]; rfl
  · rfl

@[simp] theorem State.commons_setChannel : ((s.setDie d ((s.die d).setChannel ch v)).die e).commons = (s.die e).commons := by
  rw [State.die_setDie]
  split
  · next h => rw [h]; rfl
  · rfl

theorem State.untransRead_setChannel (c : CoreId) (a n : Nat) :
    (s.setDie d ((s.die d).setChannel ch v)).untransRead c a n = s.untransRead c a n := by
  simp only [State.untransRead, State.spadRead, State.core_setChannel, State.commons_setChannel]

end

/-! ## Writes at untranslated addresses (R152, R154) -/

section
variable (s : State) (c : CoreId) (a : Nat) (bs : List Byte)

@[simp] theorem length_readBytes (m : Memory) (a n : Nat) : (readBytes m a n).length = n := by
  induction n generalizing a with
  | zero => rfl
  | succ n ih => rw [readBytes, List.length_cons, ih]

/-- A write of a scratchpad changes its bytes and the states of its lines alone. -/
theorem State.spadWrite_eq : ∃ lines, s.spadWrite c a bs = s.setCore c
    { s.core c with store := { (s.core c).store with spad := writeBytes (s.core c).store.spad a bs, lines := lines } } := by
  let k : Core := { s.core c with store := { (s.core c).store with spad := writeBytes (s.core c).store.spad a bs } }
  have lines : ∃ lines : Sparse LineState, (linesOf a bs.length).foldl (fun k l => if k.line l = .clean then k.setLine l .dirty else k) k =
      { k with store := { k.store with lines := lines } } := by
    refine List.foldlRecOn (motive := fun (k' : Core) => ∃ lines : Sparse LineState, k' = { k with store := { k.store with lines := lines } }) _ _
      ⟨k.store.lines, rfl⟩ ?_
    rintro _ ⟨lines, rfl⟩ l -
    split
    · exact ⟨_, rfl⟩
    · exact ⟨_, rfl⟩
  exact lines.imp fun _ h => congrArg (s.setCore c) h

theorem State.untransRead_untransWrite : (s.untransWrite c a bs).untransRead c a bs.length = bs := by
  unfold State.untransWrite State.untransRead
  split
  · obtain ⟨lines, h⟩ := s.spadWrite_eq c (a % 2 ^ 26) bs
    rw [State.spadRead, h, State.core_setCore_same]
    exact readBytes_writeBytes ..
  · rw [State.die_setDie_same]
    exact readBytes_writeBytes ..

theorem State.copies_untransWrite (e : CoreId) : ((s.untransWrite c a bs).core e).store.copies = (s.core e).store.copies := by
  unfold State.untransWrite
  split
  · obtain ⟨lines, h⟩ := s.spadWrite_eq c (a % 2 ^ 26) bs
    rw [h, State.core_setCore]
    split
    · next he => rw [he]
    · rfl
  · unfold State.core
    rw [State.die_setDie]
    split
    · next he => rw [he]; rfl
    · rfl

theorem Ring.length_bytes (r : Ring) : r.bytes.length = 32 := by
  simp only [Ring.bytes, List.length_append, length_bytesOf]

/-- A descriptor that is written back is read back. -/
theorem State.untransRead_putRing (r : Ring) : (s.putRing c r).untransRead c r.addr 32 = r.bytes := by
  rw [← Ring.length_bytes r]
  exact State.untransRead_untransWrite ..

theorem State.copies_putRing (r : Ring) (e : CoreId) : ((s.putRing c r).core e).store.copies = (s.core e).store.copies :=
  State.copies_untransWrite ..

end

/-! ## A command starts (R157, R160, R162) -/

section
variable {s : State} {c : CoreId} {m : CopyCmd} {rest : List CopyCmd} {slot j n : Nat}

/-- The package with the command at the head of a core's queue gone, and a slot reserved of the ring that it names. -/
def State.dequeued (s : State) (c : CoreId) (rest : List CopyCmd) : Option Ring → State
  | none => s.setCore c { s.core c with store := { (s.core c).store with copies := rest } }
  | some r => (s.setCore c { s.core c with store := { (s.core c).store with copies := rest } }).putRing c r.reserve.1

/-- A command with the slot that it has reserved. -/
def CopyCmd.reserved (m : CopyCmd) : Option Ring → CopyCmd
  | none => m
  | some r => { m with slot := some (r.wres % r.slots) }

/-- A command of a core as a slot holds it before its first line. -/
def CopyCmd.started (m : CopyCmd) (c : CoreId) (ring : Nat) : SlotCmd :=
  { core := c.core.val, cmd := m, ring := ring, line := none, lineLen := 0, writing := false, status := Status.ok, stopped := none,
    mapLine := none, circuit := none, index := 0, first := m.offset }

theorem State.startCommand_eq (hm : (s.core c).store.copies = m :: rest) (ring : Option Ring) :
    s.startCommand c slot Status.ok ring = (s.dequeued c rest ring).setSlotCmd c.die (channelOf c.core.val) slot
      (some ((m.reserved ring).started c ((s.core c).ringAddr (field m.id 0 4)))) := by
  unfold State.startCommand
  dsimp only
  rw [hm]
  cases ring <;> rfl

/-- The head of a queue that can start takes the slot, and the round-robin goes on behind its core. -/
theorem State.startHead_eq {ring : Option Ring} (hm : (s.core c).store.copies = m :: rest) (go : s.startCheck c = .go ring) :
    s.startHead c.die (channelOf c.core.val) slot (j, c.core.val) =
      (s.dequeued c rest ring).setDie c.die (((s.dequeued c rest ring).die c.die).setChannel (channelOf c.core.val)
        { (((s.dequeued c rest ring).die c.die).channel (channelOf c.core.val)).setSlot slot
            (some ((m.reserved ring).started c ((s.core c).ringAddr (field m.id 0 4)))) with next := (j + 1) % 4 }) := by
  have id : (⟨c.die, Fin.ofNat 128 c.core.val⟩ : CoreId) = c := by rw [Fin.ofNat_val_eq_self]
  simp only [State.startHead, id, go]
  rw [State.startCommand_eq hm, State.setSlotCmd, State.die_setDie_same, State.setDie_setDie, Die.setChannel_setChannel,
    Die.channel_setChannel_same]

theorem State.copies_dequeued (ring : Option Ring) : ((s.dequeued c rest ring).core c).store.copies = rest := by
  cases ring <;> simp [State.dequeued, State.copies_putRing]

/-- The scan of a channel marks a command where its ring is full, and no other. -/
theorem State.markRingWaits_eq {l : List (Nat × Nat)} {d : DieId} (h : ∀ e ∈ l, s.startCheck ⟨d, Fin.ofNat 128 e.2⟩ ≠ .ringFull) :
    l.foldl (fun s e => if s.startCheck ⟨d, Fin.ofNat 128 e.2⟩ = .ringFull then s.markRingWait ⟨d, Fin.ofNat 128 e.2⟩ else s) s = s :=
  List.foldlRecOn (motive := (· = s)) l _ rfl fun t ht e he => by rw [ht, if_neg (h e he)]

/-- What a command of a core that has started leaves: its queue, the slot, and the round-robin (R157). -/
structure State.hasStarted (t : State) (c : CoreId) (slot j : Nat) (m : CopyCmd) (rest : List CopyCmd) : Prop where
  queue : (t.core c).store.copies = rest
  slot : ∃ x, ((t.die c.die).channel (channelOf c.core.val)).slot slot = some x ∧ x.core = c.core.val ∧ x.status = Status.ok ∧
    x.line = none ∧ x.cmd = m
  next : ((t.die c.die).channel (channelOf c.core.val)).next = (j + 1) % 4

theorem State.hasStarted_startHead {ring : Option Ring} (hm : (s.core c).store.copies = m :: rest) (go : s.startCheck c = .go ring) :
    (s.startHead c.die (channelOf c.core.val) slot (j, c.core.val)).hasStarted c slot j (m.reserved ring) rest := by
  rw [State.startHead_eq hm go]
  refine ⟨by rw [State.core_setChannel, State.copies_dequeued],
    ⟨(m.reserved ring).started c ((s.core c).ringAddr (field m.id 0 4)), ?_, rfl, rfl, rfl, rfl⟩, ?_⟩
  · rw [State.die_setDie_same, Die.channel_setChannel_same, Channel.slot_setNext, Channel.slot_setSlot_same]
  · rw [State.die_setDie_same, Die.channel_setChannel_same]

/-- The next ready command of the channel starts (R157). -/
theorem ceCommandStart_starts {ch : Fin 32} (hch : channelOf c.core.val = ch.val) (free : ((s.die c.die).channel ch.val).freeSlot = some slot)
    (turn : s.nextStart c.die ch.val = some (j, c.core.val))
    (notFull : ∀ e ∈ ((s.die c.die).channel ch.val).order ch.val, s.startCheck ⟨c.die, Fin.ofNat 128 e.2⟩ ≠ .ringFull)
    (go : s.startCheck c = .go none) (hm : (s.core c).store.copies = m :: rest) :
    ∃ t, exec (.ceCommandStart c.die ch) s = .next t ∧ t.hasStarted c slot j m rest ∧
      ∀ e, (t.die e).mem = (s.die e).mem ∧ (t.die e).commons = (s.die e).commons := by
  refine ⟨s.startHead c.die ch.val slot (j, c.core.val), ?_, ?_, fun e => ?_⟩
  · rw [exec_ceCommandStart, execCeCommandStart]
    simp only [free, State.markRingWaits_eq notFull, turn]
  · rw [← hch]
    exact State.hasStarted_startHead hm go
  · rw [← hch, State.startHead_eq hm go]
    simp [State.dequeued]

/-- A command that waited on a full ring starts in its core's turn, and takes a slot of the ring (R162). -/
theorem ceRingWaitEnd_starts {r : Ring} (free : ((s.die c.die).channel (channelOf c.core.val)).freeSlot = some slot)
    (turn : s.nextStart c.die (channelOf c.core.val) = some (j, c.core.val)) (go : s.startCheck c = .go (some r))
    (hm : (s.core c).store.copies = m :: rest) (waited : m.ringWait = true) :
    ∃ t, exec (.ceRingWaitEnd c) s = .next t ∧ t.hasStarted c slot j { m with slot := some (r.wres % r.slots) } rest ∧
      t.untransRead c r.addr 32 = { r with free := r.free - 1, wres := (r.wres + 1) % 2 ^ 16 }.bytes := by
  refine ⟨s.startHead c.die (channelOf c.core.val) slot (j, c.core.val), ?_, State.hasStarted_startHead hm go, ?_⟩
  · rw [exec_ceRingWaitEnd, execCeRingWaitEnd]
    simp only [hm, free, go, turn, waited, and_self, if_true]
  · rw [State.startHead_eq hm go, State.untransRead_setChannel]
    exact State.untransRead_putRing _ c r.reserve.1

end

/-! ## A line from a scratchpad to a Commons of the package (R159, R284) -/

section
variable {s : State} {c : CoreId} {x : SlotCmd} {slot n : Nat} {bs : List Byte} {d : DieId}

/-- The package with bytes of a die's Commons written. -/
def State.writeCommons (s : State) (d : DieId) (a : Nat) (bs : List Byte) : State :=
  s.setDie d { s.die d with commons := writeBytes (s.die d).commons a bs }

/-- Lines that are neither absent nor being filled are ready. -/
theorem State.readyLines_ready {w : Causer} {ls : List Nat}
    (h : ∀ l ∈ ls, (s.core w.i.core).line l ≠ .absent ∧ (s.core w.i.core).line l ≠ .filling) :
    State.readyLines w s ls = .ok s := by
  induction ls with
  | nil => rfl
  | cons l ls ih =>
    obtain ⟨absent, filling⟩ := h l (by simp)
    unfold State.readyLines
    split
    · next e => exact absurd e absent
    · next e => exact absurd e filling
    · exact ih fun l' hl => h l' (by simp [hl])

theorem State.copyRead_spad (src : x.cmd.srcKind = 1)
    (check : (s.core c).spadCheck ((x.cmd.srcBase + x.cmd.offset) % 2 ^ 32) n (lineAlign n) false = none)
    (ready : ∀ l ∈ linesOf (x.cmd.srcBase + x.cmd.offset) n, (s.core c).line l ≠ .absent ∧ (s.core c).line l ≠ .filling) :
    s.copyRead c x slot n = .data s (readBytes (s.core c).store.spad (x.cmd.srcBase + x.cmd.offset) n) := by
  simp only [State.copyRead, src, State.copySpad, check]
  rw [State.readyLines_ready ready]
  rfl

/-- A command whose fabric is chosen (R139). -/
def SlotCmd.onFabric (x : SlotCmd) (circuit : Option Bool) (index : Nat) : SlotCmd := { x with circuit := circuit, index := index }

/-- The fabric of a command to a Commons is chosen without a wait. -/
theorem State.chooseFabric_commons (dst : x.cmd.dstKind = 2) :
    ∃ circuit index, s.chooseFabric d slot x = .chosen s (x.onFabric circuit index) := by
  unfold State.chooseFabric
  dsimp only
  split
  · exact ⟨x.circuit, x.index, rfl⟩
  split
  · rw [dst]
    exact ⟨_, _, rfl⟩
  · exact ⟨_, _, rfl⟩

/-- Bytes of a scratchpad and of a Commons do not overlap. -/
theorem State.overlapOf_spad_commons (src : x.cmd.srcKind = 1) (dst : x.cmd.dstKind = 2) :
    s.overlapOf c x slot n = .ok fun _ => false := by
  have apart : 1024 + c.index ≠ 2 * field x.cmd.id 40 9 + 1 := by
    have := field_lt (w := x.cmd.id) 40 9
    omega
  simp [State.overlapOf, State.dstPlaces, State.srcPlaces, src, dst, apart]

theorem State.copyWrite_commons (dst : x.cmd.dstKind = 2) (stream : x.cmd.fstream = none) (own : s.ownDie (field x.cmd.id 40 9) = some d)
    (inside : s.inDomain c.die (field x.cmd.id 40 9) = true) (window : (s.core c).inWindow (x.cmd.dstBase + x.cmd.offset) bs.length = true) :
    s.copyWrite c x slot bs = .data (s.writeCommons d (x.cmd.dstBase + x.cmd.offset)
      (x.cmd.combine (readBytes (s.die d).commons (x.cmd.dstBase + x.cmd.offset) bs.length) bs)) [] := by
  simp [State.writeCommons, State.copyWrite, State.copyDst, dst, State.commonsPart, inside, own, window, State.localLine, stream]

theorem length_elements (fmt : Nat) (bs : List Byte) (n : Nat) : (elements fmt bs n).length = n := by
  simp only [elements, List.length_map, List.length_range]

theorem length_bankUpdate (fmt op : Nat) (bs : List Byte) (ys : List Nat) : (bankUpdate fmt op bs ys).length = ys.length * bankBytes fmt := by
  simp [bankUpdate, List.length_flatMap, length_bytesOf, length_elements]

/-- A line of whole elements keeps its length where it is combined (R284). -/
theorem CopyCmd.length_combine {m : CopyCmd} (whole : m.coll = true → bs.length % bankBytes m.efmt = 0) (old : List Byte) :
    (m.combine old bs).length = bs.length := by
  unfold CopyCmd.combine
  split
  · next coll => rw [length_bankUpdate, length_elements, Nat.div_mul_cancel (Nat.dvd_of_mod_eq_zero (whole coll))]
  · rfl

/-- What a die number names is told by the registers of the dies (R16). -/
theorem State.ownDie_congr {u : State} (h : u.dieReg = s.dieReg) (n : Nat) : u.ownDie n = s.ownDie n := by
  unfold State.ownDie State.dieNum
  rw [h]

theorem State.inDomain_congr {u : State} (h : u.dieReg = s.dieReg) (d : DieId) (n : Nat) :
    u.inDomain d n = s.inDomain d n := by
  unfold State.inDomain State.coord
  rw [h]

/-- The package with a line of a command written to a Commons: the step has drawn on as many free values as the line has bytes. -/
def State.wroteLine (s : State) (d : DieId) (ch slot : Nat) (x : SlotCmd) (bs : List Byte) : State :=
  (({ s with fresh := s.fresh + bs.length } : State).writeCommons d (x.cmd.dstBase + x.cmd.offset)
    (x.cmd.combine (readBytes (s.die d).commons (x.cmd.dstBase + x.cmd.offset) bs.length) bs)).lineEnd d ch slot x bs.length

theorem State.lineWrite_commons {ch : Nat} (line : x.line = none) (src : x.cmd.srcKind = 1) (dst : x.cmd.dstKind = 2)
    (stream : x.cmd.fstream = none) (own : s.ownDie (field x.cmd.id 40 9) = some d) (inside : s.inDomain d (field x.cmd.id 40 9) = true)
    (window : (s.core (x.owner d)).inWindow (x.cmd.dstBase + x.cmd.offset) bs.length = true) :
    s.lineWrite d ch slot x bs = s.wroteLine d ch slot x bs := by
  have same : (bs.zipIdx.map fun e => if (fun _ => false) e.2 then Config.freeByte (s.fresh + e.2) else e.1) = bs := by simp
  let u : State := { s with fresh := s.fresh + bs.length }
  have reg : u.dieReg = s.dieReg := rfl
  have own : u.ownDie (field x.cmd.id 40 9) = some d := (State.ownDie_congr reg _).trans own
  have inside : u.inDomain d (field x.cmd.id 40 9) = true := (State.inDomain_congr reg ..).trans inside
  unfold State.lineWrite
  dsimp only
  rw [State.overlapOf_spad_commons src dst]
  dsimp only
  rw [same, State.copyWrite_commons (s := u) (c := x.owner d) dst stream own inside window]
  simp only [line]
  rfl

section
variable {ch : Nat}

theorem State.commons_wroteLine : ((s.wroteLine d ch slot x bs).die d).commons = writeBytes (s.die d).commons (x.cmd.dstBase + x.cmd.offset)
    (x.cmd.combine (readBytes (s.die d).commons (x.cmd.dstBase + x.cmd.offset) bs.length) bs) := by
  simp only [State.wroteLine, State.lineEnd, State.count, State.setSlotCmd, State.die_commons_setDieReg,
    State.writeCommons, State.die_setDie_same]
  rfl

/-- The line's bytes are written. -/
theorem State.line_wroteLine (whole : x.cmd.coll = true → bs.length % bankBytes x.cmd.efmt = 0) :
    readBytes ((s.wroteLine d ch slot x bs).die d).commons (x.cmd.dstBase + x.cmd.offset) bs.length =
      x.cmd.combine (readBytes (s.die d).commons (x.cmd.dstBase + x.cmd.offset) bs.length) bs := by
  rw [State.commons_wroteLine]
  have h := readBytes_writeBytes (s.die d).commons (x.cmd.dstBase + x.cmd.offset)
    (x.cmd.combine (readBytes (s.die d).commons (x.cmd.dstBase + x.cmd.offset) bs.length) bs)
  rwa [CopyCmd.length_combine whole] at h

/-- The other bytes of the Commons stay. -/
theorem State.outside_wroteLine (whole : x.cmd.coll = true → bs.length % bankBytes x.cmd.efmt = 0) {a : Nat}
    (outside : a < x.cmd.dstBase + x.cmd.offset ∨ x.cmd.dstBase + x.cmd.offset + bs.length ≤ a) :
    readByte ((s.wroteLine d ch slot x bs).die d).commons a = readByte (s.die d).commons a := by
  rw [State.commons_wroteLine]
  exact readByte_writeBytes_ne _ _ (by rwa [CopyCmd.length_combine whole])

theorem State.mem_wroteLine (e : DieId) : ((s.wroteLine d ch slot x bs).die e).mem = (s.die e).mem := by
  simp only [State.wroteLine, State.lineEnd, State.count, State.setSlotCmd, State.die_mem_setDieReg, State.writeCommons,
    State.die_setDie]
  split
  · next h => rw [h]; rfl
  · rfl

/-- The line counts in `ce_lines`. -/
theorem State.lines_wroteLine : (s.wroteLine d ch slot x bs).dieReg d 0x196 = s.dieReg d 0x196 + 1 := by
  rw [State.wroteLine, State.lineEnd, State.dieReg_count _ d 0x196 1 0x196 rfl, if_pos rfl, State.setSlotCmd, State.dieReg_setDie (by rfl),
    State.writeCommons, State.dieReg_setDie (by rfl)]
  rfl

theorem State.slot_wroteLine : ∃ y, (((s.wroteLine d ch slot x bs).die d).channel ch).slot slot = some y ∧
    y.cmd = { x.cmd with offset := x.cmd.offset + bs.length } ∧ y.status = x.status := by
  refine ⟨{ x with cmd := { x.cmd with offset := x.cmd.offset + bs.length }, line := none, writing := false, lineLen := 0,
                   mapLine := none, index := x.index + 1 }, ?_, rfl, rfl⟩
  simp only [State.wroteLine, State.lineEnd, State.count, State.setSlotCmd, Die.channel, State.die_channels_setDieReg, State.die_setDie_same]
  rw [Die.setChannel]
  simp only [Sparse.get_set_same]
  exact Channel.slot_setSlot_same ..

end

/-- A line goes up to a 128-byte boundary of the destination, or to the element of a `coll` that crosses it (R159, log 60). -/
theorem State.lineLength_commons (dst : x.cmd.dstKind = 2) : s.lineLength c x =
    min (128 - (x.cmd.dstBase + x.cmd.offset - if x.cmd.coll then x.cmd.dstBase % bankBytes x.cmd.efmt else 0) % 128)
      (x.cmd.bytes - x.cmd.offset) := by
  have base : s.copyDst c x = x.cmd.dstBase := if_neg (by rw [dst]; decide)
  rw [State.lineLength, base]

/-- A command with a line to move and no operation for it begins one. -/
theorem ceLineComplete_begins {ch : Fin 32} {slot : Fin 8} {y : SlotCmd} (held : ((s.die d).channel ch.val).slot slot.val = some x)
    (going : x.stopped = none) (ok : x.status = Status.ok) (line : x.line = none) (more : x.cmd.offset < x.cmd.bytes)
    (free : s.stopping (x.owner d) = false) (chosen : s.chooseFabric d slot.val x = .chosen s y)
    (read : s.copyRead (x.owner d) y slot.val (s.lineLength (x.owner d) y) = .data s bs) :
    exec (.ceLineComplete d ch slot) s = .next (s.lineWrite d ch.val slot.val y bs) := by
  rw [exec_ceLineComplete, execCeLineComplete, held]
  dsimp only
  rw [if_neg (by simp [going, ok, more, free]), line]
  simp only [chosen, read]

/-- The next line of a command from a scratchpad to a Commons of the package is read and written in one step. -/
theorem ceLineComplete_writes {ch : Fin 32} {slot : Fin 8} (held : ((s.die d).channel ch.val).slot slot.val = some x)
    (going : x.stopped = none) (ok : x.status = Status.ok) (line : x.line = none) (more : x.cmd.offset < x.cmd.bytes)
    (free : s.stopping (x.owner d) = false) (src : x.cmd.srcKind = 1) (dst : x.cmd.dstKind = 2)
    (own : s.ownDie (field x.cmd.id 40 9) = some d) (inside : s.inDomain d (field x.cmd.id 40 9) = true) (stream : x.cmd.fstream = none)
    (length : s.lineLength (x.owner d) x = n)
    (check : (s.core (x.owner d)).spadCheck ((x.cmd.srcBase + x.cmd.offset) % 2 ^ 32) n (lineAlign n) false = none)
    (window : (s.core (x.owner d)).inWindow (x.cmd.dstBase + x.cmd.offset) n = true)
    (ready : ∀ l ∈ linesOf (x.cmd.srcBase + x.cmd.offset) n,
      (s.core (x.owner d)).line l ≠ .absent ∧ (s.core (x.owner d)).line l ≠ .filling) :
    ∃ circuit index, exec (.ceLineComplete d ch slot) s = .next (s.wroteLine d ch.val slot.val (x.onFabric circuit index)
      (readBytes (s.core (x.owner d)).store.spad (x.cmd.srcBase + x.cmd.offset) n)) := by
  obtain ⟨circuit, index, chosen⟩ := State.chooseFabric_commons (s := s) (d := d) (slot := slot.val) dst
  have length : s.lineLength (x.owner d) (x.onFabric circuit index) = n := length
  have read := State.copyRead_spad (x := x.onFabric circuit index) (slot := slot.val) src check ready
  rw [← length] at read
  refine ⟨circuit, index, ?_⟩
  rw [ceLineComplete_begins held going ok line more free chosen read, length]
  exact congrArg _ (State.lineWrite_commons (x := x.onFabric circuit index) line src dst stream own inside
    (by rw [length_readBytes]; exact window))

end

/-! ## A command completes (R161) -/

/-- From one state to the other no channel has changed, and no failure of a copy command has been noted or raised. -/
structure State.KeepsCopies (s t : State) : Prop where
  channels : ∀ d, (t.die d).channels = (s.die d).channels
  faults : ∀ c, (t.core c).store.copyFaults = (s.core c).store.copyFaults

namespace State.KeepsCopies
variable {s t u : State} {c : CoreId}

theorem refl (s : State) : s.KeepsCopies s := ⟨fun _ => rfl, fun _ => rfl⟩

theorem trans (h : s.KeepsCopies t) (h' : t.KeepsCopies u) : s.KeepsCopies u :=
  ⟨fun d => (h'.channels d).trans (h.channels d), fun c => (h'.faults c).trans (h.faults c)⟩

theorem ite {p : Prop} [Decidable p] (ht : s.KeepsCopies t) (hu : s.KeepsCopies u) : s.KeepsCopies (if p then t else u) := by
  split
  · exact ht
  · exact hu

/-- What one action keeps, its repetition over a list keeps. -/
theorem foldl {α : Type} {f : State → α → State} (h : s.KeepsCopies t) (hf : ∀ u a, s.KeepsCopies u → s.KeepsCopies (f u a)) (l : List α) :
    s.KeepsCopies (l.foldl f t) :=
  List.foldlRecOn (motive := s.KeepsCopies) l f h fun u hu a _ => hf u a hu

theorem setDie (h : s.KeepsCopies t) {d : DieId} {x : Die} (channels : x.channels = (t.die d).channels := by rfl)
    (faults : ∀ n, (x.core n).store.copyFaults = ((t.die d).core n).store.copyFaults := by intro _; rfl) :
    s.KeepsCopies (t.setDie d x) := by
  refine h.trans ⟨fun e => ?_, fun e => ?_⟩
  · rw [State.die_setDie]
    split
    · next he => rw [he, channels]
    · rfl
  · unfold State.core
    rw [State.die_setDie]
    split
    · next he => rw [he, faults]
    · rfl

theorem setCore (h : s.KeepsCopies t) {k : Core} (faults : k.store.copyFaults = (t.core c).store.copyFaults) :
    s.KeepsCopies (t.setCore c k) := by
  refine h.trans ⟨fun d => State.die_channels_setCore .., fun e => ?_⟩
  rw [State.core_setCore]
  split
  · next he => rw [he, faults]
  · rfl

theorem count (h : s.KeepsCopies t) (d : DieId) (n k : Nat) : s.KeepsCopies (t.count d n k) :=
  h.trans ⟨fun _ => State.die_channels_setDieReg .., fun c => congrArg (·.store.copyFaults) (State.core_setDieReg _ d n _ c)⟩

theorem pokeDie (h : s.KeepsCopies t) (d : DieId) (a : Nat) (bs : List Byte) : s.KeepsCopies (t.pokeDie d a bs) := by
  have near := (Die.keeps_poke (t.die d) a bs).1
  refine h.setDie near.channels fun n => ?_
  have stores := congrArg CoreStore.copyFaults (near.store n)
  exact stores

theorem setFaults (h : s.KeepsCopies t) (d : DieId) (q : FaultQueue) : s.KeepsCopies (t.setFaults d q) := h.setDie

theorem note (h : s.KeepsCopies t) (n : HostNote) : s.KeepsCopies (t.note n) := ⟨h.channels, h.faults⟩

theorem writeEntry (h : s.KeepsCopies t) (d : DieId) (e : FaultEntry) : s.KeepsCopies (t.writeEntry d e) := by
  have written (n : Nat) (v : Word) (a : Nat) (bs : List Byte) (q : FaultQueue) :
      s.KeepsCopies (((t.pokeDie d a bs).setFaults d q).setDieReg d n v) :=
    ((h.pokeDie d a bs).setFaults d q).setDie
  exact ite (note (ite (note (written ..) _) (written ..)) _) (ite (note (written ..) _) (written ..))

theorem post (h : s.KeepsCopies t) (d : DieId) (e : FaultEntry) : s.KeepsCopies (t.post d e) :=
  ite (h.count ..) (ite (ite (((h.setFaults ..).writeEntry ..).count ..) ((h.setFaults ..).writeEntry ..))
    (((h.setFaults ..).setFaults ..).count ..))

theorem setGang (h : s.KeepsCopies t) (g : Gang) : s.KeepsCopies (t.setGang g) := ⟨h.channels, h.faults⟩

theorem untransWrite (h : s.KeepsCopies t) (a : Nat) (bs : List Byte) : s.KeepsCopies (t.untransWrite c a bs) := by
  unfold State.untransWrite
  split
  · obtain ⟨lines, e⟩ := t.spadWrite_eq c (a % 2 ^ 26) bs
    rw [e]
    exact h.setCore rfl
  · exact h.setDie

theorem putRing (h : s.KeepsCopies t) (r : Ring) : s.KeepsCopies (t.putRing c r) := by
  have drawn (n : Nat) : s.KeepsCopies { t with fresh := n } := ⟨h.channels, h.faults⟩
  exact (drawn _).untransWrite _ _

theorem deferPulse (h : s.KeepsCopies t) (src : Nat) : s.KeepsCopies (t.deferPulse c src) := h.setCore rfl

theorem flagAdd (h : s.KeepsCopies t) (flag : Nat) (v : BitVec 32) : s.KeepsCopies (t.flagAdd c flag v) := by
  unfold State.flagAdd
  split
  · exact h
  · exact ite (foldl (h.setGang _) (fun _ _ h => h.deferPulse _) _) (h.setGang _)

theorem publishSlot (h : s.KeepsCopies t) (r : Ring) (slot : Nat) : s.KeepsCopies (t.publishSlot c r slot) :=
  ite (h.putRing _) (foldl (h.putRing _) (fun _ _ h => h.deferPulse _) _)

theorem popSlot (h : s.KeepsCopies t) (r : Ring) : s.KeepsCopies (t.popSlot c r) :=
  foldl (h.putRing _) (fun _ _ h => h.deferPulse _) _

theorem enqueueCopy (h : s.KeepsCopies t) (m : CopyCmd) : s.KeepsCopies (t.enqueueCopy c m) := by
  have queued {k : Core} (faults : k.store.copyFaults = (t.core c).store.copyFaults) :
      s.KeepsCopies { t.setCore c k with nextOp := t.nextOp + 1 } := ⟨(h.setCore faults).channels, (h.setCore faults).faults⟩
  refine queued ?_
  split
  · rfl
  · rw [Core.store_setCluster]

theorem exFault (h : s.KeepsCopies t) (target cause : Nat) : s.KeepsCopies (t.exFault c target cause) := setCore (post h _ _) rfl

theorem setToken (h : s.KeepsCopies t) (cl : Cluster) (x : ClusterState) : s.KeepsCopies (t.setCore c ((t.core c).setCluster cl x)) :=
  h.setCore (by rw [Core.store_setCluster])

theorem setRingUse (h : s.KeepsCopies t) (rg : Nat) (v : RingUse) : s.KeepsCopies (t.setCore c ((t.core c).setRingUse rg v)) := h.setCore rfl

/-- What is kept is kept in what an action answers. -/
theorem of_some (h : s.KeepsCopies t) (e : some t = some u) : s.KeepsCopies u := Option.some.inj e ▸ h

/-- Whatever a target does, channels and failures stay (R383). -/
theorem exAct (h : s.KeepsCopies t) {target : Nat} : t.exAct c target = some u → s.KeepsCopies u := by
  unfold State.exAct
  dsimp only
  split
  case h_1 =>
    split
    · exact nofun
    split
    · exact (h.exFault ..).of_some
    split
    · exact (h.exFault ..).of_some
    · exact (h.enqueueCopy _).of_some
  case h_2 =>
    split
    · split
      · exact nofun
      · exact (h.setToken ..).of_some
    · split
      · exact nofun
      · exact (h.setToken ..).of_some
  case h_3 => exact (h.flagAdd ..).of_some
  case h_4 =>
    split
    · exact (h.exFault ..).of_some
    split
    · split
      · exact (h.exFault ..).of_some
      split
      · exact h.of_some
      · exact ((h.setRingUse ..).publishSlot ..).of_some
    · split
      · exact (h.exFault ..).of_some
      split
      · exact h.of_some
      · exact ((h.setRingUse ..).popSlot _).of_some
  case h_5 => exact h.of_some

theorem exFire (h : s.KeepsCopies t) (target : Nat) : s.KeepsCopies (t.exFire c target) := by
  unfold State.exFire
  dsimp only
  split
  · split
    · next acts => exact h.exAct acts
    · exact h.setCore rfl
  · exact ite (h.setCore rfl) (h.setCore rfl)

theorem exTerms (h : s.KeepsCopies t) (inputs : BitVec 40) (terms : List Nat) : s.KeepsCopies (t.exTerms c inputs terms) := by
  have latched : ((t.core c).latchTerms inputs terms).1.store = (t.core c).store :=
    List.foldlRecOn (motive := fun (r : Core × List Nat) => r.1.store = (t.core c).store) terms _ rfl fun _ hr _ _ => hr
  exact foldl (h.setCore (k := ((t.core c).latchTerms inputs terms).1) (by rw [latched])) (fun _ _ h => ite (h.exFire _) h) _

theorem routePulse (h : s.KeepsCopies t) (src : Nat) : s.KeepsCopies (t.routePulse c src) := by
  have counted : ((t.core c).exCount src).1.store = (t.core c).store := by
    refine List.foldlRecOn (motive := fun (r : Core × BitVec 40) => r.1.store = (t.core c).store) _ _ rfl fun _ hr _ _ => ?_
    dsimp only
    split
    · split
      · exact hr
      · exact hr
    · exact hr
  unfold State.routePulse
  generalize (t.core c).exCount src = r at counted ⊢
  exact (h.setCore (congrArg CoreStore.copyFaults counted)).exTerms _ _

theorem pulse (h : s.KeepsCopies t) (src : Nat) : s.KeepsCopies (t.pulse c src) := ite (h.deferPulse src) (h.routePulse src)

end State.KeepsCopies

section
variable {s : State} {c : CoreId} {m : CopyCmd} {x : SlotCmd} {st : Status} {d : DieId} {ch : Fin 32} {slot : Fin 8}

/-- The actions of a command that has completed leave channels and noted failures as they are (R161). -/
theorem State.keepsCopies_copyActions (s : State) (c : CoreId) (x : SlotCmd) : s.KeepsCopies (s.copyActions c x) := by
  unfold State.copyActions
  extract_lets m s1 s2 s3
  have published : s.KeepsCopies s1 := by
    simp only [s1]
    split
    · exact .ite ((State.KeepsCopies.refl s).publishSlot ..) (.refl s)
    · exact .refl s
  have flagged : s.KeepsCopies s2 := by
    simp only [s2]
    split
    · exact published.flagAdd ..
    · exact published
  exact .ite (flagged.pulse 0) ((flagged.pulse 0).pulse _)

/-- The status of a command is a change of its core alone. -/
theorem State.die_channels_copyStatus (e : DieId) : ((s.copyStatus c m st).die e).channels = (s.die e).channels := by
  unfold State.copyStatus
  dsimp only
  split
  · exact State.die_channels_setCore ..
  · exact State.die_channels_setCore ..

/-- The p register that a command names takes its status. -/
theorem State.status_copyStatus (h : m.p ≠ 0) : ((s.copyStatus c m st).core c).cd.status m.p = st := by
  have written (k : ClusterState) (l : List Reg) : ({ k.setStatus m.p st with busy := l } : ClusterState).status m.p = st := by
    simp only [ClusterState.status, ClusterState.setStatus, h, if_false, Sparse.get_set_same]
  unfold State.copyStatus
  simp only [h, if_false]
  split
  · rw [State.core_setCore_same]
    exact written ..
  · rw [State.core_setCore_same]
    exact written ..

/-- A plain command's failure is noted. -/
theorem State.faults_copyStatus : ((s.copyStatus c m st).core c).store.copyFaults =
    if st ≠ Status.ok ∧ !m.statusForm then
      (s.core c).store.copyFaults ++ [⟨m.p, st, if m.srcKind = 0 then m.srcBase + m.offset else m.dstBase + m.offset⟩]
    else (s.core c).store.copyFaults := by
  unfold State.copyStatus
  dsimp only
  split
  · rw [State.core_setCore_same, Core.store_setCluster]
  · rw [State.core_setCore_same, Core.store_setCluster]

theorem State.slot_emptied (s : State) (d : DieId) (ch slot : Nat) : (((s.setSlotCmd d ch slot none).die d).channel ch).slot slot = none := by
  rw [State.setSlotCmd, State.die_setDie_same, Die.channel_setChannel_same, Channel.slot_setSlot_same]

/-- What a command that has completed leaves: its slot is free, and its p register holds its status. -/
structure State.hasEnded (t : State) (d : DieId) (ch slot : Nat) (x : SlotCmd) : Prop where
  slot : ((t.die d).channel ch).slot slot = none
  status : x.cmd.p ≠ 0 → (t.core (x.owner d)).cd.status x.cmd.p = x.status

/-- A command whose status is written after actions that keep the channels has ended. -/
theorem State.hasEnded_copyStatus {u : State} {ch slot : Nat} (h : (s.setSlotCmd d ch slot none).KeepsCopies u) :
    (u.copyStatus (x.owner d) x.cmd x.status).hasEnded d ch slot x := by
  refine ⟨?_, State.status_copyStatus⟩
  unfold Die.channel
  rw [State.die_channels_copyStatus, h.channels]
  exact s.slot_emptied d ch slot

/-- A command whose lines are written performs its actions and ends. -/
theorem ceCommandComplete_done (held : ((s.die d).channel ch.val).slot slot.val = some x) (going : x.stopped = none) (line : x.line = none)
    (ok : x.status = Status.ok) (written : x.cmd.bytes ≤ x.cmd.offset)
    (released : x.cmd.rel = true → x.cmd.scope = 7 → s.pendingWrites = false) :
    ∃ t, exec (.ceCommandComplete d ch slot) s = .next t ∧ t.hasEnded d ch.val slot.val x ∧
      (t.core (x.owner d)).store.copyFaults = (s.core (x.owner d)).store.copyFaults := by
  have acts := (s.setSlotCmd d ch.val slot.val none).keepsCopies_copyActions (x.owner d) x
  refine ⟨_, ?_, State.hasEnded_copyStatus acts, ?_⟩
  · rw [exec_ceCommandComplete, execCeCommandComplete, held]
    dsimp only
    rw [if_neg (by simpa [going, line, ok, written] using released), if_pos ok]
  · rw [State.faults_copyStatus, if_neg (by simp [ok]), acts.faults]
    exact congrArg (·.store.copyFaults) (State.core_setChannel ..)

/-- A command that has failed performs no action: its status is written, and a plain one's failure is noted. -/
theorem ceCommandComplete_failed (held : ((s.die d).channel ch.val).slot slot.val = some x) (going : x.stopped = none) (line : x.line = none)
    (failed : x.status ≠ Status.ok) :
    ∃ t, exec (.ceCommandComplete d ch slot) s = .next t ∧ t.hasEnded d ch.val slot.val x ∧
      (t.core (x.owner d)).store.copyFaults = (s.core (x.owner d)).store.copyFaults ++ (if x.cmd.statusForm then [] else
        [⟨x.cmd.p, x.status, if x.cmd.srcKind = 0 then x.cmd.srcBase + x.cmd.offset else x.cmd.dstBase + x.cmd.offset⟩]) := by
  refine ⟨(s.setSlotCmd d ch.val slot.val none).copyStatus (x.owner d) x.cmd x.status, ?_, State.hasEnded_copyStatus (.refl _), ?_⟩
  · rw [exec_ceCommandComplete, execCeCommandComplete, held]
    simp [failed, going, line]
  · have kept : ((s.setSlotCmd d ch.val slot.val none).core (x.owner d)).store.copyFaults = (s.core (x.owner d)).store.copyFaults :=
      congrArg (·.store.copyFaults) (State.core_setChannel ..)
    rw [State.faults_copyStatus, kept]
    cases x.cmd.statusForm <;> simp [failed]

/-- A command that has not failed and cannot end yet is left as it is. -/
theorem ceCommandComplete_waits (held : ((s.die d).channel ch.val).slot slot.val = some x) (ok : x.status = Status.ok)
    (waits : ¬ (x.cmd.bytes ≤ x.cmd.offset ∧ (x.cmd.rel = true → x.cmd.scope = 7 → s.pendingWrites = false))) :
    exec (.ceCommandComplete d ch slot) s = .next s := by
  rw [exec_ceCommandComplete, execCeCommandComplete, held]
  refine if_pos ?_
  by_cases written : x.cmd.bytes ≤ x.cmd.offset
  · have unreleased : x.cmd.rel ∧ x.cmd.scope = 7 ∧ s.pendingWrites := by simpa [written] using waits
    exact .inr (.inr (.inr ⟨ok, unreleased⟩))
  · exact .inr (.inr (.inl ⟨ok, Nat.lt_of_not_le written⟩))

end

/-! ## The steps together -/

/-- Settles O38: each clause is the lemma about its step. -/
theorem copyEngineSteps : Obligations.CopyEngineSteps := by
  unfold Obligations.CopyEngineSteps
  refine ⟨fun s die ch slot free => ⟨?_, ?_⟩, ?_, ?_⟩
  · intro j n m rest turn bound channel notFull go queue
    have core : Fin.ofNat 128 n = ⟨n, bound⟩ := Fin.ext (Nat.mod_eq_of_lt bound)
    obtain ⟨t, ht, started, stores⟩ := ceCommandStart_starts (c := ⟨die, ⟨n, bound⟩⟩) channel free turn notFull
      (by rwa [core] at go) queue
    obtain ⟨x, held, owner, status, line, cmd⟩ := started.slot
    rw [← channel]
    exact ⟨t, ht, started.queue, ⟨x, held, owner, cmd, status, line⟩, started.next, stores⟩
  · rintro c rfl channel j m rest r turn queue waited go
    rw [← channel] at free turn ⊢
    obtain ⟨t, ht, started, ring⟩ := ceRingWaitEnd_starts free turn go queue waited
    obtain ⟨x, held, owner, status, -, cmd⟩ := started.slot
    exact ⟨t, ht, started.queue, ⟨x, held, owner, status, cmd⟩, started.next, ring⟩
  · intro s die ch slot x c m from_ dst n held going ok line more free src commons own inside stream whole check window ready
    obtain ⟨circuit, index, ht⟩ := ceLineComplete_writes held going ok line more free src commons own inside stream
      (State.lineLength_commons commons) check window ready
    let y := x.onFabric circuit index
    let new := readBytes (s.core c).store.spad from_ n
    have size : new.length = n := length_readBytes ..
    have combined : m.combine (readBytes (s.die die).commons dst n) new = if m.coll then
        bankUpdate m.efmt m.op (readBytes (s.die die).commons dst n) (elements m.efmt new (n / bankBytes m.efmt)) else new := by
      rw [CopyCmd.combine, size]
    obtain ⟨z, slotted, cmd, status⟩ := State.slot_wroteLine (s := s) (d := die) (ch := ch.val) (slot := slot.val) (x := y) (bs := new)
    refine ⟨_, ht, ?_, fun a outside => ?_, ⟨z, slotted, by rw [cmd, size]; rfl, status.trans ok⟩, State.lines_wroteLine, State.mem_wroteLine⟩
    · exact (size ▸ State.line_wroteLine (x := y) (by rwa [size])).trans combined
    · exact State.outside_wroteLine (x := y) (by rwa [size]) (by rwa [size])
  · intro s die ch slot x _ c m held going line
    by_cases ok : x.status = Status.ok
    · by_cases done : m.bytes ≤ m.offset ∧ (m.rel = true → m.scope = 7 → s.pendingWrites = false)
      · obtain ⟨written, released⟩ := done
        obtain ⟨t, ht, ended, faults⟩ := ceCommandComplete_done held going line ok written released
        exact ⟨t, ht, fun _ _ _ => ⟨ended.slot, fun h => (ended.status h).trans ok, faults⟩, fun h => absurd ok h⟩
      · exact ⟨s, ceCommandComplete_waits held ok done, fun _ written released => absurd ⟨written, released⟩ done, fun h => absurd ok h⟩
    · obtain ⟨t, ht, ended, faults⟩ := ceCommandComplete_failed held going line ok
      exact ⟨t, ht, fun h => absurd h ok, fun _ => ⟨ended.slot, ended.status, faults⟩⟩

end Sys2Proof.Machine

namespace Sys2Proof.Machine

/-! # Waiting and retirement (R177, R205, R207, R209, R216; log 91)

Every instruction that has a word goes through the one rule of issue, so what keeps it from issuing is the same for all of them; a `nop` shows
what the rule does with tokens, signals and `aret`. -/

/-! ## Every instruction that has a word issues -/

/-- A meaning is the rule of issue with some body. -/
def Issues (i : Instr) (s : State) (r : Host.Outcome State Fault Refusal) : Prop := ∃ body, r = s.issue i body

theorem issues_issue (i : Instr) (s : State) (body : State → Eff) : Issues i s (s.issue i body) := ⟨body, rfl⟩

theorem issues_issueX (i : Instr) (s : State) (d : Nat) (f : State → Word) : Issues i s (s.issueX i d f) := ⟨_, rfl⟩

theorem issues_issueDiv (i : Instr) (s : State) (d a b : Nat) (f : Word → Word → Word) : Issues i s (s.issueDiv i d a b f) := ⟨_, rfl⟩

/-- The 187 words go through the rule of issue; the events of the package have no word. The groups are those of the dispatch, in its order:
control, the integer results with the divisions among them, the compact forms, and the rest. -/
theorem exec_issues {i : Instr} (s : State) (h : (encode i).isSome = true) : Issues i s (exec i s) := by
  unfold exec
  split
  iterate 20 exact issues_issue ..
  iterate 5 exact issues_issueX ..
  iterate 4 exact issues_issueDiv ..
  iterate 28 exact issues_issueX ..
  exact issues_issue ..
  iterate 8 exact issues_issueX ..
  iterate 121 exact issues_issue ..
  all_goals cases h

section
variable {s : State} {i : Instr}

/-- A stream that a plain access holds starts nothing (R258, log 91). -/
theorem exec_held (h : (encode i).isSome = true) (legal : s.illegalCause i = none) (held : s.me.hold.isSome = true) :
    exec i s = .next s := by
  obtain ⟨body, e⟩ := exec_issues s h
  exact e.trans (State.issue_held legal held)

/-- An instruction that has something to wait for changes nothing but the mark (R177, R216, R354). -/
theorem exec_blocked {w : Wait} (h : (encode i).isSome = true) (legal : s.illegalCause i = none) (free : s.me.hold = none)
    (waits : s.obstacle i = some w) : exec i s = .next (s.blocked w) := by
  obtain ⟨body, e⟩ := exec_issues s h
  exact e.trans (State.issue_blocked legal free waits)

end

/-! ## Partners (R209) -/

section
variable {s : State} {i : Instr}

/-- An instruction whose partners do not all wait at theirs has partners to join. -/
theorem State.joinsNow_of_not_ready (h : s.joinReady i = false) : s.joinsNow i = true ∧
    ((s.cur.joinPartners s.focus.cl).all fun k => (s.cur.cluster k).join == .waiting) = false := by
  simp only [State.joinReady, Bool.or_eq_false_iff, Bool.not_eq_false'] at h
  obtain ⟨⟨⟨joins, begun⟩, granted⟩, waiting⟩ := h
  have partners : (s.cur.joinPartners s.focus.cl).isEmpty = false := by
    rw [Bool.eq_false_iff]
    intro none
    rw [List.isEmpty_iff.mp none] at waiting
    cases waiting
  exact ⟨by simp [State.joinsNow, joins, begun, granted, partners, bne], waiting⟩

/-- Where an instruction's partners do not all wait at theirs, it waits, and takes no token. -/
theorem State.issue_unjoined {body : State → Eff} (legal : s.illegalCause i = none) (free : s.me.hold = none) (unobstructed : s.obstacle i = none)
    (h : s.joinReady i = false) (hb : (body (s.take (syncBits i))).goes = true) :
    s.issue i body = .next (s.setMe { s.me with wait := some .join, join := .waiting }) := by
  obtain ⟨now, waiting⟩ := State.joinsNow_of_not_ready h
  unfold State.issue
  simp only [legal, free, unobstructed, now, waiting, Option.isSome_none, Bool.false_eq_true, if_false, if_true]
  revert hb
  cases body (s.take (syncBits i)) <;> simp [Eff.goes]

end

/-! ## Tokens and signals (R177, R207) -/

section
variable (c : Core) (k j : Cluster) (a b : Bool)

theorem Core.fromPrev_tokenNext : ((c.tokenNext k).cluster j).fromPrev = (c.cluster j).fromPrev + if j = k.next then 1 else 0 := by
  rw [Core.tokenNext, Core.cluster_setCluster]
  split
  · next h => rw [h]
  · rfl

theorem Core.fromNext_tokenNext : ((c.tokenNext k).cluster j).fromNext = (c.cluster j).fromNext := by
  rw [Core.tokenNext, Core.cluster_setCluster]
  split
  · next h => rw [h]
  · rfl

theorem Core.fromPrev_tokenPrev : ((c.tokenPrev k).cluster j).fromPrev = (c.cluster j).fromPrev := by
  rw [Core.tokenPrev, Core.cluster_setCluster]
  split
  · next h => rw [h]
  · rfl

theorem Core.fromNext_tokenPrev : ((c.tokenPrev k).cluster j).fromNext = (c.cluster j).fromNext + if j = k.prev then 1 else 0 := by
  rw [Core.tokenPrev, Core.cluster_setCluster]
  split
  · next h => rw [h]
  · rfl

/-- A signal adds a token to the next cluster's queue from its previous one. -/
theorem Core.fromPrev_deliver : ((c.deliver k a b).cluster j).fromPrev = (c.cluster j).fromPrev + if j = k.next then ofBool a else 0 := by
  cases a <;> cases b <;> simp [Core.deliver, Core.fromPrev_tokenNext, Core.fromPrev_tokenPrev, ofBool]

/-- A signal adds a token to the previous cluster's queue from its next one. -/
theorem Core.fromNext_deliver : ((c.deliver k a b).cluster j).fromNext = (c.cluster j).fromNext + if j = k.prev then ofBool b else 0 := by
  cases a <;> cases b <;> simp [Core.deliver, Core.fromNext_tokenNext, Core.fromNext_tokenPrev, ofBool]

end

theorem Cluster.ne_next (k : Cluster) : k ≠ k.next := by cases k <;> decide

theorem Cluster.ne_prev (k : Cluster) : k ≠ k.prev := by cases k <;> decide

/-- With no access of the stream outstanding, its signal is added at once. -/
theorem State.core_signal_idle {s : State} {i : StreamId} (idle : s.opsOf i = []) (a b : Bool) :
    (s.signal i a b []).core i.core = (s.core i.core).deliver i.cl a b := by
  unfold State.signal
  rw [idle]
  split
  · exact State.core_setCore_same ..
  · next quiet =>
    obtain ⟨rfl, rfl⟩ : a = false ∧ b = false := by simpa using quiet
    rfl

section
variable {u : State} {i : Instr} (idle : u.opsOf u.focus = [])
include idle

/-- The executing core after a retirement with no access of the stream outstanding: the signal of the instruction is added. -/
theorem State.core_done : (u.done i).core u.focus.core =
    ((u.awake.retire u.focus (instrWidth i) 0#8).core u.focus.core).deliver u.focus.cl (signalsNext (syncBits i)) (signalsPrev (syncBits i)) :=
  State.core_signal_idle (by simpa [State.opsOf, State.awayOp] using idle) _ _

theorem State.fromPrev_done (k : Cluster) : (((u.done i).core u.focus.core).cluster k).fromPrev =
    ((u.core u.focus.core).cluster k).fromPrev + if k = u.focus.cl.next then ofBool (signalsNext (syncBits i)) else 0 := by
  have kept : (((u.awake.retire u.focus (instrWidth i) 0#8).core u.focus.core).cluster k).fromPrev = ((u.core u.focus.core).cluster k).fromPrev :=
    (State.fromPrev_retire_zero _ _ _ ⟨u.focus.core, k⟩).trans (State.fromPrev_awake ..)
  rw [State.core_done idle, Core.fromPrev_deliver, kept]

theorem State.fromNext_done (k : Cluster) : (((u.done i).core u.focus.core).cluster k).fromNext =
    ((u.core u.focus.core).cluster k).fromNext + if k = u.focus.cl.prev then ofBool (signalsPrev (syncBits i)) else 0 := by
  have kept : (((u.awake.retire u.focus (instrWidth i) 0#8).core u.focus.core).cluster k).fromNext = ((u.core u.focus.core).cluster k).fromNext :=
    (State.fromNext_retire_zero _ _ _ ⟨u.focus.core, k⟩).trans (State.fromNext_awake ..)
  rw [State.core_done idle, Core.fromNext_deliver, kept]

/-- A stream's signals are no tokens of its own. -/
theorem State.me_fromPrev_done : (u.done i).me.fromPrev = u.me.fromPrev := by
  rw [State.me, State.focus_done]
  exact (State.fromPrev_done idle u.focus.cl).trans (by rw [if_neg (Cluster.ne_next _)]; rfl)

theorem State.me_fromNext_done : (u.done i).me.fromNext = u.me.fromNext := by
  rw [State.me, State.focus_done]
  exact (State.fromNext_done idle u.focus.cl).trans (by rw [if_neg (Cluster.ne_prev _)]; rfl)

end

/-! ## `aret` (R205) -/

/-- A retirement counts in `aret`. -/
theorem ClusterState.aret_advanceRet (c : ClusterState) : c.advanceRet.reg 3 = c.reg 3 + 1 := by
  unfold ClusterState.advanceRet
  refine (foldl_keeps (fun c : ClusterState => c.reg 3) _ (fun c k => ?_) _ _).trans (ClusterState.reg_setReg_same ..)
  dsimp only
  split
  · exact ClusterState.reg_setReg_ne _ _ (by omega)
  · rfl

theorem State.aret_done (u : State) (i : Instr) : (u.done i).me.reg 3 = u.me.reg 3 + 1 := by
  have reg {c e : ClusterState} (h : c.csr = e.csr) : c.reg 3 = e.reg 3 := by rw [ClusterState.reg, h, ClusterState.reg]
  calc (u.done i).me.reg 3
      = ((u.awake.retire u.focus (instrWidth i) 0#8).stream u.focus).reg 3 := by
        rw [State.me, State.focus_done]; exact reg (State.csr_signal ..)
    _ = ((u.awake.stream u.focus).advanceRet).reg 3 := by
        rw [State.stream_retire, ClusterState.raise_zero, ClusterState.countClasses_zero]; rfl
    _ = (u.awake.stream u.focus).reg 3 + 1 := ClusterState.aret_advanceRet _
    _ = u.me.reg 3 + 1 := by rw [reg (State.csr_awake ..)]; rfl

/-! ## `nop` (R240) -/

section
variable {s : State} {sy : Sync}

theorem execNop_eq (sy : Sync) (s : State) : exec (.nop sy) s = s.issue (.nop sy) fun u => .retire u 0 := rfl

/-- A `nop` that has no partners to join takes its tokens and retires. -/
theorem nop_retires (hi : s.mayIssue (.nop sy) = true) (alone : s.joinsNow (.nop sy) = false) :
    exec (.nop sy) s = .next ((s.take sy).done (.nop sy)) := by
  have same : s.atIssue (.nop sy) = s := by rw [State.atIssue, alone]; rfl
  rw [execNop_eq, State.issue_goes hi rfl, same]
  rfl

/-- An instruction that has not begun takes a token from the previous cluster where its bits wait for one. -/
theorem State.me_fromPrev_take (fresh : s.me.issued = false) (y : Sync) :
    (s.take y).me.fromPrev = s.me.fromPrev - ofBool (waitsPrev y) := by
  simp only [State.take, State.me_setMe, fresh, Bool.not_false, Bool.and_true]

/-- An instruction that has not begun takes a token from the next cluster where its bits wait for one. -/
theorem State.me_fromNext_take (fresh : s.me.issued = false) (y : Sync) :
    (s.take y).me.fromNext = s.me.fromNext - ofBool (waitsNext y) := by
  simp only [State.take, State.me_setMe, fresh, Bool.not_false, Bool.and_true]

theorem State.cluster_take_ne (y : Sync) {k : Cluster} (h : k ≠ s.focus.cl) :
    ((s.take y).core s.focus.core).cluster k = (s.core s.focus.core).cluster k :=
  State.stream_setStream_ne s (i := s.focus) (j := ⟨s.focus.core, k⟩) _ fun e => h (congrArg StreamId.cl e)

end

/-! ## The obligation -/

/-- Settles O6: what keeps an instruction from issuing is the rule of issue's, whatever the instruction, and a `nop` that issues retires with
its tokens taken and its signals given. -/
theorem waitingAndRetirement : Obligations.WaitingAndRetirement := by
  unfold Obligations.WaitingAndRetirement
  refine ⟨⟨fun i s word legal => ⟨exec_held word legal, fun w => exec_blocked word legal⟩, fun s sy legal free unobstructed unready => ?_⟩,
    fun s sy hi alone fresh idle => ?_⟩
  · rw [execNop_eq]
    exact State.issue_unjoined legal free unobstructed unready rfl
  have idle' : (s.take sy).opsOf (s.take sy).focus = [] := by
    rw [(State.seen_take s sy).opsOf, State.focus_take, idle]
  have cur : ((s.take sy).done (.nop sy)).cur = ((s.take sy).done (.nop sy)).core (s.take sy).focus.core := by
    rw [State.cur, State.focus_done]
  refine ⟨_, nop_retires hi alone, ?_, ?_, ?_, ?_, ?_⟩
  · rw [State.me_fromPrev_done idle', State.me_fromPrev_take fresh]
  · rw [State.me_fromNext_done idle', State.me_fromNext_take fresh]
  · rw [State.aret_done, (State.seen_take s sy).reg]
  · rw [cur, State.fromPrev_done idle', State.focus_take, if_pos rfl, State.cluster_take_ne _ (Cluster.ne_next _).symm]; rfl
  · rw [cur, State.fromNext_done idle', State.focus_take, if_pos rfl, State.cluster_take_ne _ (Cluster.ne_prev _).symm]; rfl

end Sys2Proof.Machine

namespace Sys2Proof.Machine

/-! # Fills and write-backs of the map unit (09_core_memory.md R170, R171)

The end of an operation of the map unit changes one line of one core's scratchpad; what follows it, the streams that waited and the signals that
were held, touches no core's storage, and a fault no more of it than an L1. -/

/-! ## What the end of an operation leaves of the cores' storage -/

/-- No core's storage and no core's CSR differs in two states. -/
structure State.SameStorage (s t : State) : Prop where
  store : ∀ c, (t.core c).store = (s.core c).store
  csr : ∀ c, (t.core c).csr = (s.core c).csr

section
variable {s t u : State} {c : CoreId}

theorem State.SameStorage.refl (s : State) : s.SameStorage s := ⟨fun _ => rfl, fun _ => rfl⟩

theorem State.SameStorage.trans (h : s.SameStorage t) (h' : t.SameStorage u) : s.SameStorage u :=
  ⟨fun c => (h'.store c).trans (h.store c), fun c => (h'.csr c).trans (h.csr c)⟩

theorem State.SameStorage.foldl {α : Type} {f : State → α → State} (hf : ∀ u a, State.SameStorage u (f u a)) (l : List α) (s : State) :
    s.SameStorage (l.foldl f s) := by
  induction l generalizing s with
  | nil => exact .refl s
  | cons a l ih => exact (hf s a).trans (ih _)

/-- One core replaced by the same in both states. -/
theorem State.SameStorage.setCore (h : s.SameStorage t) (c : CoreId) (k : Core) : (s.setCore c k).SameStorage (t.setCore c k) := by
  constructor <;> intro e <;> rw [State.core_setCore, State.core_setCore] <;> split
  · rfl
  · exact h.store e
  · rfl
  · exact h.csr e

theorem State.SameStorage.line (h : s.SameStorage t) (c : CoreId) (l : Nat) : (t.core c).line l = (s.core c).line l := by
  rw [Core.line, h.store]; rfl

theorem State.SameStorage.spad (h : s.SameStorage t) (c : CoreId) : (t.core c).store.spad = (s.core c).store.spad := by rw [h.store]

theorem State.SameStorage.reg (h : s.SameStorage t) (c : CoreId) (n : Nat) : (t.core c).reg n = (s.core c).reg n := by
  rw [Core.reg, h.csr]; rfl

end

section
variable (s : State)

theorem State.sameStorage_setStream (i : StreamId) (x : ClusterState) : s.SameStorage (s.setStream i x) := ⟨by simp, by simp⟩

theorem State.sameStorage_dropOp (id : Nat) : s.SameStorage (s.dropOp id) := ⟨fun _ => rfl, fun _ => rfl⟩

theorem State.sameStorage_lineDone (c : CoreId) (l : Nat) (back : Bool) (st : Status) : s.SameStorage (s.lineDone c l back st) :=
  ⟨fun _ => rfl, fun _ => rfl⟩

theorem State.sameStorage_wakeLine (i : StreamId) (l : Nat) : s.SameStorage (s.wakeLine i l) := by
  unfold State.wakeLine
  split
  · exact s.sameStorage_setStream ..
  · exact .refl s

theorem State.sameStorage_failStream (i : StreamId) (l va : Nat) (st : Status) : s.SameStorage (s.failStream i l va st) := by
  unfold State.failStream
  split
  · exact s.sameStorage_setStream ..
  · exact .refl s

/-- A core is replaced by one of the same storage and CSRs. -/
theorem State.sameStorage_setCore {c : CoreId} {k : Core} (store : k.store = (s.core c).store) (csr : k.csr = (s.core c).csr) :
    s.SameStorage (s.setCore c k) := by
  constructor <;> intro e <;> rw [State.core_setCore] <;> split
  · next h => rw [store, h]
  · rfl
  · next h => rw [csr, h]
  · rfl

theorem State.sameStorage_settle (i : StreamId) (op : Nat) : s.SameStorage (s.settle i op) :=
  (s.sameStorage_setStream _ _).trans (.foldl (fun u _ => u.sameStorage_setCore (by simp) (by simp)) _ _)

/-- A die is replaced by one of the same cores. -/
theorem State.sameStorage_setDie {d : DieId} {x : Die} (h : x.cores = (s.die d).cores) : s.SameStorage (s.setDie d x) := by
  have core (c : CoreId) : (s.setDie d x).core c = s.core c := by
    rw [State.core, State.die_setDie, State.core]
    split
    · next hd => rw [hd, Die.core, h]; rfl
    · rfl
  exact ⟨fun c => by rw [core], fun c => by rw [core]⟩

end

/-! ## What a fault leaves of the cores' storage (R399 to R401) -/

section
variable (s : State) (d : DieId) (e : FaultEntry) (c : CoreId)

theorem State.core_setFaults (q : FaultQueue) : (s.setFaults d q).core c = s.core c := by
  rw [State.setFaults, State.core, State.die_setDie]
  split
  · next h => rw [← h]; rfl
  · rfl

/-- What a unit writes to memory leaves of a core's storage: its L1 may lose a line. -/
theorem State.store_pokeDie (a : Nat) (bs : List Byte) :
    { ((s.pokeDie d a bs).core c).store with l1 := [] } = { (s.core c).store with l1 := [] } := by
  rw [State.pokeDie, State.core, State.die_setDie]
  split
  · next h => rw [State.core, h]; exact (Die.keeps_poke _ _ _).1.store _
  · rfl

theorem State.store_writeEntry : { ((s.writeEntry d e).core c).store with l1 := [] } = { (s.core c).store with l1 := [] } := by
  have note (u : State) (n : HostNote) : (u.note n).core c = u.core c := rfl
  unfold State.writeEntry
  dsimp only
  split <;> split <;> simp only [note, State.core_setDieReg, State.core_setFaults, State.store_pokeDie]

theorem State.store_post : { ((s.post d e).core c).store with l1 := [] } = { (s.core c).store with l1 := [] } := by
  unfold State.post
  dsimp only
  split
  · simp only [State.count, State.core_setDieReg]
  · split
    · split <;> simp only [State.count, State.core_setDieReg, State.store_writeEntry, State.core_setFaults]
    · simp only [State.count, State.core_setDieReg, State.core_setFaults]

theorem State.store_takeFault (i : StreamId) (f : FaultInfo) :
    { ((s.takeFault i f).core c).store with l1 := [] } = { (s.core c).store with l1 := [] } := by
  rw [State.takeFault, State.store_post, State.core_store_setStream]

theorem State.spad_takeFault (i : StreamId) (f : FaultInfo) : ((s.takeFault i f).core c).store.spad = (s.core c).store.spad :=
  by
  simpa using congrArg CoreStore.spad (s.store_takeFault c i f)

theorem State.line_takeFault (i : StreamId) (f : FaultInfo) (l : Nat) : ((s.takeFault i f).core c).line l = (s.core c).line l :=
  by
  have lines : ((s.takeFault i f).core c).store.lines = (s.core c).store.lines := by
    simpa using congrArg CoreStore.lines (s.store_takeFault c i f)
  rw [Core.line, lines, Core.line]

end

/-! ## A line's state and its data -/

@[simp] theorem Core.line_setLine (k : Core) (n : Nat) (v : LineState) : (k.setLine n v).line n = v := Sparse.get_set_same

@[simp] theorem Core.line_setReg (k : Core) (n m : Nat) (v : Word) : (k.setReg n v).line m = k.line m := rfl

@[simp] theorem Core.reg_setReg_same (k : Core) (n : Nat) (v : Word) : (k.setReg n v).reg n = v := Sparse.get_set_same

/-- A core whose map unit has filled a line with 4,096 bytes (R170): its data lie in the scratchpad, it is CLEAN, and the fill is counted. -/
def Core.filled (k : Core) (l : Nat) (bs : List Byte) : Core :=
  let k := { k with store := { k.store with spad := writeBytes k.store.spad (4096 * l) bs } }
  (k.setLine l .clean).setReg 0x70 (k.reg 0x70 + 1)

section
variable (k : Core) (l : Nat) (bs : List Byte)

theorem Core.line_filled : (k.filled l bs).line l = .clean := by
  rw [Core.filled, Core.line_setReg, Core.line_setLine]

theorem Core.spad_filled : (k.filled l bs).store.spad = writeBytes k.store.spad (4096 * l) bs := rfl

theorem Core.reg_filled : (k.filled l bs).reg 0x70 = k.reg 0x70 + 1 := Sparse.get_set_same

end

/-! ## `MU_FILL_COMPLETE` (R170) -/

section
variable {s : State} {c : CoreId} {l : Fin 512} {o : Op}

/-- A fill with OK changes the core's storage by the line that it fills. -/
theorem muFillComplete_fills (h : s.lineOp c l.val false = some o) (hp : o.performed = true) (ok : o.status = Status.ok) :
    ∃ t, exec (.muFillComplete c l) s = .next t ∧
      (s.setCore c ((s.core c).filled l.val (readBytes o.data 0 4096))).SameStorage t := by
  rw [exec_muFillComplete, execMuFillComplete, h]
  dsimp only
  rw [hp, if_neg (by simp), if_pos ok]
  exact ⟨_, rfl, ((s.sameStorage_dropOp o.id).setCore c _).trans <| (State.SameStorage.foldl (fun u _ => u.sameStorage_wakeLine ..) _ _).trans <|
    (State.sameStorage_lineDone ..).trans (State.sameStorage_settle ..)⟩

/-- A fill that failed changes the core's storage by the state of the line alone. -/
theorem muFillComplete_fails (h : s.lineOp c l.val false = some o) (hp : o.performed = true) (failed : o.status ≠ Status.ok) :
    ∃ t, exec (.muFillComplete c l) s = .next t ∧ (s.setCore c ((s.core c).setLine l.val .absent)).SameStorage t := by
  rw [exec_muFillComplete, execMuFillComplete, h]
  dsimp only
  rw [hp, if_neg (by simp), if_neg failed]
  exact ⟨_, rfl, ((s.sameStorage_dropOp o.id).setCore c _).trans <| (State.sameStorage_lineDone ..).trans <|
    (State.SameStorage.foldl (fun u _ => u.sameStorage_failStream ..) _ _).trans <|
    (State.sameStorage_settle ..).trans (State.sameStorage_setDie _ rfl)⟩

/-! ## `MU_WRITEBACK_COMPLETE` (R170, R171) -/

/-- What has followed a write-back when its line is looked at: its operation is gone, and what waited for it has its status. -/
def State.wroteBack (s : State) (c : CoreId) (l : Nat) (o : Op) : State := ((s.dropOp o.id).lineDone c l true o.status).settle o.owner o.id

theorem State.sameStorage_wroteBack (s : State) (c : CoreId) (l : Nat) (o : Op) : s.SameStorage (s.wroteBack c l o) :=
  (s.sameStorage_dropOp _).trans <| (State.sameStorage_lineDone ..).trans (State.sameStorage_settle ..)

/-- A package where a write-back of a line has failed (R171): a CLEAN line is DIRTY again. -/
def State.unwritten (s : State) (c : CoreId) (l : Nat) : State :=
  if (s.core c).line l = .clean then s.setCore c ((s.core c).setLine l .dirty) else s

theorem State.line_unwritten (s : State) (c : CoreId) (l : Nat) :
    ((s.unwritten c l).core c).line l = if (s.core c).line l = .clean then .dirty else (s.core c).line l := by
  unfold State.unwritten
  split
  · rw [State.core_setCore_same, Core.line_setLine]
  · rfl

theorem State.spad_unwritten (s : State) (c : CoreId) (l : Nat) : ((s.unwritten c l).core c).store.spad = (s.core c).store.spad := by
  unfold State.unwritten
  split
  · rw [State.core_setCore_same]; rfl
  · rfl

/-- A write-back with OK is counted, and nothing else of the core changes. -/
theorem muWritebackComplete_counts (h : s.lineOp c l.val true = some o) (hp : o.performed = true) (ok : o.status = Status.ok) :
    ∃ t, exec (.muWritebackComplete c l) s = .next t ∧ t.core c = ((s.wroteBack c l.val o).core c).gain 0x71 := by
  rw [exec_muWritebackComplete, execMuWritebackComplete, h]
  dsimp only
  rw [hp, if_neg (by simp), if_pos ok]
  exact ⟨_, rfl, State.core_setCore_same ..⟩

/-- A write-back that failed leaves the line to be written again; a plain form that waits for it takes the status as a fault. -/
theorem muWritebackComplete_fails (h : s.lineOp c l.val true = some o) (hp : o.performed = true) (failed : o.status ≠ Status.ok) :
    let u := (s.wroteBack c l.val o).unwritten c l.val
    ∃ t, exec (.muWritebackComplete c l) s = .next t ∧ (t = u ∨ ∃ f, t = u.takeFault o.owner f) := by
  intro u
  rw [exec_muWritebackComplete, execMuWritebackComplete, h]
  dsimp only
  rw [hp, if_neg (by simp), if_neg failed]
  refine ⟨_, rfl, ?_⟩
  by_cases parks : (o.plain && decide ((u.stream o.owner).run = .running)) = true
  · exact .inr ⟨_, if_pos parks⟩
  · exact .inl (if_neg parks)

end

/-! ## The obligation -/

/-- Settles O29: each clause is the lemma about its step and its status. -/
theorem mapUnitCompletes : Obligations.MapUnitCompletes := by
  unfold Obligations.MapUnitCompletes
  intro s c l o hp
  constructor
  · intro h
    by_cases ok : o.status = Status.ok
    · obtain ⟨t, ht, same⟩ := muFillComplete_fills h hp ok
      refine ⟨t, ht, fun _ => ⟨?_, ?_, fun x hx => ?_, ?_⟩, fun failed => absurd ok failed⟩
      · rw [same.line, State.core_setCore_same, Core.line_filled]
      · rw [same.spad, State.core_setCore_same, Core.spad_filled]
        have read := readBytes_writeBytes (s.core c).store.spad (4096 * l.val) (readBytes o.data 0 4096)
        rwa [length_readBytes] at read
      · rw [same.spad, State.core_setCore_same, Core.spad_filled]
        exact readByte_writeBytes_ne _ _ (by rwa [length_readBytes])
      · rw [same.reg, State.core_setCore_same, Core.reg_filled]
    · obtain ⟨t, ht, same⟩ := muFillComplete_fails h hp ok
      refine ⟨t, ht, fun h => absurd h ok, fun _ => ⟨?_, ?_⟩⟩
      · rw [same.line, State.core_setCore_same, Core.line_setLine]
      · rw [same.spad, State.core_setCore_same]; rfl
  · intro h
    have same := s.sameStorage_wroteBack c l.val o
    by_cases ok : o.status = Status.ok
    · obtain ⟨t, ht, core⟩ := muWritebackComplete_counts h hp ok
      refine ⟨t, ht, fun _ => ⟨?_, ?_⟩, fun failed => absurd ok failed, ?_⟩
      · rw [core, Core.gain, Core.line_setReg, same.line]
      · rw [core, Core.gain, Core.reg_setReg_same, same.reg]
      · rw [core]; exact same.spad c
    · obtain ⟨t, ht, rfl | ⟨f, rfl⟩⟩ := muWritebackComplete_fails h hp ok
      · refine ⟨_, ht, fun h => absurd h ok, fun _ => ?_, ?_⟩
        · rw [State.line_unwritten, same.line]
        · rw [State.spad_unwritten, same.spad]
      · refine ⟨_, ht, fun h => absurd h ok, fun _ => ?_, ?_⟩
        · rw [State.line_takeFault, State.line_unwritten, same.line]
        · rw [State.spad_takeFault, State.spad_unwritten, same.spad]

end Sys2Proof.Machine

namespace Sys2Proof.Machine

/-! # Ring registers (09_core_memory.md R173 to R175; 13_isa_memory.md R278)

A ring register's checks read the core's registers, control state and CSRs and the bytes of the descriptor: an instruction finds in its body
the ring that the state before it names. -/

/-! ## What the body of an instruction finds at a ring register -/

theorem readBytes_congr {m m' : Memory} (h : ∀ a, readByte m a = readByte m' a) (a n : Nat) : readBytes m a n = readBytes m' a n := by
  induction n generalizing a with
  | zero => rfl
  | succ n ih => rw [readBytes, readBytes, h, ih]

theorem Core.inBounds_congr {k k' : Core} (h : k.csr = k'.csr) (a n : Nat) : k.inBounds a n = k'.inBounds a n := by
  have reg : k.reg 0x42 = k'.reg 0x42 := by rw [Core.reg, Core.reg, h]
  rw [Core.inBounds, Core.inBounds, Core.inWindow, Core.inWindow, reg]

section
variable {s u : State} (h : s.Seen u)
include h

theorem State.Seen.cur_eq : u.core s.focus.core = u.cur := by rw [State.cur, h.focus]

theorem State.Seen.untransRead (a n : Nat) : u.untransRead s.focus.core a n = s.untransRead s.focus.core a n := by
  unfold State.untransRead
  split
  · rw [State.spadRead, State.spadRead, h.cur_eq, h.store]; rfl
  · exact readBytes_congr (fun b => (h.same .memory _ b).2) _ _

theorem State.Seen.ringFound (r : Ring) : u.ringFound r = s.ringFound r := by
  obtain ⟨-, -, -, -, fresh, -, -⟩ := h.same .system
  simp only [State.ringFound, fresh]

theorem State.Seen.ringAt (a : Nat) : u.ringAt s.focus.core a = s.ringAt s.focus.core a := by
  have bounds (b n : Nat) : (u.core s.focus.core).inBounds b n = (s.core s.focus.core).inBounds b n :=
    Core.inBounds_congr (by rw [h.cur_eq, h.coreCsr]; rfl) b n
  simp only [State.ringAt, bounds, h.untransRead, h.ringFound]

/-- The body finds the ring that a ring register named before its instruction. -/
theorem State.Seen.ring (q : Nat) : u.ring s.focus.core q = s.ring s.focus.core q := by
  have regs : (u.core s.focus.core).regs = (s.core s.focus.core).regs := by rw [h.cur_eq, h.regs]; rfl
  rw [State.ring, State.ring, Core.ringValid, Core.ringValid, Core.ringAddr, Core.ringAddr, regs, h.ringAt]

theorem State.Seen.producer (r : Ring) : r.producer u.cur = r.producer s.cur := by simp only [Ring.producer, h.ctl]

theorem State.Seen.consumer (r : Ring) (c : CoreId) : r.consumer c u.cur = r.consumer c s.cur := by simp only [Ring.consumer, h.ctl]

theorem State.Seen.ringFault (q : Nat) (st : Status) : u.ringFault q st = s.ringFault q st := by
  simp only [State.ringFault, Core.ringAddr, h.regs]

end

/-! ## Ring faults (R175) -/

section
variable {s : State} {i : Instr} {sy : BitVec 5} {q : BitVec 4} {a : BitVec 5} {st : Status} {r : Ring}

/-- An instruction whose body faults exactly raises that fault at itself (R399). -/
theorem raises_of_fault {f : FaultInfo} {body : State → Eff} (hexec : exec i s = s.issue i body) (hi : s.mayIssue i = true) (hf : f.kind ≠ 14)
    (hb : ∀ u, s.Seen u → body u = .fault f) : Raises s i f := by
  refine ⟨s.takeFault s.focus f, hexec.trans (State.Seen.faults hi hb), State.raised_takeFault s hf, ?_, ?_, State.regs_takeFault ..⟩
  · intro n; rw [State.x, State.me_takeFault]; rfl
  · intro n; rw [State.steer, State.me_takeFault]; rfl

theorem State.ringFault_posts (s : State) (q : Nat) (st : Status) : (s.ringFault q st).kind ≠ 14 := by
  simp [State.ringFault, FaultInfo.ring]

theorem qpushRing_badRing (hi : s.mayIssue (.qpushRing sy q a) = true) (h : s.ring s.focus.core q.toNat = .error st) :
    Raises s (.qpushRing sy q a) (s.ringFault q.toNat st) := by
  refine raises_of_fault (exec_qpushRing ..) hi (State.ringFault_posts _ _ _) fun u hu => ?_
  simp only [hu.focus, hu.ring, h, hu.ringFault]

theorem qpopRing_badRing (hi : s.mayIssue (.qpopRing sy q a) = true) (h : s.ring s.focus.core q.toNat = .error st) :
    Raises s (.qpopRing sy q a) (s.ringFault q.toNat st) := by
  refine raises_of_fault (exec_qpopRing ..) hi (State.ringFault_posts _ _ _) fun u hu => ?_
  simp only [hu.focus, hu.ring, h, hu.ringFault]

theorem qpushRing_notProducer (hi : s.mayIssue (.qpushRing sy q a) = true) (h : s.ring s.focus.core q.toNat = .ok r)
    (hr : r.producer s.cur = false) : Raises s (.qpushRing sy q a) (s.ringFault q.toNat Status.access) := by
  refine raises_of_fault (exec_qpushRing ..) hi (State.ringFault_posts _ _ _) fun u hu => ?_
  simp only [hu.focus, hu.ring, h, hu.producer, hr, hu.ringFault, Bool.not_false, if_true]

theorem qpopRing_notConsumer (hi : s.mayIssue (.qpopRing sy q a) = true) (h : s.ring s.focus.core q.toNat = .ok r)
    (hr : r.consumer s.focus.core s.cur = false) : Raises s (.qpopRing sy q a) (s.ringFault q.toNat Status.access) := by
  refine raises_of_fault (exec_qpopRing ..) hi (State.ringFault_posts _ _ _) fun u hu => ?_
  simp only [hu.focus, hu.ring, h, hu.consumer, hr, hu.ringFault, Bool.not_false, if_true]

end

/-! ## `rcfg ring` (R278) -/

/-- A state with a ring register of the executing core replaced. -/
def State.setRingReg (s : State) (n : Nat) (w : Word) : State :=
  s.setCur { s.cur with regs := { s.cur.regs with rg := Sparse.set (fun _ => 0) s.cur.regs.rg n w } }

section
variable (s : State) (n : Nat) (w : Word)

@[simp] theorem State.focus_setRingReg : (s.setRingReg n w).focus = s.focus := State.focus_setCur ..

theorem State.regs_setRingReg :
    (s.setRingReg n w).cur.regs = { s.cur.regs with rg := Sparse.set (fun _ => 0) s.cur.regs.rg n w } := by
  rw [State.setRingReg, State.cur_setCur]

@[simp] theorem State.me_setRingReg : (s.setRingReg n w).me = s.me := State.me_setCur ..

theorem Piece.same_setRingReg (p : Piece) (h : p ∉ [Piece.rings]) : p.same s (s.setRingReg n w) :=
  Piece.same_setCur _ _ p (by funext k; cases k <;> rfl) (by cases p <;> simp_all [Piece.keptIn])

end

@[simp] theorem State.regs_done (u : State) (i : Instr) : (u.done i).cur.regs = u.cur.regs := by
  simp [State.cur, State.done]

theorem execRcfgRing_eq (sy : BitVec 5) (n : BitVec 4) (a : BitVec 5) (s : State) :
    exec (.rcfgRing sy n a) s = s.issue (.rcfgRing sy n a) fun u => .retire (u.setRingReg n.toNat (rgMask (u.x a.toNat))) 0 := rfl

/-- `rcfg ring` writes its register and nothing else. -/
theorem rcfgRing_writes {s : State} {sy : BitVec 5} {n : BitVec 4} {a : BitVec 5} (hi : s.mayIssue (.rcfgRing sy n a) = true) :
    ∃ t, exec (.rcfgRing sy n a) s = .next t ∧
      t.cur.regs = { s.cur.regs with rg := Sparse.set (fun _ => 0) s.cur.regs.rg n.toNat (rgMask (s.x a.toNat)) } ∧
      s.keepsBut t [.rings] ∧ s.passed t 2 := by
  rw [execRcfgRing_eq]
  obtain ⟨u, hu, ht, hk⟩ := State.Seen.retires (f := fun u => u.setRingReg n.toNat (rgMask (u.x a.toNat))) (l := [.rings]) hi
    (fun _ _ => rfl) (fun _ _ => State.focus_setRingReg ..) (fun _ _ => Piece.same_setRingReg _ _ _)
  refine ⟨_, ht, ?_, hk, ?_⟩
  · rw [State.regs_done, State.regs_setRingReg, hu.regs, hu.x]
  · unfold State.passed
    rw [State.flow_done, State.me_setRingReg, hu.pc, hu.stack]; rfl

/-! ## The obligation -/

/-- Settles O33: each clause is the lemma about its instruction. -/
theorem ringRegisters : Obligations.RingRegisters := by
  unfold Obligations.RingRegisters
  refine fun s sy q a => ⟨?_, fun r hr => ⟨fun hi hp => qpushRing_notProducer hi hr hp, fun hi hc => qpopRing_notConsumer hi hr hc⟩, ?_⟩
  · rintro i (rfl | rfl) hi st hst
    · exact qpushRing_badRing hi hst
    · exact qpopRing_badRing hi hst
  · intro n hi
    obtain ⟨t, ht, regs, keeps, passed⟩ := rcfgRing_writes hi
    refine ⟨t, ht, fun k => ?_, ?_, keeps, passed⟩
    · rw [regs]; exact Sparse.get_set
    · rw [regs]

end Sys2Proof.Machine

namespace Sys2Proof.Machine

/-! # Registers at reset (06_torus.md R123; 10_formats.md R194, R203, R204; 11_encoding.md R217, R227)

Nothing is listed in a store of the package at reset, so a register reads as its store's default: the reset values are those of
`clusterCsrReset`, `coreCsrReset`, `dieCsrReset` and `routeReset`. -/

/-! ## The parts of the package at reset -/

theorem State.die_reset (d : DieId) : State.reset.die d = Die.reset := ite_self ..

theorem State.core_reset (c : CoreId) : State.reset.core c = Core.reset := by
  rw [State.core, State.die_reset]; rfl

theorem State.stream_reset (i : StreamId) : State.reset.stream i = ClusterState.reset := by
  rw [State.stream, State.core_reset]
  cases i.cl <;> rfl

theorem State.routeEntry_reset (d : DieId) (bank dest : Nat) : State.reset.routeEntry d bank dest = 0x80 := by
  rw [State.routeEntry, State.die_reset]; rfl

/-- A register of package scope is die 0's (R225). -/
theorem State.dieReg_reset (d : DieId) (n : Nat) : State.reset.dieReg d n = dieCsrReset (if packageScope n then 0 else d.val) n := by
  rw [State.dieReg, State.die_reset]
  split <;> rfl

/-! ## Fields of registers -/

/-- The threshold `w` of `athr0` to `athr7` (R204). -/
theorem ClusterState.field_athr_reset {n : Nat} (h : n < 8) : field (ClusterState.reset.reg (0x10 + n)) 48 6 = 20 := by
  have reg : ClusterState.reset.reg (0x10 + n) = athrReset := (if_neg (by omega)).trans (if_pos (by omega))
  rw [reg]
  exact field_ofNat _ (by decide)

/-- No value is listed for the registers of the ports, so their fields read 0, and a port's state is OFF (log 9). -/
theorem State.portSt_reset (d : DieId) {p : Nat} (h : p < 16) : State.reset.portSt d p = 0 := by
  have reg : State.reset.dieReg d (0x120 + p) = 0 := by
    rw [State.dieReg_reset]
    unfold dieCsrReset
    rw [if_neg (by omega), if_neg (by omega), if_neg (by omega), if_neg (by omega), if_neg (by omega)]
  rw [State.portSt, State.oport, reg]; rfl

/-! ## The obligation -/

/-- Settles O58: each part of the package is the reset part of its kind, and a register of that part reads as the default of its store. -/
theorem resetLeaves : Obligations.ResetLeaves := by
  unfold Obligations.ResetLeaves
  refine ⟨fun i => ?_, fun c => ?_, fun d n _ => ?_, fun d => ?_, ?_, ?_⟩
  · rw [State.stream_reset]
    exact ⟨rfl, rfl, rfl, fun n hn => ClusterState.field_athr_reset hn, fun _ => rfl⟩
  · rw [State.core_reset]
    exact ⟨rfl, fun _ => rfl⟩
  · exact ⟨State.routeEntry_reset d 0 n, State.routeEntry_reset d 1 n⟩
  · simp only [State.dieReg_reset]
    exact ⟨rfl, rfl, rfl, rfl, rfl, field_ofNat _ (by decide), State.portSt_reset d (by decide), State.portSt_reset d (by decide)⟩
  · rw [State.dieReg_reset]; rfl
  · rw [State.dieReg_reset]; rfl

end Sys2Proof.Machine

namespace Sys2Proof

/-! # Words and their instructions (11_encoding.md R206 to R208, R218, R219, R223)

The encoder adds fields to a word of fixed bits, and the decoder cuts pieces out of a word. A field that was clear reads back as it was placed, and
leaves every piece beside it as it was: so a well-formed instruction is read back from its word. The other way round a word is the sum of its pieces,
so that a word which the decoder accepts is the one that the encoder makes of the pieces it has cut out. -/

/-! ## Pieces of a word, and fields placed in it -/

/-- What a word has from a bit upwards. -/
def above (w lo : Nat) : Nat := w / 2 ^ lo

section
variable {w lo n i m : Nat} {x : BitVec m}

theorem bits_eq_above : bits w lo n = BitVec.ofNat n (above w lo) := rfl

theorem toNat_bits : (bits w lo n).toNat = w / 2 ^ lo % 2 ^ n := BitVec.toNat_ofNat ..

theorem bits_eq_iff {v : BitVec n} : bits w lo n = v ↔ w / 2 ^ lo % 2 ^ n = v.toNat := by
  rw [← BitVec.toNat_inj, toNat_bits]

/-- A field placed where the word is clear reads back. -/
theorem bits_place1_same (clear : (bits w i m).toNat = 0) : bits (place1 w x i) i m = x := by
  rw [toNat_bits] at clear
  rw [bits_eq_iff, place1, Nat.add_mul_div_right _ _ (Nat.two_pow_pos i), Nat.add_mod, clear, Nat.zero_add, Nat.mod_mod, x.toNat_mod_cancel]

/-- A field changes nothing above it. -/
theorem above_place1 (h : i + m ≤ lo) (clear : (bits w i m).toNat = 0) : above (place1 w x i) lo = above w lo := by
  obtain ⟨k, rfl⟩ := Nat.exists_eq_add_of_le h
  have high : place1 w x i / 2 ^ i / 2 ^ m = w / 2 ^ i / 2 ^ m := by
    have parts := Nat.div_add_mod (w / 2 ^ i) (2 ^ m)
    rw [← toNat_bits, clear, Nat.add_zero] at parts
    rw [place1, Nat.add_mul_div_right _ _ (Nat.two_pow_pos i), ← parts, Nat.mul_add_div (Nat.two_pow_pos m), Nat.div_eq_of_lt x.isLt,
      Nat.add_zero, Nat.mul_div_cancel_left _ (Nat.two_pow_pos m)]
  simp only [above, pow_add, ← Nat.div_div_eq_div_mul, high]

theorem bits_place1_above (h : i + m ≤ lo) (clear : (bits w i m).toNat = 0) : bits (place1 w x i) lo n = bits w lo n := by
  rw [bits_eq_above, bits_eq_above, above_place1 h clear]

theorem bits_place1_below (h : lo + n ≤ i) : bits (place1 w x i) lo n = bits w lo n := by
  obtain ⟨k, rfl⟩ := Nat.exists_eq_add_of_le h
  have shift : x.toNat * 2 ^ (lo + n + k) = 2 ^ n * (x.toNat * 2 ^ k) * 2 ^ lo := by rw [pow_add, pow_add]; ring
  rw [bits_eq_iff, toNat_bits, place1, shift, Nat.add_mul_div_right _ _ (Nat.two_pow_pos lo), Nat.add_mul_mod_self_left]

end

theorem place2_eq (w : Nat) {m n : Nat} (x : BitVec m) (i : Nat) (y : BitVec n) (j : Nat) : place2 w x i y j = place1 (place1 w x i) y j := rfl

theorem place3_eq (w : Nat) {m n o : Nat} (x : BitVec m) (i : Nat) (y : BitVec n) (j : Nat) (z : BitVec o) (k : Nat) :
    place3 w x i y j z k = place1 (place1 (place1 w x i) y j) z k := rfl

/-- A piece of the fixed bits is a number. -/
theorem bits_literal (k lo n : Nat) : bits (no_index (OfNat.ofNat k)) lo n = BitVec.ofNat n (OfNat.ofNat k / 2 ^ lo) := rfl

theorem above_literal (k lo : Nat) : above (no_index (OfNat.ofNat k)) lo = OfNat.ofNat k / 2 ^ lo := rfl

section
variable (w lo n : Nat)

/-! The pieces that the decoder compares with numbers. -/

theorem div_mod_two_pow : w / 2 ^ lo % 2 ^ n = (bits w lo n).toNat := toNat_bits.symm
theorem div_mod_2 : w / 2 ^ lo % 2 = (bits w lo 1).toNat := by simp [bits]
theorem div_mod_4 : w / 2 ^ lo % 4 = (bits w lo 2).toNat := by simp [bits]
theorem div_mod_8 : w / 2 ^ lo % 8 = (bits w lo 3).toNat := by simp [bits]
theorem div_mod_16 : w / 2 ^ lo % 16 = (bits w lo 4).toNat := by simp [bits]
theorem div_mod_32 : w / 2 ^ lo % 32 = (bits w lo 5).toNat := by simp [bits]
theorem div_mod_128 : w / 2 ^ lo % 128 = (bits w lo 7).toNat := by simp [bits]

end

/-! ## The majors of R223 -/

/-- The rows of R223 of the majors 0x00 to 0x1E. -/
def coreMajors : List (Nat × (Nat → Decoded)) :=
  [(0x00, decodeMajor00), (0x01, decodeMajor01), (0x02, decodeMajor02), (0x03, decodeMajor03), (0x04, decodeMajor04), (0x05, decodeMajor05),
   (0x06, decodeMajor06), (0x07, decodeMajor07), (0x08, decodeMajor08), (0x09, decodeMajor09), (0x0A, decodeMajor0A), (0x10, decodeMajor10),
   (0x11, decodeMajor11), (0x12, decodeMajor12), (0x13, decodeMajor13), (0x14, decodeMajor14), (0x15, decodeMajor15), (0x16, decodeMajor16),
   (0x17, decodeMajor17), (0x18, decodeMajor18), (0x19, decodeMajor19), (0x1A, decodeMajor1A), (0x1B, decodeMajor1B), (0x1C, decodeMajor1C),
   (0x1D, decodeMajor1D), (0x1E, decodeMajor1E)]

/-- The rows of R223 of the majors 0x30 to 0x4F. -/
def memoryMajors : List (Nat × (Nat → Decoded)) :=
  [(0x30, decodeMajor30), (0x31, decodeMajor31), (0x32, decodeMajor32), (0x33, decodeMajor33), (0x34, decodeMajor34), (0x35, decodeMajor35),
   (0x36, decodeMajor36), (0x37, decodeMajor37), (0x38, decodeMajor38), (0x39, decodeMajor39), (0x3A, decodeMajor3A), (0x3B, decodeMajor3B),
   (0x3C, decodeMajor3C), (0x3D, decodeMajor3D), (0x3E, decodeMajor3E), (0x3F, decodeMajor3F), (0x40, decodeMajor40), (0x41, decodeMajor41),
   (0x42, decodeMajor42), (0x43, decodeMajor43), (0x44, decodeMajor44), (0x45, decodeMajor45), (0x48, decodeMajor48), (0x49, decodeMajor49),
   (0x4A, decodeMajor4A), (0x4B, decodeMajor4B), (0x4C, decodeMajor4C), (0x4D, decodeMajor4D), (0x4E, decodeMajor4E), (0x4F, decodeMajor4F)]

/-- The rows of R223 of the majors 0x50 to 0x6F. -/
def vectorMajors : List (Nat × (Nat → Decoded)) :=
  [(0x50, decodeMajor50), (0x51, decodeMajor51), (0x52, decodeMajor52), (0x53, decodeMajor53), (0x54, decodeMajor54), (0x55, decodeMajor55),
   (0x56, decodeMajor56), (0x57, decodeMajor57), (0x58, decodeMajor58), (0x59, decodeMajor59), (0x5A, decodeMajor5A), (0x5B, decodeMajor5B),
   (0x5C, decodeMajor5C), (0x5D, decodeMajor5D), (0x5E, decodeMajor5E), (0x5F, decodeMajor5F), (0x60, decodeMajor60), (0x61, decodeMajor61),
   (0x62, decodeMajor62), (0x63, decodeMajor63), (0x64, decodeMajor64), (0x65, decodeMajor65), (0x66, decodeMajor66), (0x67, decodeMajor67),
   (0x68, decodeMajor68), (0x69, decodeMajor69), (0x6A, decodeMajor6A), (0x6B, decodeMajor6B), (0x6C, decodeMajor6C), (0x6D, decodeMajor6D),
   (0x6E, decodeMajor6E), (0x6F, decodeMajor6F)]

/-- The rows of R223 of the majors 0x70 to 0x7F. -/
def matrixMajors : List (Nat × (Nat → Decoded)) :=
  [(0x70, decodeMajor70), (0x71, decodeMajor71), (0x72, decodeMajor72), (0x73, decodeMajor73), (0x74, decodeMajor74), (0x75, decodeMajor75),
   (0x76, decodeMajor76), (0x77, decodeMajor77), (0x78, decodeMajor78), (0x79, decodeMajor79), (0x7A, decodeMajor7A), (0x7C, decodeMajor7C),
   (0x7D, decodeMajor7D), (0x7E, decodeMajor7E), (0x7F, decodeMajor7F)]

/-- Every assigned major of R223, with the decoder of its rows. -/
def majors : List (Nat × (Nat → Decoded)) := coreMajors ++ memoryMajors ++ vectorMajors ++ matrixMajors

/-- R207: a word's major selects its decoder, and an unassigned major is UNDEF. -/
theorem decode32_eq_lookup (w : Nat) : decode32 w = (majors.lookup (w / 2 ^ 19 % 128)).elim .undef fun f => f w := by
  unfold decode32
  have small : w / 2 ^ 19 % 128 < 128 := Nat.mod_lt _ (by decide)
  revert small
  generalize w / 2 ^ 19 % 128 = m
  intro small
  interval_cases m <;> rfl

/-! ## Decoding what the encoder writes -/

/-- A 32-bit word (R206) that decodes to an instruction. -/
def Holds (w : Nat) (i : Instr) : Prop := above w 31 = 1 ∧ decode32 w = .ok i

theorem holds_of_major {w m : Nat} {f : Nat → Decoded} {i : Instr} (top : above w 31 = 1) (major : (bits w 19 7).toNat = m)
    (row : majors.lookup m = some f) (reads : f w = .ok i) : Holds w i := by
  refine ⟨top, ?_⟩
  rw [decode32_eq_lookup, div_mod_128, major, row]
  exact reads

section
variable {i : Instr} {w : Nat} (hi : i.wellFormed = true)
include hi

/-! Each row's word has its row's major, and its decoder reads the fields back one by one. -/

theorem holds_encodeCore (h : encodeCore i = some (.word w)) : Holds w i := by
  cases i <;> cases h
  all_goals
    unfold Instr.wellFormed at hi
    dsimp only at hi
    apply holds_of_major
    case top =>
      simp only [place2_eq, place3_eq, above_place1, above_literal, bits_place1_below, bits_literal, BitVec.toNat_ofNat, Nat.reducePow, Nat.reduceDiv,
        Nat.reduceMod, Nat.reduceAdd, Nat.reduceLeDiff]
    case major =>
      simp only [place2_eq, place3_eq, bits_place1_below, bits_place1_above, bits_literal, BitVec.toNat_ofNat, Nat.reducePow, Nat.reduceDiv,
        Nat.reduceMod, Nat.reduceAdd, Nat.reduceLeDiff]
      rfl
    case row => rfl
    simp only [decodeMajor00, decodeMajor01, decodeMajor02, decodeMajor03, decodeMajor04, decodeMajor05, decodeMajor06, decodeMajor07, decodeMajor08,
      decodeMajor09, decodeMajor0A, decodeMajor10, decodeMajor11, decodeMajor12, decodeMajor13, decodeMajor14, decodeMajor15, decodeMajor16,
      decodeMajor17, decodeMajor18, decodeMajor19, decodeMajor1A, decodeMajor1B, decodeMajor1C, decodeMajor1D, decodeMajor1E]
    simp_all only [place2_eq, place3_eq, bits_place1_same, bits_place1_below, bits_place1_above, bits_literal, BitVec.toNat_ofNat, Nat.reducePow,
      Nat.reduceDiv, Nat.reduceMod, Nat.reduceAdd, Nat.reduceLeDiff, ↓div_mod_two_pow, ↓div_mod_2, ↓div_mod_4, ↓div_mod_8, ↓div_mod_16, Decoded.check,
      decide_eq_true_eq, Bool.and_eq_true, beq_self_eq_true, and_self, if_true]

theorem holds_encodeMemory (h : encodeMemory i = some (.word w)) : Holds w i := by
  cases i <;> cases h
  all_goals
    unfold Instr.wellFormed at hi
    dsimp only at hi
    apply holds_of_major
    case top =>
      simp only [place2_eq, place3_eq, above_place1, above_literal, bits_place1_below, bits_literal, BitVec.toNat_ofNat, Nat.reducePow, Nat.reduceDiv,
        Nat.reduceMod, Nat.reduceAdd, Nat.reduceLeDiff]
    case major =>
      simp only [place2_eq, place3_eq, bits_place1_below, bits_place1_above, bits_literal, BitVec.toNat_ofNat, Nat.reducePow, Nat.reduceDiv,
        Nat.reduceMod, Nat.reduceAdd, Nat.reduceLeDiff]
      rfl
    case row => rfl
    simp only [decodeMajor30, decodeMajor31, decodeMajor32, decodeMajor33, decodeMajor34, decodeMajor35, decodeMajor36, decodeMajor37, decodeMajor38,
      decodeMajor39, decodeMajor3A, decodeMajor3B, decodeMajor3C, decodeMajor3D, decodeMajor3E, decodeMajor3F, decodeMajor40, decodeMajor41,
      decodeMajor42, decodeMajor43, decodeMajor44, decodeMajor45, decodeMajor48, decodeMajor49, decodeMajor4A, decodeMajor4B, decodeMajor4C,
      decodeMajor4D, decodeMajor4E, decodeMajor4F]
    simp_all only [place2_eq, place3_eq, bits_place1_same, bits_place1_below, bits_place1_above, bits_literal, BitVec.toNat_ofNat, Nat.reducePow,
      Nat.reduceDiv, Nat.reduceMod, Nat.reduceAdd, Nat.reduceLeDiff, ↓div_mod_two_pow, ↓div_mod_2, ↓div_mod_4, ↓div_mod_16, Decoded.check,
      decide_eq_true_eq, Bool.and_eq_true, beq_self_eq_true, and_self, if_true]

theorem holds_encodeVector (h : encodeVector i = some (.word w)) : Holds w i := by
  cases i <;> cases h
  all_goals
    unfold Instr.wellFormed at hi
    dsimp only at hi
    apply holds_of_major
    case top =>
      simp only [place2_eq, place3_eq, above_place1, above_literal, bits_place1_below, bits_literal, BitVec.toNat_ofNat, Nat.reducePow, Nat.reduceDiv,
        Nat.reduceMod, Nat.reduceAdd, Nat.reduceLeDiff]
    case major =>
      simp only [place2_eq, place3_eq, bits_place1_below, bits_place1_above, bits_literal, BitVec.toNat_ofNat, Nat.reducePow, Nat.reduceDiv,
        Nat.reduceMod, Nat.reduceAdd, Nat.reduceLeDiff]
      rfl
    case row => rfl
    simp only [decodeMajor50, decodeMajor51, decodeMajor52, decodeMajor53, decodeMajor54, decodeMajor55, decodeMajor56, decodeMajor57, decodeMajor58,
      decodeMajor59, decodeMajor5A, decodeMajor5B, decodeMajor5C, decodeMajor5D, decodeMajor5E, decodeMajor5F, decodeMajor60, decodeMajor61,
      decodeMajor62, decodeMajor63, decodeMajor64, decodeMajor65, decodeMajor66, decodeMajor67, decodeMajor68, decodeMajor69, decodeMajor6A,
      decodeMajor6B, decodeMajor6C, decodeMajor6D, decodeMajor6E, decodeMajor6F]
    simp_all only [place2_eq, place3_eq, bits_place1_same, bits_place1_below, bits_place1_above, bits_literal, BitVec.toNat_ofNat, Nat.reducePow,
      Nat.reduceDiv, Nat.reduceMod, Nat.reduceAdd, Nat.reduceLeDiff, ↓div_mod_two_pow, ↓div_mod_4, ↓div_mod_8, Decoded.check,
      decide_eq_true_eq, Bool.and_eq_true, beq_self_eq_true, and_self, if_true]

theorem holds_encodeMatrix (h : encodeMatrix i = some (.word w)) : Holds w i := by
  cases i <;> cases h
  all_goals
    unfold Instr.wellFormed at hi
    dsimp only at hi
    apply holds_of_major
    case top =>
      simp only [place2_eq, place3_eq, above_place1, above_literal, bits_place1_below, bits_literal, BitVec.toNat_ofNat, Nat.reducePow, Nat.reduceDiv,
        Nat.reduceMod, Nat.reduceAdd, Nat.reduceLeDiff]
    case major =>
      simp only [place2_eq, place3_eq, bits_place1_below, bits_place1_above, bits_literal, BitVec.toNat_ofNat, Nat.reducePow, Nat.reduceDiv,
        Nat.reduceMod, Nat.reduceAdd, Nat.reduceLeDiff]
      rfl
    case row => rfl
    simp only [decodeMajor70, decodeMajor71, decodeMajor72, decodeMajor73, decodeMajor74, decodeMajor75, decodeMajor76, decodeMajor77, decodeMajor78,
      decodeMajor79, decodeMajor7A, decodeMajor7C, decodeMajor7D, decodeMajor7E, decodeMajor7F]
    simp_all only [place2_eq, place3_eq, bits_place1_same, bits_place1_below, bits_place1_above, bits_literal, BitVec.toNat_ofNat, Nat.reducePow,
      Nat.reduceDiv, Nat.reduceMod, Nat.reduceAdd, Nat.reduceLeDiff, ↓div_mod_two_pow, ↓div_mod_2, ↓div_mod_4, ↓div_mod_8, Decoded.check,
      decide_eq_true_eq, Bool.and_eq_true, beq_self_eq_true, and_self, if_true]

end

/-- A compact word (R208) decodes to its instruction. -/
theorem decode16_encodeCore {i : Instr} {h : Nat} (e : encodeCore i = some (.compact h)) : above h 15 = 0 ∧ decode16 h = .ok i := by
  cases i <;> cases e
  all_goals
    constructor
    · simp only [place2_eq, above_place1, above_literal, bits_place1_below, bits_literal, BitVec.toNat_ofNat, Nat.reducePow, Nat.reduceDiv, Nat.reduceMod,
        Nat.reduceAdd, Nat.reduceLeDiff]
    · simp [decode16, place2_eq, bits_place1_same, bits_place1_below, bits_place1_above, bits_literal, ↓div_mod_two_pow, ↓div_mod_32, Decoded.check]

/-! ## Encoding what the decoder accepts -/

section
variable (w lo n : Nat)

theorem above_zero : above w 0 = w := by simp [above]

/-- A piece is what stands above its lowest bit, without what stands above its highest one. -/
theorem int_bits : ((bits w lo n).toNat : Int) = above w lo - 2 ^ n * above w (lo + n) := by
  have parts := Nat.div_add_mod (w / 2 ^ lo) (2 ^ n)
  rw [Nat.div_div_eq_div_mul, ← pow_add, ← toNat_bits] at parts
  rw [eq_sub_iff_add_eq']
  exact_mod_cast parts

theorem bits_bounds : 2 ^ n * above w (lo + n) ≤ above w lo ∧ above w lo < 2 ^ n * above w (lo + n) + 2 ^ n := by
  have piece := int_bits w lo n
  have small := (bits w lo n).isLt
  zify at small ⊢
  omega

theorem int_place1 {m : Nat} (x : BitVec m) (i : Nat) : ((place1 w x i : Nat) : Int) = w + x.toNat * 2 ^ i := by simp [place1]

end

theorem toNat_bits_eq_iff {w lo n v : Nat} : (bits w lo n).toNat = v ↔ above w lo = v + 2 ^ n * above w (lo + n) := by
  rw [← Int.natCast_inj, int_bits]
  zify
  omega

/-- What the decoder accepts (R224): a well-formed instruction whose code it was. -/
def Decoded.Gives (d : Decoded) (c : Code) : Prop := ∀ i, d = .ok i → i.wellFormed = true ∧ encode i = some c

section
variable {c : Code} {i : Instr} {b : Bool}

theorem gives_undef : Decoded.undef.Gives c := fun _ h => nomatch h

theorem gives_ok : (Decoded.ok i).Gives c ↔ i.wellFormed = true ∧ encode i = some c := by simp [Decoded.Gives]

theorem gives_check : (Decoded.check b i).Gives c ↔ (b = true → i.wellFormed = true ∧ encode i = some c) := by
  cases b <;> simp [Decoded.Gives, Decoded.check]

theorem encode_word {v w : Nat} (h : encode i = some (.word v)) (e : v = w) : encode i = some (.word w) := e ▸ h

theorem encode_compact {v w : Nat} (h : encode i = some (.compact v)) (e : v = w) : encode i = some (.compact w) := e ▸ h

end

/-- A 32-bit word of a major of R223. -/
structure HasMajor (w m : Nat) : Prop where
  top : above w 31 = 1
  major : w / 2 ^ 19 % 128 = m

/-! The pieces that a row's decoder has cut out or compared add up to the word, whatever the row. Where the last row of a major is the one that no
other function code selects, its code is what is left of the code's range. -/

theorem coreMajors_give : ∀ e ∈ coreMajors, ∀ w, HasMajor w e.1 → (e.2 w).Gives (.word w) := by
  simp only [coreMajors, List.forall_mem_cons, List.not_mem_nil, false_implies, implies_true, and_true]
  refine ⟨?_, ?_, ?_, ?_, ?_, ?_, ?_, ?_, ?_, ?_, ?_, ?_, ?_, ?_, ?_, ?_, ?_, ?_, ?_, ?_, ?_, ?_, ?_, ?_, ?_, ?_⟩
  all_goals
    rintro w ⟨top, major⟩
    have whole := above_zero w
    have code8 := bits_bounds w 8 1
    have code18 := bits_bounds w 18 1
    simp only [decodeMajor00, decodeMajor01, decodeMajor02, decodeMajor03, decodeMajor04, decodeMajor05, decodeMajor06, decodeMajor07, decodeMajor08,
      decodeMajor09, decodeMajor0A, decodeMajor10, decodeMajor11, decodeMajor12, decodeMajor13, decodeMajor14, decodeMajor15, decodeMajor16,
      decodeMajor17, decodeMajor18, decodeMajor19, decodeMajor1A, decodeMajor1B, decodeMajor1C, decodeMajor1D, decodeMajor1E]
    repeat' split
  all_goals simp only [gives_undef, gives_ok, gives_check]
  all_goals
    intros
    refine ⟨by unfold Instr.wellFormed; simp_all only [Bool.and_eq_true, decide_eq_true_eq], encode_word rfl ?_⟩
    simp only [Bool.and_eq_true, beq_iff_eq, imp_false, ↓div_mod_2, ↓div_mod_4, ↓div_mod_8, ↓div_mod_16, ↓div_mod_128, ↓div_mod_two_pow, toNat_bits_eq_iff,
      Nat.reduceAdd] at *
    simp only [place2_eq, place3_eq, int_place1, ← Int.natCast_inj, int_bits, Nat.reduceAdd]
    omega

theorem memoryMajors_give : ∀ e ∈ memoryMajors, ∀ w, HasMajor w e.1 → (e.2 w).Gives (.word w) := by
  simp only [memoryMajors, List.forall_mem_cons, List.not_mem_nil, false_implies, implies_true, and_true]
  refine ⟨?_, ?_, ?_, ?_, ?_, ?_, ?_, ?_, ?_, ?_, ?_, ?_, ?_, ?_, ?_, ?_, ?_, ?_, ?_, ?_, ?_, ?_, ?_, ?_, ?_, ?_, ?_, ?_, ?_, ?_⟩
  all_goals
    rintro w ⟨top, major⟩
    have whole := above_zero w
    have code14 := bits_bounds w 14 1
    have code18 := bits_bounds w 18 1
    simp only [decodeMajor30, decodeMajor31, decodeMajor32, decodeMajor33, decodeMajor34, decodeMajor35, decodeMajor36, decodeMajor37, decodeMajor38,
      decodeMajor39, decodeMajor3A, decodeMajor3B, decodeMajor3C, decodeMajor3D, decodeMajor3E, decodeMajor3F, decodeMajor40, decodeMajor41,
      decodeMajor42, decodeMajor43, decodeMajor44, decodeMajor45, decodeMajor48, decodeMajor49, decodeMajor4A, decodeMajor4B, decodeMajor4C,
      decodeMajor4D, decodeMajor4E, decodeMajor4F]
    repeat' split
  all_goals simp only [gives_undef, gives_ok, gives_check]
  all_goals
    intros
    refine ⟨by unfold Instr.wellFormed; simp_all only [Bool.and_eq_true, decide_eq_true_eq, and_self], encode_word rfl ?_⟩
    simp only [Bool.and_eq_true, beq_iff_eq, imp_false, ↓div_mod_2, ↓div_mod_4, ↓div_mod_16, ↓div_mod_128, ↓div_mod_two_pow, toNat_bits_eq_iff,
      Nat.reduceAdd] at *
    simp only [place2_eq, place3_eq, int_place1, ← Int.natCast_inj, int_bits, Nat.reduceAdd]
    omega

theorem vectorMajors_give : ∀ e ∈ vectorMajors, ∀ w, HasMajor w e.1 → (e.2 w).Gives (.word w) := by
  simp only [vectorMajors, List.forall_mem_cons, List.not_mem_nil, false_implies, implies_true, and_true]
  refine ⟨?_, ?_, ?_, ?_, ?_, ?_, ?_, ?_, ?_, ?_, ?_, ?_, ?_, ?_, ?_, ?_, ?_, ?_, ?_, ?_, ?_, ?_, ?_, ?_, ?_, ?_, ?_, ?_, ?_, ?_, ?_, ?_⟩
  all_goals
    rintro w ⟨top, major⟩
    have whole := above_zero w
    have code0 := bits_bounds w 0 2
    simp only [decodeMajor50, decodeMajor51, decodeMajor52, decodeMajor53, decodeMajor54, decodeMajor55, decodeMajor56, decodeMajor57, decodeMajor58,
      decodeMajor59, decodeMajor5A, decodeMajor5B, decodeMajor5C, decodeMajor5D, decodeMajor5E, decodeMajor5F, decodeMajor60, decodeMajor61,
      decodeMajor62, decodeMajor63, decodeMajor64, decodeMajor65, decodeMajor66, decodeMajor67, decodeMajor68, decodeMajor69, decodeMajor6A,
      decodeMajor6B, decodeMajor6C, decodeMajor6D, decodeMajor6E, decodeMajor6F]
    repeat' split
  all_goals simp only [gives_undef, gives_ok, gives_check]
  all_goals
    intros
    refine ⟨by unfold Instr.wellFormed; simp_all only [Bool.and_eq_true, decide_eq_true_eq, and_self], encode_word rfl ?_⟩
    simp only [Bool.and_eq_true, beq_iff_eq, imp_false, ↓div_mod_4, ↓div_mod_8, ↓div_mod_128, ↓div_mod_two_pow, toNat_bits_eq_iff,
      Nat.reduceAdd] at *
    simp only [place2_eq, place3_eq, int_place1, ← Int.natCast_inj, int_bits, Nat.reduceAdd]
    omega

theorem matrixMajors_give : ∀ e ∈ matrixMajors, ∀ w, HasMajor w e.1 → (e.2 w).Gives (.word w) := by
  simp only [matrixMajors, List.forall_mem_cons, List.not_mem_nil, false_implies, implies_true, and_true]
  refine ⟨?_, ?_, ?_, ?_, ?_, ?_, ?_, ?_, ?_, ?_, ?_, ?_, ?_, ?_, ?_⟩
  all_goals
    rintro w ⟨top, major⟩
    have whole := above_zero w
    have code17 := bits_bounds w 17 2
    have code18 := bits_bounds w 18 1
    simp only [decodeMajor70, decodeMajor71, decodeMajor72, decodeMajor73, decodeMajor74, decodeMajor75, decodeMajor76, decodeMajor77, decodeMajor78,
      decodeMajor79, decodeMajor7A, decodeMajor7C, decodeMajor7D, decodeMajor7E, decodeMajor7F]
    repeat' split
  all_goals simp only [gives_undef, gives_ok, gives_check]
  all_goals
    intros
    refine ⟨by unfold Instr.wellFormed; simp_all only [Bool.and_eq_true, decide_eq_true_eq], encode_word rfl ?_⟩
    simp only [Bool.and_eq_true, beq_iff_eq, imp_false, ↓div_mod_2, ↓div_mod_4, ↓div_mod_8, ↓div_mod_128, ↓div_mod_two_pow, toNat_bits_eq_iff,
      Nat.reduceAdd] at *
    simp only [place2_eq, place3_eq, int_place1, ← Int.natCast_inj, int_bits, Nat.reduceAdd]
    omega

theorem decode16_gives {h : Nat} (top : above h 15 = 0) : (decode16 h).Gives (.compact h) := by
  have whole := above_zero h
  unfold decode16
  split
  all_goals simp only [gives_undef, gives_ok, gives_check]
  all_goals
    intros
    refine ⟨rfl, encode_compact rfl ?_⟩
    simp only [beq_iff_eq, ↓div_mod_32, ↓div_mod_two_pow, toNat_bits_eq_iff, Nat.reduceAdd] at *
    simp only [place2_eq, int_place1, ← Int.natCast_inj, int_bits, Nat.reduceAdd]
    omega

/-- A word that the decoder accepts is the word of what it holds. -/
theorem decode32_gives {w : Nat} (top : above w 31 = 1) : (decode32 w).Gives (.word w) := by
  rw [decode32_eq_lookup]
  match row : majors.lookup (w / 2 ^ 19 % 128) with
  | none => exact gives_undef
  | some f =>
    obtain ⟨before, after, split, -⟩ := List.lookup_eq_some_iff.1 row
    have listed : (w / 2 ^ 19 % 128, f) ∈ majors := by rw [split]; simp
    simp only [majors, List.mem_append] at listed
    obtain ((listed | listed) | listed) | listed := listed
    · exact coreMajors_give _ listed w ⟨top, rfl⟩
    · exact memoryMajors_give _ listed w ⟨top, rfl⟩
    · exact vectorMajors_give _ listed w ⟨top, rfl⟩
    · exact matrixMajors_give _ listed w ⟨top, rfl⟩

/-! ## Containers (R206, R208) -/

theorem encode_eq_some {i : Instr} {c : Code} (h : encode i = some c) :
    encodeCore i = some c ∨ encodeMemory i = some c ∨ encodeVector i = some c ∨ encodeMatrix i = some c := by
  simp only [encode, Option.or_eq_some_iff] at h
  tauto

/-- A well-formed instruction is read back from its 32-bit word. -/
theorem holds_of_encode {i : Instr} {w : Nat} (hi : i.wellFormed = true) (h : encode i = some (.word w)) : Holds w i := by
  obtain h | h | h | h := encode_eq_some h
  · exact holds_encodeCore hi h
  · exact holds_encodeMemory hi h
  · exact holds_encodeVector hi h
  · exact holds_encodeMatrix hi h

/-- Only the rows of R208 have compact words. -/
theorem encodeCore_of_compact {i : Instr} {h : Nat} (e : encode i = some (.compact h)) : encodeCore i = some (.compact h) := by
  obtain e | e | e | e := encode_eq_some e
  · exact e
  all_goals cases i <;> cases e

/-- A container of one 32-bit word. -/
theorem decodeContainer_word {c : Nat} (top : above c 31 = 1) : decodeContainer c false = decode32 c ∧ decodeContainer c true = .undef := by
  unfold above at top
  have set : c / 2 ^ 31 % 2 = 1 := by omega
  have all : c % 2 ^ 32 = c := by omega
  constructor <;> rw [decodeContainer, if_pos set]
  · rw [if_neg Bool.false_ne_true, all]
  · rw [if_pos rfl]

/-- A container of two compact words. -/
theorem decodeContainer_pair {a b : Nat} (ha : a < 2 ^ 15) (hb : b < 2 ^ 15) :
    decodeContainer (a + 2 ^ 16 * b) false = decode16 a ∧ decodeContainer (a + 2 ^ 16 * b) true = decode16 b := by
  have top : ¬ (a + 2 ^ 16 * b) / 2 ^ 31 % 2 = 1 := by omega
  have middle : ¬ (a + 2 ^ 16 * b) / 2 ^ 15 % 2 = 1 := by omega
  have first : (a + 2 ^ 16 * b) % 2 ^ 16 = a := by omega
  have second : (a + 2 ^ 16 * b) / 2 ^ 16 % 2 ^ 16 = b := by omega
  constructor <;> rw [decodeContainer, if_neg top, if_neg middle]
  · rw [if_neg Bool.false_ne_true, first]
  · rw [if_pos rfl, second]

/-- A container that is neither (R208). -/
theorem decodeContainer_neither {c : Nat} (odd : Bool) (top : ¬ c / 2 ^ 31 % 2 = 1) (middle : c / 2 ^ 15 % 2 = 1) :
    decodeContainer c odd = .undef := by
  rw [decodeContainer, if_neg top, if_pos middle]

/-! ## The obligations -/

/-- Settles O1: a word reads back as the row that wrote it, and a compact word does in both halves of its container. -/
theorem decodingInvertsEncoding : Obligations.DecodingInvertsEncoding := by
  unfold Obligations.DecodingInvertsEncoding
  refine fun i hi => ⟨fun w e => ?_, fun h e => ?_⟩
  · obtain ⟨top, reads⟩ := holds_of_encode hi e
    refine ⟨?_, (decodeContainer_word top).1.trans reads⟩
    unfold above at top
    omega
  · obtain ⟨top, reads⟩ := decode16_encodeCore (encodeCore_of_compact e)
    have small : h < 2 ^ 15 := by unfold above at top; omega
    refine ⟨small, fun other ho => ⟨?_, ?_⟩⟩
    · rw [(decodeContainer_pair small ho).1, reads]
    · rw [(decodeContainer_pair ho small).2, reads]

/-- Settles O2: a word that a container holds is the sum of the pieces that its instruction has as operands and its row as fixed bits. -/
theorem encodingInvertsDecoding : Obligations.EncodingInvertsDecoding := by
  unfold Obligations.EncodingInvertsDecoding
  intro c odd i hc h
  by_cases top : 2 ^ 31 ≤ c
  · have top' : above c 31 = 1 := by unfold above; omega
    obtain ⟨even, skipped⟩ := decodeContainer_word top'
    rw [if_pos top]
    cases odd with
    | false => exact decode32_gives top' i (even ▸ h)
    | true => rw [skipped] at h; cases h
  · by_cases middle : c / 2 ^ 15 % 2 = 1
    · rw [decodeContainer_neither odd (by omega) middle] at h
      cases h
    · have first : c % 2 ^ 16 < 2 ^ 15 := by omega
      have second : c / 2 ^ 16 < 2 ^ 15 := by omega
      obtain ⟨even, skipped⟩ := decodeContainer_pair first second
      rw [Nat.mod_add_div] at even skipped
      rw [if_neg top]
      cases odd with
      | false => exact decode16_gives (Nat.div_eq_of_lt first) i (even ▸ h)
      | true => exact decode16_gives (Nat.div_eq_of_lt second) i (skipped ▸ h)

end Sys2Proof

namespace Sys2Proof.Machine

/-! # Blocks and branches (11_encoding.md R208, R210 to R213; 12_isa_control.md R234, R236, R240)

A header, a branch and a `nop` read the stream's pc, its block stack and its steer registers, none of which the rule of issue has touched before
their bodies run. Each body is told apart once, by the condition that the rule of the spec states; the obligations put these cases and the rule of
issue together. -/

section
variable {s u : State} {i : Instr} {sy : Sync}

/-! ## Block headers (R210, R211, R234) -/

/-- The rules of a block header: its length, the depth of the stack and the enclosing body allow it (R210). -/
def State.blockFits (s : State) (len : Nat) : Prop :=
  len % 2 = 0 ∧ 2 ≤ len ∧ len ≤ 1022 ∧ s.me.stack.length < 4 ∧ ∀ b ∈ s.me.stack.head?, s.me.pc + 2 + BitVec.ofNat 16 len ≤ b.stop

theorem header_fits {len : Nat} (n : BitVec 32) (h : s.blockFits len) :
    header s len n =
      (let stop := s.me.pc + 2 + BitVec.ofNat 16 len
       if n = 0 then .jump s (endcheck stop s.me.stack).1 (endcheck stop s.me.stack).2
       else .jump s (s.me.pc + 2) (⟨s.me.pc + 2, stop, n⟩ :: s.me.stack)) := by
  obtain ⟨even, low, high, depth, inside⟩ := h
  rw [header, if_neg (by omega), if_neg (by omega), if_neg ?_]
  cases stack : s.me.stack with
  | nil => exact Bool.false_ne_true
  | cons b rest =>
    have := inside b (by simp [stack])
    simpa using this

theorem header_refused {len : Nat} (n : BitVec 32) (h : ¬ s.blockFits len) : header s len n = .fault (.illegal .block) := by
  rw [header]
  by_cases length : len % 2 = 1 ∨ len < 2 ∨ 1022 < len
  · rw [if_pos length]
  by_cases depth : 4 ≤ s.me.stack.length
  · rw [if_neg length, if_pos depth]
  rw [if_neg length, if_neg depth, if_pos ?_]
  by_contra inside
  refine h ⟨by omega, by omega, by omega, by omega, fun b hb => ?_⟩
  cases stack : s.me.stack with
  | nil => simp [stack] at hb
  | cons c rest =>
    obtain rfl : c = b := by simpa [stack] using hb
    simpa [stack] using inside

theorem State.Seen.blockFits (h : s.Seen u) (len : Nat) : u.blockFits len ↔ s.blockFits len := by
  rw [State.blockFits, State.blockFits, h.pc, h.stack]

/-- A block header is `header` of its length and of the count that the body reads, which is the one before it. -/
theorem exec_header {l : BitVec 10} {n : BitVec 32}
    (hi : (∃ c : BitVec 9, i = .blk l c ∧ n = BitVec.ofNat 32 c.toNat) ∨
      (∃ r : BitVec 5, i = .blkr l r ∧ n = BitVec.ofNat 32 (s.x r.toNat).toNat)) :
    ∃ body, exec i s = s.issue i body ∧ ∀ u, s.Seen u → body u = header u l.toNat n := by
  obtain ⟨c, rfl, rfl⟩ | ⟨r, rfl, rfl⟩ := hi
  · exact ⟨_, exec_blk .., fun u _ => by rw [BitVec.ofNat_toNat]⟩
  · exact ⟨_, exec_blkr .., fun u hu => by rw [hu.x, BitVec.ofNat_toNat]⟩

/-! ## What is no header (R211, R240) -/

theorem nop_flows (hi : s.mayIssue (.nop sy) = true) :
    Flows s (.nop sy) [] (endcheck (s.me.pc + 2) s.me.stack).1 (endcheck (s.me.pc + 2) s.me.stack).2 :=
  State.Seen.passes hi fun _ _ => rfl

theorem compactNop_flows (hi : s.mayIssue .compactNop = true) :
    Flows s .compactNop [] (endcheck (s.me.pc + 1) s.me.stack).1 (endcheck (s.me.pc + 1) s.me.stack).2 :=
  State.Seen.passes hi fun _ _ => rfl

theorem endcheck_inside {pc : BitVec 16} {b : Block} (rest : List Block) (h : pc ≠ b.stop) : endcheck pc (b :: rest) = (pc, b :: rest) := by
  rw [endcheck, if_neg h]

theorem endcheck_repeats {b : Block} (rest : List Block) (h : 1 < b.count) :
    endcheck b.stop (b :: rest) = (b.start, { b with count := b.count - 1 } :: rest) := by
  rw [endcheck, if_pos rfl, if_neg (by bv_omega)]

theorem endcheck_last {b : Block} (rest : List Block) (h : b.count = 1) : endcheck b.stop (b :: rest) = endcheck b.stop rest := by
  rw [endcheck, if_pos rfl, if_pos (by bv_omega)]

/-! ## Branches (R208, R213, R236) -/

/-- The next state of an instruction whose body branches, having written something: `f` of the state it sees. -/
theorem State.Seen.goes_on {f : State → State} {body : State → Eff} {pc : BitVec 16} {st : List Block} {l : List Piece} (h : s.mayIssue i = true)
    (hb : ∀ u, s.Seen u → body u = .jump (f u) pc st) (hf : ∀ u, s.Seen u → (f u).focus = u.focus)
    (hl : ∀ u, s.Seen u → ∀ p, p ∉ l → p.same u (f u)) :
    ∃ u, s.Seen u ∧ s.issue i body = .next ((f u).gone i pc st) ∧ s.keepsBut ((f u).gone i pc st) l := by
  have seen := State.seen_issued s i
  refine ⟨_, seen, ?_, keepsBut_gone (by rw [hf _ seen, seen.focus]) (hl _ seen)⟩
  rw [State.issue_goes h (by rw [hb _ (State.seen_take s _)]; rfl), hb _ seen, finish_jump]

/-- A steer register's target is prepared and holds a block header (R213). -/
def State.lands (s : State) (r : Steer) : Prop := r.tv = true ∧ s.cur.headerAt s.focus.cl r.tgt.toNat = true

theorem branchTo_lands {r : Steer} (h : s.lands r) :
    branchTo s r.tv r.tgt = .jump s (r.tgt.setWidth 16) (pruneStack (r.tgt.setWidth 16) s.me.stack) := by
  obtain ⟨prepared, header⟩ := h
  rw [branchTo, if_pos (by rw [prepared, header]; rfl)]

theorem branchTo_refused {r : Steer} (h : ¬ s.lands r) : branchTo s r.tv r.tgt = .fault (.illegal .block) := by
  rw [branchTo, if_neg (by simpa [State.lands] using h)]

theorem State.Seen.lands (h : s.Seen u) (r : Steer) : u.lands r ↔ s.lands r := by
  rw [State.lands, State.lands, h.focus, h.header]

/-- The link of `brl` (R236). -/
def State.linked (s : State) (g : Nat) : State := s.setSteer g { s.steer g with tgt := (s.me.pc + 2).setWidth 15 }

theorem State.lands_linked (s : State) (g : Nat) (r : Steer) : (s.linked g).lands r ↔ s.lands r := by
  have ctl : (s.linked g).cur.ctl = s.cur.ctl := Piece.same_setSteer s g _ .ctl (by simp)
  rw [State.lands, State.lands, Core.headerAt, Core.headerAt, Core.container, Core.container, Core.entry, Core.entry, ctl, State.linked,
    State.focus_setSteer]

theorem State.stack_linked (s : State) (g : Nat) : (s.linked g).me.stack = s.me.stack := by simp [State.linked, State.setSteer]

section
variable {g : BitVec 4}

/-- A branch that is not taken. -/
theorem branch_passes (hi : s.mayIssue i = true) (is : i = .br sy g ∨ i = .brl sy g ∨ i = .compactBr g) (hc : (s.steer g.toNat).c = false) :
    Flows s i [] (endcheck (s.me.pc + BitVec.ofNat 16 (instrWidth i)) s.me.stack).1
      (endcheck (s.me.pc + BitVec.ofNat 16 (instrWidth i)) s.me.stack).2 := by
  have untaken {u : State} (hu : s.Seen u) (taken : Eff) : (if (u.steer g.toNat).c then taken else Eff.retire u 0) = .retire u 0 := by
    rw [hu.steer, hc, if_neg Bool.false_ne_true]
  rw [Flows]
  obtain rfl | rfl | rfl := is
  · exact exec_br .. ▸ State.Seen.passes hi fun u hu => untaken hu _
  · exact exec_brl .. ▸ State.Seen.passes hi fun u hu => untaken hu _
  · exact exec_compactBr .. ▸ State.Seen.passes hi fun u hu => untaken hu _

/-- An instruction that goes to the target of a steer register of a given condition, without a link. -/
def Branching (i : Instr) (g : BitVec 4) (c : Bool) : Prop :=
  ((∃ sy, i = .br sy g ∨ i = .compactBr g) ∧ c = true) ∨ ∃ sy, i = .ret sy g

/-- A branch that is taken without a link does what `branchTo` says. -/
theorem exec_branch (is : Branching i g (s.steer g.toNat).c) :
    ∃ body, exec i s = s.issue i body ∧ ∀ u, s.Seen u → body u = branchTo u (s.steer g.toNat).tv (s.steer g.toNat).tgt := by
  obtain ⟨⟨sy, rfl | rfl⟩, taken⟩ | ⟨sy, rfl⟩ := is
  · exact ⟨_, exec_br .., fun u hu => by simp only [hu.steer, taken, if_true]⟩
  · exact ⟨_, exec_compactBr .., fun u hu => by simp only [hu.steer, taken, if_true]⟩
  · exact ⟨_, exec_ret .., fun u hu => by simp only [hu.steer]⟩

/-- `brl` that is taken links first. -/
theorem exec_brl_taken (taken : (s.steer g.toNat).c = true) :
    ∃ body, exec (.brl sy g) s = s.issue (.brl sy g) body ∧
      ∀ u, s.Seen u → body u = branchTo (u.linked g.toNat) (s.steer g.toNat).tv (s.steer g.toNat).tgt :=
  ⟨_, exec_brl .., fun u hu => by simp only [State.linked, hu.steer, taken, if_true]⟩

theorem branch_goes (hi : s.mayIssue i = true) (is : Branching i g (s.steer g.toNat).c) (h : s.lands (s.steer g.toNat)) :
    Flows s i [] ((s.steer g.toNat).tgt.setWidth 16) (pruneStack ((s.steer g.toNat).tgt.setWidth 16) s.me.stack) := by
  obtain ⟨body, e, eq⟩ := exec_branch is
  rw [Flows, e]
  exact State.Seen.jumps hi fun u hu => by rw [eq u hu, branchTo_lands ((hu.lands _).2 h), hu.stack]

theorem branch_refused (hi : s.mayIssue i = true) (is : Branching i g (s.steer g.toNat).c) (h : ¬ s.lands (s.steer g.toNat)) :
    Raises s i (.illegal .block) := by
  obtain ⟨body, e, eq⟩ := exec_branch is
  exact raises_of_fault e hi (by decide) fun u hu => by rw [eq u hu, branchTo_refused (mt (hu.lands _).1 h)]

theorem brl_refused (hi : s.mayIssue (.brl sy g) = true) (taken : (s.steer g.toNat).c = true) (h : ¬ s.lands (s.steer g.toNat)) :
    Raises s (.brl sy g) (.illegal .block) := by
  obtain ⟨body, e, eq⟩ := exec_brl_taken (sy := sy) taken
  refine raises_of_fault e hi (by decide) fun u hu => ?_
  rw [eq u hu, branchTo_refused (mt (fun l => (hu.lands _).1 ((u.lands_linked ..).1 l)) h)]

/-- A taken `brl` writes its link and nothing else but the flow of its stream. -/
theorem brl_goes (hi : s.mayIssue (.brl sy g) = true) (taken : (s.steer g.toNat).c = true) (h : s.lands (s.steer g.toNat)) :
    ∃ t, exec (.brl sy g) s = .next t ∧ t.me.pc = (s.steer g.toNat).tgt.setWidth 16 ∧
      t.me.stack = pruneStack ((s.steer g.toNat).tgt.setWidth 16) s.me.stack ∧
      t.steer g.toNat = { s.steer g.toNat with tgt := (s.me.pc + 2).setWidth 15 } ∧
      (∀ n, n ≠ g.toNat → t.steer n = s.steer n) ∧ s.keepsBut t [.steer] := by
  obtain ⟨body, e, eq⟩ := exec_brl_taken (sy := sy) taken
  have goes {u : State} (hu : s.Seen u) : body u = .jump (u.linked g.toNat) ((s.steer g.toNat).tgt.setWidth 16)
      (pruneStack ((s.steer g.toNat).tgt.setWidth 16) s.me.stack) := by
    rw [eq u hu, branchTo_lands ((u.lands_linked ..).2 ((hu.lands _).2 h)), State.stack_linked, hu.stack]
  obtain ⟨u, hu, issued, kept⟩ := State.Seen.goes_on hi (fun _ => goes) (fun u _ => u.focus_setSteer ..)
    fun u _ p hp => Piece.same_setSteer u _ _ p hp
  refine ⟨_, e.trans issued, State.pc_gone .., State.stack_gone .., ?_, fun n hn => ?_, kept⟩
  · rw [Piece.same_gone _ _ _ _ .steer, State.linked, State.steer_setSteer_same, hu.steer, hu.pc]
  · rw [Piece.same_gone _ _ _ _ .steer, State.linked, State.steer_setSteer_ne _ _ hn, hu.steer]

end
end

/-! ## The obligations -/

/-- Settles O10: the rules of a header are tested on the stack and pc that the rule of issue has left alone. -/
theorem blockHeaders : Obligations.BlockHeaders := by
  unfold Obligations.BlockHeaders
  intro s l i n is hi
  obtain ⟨body, e, eq⟩ := exec_header is
  refine ⟨fun fits count => ?_, fun fits skip => ?_, fun refused => ?_⟩
  · rw [Flows, e]
    refine State.Seen.jumps hi fun u hu => ?_
    rw [eq u hu, header_fits n ((hu.blockFits _).2 fits), hu.pc, hu.stack]
    exact if_neg count
  · rw [Flows, e]
    refine State.Seen.jumps hi fun u hu => ?_
    rw [eq u hu, header_fits n ((hu.blockFits _).2 fits), hu.pc, hu.stack]
    exact if_pos skip
  · exact raises_of_fault e hi (by decide) fun u hu => (eq u hu).trans (header_refused n (mt (hu.blockFits _).1 refused))

/-- Settles O11: `nop` and its compact form pass on, which is `endcheck` of the pc after them. -/
theorem bodiesRepeat : Obligations.BodiesRepeat := by
  unfold Obligations.BodiesRepeat
  intro s sy b rest i w is hi stack
  have flows : Flows s i [] (endcheck (s.me.pc + w) (b :: rest)).1 (endcheck (s.me.pc + w) (b :: rest)).2 := by
    rw [← stack]
    obtain ⟨rfl, rfl⟩ | ⟨rfl, rfl⟩ := is
    · exact nop_flows hi
    · exact compactNop_flows hi
  refine ⟨fun inside => ?_, fun ends more => ?_, fun ends last => ?_⟩
  · rwa [endcheck_inside rest inside] at flows
  · rwa [ends, endcheck_repeats rest more] at flows
  · rwa [ends, endcheck_last rest last] at flows

/-- Settles O12: a branch reads its steer register and the image before the rule of issue has changed anything of them, and the link of `brl` is
written beside the flow of its stream. -/
theorem branches : Obligations.Branches := by
  unfold Obligations.Branches
  intro s sy g r inner lands i hi
  refine ⟨fun is untaken => ?_, fun is untaken => ?_, fun is h => ?_, fun is taken h => ?_, fun is h => ?_⟩
  · obtain rfl | rfl := is
    · exact branch_passes hi (.inl rfl) untaken
    · exact branch_passes hi (.inr (.inl rfl)) untaken
  · subst is
    exact branch_passes (sy := sy) hi (.inr (.inr rfl)) untaken
  · refine branch_goes hi ?_ h
    obtain ⟨is, taken⟩ | is := is
    · exact .inl ⟨⟨sy, is⟩, taken⟩
    · exact .inr ⟨sy, is⟩
  · subst is
    exact brl_goes hi taken h
  · rcases is with ⟨rfl | rfl | rfl, taken⟩ | rfl
    · exact branch_refused hi (.inl ⟨⟨sy, .inl rfl⟩, taken⟩) h
    · exact brl_refused hi taken h
    · exact branch_refused hi (.inl ⟨⟨sy, .inr rfl⟩, taken⟩) h
    · exact branch_refused hi (.inr ⟨sy, rfl⟩) h

end Sys2Proof.Machine

namespace Sys2Proof.Machine

/-! # Turns of a stream (11_encoding.md R206, R208, R209, R212, R215, R224; 16_swath.md R331; 20_faults.md R399, R408)

A turn of a ready stream comes to the issue of the instruction that its bytes stand for: at once, and for the M stream after the Swath. The issue
of an instruction is its meaning, or that of it and its join partners. -/

/-! ## The instruction of a turn -/

/-- The instruction that a stream of a cluster runs where fetch finds something: the illegal ones of R212 and R224 among them. -/
def Fetched.instr (k : Cluster) : Fetched → Instr
  | .past => .illegalInstruction .block
  | .word .undef => .illegalInstruction .undef
  | .word (.resv i) => .illegalInstruction (if clusterOk i k then .resv else .cluster)
  | .word (.ok i) => i

/-- The stream in focus runs, no plain access holds it, and its gang is not being saved by force, or it has a fill's failure to take (R408). -/
structure State.Ready (s : State) : Prop where
  running : s.me.run = .running
  free : s.me.hold = none
  released : s.cur.ctl.released = true
  unstopped : s.stopping s.focus.core = false ∨ s.probeFailed = true

section
variable {s t : State} {i : Instr} {l : List (Cluster × Instr)}

theorem State.nextInstr_ready (h : s.Ready) : s.nextInstr = some ((s.cur.fetch s.focus.cl s.me.pc.toNat).instr s.focus.cl) := by
  obtain ⟨running, free, released, unstopped⟩ := h
  rw [State.nextInstr, if_pos ⟨running, free, released, unstopped⟩]
  rfl

theorem State.streamTurn_alone (cl : s.focus.cl ≠ .m) (next : s.nextInstr = some i) : s.streamTurn = s.issueTurn i := by
  rw [State.streamTurn, next]
  exact if_neg cl

theorem State.streamTurn_swath (cl : s.focus.cl = .m) (next : s.nextInstr = some i) (issues : s.swathTurn = .issue t) :
    s.streamTurn = t.issueTurn i := by
  rw [State.streamTurn, next]
  exact (if_pos cl).trans (by rw [issues])

theorem step_stream {f : StreamId} {rest : List Turn} (h : s.agenda = .stream f :: rest) :
    step s = { s with agenda := rest, focus := f }.streamTurn := by
  rw [step, h]
  rfl

/-! ## The rows that a turn orders (R110, R360; log 90) -/

theorem State.forgetOld_eq (s : State) (i : Instr) (t : State) : s.forgetOld i t = t ∨
    ∃ l, s.forgetOld i t = t.setCur { t.cur with store := { t.cur.store with old := l } } ∧ ∀ e ∈ l, e ∈ t.cur.store.old := by
  unfold State.forgetOld
  dsimp only
  split
  · exact .inr ⟨_, rfl, fun e he => List.mem_of_mem_filter he⟩
  · exact .inl rfl

theorem State.forgetOld_unchanged (i : Instr) (h : s.focus.cl ≠ .m ∨ t.cur.store.old = []) : s.forgetOld i t = t := by
  refine if_neg fun ⟨cl, _, ordered⟩ => ?_
  obtain other | none := h
  · exact other cl
  · simp [none] at ordered

/-! ## The members of a join (R209) -/

theorem Core.joinPartners_nodup (c : Core) (k : Cluster) : (c.joinPartners k).Nodup := by
  unfold Core.joinPartners
  split
  · exact List.nodup_nil
  · exact List.Nodup.filter _ (by decide)

theorem Core.not_mem_joinPartners (c : Core) (k : Cluster) : k ∉ c.joinPartners k := by
  unfold Core.joinPartners
  split <;> simp

/-- Partners that each have an instruction, with their instructions, are the partners. -/
theorem map_fst_filterMap {α β : Type} {g : α → Option β} {ks : List α} (h : ∀ k ∈ ks, (g k).isSome) :
    (ks.filterMap fun k => (g k).map fun j => (k, j)).map (·.1) = ks := by
  induction ks with
  | nil => rfl
  | cons k ks ih =>
    obtain ⟨j, hj⟩ := Option.isSome_iff_exists.1 (h k (by simp))
    rw [List.filterMap_cons_some (by rw [hj]; rfl), List.map_cons, ih fun k' hk' => h k' (by simp [hk'])]

/-- A join's members are its own cluster and its partners, in the order in which they run. -/
theorem State.joinMembers_perm (h : s.joinMembers i = some l) : (l.map (·.1)).Perm (s.focus.cl :: s.cur.joinPartners s.focus.cl) := by
  unfold State.joinMembers at h
  dsimp only at h
  split at h
  · next waiting =>
    obtain rfl := Option.some.inj h
    simp only [Bool.and_eq_true, List.all_eq_true] at waiting
    refine ((List.filter_append_perm _ _).map _).trans (.of_eq ?_)
    rw [List.map_cons, map_fst_filterMap fun k hk => (waiting.2 k hk).2]
  · cases h

theorem State.joinMembers_nodup (h : s.joinMembers i = some l) : (l.map (·.1)).Nodup := by
  rw [(State.joinMembers_perm h).nodup_iff, List.nodup_cons]
  exact ⟨Core.not_mem_joinPartners _ _, Core.joinPartners_nodup ..⟩

/-- An instruction without sync bits has no partners to join (R207). -/
theorem State.joinMembers_of_no_sync (h : syncBits i = 0) : s.joinMembers i = none := by
  rw [State.joinMembers, State.joinsNow, h]
  rfl

/-! ## Issue of the instruction of a turn -/

theorem State.issueTurn_alone (h : s.joinMembers i = none) :
    s.issueTurn i = match exec i s with | .next t => .next (s.forgetOld i t) | r => r := by
  cases outcome : exec i s <;> simp only [State.issueTurn, h, outcome]

/-- Members that all go by themselves, and after one another, go in one step. -/
theorem State.issueTurn_joined (h : s.joinMembers i = some l)
    (goes : ∀ e ∈ l, (s.setCur (s.cur.grantJoin (l.map (·.1)))).memberGoes e = true)
    (runs : State.runMembers l (s.setCur (s.cur.grantJoin (l.map (·.1)))) = .ok t) :
    s.issueTurn i = .next (State.forgetJoined l { t with focus := s.focus }) := by
  have all : (l.find? fun e => !(s.setCur (s.cur.grantJoin (l.map (·.1)))).memberGoes e) = none := by
    rw [List.find?_eq_none]
    intro e he
    simp [goes e he]
  simp only [State.issueTurn, h, State.runJoin, all, runs]

/-- An illegal instruction has no partners to join, and orders no row of a stream but M's. -/
theorem State.issueTurn_illegal (cl : s.focus.cl ≠ .m) (c : IllegalCause) :
    s.issueTurn (.illegalInstruction c) = .next (s.takeFault s.focus (.illegal c)) := by
  rw [State.issueTurn_alone (State.joinMembers_of_no_sync rfl)]
  exact congrArg _ (State.forgetOld_unchanged _ (.inl cl))

/-- A fetch that finds no legal instruction parks its stream. -/
theorem State.streamTurn_illegal {x : Fetched} {c : IllegalCause} (ready : s.Ready) (cl : s.focus.cl ≠ .m)
    (found : s.cur.fetch s.focus.cl s.me.pc.toNat = x) (illegal : x.instr s.focus.cl = .illegalInstruction c) :
    s.streamTurn = .next (s.takeFault s.focus (.illegal c)) := by
  rw [State.streamTurn_alone cl (State.nextInstr_ready ready), found, illegal, State.issueTurn_illegal cl]

end

/-! ## The obligations -/

/-- Settles O3, by evaluation of the decoder. -/
theorem wordsOfTheSpec : Obligations.WordsOfTheSpec := by
  unfold Obligations.WordsOfTheSpec
  decide

/-- Settles O4: a ready stream's turn issues what fetch finds, and the members of a join are its cluster and its partners in another order. -/
theorem stepRunsTheDecodedInstruction : Obligations.StepRunsTheDecodedInstruction := by
  unfold Obligations.StepRunsTheDecodedInstruction
  refine ⟨?_, fun v t i => ⟨State.forgetOld_unchanged i, State.forgetOld_eq v i t⟩⟩
  intro s f rest i agenda u running free released unstopped found issues
  have next : u.nextInstr = some i := by
    have ready : u.Ready := ⟨running, free, released, unstopped⟩
    have found : u.cur.fetch u.focus.cl u.me.pc.toNat = .word (.ok i) := found
    rw [State.nextInstr_ready ready, found]
    rfl
  have of_issueTurn (v : State) (focus : v.focus = f) (turn : u.streamTurn = v.issueTurn i) : issues v := by
    have turn : step s = v.issueTurn i := (step_stream agenda).trans turn
    refine ⟨fun alone => turn.trans (State.issueTurn_alone alone),
      fun l joined => ⟨fun k => ?_, State.joinMembers_nodup joined, fun goes t runs => ?_⟩⟩
    · rw [(State.joinMembers_perm joined).mem_iff, List.mem_cons, focus]
    · rw [turn, State.issueTurn_joined joined goes runs, focus]
  exact ⟨fun cl => of_issueTurn u rfl (State.streamTurn_alone cl next),
    fun cl v swath focus => of_issueTurn v focus (State.streamTurn_swath cl next swath)⟩

/-- Settles O5: the tests of R224 come first in the rule of issue, and what fetch finds there is an illegal instruction of that cause. -/
theorem illegalInstructionsPark : Obligations.IllegalInstructionsPark := by
  unfold Obligations.IllegalInstructionsPark
  refine ⟨fun i s c word illegal => ?_, fun s running free released unstopped cl => ?_⟩
  · obtain ⟨body, e⟩ := exec_issues s word
    exact e.trans (State.issue_illegal illegal)
  · have ready : s.Ready := ⟨running, free, released, .inl unstopped⟩
    refine ⟨fun past => ?_, fun undef => ?_, fun i resv => ?_, fun c => rfl⟩
    · exact State.streamTurn_illegal (c := .block) ready cl past rfl
    · exact State.streamTurn_illegal (c := .undef) ready cl undef rfl
    · rw [State.streamTurn_illegal ready cl resv rfl, FaultInfo.illegal]
      split <;> rfl

end Sys2Proof.Machine
